-- ==== Sys2Proof/Word.lean ====
section
/-! DEFINITION. The word types of the HM8 (R5, R6) and their plainest arithmetic. -/

namespace Sys2Proof

/-- One byte of memory. -/
abbrev Byte := BitVec 8

/-- A scalar register, a control-thread register or a 64-bit field. -/
abbrev Word := BitVec 64

/-- Bits `lo` to `lo + len - 1` of the number `w` (R5: bit 0 is the least significant). -/
def fld (w lo len : Nat) : Nat := w / 2 ^ lo % 2 ^ len

/-- Bit `n` of the number `w`. -/
def bit (w n : Nat) : Bool := w / 2 ^ n % 2 == 1

/-- A one-bit field as a number. -/
def bnat (b : Bool) : Nat := if b then 1 else 0

/-- The two's complement value of the `w`-bit number `x`. -/
def sval (w x : Nat) : Int :=
  if x % 2 ^ w < 2 ^ (w - 1) then ((x % 2 ^ w : Nat) : Int) else ((x % 2 ^ w : Nat) : Int) - ((2 ^ w : Nat) : Int)

/-- The `w`-bit encoding of an integer, modulo 2^w. -/
def uval (w : Nat) (x : Int) : Nat := (x % ((2 ^ w : Nat) : Int)).toNat

end Sys2Proof
end

