-- ==== Sys2Proof/Syntax.lean ====
section
/-! DEFINITION. The instructions and events of spec/opcode_table.json, one constructor a row. A row with a word
carries its operand fields at the widths the table gives them; an event carries what its rule leaves to the physical
world, the host or another module. -/

namespace Sys2Proof

/-- S format, register to register (R164, R209). -/
structure S3 where
  d : BitVec 4
  a : BitVec 4
  b : BitVec 4
  p : Bool
deriving DecidableEq, Repr, Inhabited

/-- I format (R164, R210, R213). -/
structure SI where
  d : BitVec 4
  a : BitVec 4
  i : BitVec 18
deriving DecidableEq, Repr, Inhabited

/-- Immediate shift (R171). -/
structure SH where
  d : BitVec 4
  a : BitVec 4
  s : BitVec 6
deriving DecidableEq, Repr, Inhabited

/-- L format (R211). -/
structure LI where
  d : BitVec 4
  i : BitVec 22
deriving DecidableEq, Repr, Inhabited

/-- B format; the condition is the constructor's (R171, R212). -/
structure BR where
  a : BitVec 4
  b : BitVec 4
  o : BitVec 15
deriving DecidableEq, Repr, Inhabited

/-- J format (R213). -/
structure JL where
  l : BitVec 4
  o : BitVec 22
deriving DecidableEq, Repr, Inhabited

/-- One scalar register in [25:22]. -/
structure R1 where
  r : BitVec 4
  p : Bool
deriving DecidableEq, Repr, Inhabited

/-- No operand but the predicate bit. -/
structure P0 where
  p : Bool
deriving DecidableEq, Repr, Inhabited

/-- imm10 as a number (REPB has no predicate bit: it is 0). -/
structure N10 where
  n : BitVec 10
  p : Bool
deriving DecidableEq, Repr, Inhabited

/-- PSET of a comparison (R219). -/
structure PS where
  a : BitVec 4
  b : BitVec 4
  c : BitVec 3
deriving DecidableEq, Repr, Inhabited

/-- A register and a link (R171, R220). -/
structure LK where
  r : BitVec 4
  k : BitVec 2
  p : Bool
deriving DecidableEq, Repr, Inhabited

/-- A register in [25:22] and four bits in [11:8]: HRD, HWR, VCFG, VTAG. -/
structure RT where
  r : BitVec 4
  t : BitVec 4
  p : Bool
deriving DecidableEq, Repr, Inhabited

/-- SETVL (R302). -/
structure SV where
  d : BitVec 4
  a : BitVec 4
  g : Bool
  t : BitVec 4
  p : Bool
deriving DecidableEq, Repr, Inhabited

/-- SETRM (R302). -/
structure RM where
  e : Bool
  n : Bool
  s : Bool
  r : BitVec 3
  p : Bool
deriving DecidableEq, Repr, Inhabited

/-- Two registers in [25:22] and [21:18]: VTAG.RD, SHSND, SHRCV, VHMERGE. -/
structure R2 where
  d : BitVec 4
  a : BitVec 4
  p : Bool
deriving DecidableEq, Repr, Inhabited

/-- ACT, WB, WBP (R227). -/
structure RW where
  k : BitVec 3
  a : BitVec 4
  g : Bool
  p : Bool
deriving DecidableEq, Repr, Inhabited

/-- PRE (R227). -/
structure KG where
  k : BitVec 3
  g : Bool
  p : Bool
deriving DecidableEq, Repr, Inhabited

/-- REF; n holds the count less one (R227). -/
structure KN where
  k : BitVec 3
  n : BitVec 3
  p : Bool
deriving DecidableEq, Repr, Inhabited

/-- SDEF (R241). -/
structure HD where
  n : BitVec 2
  a : BitVec 4
  b : BitVec 4
  p : Bool
deriving DecidableEq, Repr, Inhabited

/-- SLD, SST (R241). -/
structure HK where
  k : BitVec 3
  n : BitVec 2
  g : Bool
  p : Bool
deriving DecidableEq, Repr, Inhabited

/-- SPOS and SPOS.RD (R241). -/
structure HP where
  n : BitVec 2
  r : BitVec 4
  p : Bool
deriving DecidableEq, Repr, Inhabited

/-- V format with two vector sources (R164). -/
structure V3 where
  d : BitVec 4
  a : BitVec 4
  b : BitVec 4
  m : BitVec 3
  g : Bool
  f : BitVec 2
  p : Bool
deriving DecidableEq, Repr, Inhabited

/-- V format without a vb operand. -/
structure V2 where
  d : BitVec 4
  a : BitVec 4
  m : BitVec 3
  g : Bool
  p : Bool
deriving DecidableEq, Repr, Inhabited

/-- VSPLAT (R307). -/
structure VS where
  d : BitVec 4
  b : BitVec 4
  m : BitVec 3
  g : Bool
  f : BitVec 2
  p : Bool
deriving DecidableEq, Repr, Inhabited

/-- VEXTR, VINSR (R307). -/
structure VE where
  d : BitVec 4
  a : BitVec 4
  b : BitVec 4
  g : Bool
  p : Bool
deriving DecidableEq, Repr, Inhabited

/-- TWROT, TWBFLY, TWBCAST (R251). -/
structure TW where
  d : BitVec 4
  a : BitVec 4
  b : BitVec 4
  f : BitVec 2
deriving DecidableEq, Repr, Inhabited

/-- TWXPOSE (R251). -/
structure TX where
  d : BitVec 4
  a : BitVec 4
deriving DecidableEq, Repr, Inhabited

/-- Major 0x16 and VGATHR: three registers, a mask, G (R256, R325). -/
structure VC where
  d : BitVec 4
  a : BitVec 4
  b : BitVec 4
  m : BitVec 3
  g : Bool
  p : Bool
deriving DecidableEq, Repr, Inhabited

/-- LDGFF, which takes no G (R256). -/
structure VF where
  d : BitVec 4
  a : BitVec 4
  b : BitVec 4
  m : BitVec 3
  p : Bool
deriving DecidableEq, Repr, Inhabited

/-- XFER (R262). -/
structure XF where
  a : BitVec 4
  b : BitVec 4
  s : BitVec 2
  n : BitVec 8
  p : Bool
deriving DecidableEq, Repr, Inhabited

/-- XWAIT (R262). -/
structure XW where
  d : BitVec 4
  s : BitVec 2
  p : Bool
deriving DecidableEq, Repr, Inhabited

/-- VCMP: a mask destination (R317). -/
structure VM where
  d : BitVec 3
  a : BitVec 4
  b : BitVec 4
  m : BitVec 3
  g : Bool
  f : BitVec 2
  p : Bool
deriving DecidableEq, Repr, Inhabited

/-- VCVTMX; t is the format (R320). -/
structure VX where
  d : BitVec 4
  a : BitVec 4
  t : BitVec 2
  m : BitVec 3
  g : Bool
  p : Bool
deriving DecidableEq, Repr, Inhabited

/-- VFIRST, VIOTA: a mask source (R331, R332). -/
structure VI where
  d : BitVec 4
  a : BitVec 3
  m : BitVec 3
  p : Bool
deriving DecidableEq, Repr, Inhabited

/-- Mask operations of two sources (R333). -/
structure M3 where
  d : BitVec 3
  a : BitVec 3
  b : BitVec 3
  p : Bool
deriving DecidableEq, Repr, Inhabited

/-- MNOT (R333). -/
structure M2 where
  d : BitVec 3
  a : BitVec 3
  p : Bool
deriving DecidableEq, Repr, Inhabited

/-- MPOPC and MTOV: a four-bit destination and a mask source. -/
structure M4 where
  d : BitVec 4
  a : BitVec 3
  p : Bool
deriving DecidableEq, Repr, Inhabited

/-- MSHL, MSHR (R333). -/
structure MK where
  d : BitVec 3
  a : BitVec 3
  k : BitVec 4
  f : BitVec 2
  p : Bool
deriving DecidableEq, Repr, Inhabited

/-- MSET, MCLR (R333). -/
structure M1 where
  d : BitVec 3
  p : Bool
deriving DecidableEq, Repr, Inhabited

/-- MFROMV (R333). -/
structure MV where
  d : BitVec 3
  a : BitVec 4
  p : Bool
deriving DecidableEq, Repr, Inhabited

/-- MOP, MLDACC.W (R341). -/
structure X3 where
  q : BitVec 2
  a : BitVec 4
  b : BitVec 4
  p : Bool
deriving DecidableEq, Repr, Inhabited

/-- MOPS (R341); s is BST, n is N24. -/
structure XS where
  q : BitVec 2
  a : BitVec 4
  b : BitVec 4
  x : BitVec 4
  s : Bool
  n : Bool
  p : Bool
deriving DecidableEq, Repr, Inhabited

/-- MZERO (R341). -/
structure XZ where
  q : BitVec 2
  i : Bool
  p : Bool
deriving DecidableEq, Repr, Inhabited

/-- MDRAIN (R341). -/
structure XD where
  q : BitVec 2
  d : BitVec 4
  z : Bool
  p : Bool
deriving DecidableEq, Repr, Inhabited

/-- MDRAIN.W (R341). -/
structure XDW where
  q : BitVec 2
  d : BitVec 4
  e : BitVec 4
  z : Bool
  p : Bool
deriving DecidableEq, Repr, Inhabited

/-- MLDACC (R341). -/
structure XL where
  q : BitVec 2
  a : BitVec 4
  p : Bool
deriving DecidableEq, Repr, Inhabited

/-- MTILE and MTILE.REL (R341). -/
structure XQ where
  q : BitVec 2
  p : Bool
deriving DecidableEq, Repr, Inhabited

/-- TDOT; d and a number w registers (R266). -/
structure TD where
  d : BitVec 3
  k : BitVec 3
  a : BitVec 3
  p : Bool
deriving DecidableEq, Repr, Inhabited

/-- TDOTM (R266). -/
structure TM where
  d : BitVec 3
  a : BitVec 3
  s : BitVec 4
  p : Bool
deriving DecidableEq, Repr, Inhabited

/-- TSTK (R266). -/
structure TS where
  d : BitVec 3
  k : BitVec 3
  r : BitVec 4
  p : Bool
deriving DecidableEq, Repr, Inhabited

/-- RED (R361). -/
structure RD where
  d : BitVec 4
  a : BitVec 4
  b : BitVec 4
  o : BitVec 3
  s : BitVec 2
deriving DecidableEq, Repr, Inhabited

/-- Counter instructions (R393). -/
structure CN where
  d : BitVec 4
  b : BitVec 4
  h : Bool
  i : BitVec 8
  p : Bool
deriving DecidableEq, Repr, Inhabited

/-- FENCE (R394). -/
structure FN where
  s : BitVec 2
  k : BitVec 2
  p : Bool
deriving DecidableEq, Repr, Inhabited

/-- LD (R395). -/
structure LDo where
  d : BitVec 4
  a : BitVec 4
  o : BitVec 14
  q : Bool
  u : Bool
  w : BitVec 2
deriving DecidableEq, Repr, Inhabited

/-- ST (R395). -/
structure STo where
  d : BitVec 4
  a : BitVec 4
  o : BitVec 14
  q : Bool
  w : BitVec 2
deriving DecidableEq, Repr, Inhabited

/-- AMO (R396); w is 1 for 32 bits. -/
structure AM where
  d : BitVec 4
  a : BitVec 4
  b : BitVec 4
  s : BitVec 2
  o : BitVec 2
  w : Bool
  p : Bool
deriving DecidableEq, Repr, Inhabited

/-- Xhlm operands (R146): rs2, rs1, gang or operation, rd. Unused fields are 0. -/
structure XH where
  b : BitVec 5
  a : BitVec 5
  g : BitVec 2
  d : BitVec 5
deriving DecidableEq, Repr, Inhabited

/-- RISC-V register, register and a 12-bit immediate: loads and stores of the control thread (R124). -/
structure CtM where
  f3 : BitVec 3
  r : BitVec 5
  a : BitVec 5
  i : BitVec 12
deriving DecidableEq, Repr, Inhabited

/-- RISC-V atomic of the control thread (R123): the operation code funct5, width, order bits. -/
structure CtA where
  f5 : BitVec 5
  d64 : Bool
  aq : Bool
  rl : Bool
  d : BitVec 5
  a : BitVec 5
  b : BitVec 5
deriving DecidableEq, Repr, Inhabited

/-- RISC-V FENCE: fm, predecessor and successor sets, registers ignored (R125). -/
structure CtF where
  fm : BitVec 4
  pred : BitVec 4
  succ : BitVec 4
deriving DecidableEq, Repr, Inhabited

/-- RISC-V CSR instruction: funct3, rd, rs1 or the 5-bit immediate, the CSR number (R127). -/
structure CtC where
  f3 : BitVec 3
  d : BitVec 5
  a : BitVec 5
  csr : BitVec 12
deriving DecidableEq, Repr, Inhabited

/-- A unit that Fen tests in steps (R109). -/
inductive FenUnit
  | sag (core bank k : Nat)
  | bus (stack idx : Nat)
  | port (idx : Nat)
  | slice (stack idx : Nat)
deriving DecidableEq, Repr, Inhabited

/-- Who waits for an answer from outside the module: a hart, a store that a hart has handed over (R395), a copy of a hart (its
slot), a core's control thread, a core's ring of retired instructions (R421), its saves (R413), the acceptance unit, the range-flush engine, an access of the host through the memory
window, or a request of another module for a line. -/
inductive Waiter
  | hart (core bank : Nat)
  | stored (core bank : Nat)
  | copy (core bank slot : Nat)
  | ct (core : Nat)
  | ring (core : Nat)
  | save (core : Nat)
  | hub
  | flush
  | host
  | peer (src line : Nat)
deriving DecidableEq, Repr, Inhabited

/-- The condition of a 64-byte line as it arrives from another module (R84), with its E2E as what differs from the right one: GOOD;
with POISON; failing its check at the Yowald port; or failing it at a module-interconnect port or in the hub. -/
inductive Arrival
  | good
  | poison (e2eDiff : BitVec 16 := 0)
  | bad (e2eDiff : BitVec 16 := 1)
  | hub (e2eDiff : BitVec 16 := 1)
deriving DecidableEq, Repr, Inhabited

/-- The line arrives other than GOOD, and what its E2E differs by. -/
def Arrival.poisoned : Arrival → Bool
  | .good => false
  | _ => true
def Arrival.diff : Arrival → BitVec 16
  | .good => 0
  | .poison d => d
  | .bad d => d
  | .hub d => d

/-- An operand of a host AtomicOp, and whether the request arrives poisoned (R66). -/
structure Operand where
  value : BitVec 128
  poisoned : Bool := false
deriving DecidableEq, Repr, Inhabited

/-- A unit of the protected-write aperture as it arrives: whole or not, and poisoned or not (R66, R85). -/
structure UnitIn where
  whole : Bool
  poisoned : Bool := false
deriving DecidableEq, Repr, Inhabited

/-- The bytes of a write of the host, and whether it arrives poisoned (R66). -/
structure Written where
  bytes : List Byte
  poisoned : Bool := false
deriving DecidableEq, Repr, Inhabited

/-- A test step of Fen: its unit, and the rows of a SAG that a destructive one writes patterns to (R112, R113). -/
structure TestStep where
  unit : FenUnit
  rows : List Nat := []
deriving DecidableEq, Repr, Inhabited

/-- A hart whose Serge transfer completes, by its bank, and the lines of its row whose check Serge finds failed (R206). -/
structure SergeEnd where
  bank : Nat
  bad : List Nat := []
deriving DecidableEq, Repr, Inhabited

/-- A gang whose Twill transfer completes, and the lines, by receiving bank, whose check Twill finds failed (R206). -/
structure TwillEnd where
  gang : Nat
  bad : List (Nat × Nat) := []
deriving DecidableEq, Repr, Inhabited

/-- The group of a hart's gather whose data have come (R259). -/
structure GatherGroup where
  bank : Nat
  group : Nat
deriving DecidableEq, Repr, Inhabited

/-- What a home takes from a module that holds its lines (R237, R239, R385): a line, whose data return; a line, whose data are
discarded; or every line of the row that begins with the line. -/
inductive Taken
  | recall
  | line
  | row
deriving DecidableEq, Repr, Inhabited

/-- The part's instructions and events, one constructor per row of the table of operations and events. -/
inductive Instr
  -- scalar (R209 to R213)
  | add (o : S3) | sub (o : S3) | and (o : S3) | or (o : S3) | xor (o : S3)
  | sll (o : S3) | srl (o : S3) | sra (o : S3) | mul (o : S3) | mulh (o : S3) | mulhu (o : S3)
  | div (o : S3) | divu (o : S3) | rem (o : S3) | remu (o : S3)
  | min (o : S3) | max (o : S3) | minu (o : S3) | maxu (o : S3) | slt (o : S3) | sltu (o : S3)
  | addi (o : SI) | andi (o : SI) | ori (o : SI) | xori (o : SI)
  | slli (o : SH) | srli (o : SH) | srai (o : SH)
  | limm (o : LI) | lshi (o : LI)
  | beq (o : BR) | bne (o : BR) | blt (o : BR) | bge (o : BR) | bltu (o : BR) | bgeu (o : BR)
  | jal (o : JL) | jalr (o : SI)
  -- block, predicate, link and system control (R214 to R224)
  | bfetch (o : R1) | stop (o : P0) | repb (o : N10) | yield (o : P0)
  | pset (o : PS) | psetB0 (a : BitVec 4) | pnot
  | xsend (o : LK) | xrecv (o : LK) | xpeek (o : LK)
  | nop (o : P0) | hrd (o : RT) | hwr (o : RT) | evt (o : R1) | trapi (o : N10) | brk (o : N10)
  -- configuration (R302, R337)
  | vcfg (o : RT) | setvl (o : SV) | setrm (o : RM)
  | mmode (o : R1) | mmodeOff (o : P0) | mmodeRd (o : R1)
  | vtag (o : RT) | vtagRd (o : R2)
  -- rows and strips (R227, R241)
  | act (o : RW) | wb (o : RW) | wbp (o : RW) | pre (o : KG) | ref (o : KN)
  | sdef (o : HD) | sld (o : HK) | sst (o : HK) | spos (o : HP) | sposRd (o : HP)
  -- moves and element access (R249, R307)
  | vmov (o : V2) | vsplat (o : VS) | vextr (o : VE) | vinsr (o : VE)
  -- Twill, Serge, column, copies (R251, R253, R256, R262)
  | twrot (o : TW) | twbfly (o : TW) | twbcast (o : TW) | twxpose (o : TX)
  | shsnd (o : R2) | shrcv (o : R2)
  | ldg (o : VC) | ldgff (o : VF) | sts (o : VC) | lds (o : VC) | stst (o : VC)
  | xfer (o : XF) | xwait (o : XW)
  -- element-wise arithmetic (R311 to R316)
  | vadd (o : V3) | vsub (o : V3) | vmul (o : V3) | vmulh (o : V3) | vdiv (o : V3) | vrem (o : V3)
  | vmin (o : V3) | vmax (o : V3) | vabsd (o : V3)
  | vand (o : V3) | vor (o : V3) | vxor (o : V3) | vsll (o : V3) | vsrl (o : V3) | vsra (o : V3)
  | vfma (o : V3) | vfms (o : V3) | vfnma (o : V3) | vminadd (o : V3)
  | vneg (o : V2) | vabs (o : V2) | vnot (o : V2) | vclz (o : V2) | vpopc (o : V2)
  | vsqrt (o : V2) | vrcp (o : V2) | vrsqrt (o : V2) | vexp2 (o : V2) | vlog2 (o : V2) | vtanh (o : V2)
  -- compares and carries (R317, R318)
  | vcmpEq (o : VM) | vcmpNe (o : VM) | vcmpLt (o : VM) | vcmpLe (o : VM) | vcmpGt (o : VM)
  | vcmpGe (o : VM) | vcmpUnord (o : VM)
  | vadc (o : V3) | vsbc (o : V3) | vaddm (o : V3)
  -- conversions (R319 to R323)
  | vcvt (o : V2) | vcvtmxImp (o : VX) | vcvtmxExp (o : VX) | vquant (o : V2)
  -- select and permute (R325)
  | vsel (o : V3) | vslup (o : V3) | vsldn (o : V3) | vgathr (o : VC)
  | vcmprs (o : V2) | vexpnd (o : V2) | vrev (o : V2)
  -- reductions and counts (R328 to R332)
  | vredSum (o : V2) | vredMax (o : V2) | vredMin (o : V2) | vredAnd (o : V2) | vredOr (o : V2)
  | vredXor (o : V2) | vredSexp (o : V2)
  | vhist (o : V2) | vhmerge (o : R2) | vfirst (o : VI) | viota (o : VI)
  -- masks (R333)
  | mand (o : M3) | mor (o : M3) | mxor (o : M3) | mandn (o : M3) | mnot (o : M2) | mpopc (o : M4)
  | mshl (o : MK) | mshr (o : MK) | mset (o : M1) | mclr (o : M1) | mfromv (o : MV) | mtov (o : M4)
  -- matrix and ternary, RED (R341, R266, R361)
  | mop (o : X3) | mops (o : XS) | mzero (o : XZ) | mdrain (o : XD) | mdrainW (o : XDW)
  | mldacc (o : XL) | mldaccW (o : X3) | mtile (o : XQ) | mtileRel (o : XQ)
  | tdot (o : TD) | tdotm (o : TM) | tstk (o : TS) | red (o : RD)
  -- synchronisation and memory (R393 to R396)
  | barrive (o : CN) | barwait (o : CN) | semwait (o : CN) | sempost (o : CN) | fence (o : FN)
  | ld (o : LDo) | st (o : STo)
  | amoadd (o : AM) | amoswap (o : AM) | amocas (o : AM) | amomin (o : AM) | amomax (o : AM)
  | amoand (o : AM) | amoor (o : AM) | amoxor (o : AM)
  -- Xhlm (R146 to R161)
  | gdef (o : XH) | bcast (o : XH) | bcastn (o : XH) | gwait (o : XH) | gset (o : XH) | hget (o : XH)
  | hstat (o : XH) | hresume (o : XH) | hkill (o : XH) | evwait (o : XH) | evpoll (o : XH)
  | launch (o : XH) | capq (o : XH) | capack (o : XH) | taskend
  | ctbarArrive (o : XH) | ctbarWait (o : XH) | ctbarSemwait (o : XH) | ctbarSempost (o : XH) | ctbarSet (o : XH)
  -- control thread, RISC-V (R123 to R127, R381, R401, R402)
  | ctLoad (o : CtM) | ctStore (o : CtM) | ctAmo (o : CtA) | ctLr (o : CtA) | ctSc (o : CtA)
  | ctFence (o : CtF) | ctFenceI | ctEcall | ctEbreak | ctWfi | ctCsrAccess (o : CtC) | ctMret
  -- interruption and context saving (R401, R407 to R412, R441)
  | machineExternalInterrupt (core : Nat) | latchOwnedTrap (core bank : Nat)
  | unload (core : Nat) | load (core : Nat) | banksave (core : Nat) | bankrestore (core : Nat)
  | hmsaveOpComplete (core : Nat) | logAppend (core : Nat) (v : Word)
  -- cluster power (R449)
  | quiesce (core : Nat) | retain (core : Nat) | gate (core : Nat) | release (core : Nat) | wake (core : Nat)
  | clusterCmdComplete (cluster : Nat) (failed : BitVec 4)
  -- host interface (R68 to R85, R389); fn is the PCI Express function
  | registerWrite (fn off : Nat) (v : Word)
  | sqDoorbell (fn q : Nat) (v : Word) | sqcfgWrite (fn q : Nat) (v : Word) | cqcfgWrite (fn q : Nat) (v : Word)
  | cqheadWrite (fn q : Nat) (v : Word) | heldRecordWrite (q : Nat)
  | protectedWrite (unit : BitVec 1024) (how : UnitIn)
  | hostWindowWrite (off : Nat) (data : Written) | hostWindowRead (off len : Nat)
  | hostAtomicop (off size op : Nat) (x : Operand) (y : BitVec 128)
  -- acceptance, spans, scheduling (R72 to R98)
  | acceptRecord
  | launchPacketReceive (origin : Nat) (packet : BitVec 2048)
  | spanArrival (gen member : Nat) | startReceive (origin gen : Nat)
  | spanRefusalReport (gen member code : Nat) | spanLinkLoss (origin gen peer : Nat)
  | waitConditionsMet (num : Nat) | rangeFlushStart | rangeFlushComplete
  | schedulerDecision | ageLimitExpiry (num : Nat) | latestStartExpiry (num : Nat)
  | taskFaultEnd (num core code : Nat) | watchdogExpiry (num : Nat)
  -- budgets, refresh, Fen (R101 to R122, R232 to R234)
  | periodBoundary | owedIncrement (core bank k : Nat) | hwRefreshRow (core bank k : Nat)
  | forcedRefreshRow (core bank k : Nat) | scrubRow (core bank k row : Nat) (stuck : List Nat)
  | scoreDecay | coreLeaseStart (core kind : Nat) | leaseEfftime (core : Nat) | leaseEnd (core : Nat) (passed : Bool)
  | fenStepStart (x : TestStep) | fenStepEnd (u : FenUnit) (passed : Bool) (stuck : List Nat)
  | remapCopyComplete (layer : Nat) | shrinkComplete (layer : Nat)
  | eventRecordEnter (core : Nat)
  -- power and temperature (R444 to R447)
  | governorCheck (watts : Nat) | powerTripStart | powerTripEnd | sensorRead (readings : List Nat)
  | coldReset | warmReset
  -- steps inside instructions
  | laneGroupCycle (core bank : Nat) (agree : Bool)
  | actSenseComplete (core bank : Nat) | wbCaptureComplete (core bank : Nat) | rowWriteComplete (core bank : Nat)
  | sagBusyEnd (core bank k : Nat)
  | blockStart (core gang : Nat) | blockRetire (core gang : Nat) | splitBlockFetch (core bank : Nat)
  | engineTakeUp (core : Nat) | engineOpComplete (core : Nat) (agree again : Bool)
  | sergeTransferComplete (core : Nat) (x : SergeEnd) | gatherDataArrival (core : Nat) (x : GatherGroup)
  | semGrant (hub : Bool) (core ctr : Nat) | counterWaitMet (hub : Bool) (core ctr : Nat)
  | xferComplete (core bank slot : Nat)
  -- other modules and host memory (R384 to R387)
  | remoteReadRequest (src line : Nat) | remoteOwnershipRequest (src line : Nat)
  | remoteWriteBack (src line : Nat) (data : BitVec 512) (cond : Arrival) (modified : Bool)
  | recallRequest (home line : Nat) (what : Taken)
  | remoteAnswer (src kind line : Nat) (data : BitVec 512) (cond : Arrival) (owned : Bool)
  | recallTimeout (w : Waiter) | hostCompletion (w : Waiter) (ok : Bool) (poisoned : Bool) (data : BitVec 512)
  | hostCompletionTimeout (w : Waiter) | dcacheEviction (core word : Nat)
  -- management (R454)
  | status | readLog | readRetire | setPlimit (watts : Nat) | setMode (on : Bool) | armRetention (on : Bool)
  | attest (nonce : BitVec 256) | debugCmd (tokenOk : Bool) (core op arg : Nat)
  | fwUpdate (version : Nat) (sigOk : Bool) (hash : BitVec 256)
  -- completions of data movement and requests
  | twillTransferComplete (core : Nat) (x : TwillEnd) | redCombineComplete (core chan scope : Nat)
  | columnAccessComplete (core bank : Nat) | mscEviction (line : Nat)
  | remoteAmoRequest (src addr : Nat) (op : Nat) (w32 : Bool) (x y : Word)
  | remoteForwardRequest (home line : Nat)
deriving DecidableEq, Repr, Inhabited

end Sys2Proof
end

