-- ==== Sys2Proof/WellFormed.lean ====
section
/-! DEFINITION. Which operand values a word may hold beyond its field widths (R165 to R167, R171 and the entries): what
fails here is `0x02 RSV_FIELD` on a hart and an illegal instruction on the control thread. -/

namespace Sys2Proof

/-- R166: P = 1 is refused on a word with G = 1. -/
def gp (g p : Bool) : Bool := !(g && p)

/-- Form 11 of vb is reserved (R164). -/
def V3.wf (o : V3) : Bool := o.f != 3 && gp o.g o.p
def V2.wf (o : V2) : Bool := gp o.g o.p
def VM.wf (o : VM) : Bool := o.f != 3 && gp o.g o.p
def VC.wf (o : VC) : Bool := gp o.g o.p
/-- Forms 01 and 10 only (R251, R307, R325, R333). -/
def splatForm (f : BitVec 2) : Bool := f == 1 || f == 2

/-- Xhlm operand fields: each instruction's unused register fields and funct3 are zero (R146). -/
def XH.noB (o : XH) : Bool := o.b == 0
def XH.noG (o : XH) : Bool := o.g == 0
def XH.noD (o : XH) : Bool := o.d == 0

/-- The funct5 codes of the RISC-V AMOs, LR and SC apart. -/
def amoCodes : List (BitVec 5) := [0, 1, 4, 8, 12, 16, 20, 24, 28]

/-- A well-formed instruction. Events carry no word and are always well formed. -/
def Instr.wf : Instr → Bool
  | .repb o => !o.p
  | .pset o => o.c.toNat < 6
  | .xsend o | .xrecv o | .xpeek o => o.k != 3
  | .hrd o | .hwr o => o.t.toNat < 11
  | .setrm o => o.r.toNat < 6
  | .act o | .wb o | .wbp o => gp o.g o.p
  | .pre o => gp o.g o.p
  | .sld o | .sst o => gp o.g o.p
  | .vsplat o => splatForm o.f && gp o.g o.p
  | .vextr o | .vinsr o => gp o.g o.p
  | .twrot o | .twbfly o | .twbcast o => splatForm o.f
  | .ldg o | .sts o | .lds o | .stst o | .vgathr o => o.wf
  | .vmov o | .vneg o | .vabs o | .vnot o | .vclz o | .vpopc o | .vsqrt o | .vrcp o | .vrsqrt o
  | .vexp2 o | .vlog2 o | .vtanh o | .vcvt o | .vquant o | .vcmprs o | .vexpnd o | .vrev o
  | .vredSum o | .vredMax o | .vredMin o | .vredAnd o | .vredOr o | .vredXor o | .vredSexp o
  | .vhist o => o.wf
  | .vadd o | .vsub o | .vmul o | .vmulh o | .vdiv o | .vrem o | .vmin o | .vmax o | .vabsd o
  | .vand o | .vor o | .vxor o | .vsll o | .vsrl o | .vsra o
  | .vfma o | .vfms o | .vfnma o | .vminadd o | .vsel o => o.wf
  | .vcmpEq o | .vcmpNe o | .vcmpLt o | .vcmpLe o | .vcmpGt o | .vcmpGe o | .vcmpUnord o => o.wf
  | .vadc o | .vsbc o | .vaddm o => o.wf && o.m != 0
  | .vcvtmxImp o | .vcvtmxExp o => gp o.g o.p
  | .vslup o | .vsldn o => splatForm o.f && gp o.g o.p
  | .mshl o | .mshr o => splatForm o.f
  | .red o => o.o != 7 && o.s != 3 && !(o.o == 6 && (o.d == 15 || o.a == 15))
  | .barrive o | .barwait o | .semwait o | .sempost o => o.h || o.i.toNat < 64
  | .fence o => o.s != 3
  | .ld o => !(o.u && o.w == 3)
  | .amoadd o | .amoswap o | .amocas o | .amomin o | .amomax o | .amoand o | .amoor o | .amoxor o => o.s != 3
  | .bcast o => o.noB
  | .gset o => o.noD && o.noG
  | .hget o | .hstat o | .evwait o | .evpoll o | .launch o | .capq o | .capack o => o.noB && o.noG
  | .hresume o | .hkill o => o.noB && o.noG && o.noD
  | .ctbarArrive o | .ctbarWait o | .ctbarSemwait o | .ctbarSempost o | .ctbarSet o => o.noG
  | .ctLoad o => o.f3 != 7
  | .ctStore o => o.f3.toNat < 4
  | .ctAmo o => amoCodes.contains o.f5
  | .ctLr o => o.f5 == 2 && o.b == 0
  | .ctSc o => o.f5 == 3
  | .ctCsrAccess o => o.f3 != 0 && o.f3 != 4
  | _ => true

end Sys2Proof
end

