-- ==== Sys2Proof/Decode.lean ====
section
/-! DEFINITION. From words to instructions and back (R163 to R173, R146, R123). The hart decoder makes the checks of
orders 1, 2, 3 and 5 of R172; order 4, which depends on the block, is made at issue. -/

namespace Sys2Proof

/-- What a hart word is before its block and its operands are looked at (R172). -/
inductive Dec
  /-- an instruction -/
  | ok (i : Instr)
  /-- order 1 or 3: `0x01 ILLEGAL` -/
  | illegal
  /-- order 2: `0x0A HEADER_IN_STREAM` -/
  | header
  /-- order 5: `0x02 RSV_FIELD` -/
  | reserved
deriving DecidableEq, Repr, Inhabited

def S3.dec (w : Nat) : S3 := ⟨BitVec.ofNat 4 (fld w 22 4), BitVec.ofNat 4 (fld w 18 4), BitVec.ofNat 4 (fld w 14 4), bit w 7⟩
def S3.enc (o : S3) : Nat := o.d.toNat * 2 ^ 22 + o.a.toNat * 2 ^ 18 + o.b.toNat * 2 ^ 14 + bnat o.p * 2 ^ 7
def SI.dec (w : Nat) : SI := ⟨BitVec.ofNat 4 (fld w 22 4), BitVec.ofNat 4 (fld w 18 4), BitVec.ofNat 18 (fld w 0 18)⟩
def SI.enc (o : SI) : Nat := o.d.toNat * 2 ^ 22 + o.a.toNat * 2 ^ 18 + o.i.toNat
def SH.dec (w : Nat) : SH := ⟨BitVec.ofNat 4 (fld w 22 4), BitVec.ofNat 4 (fld w 18 4), BitVec.ofNat 6 (fld w 0 6)⟩
def SH.enc (o : SH) : Nat := o.d.toNat * 2 ^ 22 + o.a.toNat * 2 ^ 18 + o.s.toNat
def LI.dec (w : Nat) : LI := ⟨BitVec.ofNat 4 (fld w 22 4), BitVec.ofNat 22 (fld w 0 22)⟩
def LI.enc (o : LI) : Nat := o.d.toNat * 2 ^ 22 + o.i.toNat
def BR.dec (w : Nat) : BR := ⟨BitVec.ofNat 4 (fld w 22 4), BitVec.ofNat 4 (fld w 18 4), BitVec.ofNat 15 (fld w 0 15)⟩
def BR.enc (o : BR) : Nat := o.a.toNat * 2 ^ 22 + o.b.toNat * 2 ^ 18 + o.o.toNat
def JL.dec (w : Nat) : JL := ⟨BitVec.ofNat 4 (fld w 22 4), BitVec.ofNat 22 (fld w 0 22)⟩
def JL.enc (o : JL) : Nat := o.l.toNat * 2 ^ 22 + o.o.toNat
def R1.dec (w : Nat) : R1 := ⟨BitVec.ofNat 4 (fld w 22 4), bit w 7⟩
def R1.enc (o : R1) : Nat := o.r.toNat * 2 ^ 22 + bnat o.p * 2 ^ 7
def P0.dec (w : Nat) : P0 := ⟨bit w 7⟩
def P0.enc (o : P0) : Nat := bnat o.p * 2 ^ 7
def N10.dec (w : Nat) : N10 := ⟨BitVec.ofNat 10 (fld w 8 10), bit w 7⟩
def N10.enc (o : N10) : Nat := o.n.toNat * 2 ^ 8 + bnat o.p * 2 ^ 7
def PS.dec (w : Nat) : PS := ⟨BitVec.ofNat 4 (fld w 22 4), BitVec.ofNat 4 (fld w 18 4), BitVec.ofNat 3 (fld w 8 3)⟩
def PS.enc (o : PS) : Nat := o.a.toNat * 2 ^ 22 + o.b.toNat * 2 ^ 18 + o.c.toNat * 2 ^ 8
def LK.dec (w : Nat) : LK := ⟨BitVec.ofNat 4 (fld w 22 4), BitVec.ofNat 2 (fld w 8 2), bit w 7⟩
def LK.enc (o : LK) : Nat := o.r.toNat * 2 ^ 22 + o.k.toNat * 2 ^ 8 + bnat o.p * 2 ^ 7
def RT.dec (w : Nat) : RT := ⟨BitVec.ofNat 4 (fld w 22 4), BitVec.ofNat 4 (fld w 8 4), bit w 7⟩
def RT.enc (o : RT) : Nat := o.r.toNat * 2 ^ 22 + o.t.toNat * 2 ^ 8 + bnat o.p * 2 ^ 7
def SV.dec (w : Nat) : SV := ⟨BitVec.ofNat 4 (fld w 22 4), BitVec.ofNat 4 (fld w 18 4), bit w 12, BitVec.ofNat 4 (fld w 8 4), bit w 7⟩
def SV.enc (o : SV) : Nat := o.d.toNat * 2 ^ 22 + o.a.toNat * 2 ^ 18 + bnat o.g * 2 ^ 12 + o.t.toNat * 2 ^ 8 + bnat o.p * 2 ^ 7
def RM.dec (w : Nat) : RM := ⟨bit w 13, bit w 12, bit w 11, BitVec.ofNat 3 (fld w 8 3), bit w 7⟩
def RM.enc (o : RM) : Nat := bnat o.e * 2 ^ 13 + bnat o.n * 2 ^ 12 + bnat o.s * 2 ^ 11 + o.r.toNat * 2 ^ 8 + bnat o.p * 2 ^ 7
def R2.dec (w : Nat) : R2 := ⟨BitVec.ofNat 4 (fld w 22 4), BitVec.ofNat 4 (fld w 18 4), bit w 7⟩
def R2.enc (o : R2) : Nat := o.d.toNat * 2 ^ 22 + o.a.toNat * 2 ^ 18 + bnat o.p * 2 ^ 7
def RW.dec (w : Nat) : RW := ⟨BitVec.ofNat 3 (fld w 22 3), BitVec.ofNat 4 (fld w 18 4), bit w 10, bit w 7⟩
def RW.enc (o : RW) : Nat := o.k.toNat * 2 ^ 22 + o.a.toNat * 2 ^ 18 + bnat o.g * 2 ^ 10 + bnat o.p * 2 ^ 7
def KG.dec (w : Nat) : KG := ⟨BitVec.ofNat 3 (fld w 22 3), bit w 10, bit w 7⟩
def KG.enc (o : KG) : Nat := o.k.toNat * 2 ^ 22 + bnat o.g * 2 ^ 10 + bnat o.p * 2 ^ 7
def KN.dec (w : Nat) : KN := ⟨BitVec.ofNat 3 (fld w 22 3), BitVec.ofNat 3 (fld w 14 3), bit w 7⟩
def KN.enc (o : KN) : Nat := o.k.toNat * 2 ^ 22 + o.n.toNat * 2 ^ 14 + bnat o.p * 2 ^ 7
def HD.dec (w : Nat) : HD := ⟨BitVec.ofNat 2 (fld w 22 2), BitVec.ofNat 4 (fld w 18 4), BitVec.ofNat 4 (fld w 14 4), bit w 7⟩
def HD.enc (o : HD) : Nat := o.n.toNat * 2 ^ 22 + o.a.toNat * 2 ^ 18 + o.b.toNat * 2 ^ 14 + bnat o.p * 2 ^ 7
def HK.dec (w : Nat) : HK := ⟨BitVec.ofNat 3 (fld w 22 3), BitVec.ofNat 2 (fld w 18 2), bit w 10, bit w 7⟩
def HK.enc (o : HK) : Nat := o.k.toNat * 2 ^ 22 + o.n.toNat * 2 ^ 18 + bnat o.g * 2 ^ 10 + bnat o.p * 2 ^ 7
def HP.dec (w : Nat) : HP := ⟨BitVec.ofNat 2 (fld w 22 2), BitVec.ofNat 4 (fld w 18 4), bit w 7⟩
def HP.enc (o : HP) : Nat := o.n.toNat * 2 ^ 22 + o.r.toNat * 2 ^ 18 + bnat o.p * 2 ^ 7
def V3.dec (w : Nat) : V3 := ⟨BitVec.ofNat 4 (fld w 22 4), BitVec.ofNat 4 (fld w 18 4), BitVec.ofNat 4 (fld w 14 4), BitVec.ofNat 3 (fld w 11 3), bit w 10, BitVec.ofNat 2 (fld w 8 2), bit w 7⟩
def V3.enc (o : V3) : Nat := o.d.toNat * 2 ^ 22 + o.a.toNat * 2 ^ 18 + o.b.toNat * 2 ^ 14 + o.m.toNat * 2 ^ 11 + bnat o.g * 2 ^ 10 + o.f.toNat * 2 ^ 8 + bnat o.p * 2 ^ 7
def V2.dec (w : Nat) : V2 := ⟨BitVec.ofNat 4 (fld w 22 4), BitVec.ofNat 4 (fld w 18 4), BitVec.ofNat 3 (fld w 11 3), bit w 10, bit w 7⟩
def V2.enc (o : V2) : Nat := o.d.toNat * 2 ^ 22 + o.a.toNat * 2 ^ 18 + o.m.toNat * 2 ^ 11 + bnat o.g * 2 ^ 10 + bnat o.p * 2 ^ 7
def VS.dec (w : Nat) : VS := ⟨BitVec.ofNat 4 (fld w 22 4), BitVec.ofNat 4 (fld w 14 4), BitVec.ofNat 3 (fld w 11 3), bit w 10, BitVec.ofNat 2 (fld w 8 2), bit w 7⟩
def VS.enc (o : VS) : Nat := o.d.toNat * 2 ^ 22 + o.b.toNat * 2 ^ 14 + o.m.toNat * 2 ^ 11 + bnat o.g * 2 ^ 10 + o.f.toNat * 2 ^ 8 + bnat o.p * 2 ^ 7
def VE.dec (w : Nat) : VE := ⟨BitVec.ofNat 4 (fld w 22 4), BitVec.ofNat 4 (fld w 18 4), BitVec.ofNat 4 (fld w 14 4), bit w 10, bit w 7⟩
def VE.enc (o : VE) : Nat := o.d.toNat * 2 ^ 22 + o.a.toNat * 2 ^ 18 + o.b.toNat * 2 ^ 14 + bnat o.g * 2 ^ 10 + bnat o.p * 2 ^ 7
def TW.dec (w : Nat) : TW := ⟨BitVec.ofNat 4 (fld w 22 4), BitVec.ofNat 4 (fld w 18 4), BitVec.ofNat 4 (fld w 14 4), BitVec.ofNat 2 (fld w 8 2)⟩
def TW.enc (o : TW) : Nat := o.d.toNat * 2 ^ 22 + o.a.toNat * 2 ^ 18 + o.b.toNat * 2 ^ 14 + o.f.toNat * 2 ^ 8
def TX.dec (w : Nat) : TX := ⟨BitVec.ofNat 4 (fld w 22 4), BitVec.ofNat 4 (fld w 18 4)⟩
def TX.enc (o : TX) : Nat := o.d.toNat * 2 ^ 22 + o.a.toNat * 2 ^ 18
def VC.dec (w : Nat) : VC := ⟨BitVec.ofNat 4 (fld w 22 4), BitVec.ofNat 4 (fld w 18 4), BitVec.ofNat 4 (fld w 14 4), BitVec.ofNat 3 (fld w 11 3), bit w 10, bit w 7⟩
def VC.enc (o : VC) : Nat := o.d.toNat * 2 ^ 22 + o.a.toNat * 2 ^ 18 + o.b.toNat * 2 ^ 14 + o.m.toNat * 2 ^ 11 + bnat o.g * 2 ^ 10 + bnat o.p * 2 ^ 7
def VF.dec (w : Nat) : VF := ⟨BitVec.ofNat 4 (fld w 22 4), BitVec.ofNat 4 (fld w 18 4), BitVec.ofNat 4 (fld w 14 4), BitVec.ofNat 3 (fld w 11 3), bit w 7⟩
def VF.enc (o : VF) : Nat := o.d.toNat * 2 ^ 22 + o.a.toNat * 2 ^ 18 + o.b.toNat * 2 ^ 14 + o.m.toNat * 2 ^ 11 + bnat o.p * 2 ^ 7
def XF.dec (w : Nat) : XF := ⟨BitVec.ofNat 4 (fld w 22 4), BitVec.ofNat 4 (fld w 18 4), BitVec.ofNat 2 (fld w 16 2), BitVec.ofNat 8 (fld w 8 8), bit w 7⟩
def XF.enc (o : XF) : Nat := o.a.toNat * 2 ^ 22 + o.b.toNat * 2 ^ 18 + o.s.toNat * 2 ^ 16 + o.n.toNat * 2 ^ 8 + bnat o.p * 2 ^ 7
def XW.dec (w : Nat) : XW := ⟨BitVec.ofNat 4 (fld w 22 4), BitVec.ofNat 2 (fld w 16 2), bit w 7⟩
def XW.enc (o : XW) : Nat := o.d.toNat * 2 ^ 22 + o.s.toNat * 2 ^ 16 + bnat o.p * 2 ^ 7
def VM.dec (w : Nat) : VM := ⟨BitVec.ofNat 3 (fld w 22 3), BitVec.ofNat 4 (fld w 18 4), BitVec.ofNat 4 (fld w 14 4), BitVec.ofNat 3 (fld w 11 3), bit w 10, BitVec.ofNat 2 (fld w 8 2), bit w 7⟩
def VM.enc (o : VM) : Nat := o.d.toNat * 2 ^ 22 + o.a.toNat * 2 ^ 18 + o.b.toNat * 2 ^ 14 + o.m.toNat * 2 ^ 11 + bnat o.g * 2 ^ 10 + o.f.toNat * 2 ^ 8 + bnat o.p * 2 ^ 7
def VX.dec (w : Nat) : VX := ⟨BitVec.ofNat 4 (fld w 22 4), BitVec.ofNat 4 (fld w 18 4), BitVec.ofNat 2 (fld w 14 2), BitVec.ofNat 3 (fld w 11 3), bit w 10, bit w 7⟩
def VX.enc (o : VX) : Nat := o.d.toNat * 2 ^ 22 + o.a.toNat * 2 ^ 18 + o.t.toNat * 2 ^ 14 + o.m.toNat * 2 ^ 11 + bnat o.g * 2 ^ 10 + bnat o.p * 2 ^ 7
def VI.dec (w : Nat) : VI := ⟨BitVec.ofNat 4 (fld w 22 4), BitVec.ofNat 3 (fld w 18 3), BitVec.ofNat 3 (fld w 11 3), bit w 7⟩
def VI.enc (o : VI) : Nat := o.d.toNat * 2 ^ 22 + o.a.toNat * 2 ^ 18 + o.m.toNat * 2 ^ 11 + bnat o.p * 2 ^ 7
def M3.dec (w : Nat) : M3 := ⟨BitVec.ofNat 3 (fld w 22 3), BitVec.ofNat 3 (fld w 18 3), BitVec.ofNat 3 (fld w 14 3), bit w 7⟩
def M3.enc (o : M3) : Nat := o.d.toNat * 2 ^ 22 + o.a.toNat * 2 ^ 18 + o.b.toNat * 2 ^ 14 + bnat o.p * 2 ^ 7
def M2.dec (w : Nat) : M2 := ⟨BitVec.ofNat 3 (fld w 22 3), BitVec.ofNat 3 (fld w 18 3), bit w 7⟩
def M2.enc (o : M2) : Nat := o.d.toNat * 2 ^ 22 + o.a.toNat * 2 ^ 18 + bnat o.p * 2 ^ 7
def M4.dec (w : Nat) : M4 := ⟨BitVec.ofNat 4 (fld w 22 4), BitVec.ofNat 3 (fld w 18 3), bit w 7⟩
def M4.enc (o : M4) : Nat := o.d.toNat * 2 ^ 22 + o.a.toNat * 2 ^ 18 + bnat o.p * 2 ^ 7
def MK.dec (w : Nat) : MK := ⟨BitVec.ofNat 3 (fld w 22 3), BitVec.ofNat 3 (fld w 18 3), BitVec.ofNat 4 (fld w 14 4), BitVec.ofNat 2 (fld w 8 2), bit w 7⟩
def MK.enc (o : MK) : Nat := o.d.toNat * 2 ^ 22 + o.a.toNat * 2 ^ 18 + o.k.toNat * 2 ^ 14 + o.f.toNat * 2 ^ 8 + bnat o.p * 2 ^ 7
def M1.dec (w : Nat) : M1 := ⟨BitVec.ofNat 3 (fld w 22 3), bit w 7⟩
def M1.enc (o : M1) : Nat := o.d.toNat * 2 ^ 22 + bnat o.p * 2 ^ 7
def MV.dec (w : Nat) : MV := ⟨BitVec.ofNat 3 (fld w 22 3), BitVec.ofNat 4 (fld w 18 4), bit w 7⟩
def MV.enc (o : MV) : Nat := o.d.toNat * 2 ^ 22 + o.a.toNat * 2 ^ 18 + bnat o.p * 2 ^ 7
def X3.dec (w : Nat) : X3 := ⟨BitVec.ofNat 2 (fld w 24 2), BitVec.ofNat 4 (fld w 20 4), BitVec.ofNat 4 (fld w 16 4), bit w 7⟩
def X3.enc (o : X3) : Nat := o.q.toNat * 2 ^ 24 + o.a.toNat * 2 ^ 20 + o.b.toNat * 2 ^ 16 + bnat o.p * 2 ^ 7
def XS.dec (w : Nat) : XS := ⟨BitVec.ofNat 2 (fld w 24 2), BitVec.ofNat 4 (fld w 20 4), BitVec.ofNat 4 (fld w 16 4), BitVec.ofNat 4 (fld w 12 4), bit w 11, bit w 10, bit w 7⟩
def XS.enc (o : XS) : Nat := o.q.toNat * 2 ^ 24 + o.a.toNat * 2 ^ 20 + o.b.toNat * 2 ^ 16 + o.x.toNat * 2 ^ 12 + bnat o.s * 2 ^ 11 + bnat o.n * 2 ^ 10 + bnat o.p * 2 ^ 7
def XZ.dec (w : Nat) : XZ := ⟨BitVec.ofNat 2 (fld w 24 2), bit w 10, bit w 7⟩
def XZ.enc (o : XZ) : Nat := o.q.toNat * 2 ^ 24 + bnat o.i * 2 ^ 10 + bnat o.p * 2 ^ 7
def XD.dec (w : Nat) : XD := ⟨BitVec.ofNat 2 (fld w 24 2), BitVec.ofNat 4 (fld w 20 4), bit w 11, bit w 7⟩
def XD.enc (o : XD) : Nat := o.q.toNat * 2 ^ 24 + o.d.toNat * 2 ^ 20 + bnat o.z * 2 ^ 11 + bnat o.p * 2 ^ 7
def XDW.dec (w : Nat) : XDW := ⟨BitVec.ofNat 2 (fld w 24 2), BitVec.ofNat 4 (fld w 20 4), BitVec.ofNat 4 (fld w 16 4), bit w 11, bit w 7⟩
def XDW.enc (o : XDW) : Nat := o.q.toNat * 2 ^ 24 + o.d.toNat * 2 ^ 20 + o.e.toNat * 2 ^ 16 + bnat o.z * 2 ^ 11 + bnat o.p * 2 ^ 7
def XL.dec (w : Nat) : XL := ⟨BitVec.ofNat 2 (fld w 24 2), BitVec.ofNat 4 (fld w 20 4), bit w 7⟩
def XL.enc (o : XL) : Nat := o.q.toNat * 2 ^ 24 + o.a.toNat * 2 ^ 20 + bnat o.p * 2 ^ 7
def XQ.dec (w : Nat) : XQ := ⟨BitVec.ofNat 2 (fld w 24 2), bit w 7⟩
def XQ.enc (o : XQ) : Nat := o.q.toNat * 2 ^ 24 + bnat o.p * 2 ^ 7
def TD.dec (w : Nat) : TD := ⟨BitVec.ofNat 3 (fld w 22 3), BitVec.ofNat 3 (fld w 18 3), BitVec.ofNat 3 (fld w 14 3), bit w 7⟩
def TD.enc (o : TD) : Nat := o.d.toNat * 2 ^ 22 + o.k.toNat * 2 ^ 18 + o.a.toNat * 2 ^ 14 + bnat o.p * 2 ^ 7
def TM.dec (w : Nat) : TM := ⟨BitVec.ofNat 3 (fld w 22 3), BitVec.ofNat 3 (fld w 18 3), BitVec.ofNat 4 (fld w 14 4), bit w 7⟩
def TM.enc (o : TM) : Nat := o.d.toNat * 2 ^ 22 + o.a.toNat * 2 ^ 18 + o.s.toNat * 2 ^ 14 + bnat o.p * 2 ^ 7
def TS.dec (w : Nat) : TS := ⟨BitVec.ofNat 3 (fld w 22 3), BitVec.ofNat 3 (fld w 18 3), BitVec.ofNat 4 (fld w 14 4), bit w 7⟩
def TS.enc (o : TS) : Nat := o.d.toNat * 2 ^ 22 + o.k.toNat * 2 ^ 18 + o.r.toNat * 2 ^ 14 + bnat o.p * 2 ^ 7
def RD.dec (w : Nat) : RD := ⟨BitVec.ofNat 4 (fld w 22 4), BitVec.ofNat 4 (fld w 18 4), BitVec.ofNat 4 (fld w 14 4), BitVec.ofNat 3 (fld w 11 3), BitVec.ofNat 2 (fld w 8 2)⟩
def RD.enc (o : RD) : Nat := o.d.toNat * 2 ^ 22 + o.a.toNat * 2 ^ 18 + o.b.toNat * 2 ^ 14 + o.o.toNat * 2 ^ 11 + o.s.toNat * 2 ^ 8
def CN.dec (w : Nat) : CN := ⟨BitVec.ofNat 4 (fld w 22 4), BitVec.ofNat 4 (fld w 18 4), bit w 16, BitVec.ofNat 8 (fld w 8 8), bit w 7⟩
def CN.enc (o : CN) : Nat := o.d.toNat * 2 ^ 22 + o.b.toNat * 2 ^ 18 + bnat o.h * 2 ^ 16 + o.i.toNat * 2 ^ 8 + bnat o.p * 2 ^ 7
def FN.dec (w : Nat) : FN := ⟨BitVec.ofNat 2 (fld w 10 2), BitVec.ofNat 2 (fld w 8 2), bit w 7⟩
def FN.enc (o : FN) : Nat := o.s.toNat * 2 ^ 10 + o.k.toNat * 2 ^ 8 + bnat o.p * 2 ^ 7
def LDo.dec (w : Nat) : LDo := ⟨BitVec.ofNat 4 (fld w 22 4), BitVec.ofNat 4 (fld w 18 4), BitVec.ofNat 14 (fld w 4 14), bit w 3, bit w 2, BitVec.ofNat 2 (fld w 0 2)⟩
def LDo.enc (o : LDo) : Nat := o.d.toNat * 2 ^ 22 + o.a.toNat * 2 ^ 18 + o.o.toNat * 2 ^ 4 + bnat o.q * 2 ^ 3 + bnat o.u * 2 ^ 2 + o.w.toNat
def STo.dec (w : Nat) : STo := ⟨BitVec.ofNat 4 (fld w 22 4), BitVec.ofNat 4 (fld w 18 4), BitVec.ofNat 14 (fld w 4 14), bit w 3, BitVec.ofNat 2 (fld w 0 2)⟩
def STo.enc (o : STo) : Nat := o.d.toNat * 2 ^ 22 + o.a.toNat * 2 ^ 18 + o.o.toNat * 2 ^ 4 + bnat o.q * 2 ^ 3 + o.w.toNat
def AM.dec (w : Nat) : AM := ⟨BitVec.ofNat 4 (fld w 22 4), BitVec.ofNat 4 (fld w 18 4), BitVec.ofNat 4 (fld w 14 4), BitVec.ofNat 2 (fld w 12 2), BitVec.ofNat 2 (fld w 10 2), bit w 9, bit w 7⟩
def AM.enc (o : AM) : Nat := o.d.toNat * 2 ^ 22 + o.a.toNat * 2 ^ 18 + o.b.toNat * 2 ^ 14 + o.s.toNat * 2 ^ 12 + o.o.toNat * 2 ^ 10 + bnat o.w * 2 ^ 9 + bnat o.p * 2 ^ 7
def XH.dec (w : Nat) : XH := ⟨BitVec.ofNat 5 (fld w 20 5), BitVec.ofNat 5 (fld w 15 5), BitVec.ofNat 2 (fld w 12 2), BitVec.ofNat 5 (fld w 7 5)⟩
def XH.enc (o : XH) : Nat := o.b.toNat * 2 ^ 20 + o.a.toNat * 2 ^ 15 + o.g.toNat * 2 ^ 12 + o.d.toNat * 2 ^ 7

/-- The first row whose fixed bits the word has, if its operand values are well formed; otherwise a reserved field. -/
def pick : List (Bool × Instr) → Dec
  | [] => .reserved
  | (c, i) :: rest => if c && i.wf then .ok i else pick rest

/-- R170: the opcode map. -/
def decodeMajor (w : Nat) : Dec :=
  match fld w 26 6 with
  | 0x01 =>
    match fld w 0 7 with
    | 0x00 => pick [(fld w 8 6 == 0, .add (S3.dec w))]
    | 0x01 => pick [(fld w 8 6 == 0, .sub (S3.dec w))]
    | 0x02 => pick [(fld w 8 6 == 0, .and (S3.dec w))]
    | 0x03 => pick [(fld w 8 6 == 0, .or (S3.dec w))]
    | 0x04 => pick [(fld w 8 6 == 0, .xor (S3.dec w))]
    | 0x05 => pick [(fld w 8 6 == 0, .sll (S3.dec w))]
    | 0x06 => pick [(fld w 8 6 == 0, .srl (S3.dec w))]
    | 0x07 => pick [(fld w 8 6 == 0, .sra (S3.dec w))]
    | 0x08 => pick [(fld w 8 6 == 0, .mul (S3.dec w))]
    | 0x09 => pick [(fld w 8 6 == 0, .mulh (S3.dec w))]
    | 0x0a => pick [(fld w 8 6 == 0, .mulhu (S3.dec w))]
    | 0x0b => pick [(fld w 8 6 == 0, .div (S3.dec w))]
    | 0x0c => pick [(fld w 8 6 == 0, .divu (S3.dec w))]
    | 0x0d => pick [(fld w 8 6 == 0, .rem (S3.dec w))]
    | 0x0e => pick [(fld w 8 6 == 0, .remu (S3.dec w))]
    | 0x0f => pick [(fld w 8 6 == 0, .min (S3.dec w))]
    | 0x10 => pick [(fld w 8 6 == 0, .max (S3.dec w))]
    | 0x11 => pick [(fld w 8 6 == 0, .minu (S3.dec w))]
    | 0x12 => pick [(fld w 8 6 == 0, .maxu (S3.dec w))]
    | 0x13 => pick [(fld w 8 6 == 0, .slt (S3.dec w))]
    | 0x14 => pick [(fld w 8 6 == 0, .sltu (S3.dec w))]
    | _ => .illegal
  | 0x02 => pick [(true, .addi (SI.dec w))]
  | 0x03 => pick [(true, .andi (SI.dec w))]
  | 0x04 => pick [(true, .ori (SI.dec w))]
  | 0x05 => pick [(true, .xori (SI.dec w))]
  | 0x06 =>
    match fld w 16 2 with
    | 0 => pick [(fld w 6 10 == 0, .slli (SH.dec w))]
    | 1 => pick [(fld w 6 10 == 0, .srli (SH.dec w))]
    | 2 => pick [(fld w 6 10 == 0, .srai (SH.dec w))]
    | _ => .illegal
  | 0x07 => pick [(true, .limm (LI.dec w))]
  | 0x08 => pick [(fld w 15 3 == 0, .beq (BR.dec w)), (fld w 15 3 == 1, .bne (BR.dec w)), (fld w 15 3 == 2, .blt (BR.dec w)), (fld w 15 3 == 3, .bge (BR.dec w)), (fld w 15 3 == 4, .bltu (BR.dec w)), (fld w 15 3 == 5, .bgeu (BR.dec w))]
  | 0x09 => pick [(true, .jal (JL.dec w))]
  | 0x0a => pick [(true, .jalr (SI.dec w))]
  | 0x0b =>
    match fld w 0 7 with
    | 0x00 => pick [(fld w 8 14 == 0, .bfetch (R1.dec w))]
    | 0x01 => pick [(fld w 8 18 == 0, .stop (P0.dec w))]
    | 0x02 => pick [(fld w 7 1 == 0 && fld w 18 8 == 0, .repb (N10.dec w))]
    | 0x03 => pick [(fld w 8 18 == 0, .yield (P0.dec w))]
    | 0x04 => pick [(fld w 7 1 == 0 && fld w 11 7 == 0, .pset (PS.dec w)), (fld w 7 15 == 12, .psetB0 (BitVec.ofNat 4 (fld w 22 4)))]
    | 0x05 => pick [(fld w 7 19 == 0, .pnot)]
    | _ => .illegal
  | 0x0c =>
    match fld w 0 7 with
    | 0x00 => pick [(fld w 10 12 == 0, .xsend (LK.dec w))]
    | 0x01 => pick [(fld w 10 12 == 0, .xrecv (LK.dec w))]
    | 0x02 => pick [(fld w 10 12 == 0, .xpeek (LK.dec w))]
    | _ => .illegal
  | 0x0d =>
    match fld w 0 7 with
    | 0x00 => pick [(fld w 8 18 == 0, .nop (P0.dec w))]
    | 0x01 => pick [(fld w 12 10 == 0, .hrd (RT.dec w))]
    | 0x02 => pick [(fld w 12 10 == 0, .hwr (RT.dec w))]
    | 0x03 => pick [(fld w 8 14 == 0, .evt (R1.dec w))]
    | 0x04 => pick [(fld w 18 8 == 0, .trapi (N10.dec w))]
    | 0x05 => pick [(fld w 18 8 == 0, .brk (N10.dec w))]
    | _ => .illegal
  | 0x0e => pick [(true, .lshi (LI.dec w))]
  | 0x10 =>
    match fld w 0 7 with
    | 0x00 => pick [(fld w 12 10 == 0, .vcfg (RT.dec w))]
    | 0x01 => pick [(fld w 13 5 == 0, .setvl (SV.dec w))]
    | 0x02 => pick [(fld w 14 12 == 0, .setrm (RM.dec w))]
    | 0x03 => pick [(fld w 8 14 == 1, .mmode (R1.dec w)), (fld w 8 18 == 0, .mmodeOff (P0.dec w)), (fld w 8 14 == 2, .mmodeRd (R1.dec w))]
    | 0x04 => pick [(fld w 12 10 == 0, .vtag (RT.dec w)), (fld w 8 10 == 512, .vtagRd (R2.dec w))]
    | _ => .illegal
  | 0x11 =>
    match fld w 0 7 with
    | 0x00 => pick [(fld w 8 2 == 0 && fld w 11 7 == 0 && fld w 25 1 == 0, .act (RW.dec w))]
    | 0x01 => pick [(fld w 8 2 == 0 && fld w 11 7 == 0 && fld w 25 1 == 0, .wb (RW.dec w))]
    | 0x02 => pick [(fld w 8 2 == 0 && fld w 11 7 == 0 && fld w 25 1 == 0, .wbp (RW.dec w))]
    | 0x03 => pick [(fld w 8 2 == 0 && fld w 11 11 == 0 && fld w 25 1 == 0, .pre (KG.dec w))]
    | 0x04 => pick [(fld w 8 6 == 0 && fld w 17 5 == 0 && fld w 25 1 == 0, .ref (KN.dec w))]
    | _ => .illegal
  | 0x12 =>
    match fld w 0 7 with
    | 0x00 => pick [(fld w 8 6 == 0 && fld w 24 2 == 0, .sdef (HD.dec w))]
    | 0x01 => pick [(fld w 8 2 == 0 && fld w 11 7 == 0 && fld w 20 2 == 0 && fld w 25 1 == 0, .sld (HK.dec w))]
    | 0x02 => pick [(fld w 8 2 == 0 && fld w 11 7 == 0 && fld w 20 2 == 0 && fld w 25 1 == 0, .sst (HK.dec w))]
    | 0x03 => pick [(fld w 8 10 == 0 && fld w 24 2 == 0, .spos (HP.dec w)), (fld w 8 10 == 1 && fld w 24 2 == 0, .sposRd (HP.dec w))]
    | _ => .illegal
  | 0x13 =>
    match fld w 0 7 with
    | 0x00 => pick [(fld w 8 2 == 0 && fld w 14 4 == 0, .vmov (V2.dec w))]
    | 0x01 => pick [(fld w 18 4 == 0, .vsplat (VS.dec w))]
    | 0x02 => pick [(fld w 8 2 == 1 && fld w 11 3 == 0, .vextr (VE.dec w))]
    | 0x03 => pick [(fld w 8 2 == 1 && fld w 11 3 == 0, .vinsr (VE.dec w))]
    | _ => .illegal
  | 0x14 =>
    match fld w 0 7 with
    | 0x00 => pick [(fld w 7 1 == 0 && fld w 10 4 == 0, .twrot (TW.dec w))]
    | 0x01 => pick [(fld w 7 1 == 0 && fld w 10 4 == 0, .twbfly (TW.dec w))]
    | 0x02 => pick [(fld w 7 1 == 0 && fld w 10 4 == 0, .twbcast (TW.dec w))]
    | 0x03 => pick [(fld w 7 11 == 0, .twxpose (TX.dec w))]
    | _ => .illegal
  | 0x15 =>
    match fld w 0 7 with
    | 0x00 => pick [(fld w 8 10 == 0, .shsnd (R2.dec w))]
    | 0x01 => pick [(fld w 8 10 == 0, .shrcv (R2.dec w))]
    | _ => .illegal
  | 0x16 =>
    match fld w 0 7 with
    | 0x00 => pick [(fld w 8 2 == 0, .ldg (VC.dec w))]
    | 0x01 => pick [(fld w 8 3 == 0, .ldgff (VF.dec w))]
    | 0x02 => pick [(fld w 8 2 == 0, .sts (VC.dec w))]
    | 0x03 => pick [(fld w 8 2 == 0, .lds (VC.dec w))]
    | 0x04 => pick [(fld w 8 2 == 0, .stst (VC.dec w))]
    | _ => .illegal
  | 0x17 =>
    match fld w 0 7 with
    | 0x00 => pick [(true, .xfer (XF.dec w))]
    | 0x01 => pick [(fld w 8 8 == 0 && fld w 18 4 == 0, .xwait (XW.dec w))]
    | _ => .illegal
  | 0x18 =>
    match fld w 0 7 with
    | 0x00 => pick [(true, .vadd (V3.dec w))]
    | 0x01 => pick [(true, .vsub (V3.dec w))]
    | 0x02 => pick [(true, .vmul (V3.dec w))]
    | 0x03 => pick [(true, .vmulh (V3.dec w))]
    | 0x04 => pick [(true, .vdiv (V3.dec w))]
    | 0x05 => pick [(true, .vrem (V3.dec w))]
    | 0x06 => pick [(true, .vmin (V3.dec w))]
    | 0x07 => pick [(true, .vmax (V3.dec w))]
    | 0x08 => pick [(true, .vabsd (V3.dec w))]
    | _ => .illegal
  | 0x19 =>
    match fld w 0 7 with
    | 0x00 => pick [(true, .vand (V3.dec w))]
    | 0x01 => pick [(true, .vor (V3.dec w))]
    | 0x02 => pick [(true, .vxor (V3.dec w))]
    | 0x03 => pick [(true, .vsll (V3.dec w))]
    | 0x04 => pick [(true, .vsrl (V3.dec w))]
    | 0x05 => pick [(true, .vsra (V3.dec w))]
    | _ => .illegal
  | 0x1a =>
    match fld w 0 7 with
    | 0x00 => pick [(true, .vfma (V3.dec w))]
    | 0x01 => pick [(true, .vfms (V3.dec w))]
    | 0x02 => pick [(true, .vfnma (V3.dec w))]
    | 0x03 => pick [(true, .vminadd (V3.dec w))]
    | _ => .illegal
  | 0x1b =>
    match fld w 0 7 with
    | 0x00 => pick [(fld w 8 2 == 0 && fld w 14 4 == 0, .vneg (V2.dec w))]
    | 0x01 => pick [(fld w 8 2 == 0 && fld w 14 4 == 0, .vabs (V2.dec w))]
    | 0x02 => pick [(fld w 8 2 == 0 && fld w 14 4 == 0, .vnot (V2.dec w))]
    | 0x03 => pick [(fld w 8 2 == 0 && fld w 14 4 == 0, .vclz (V2.dec w))]
    | 0x04 => pick [(fld w 8 2 == 0 && fld w 14 4 == 0, .vpopc (V2.dec w))]
    | 0x05 => pick [(fld w 8 2 == 0 && fld w 14 4 == 0, .vsqrt (V2.dec w))]
    | 0x06 => pick [(fld w 8 2 == 0 && fld w 14 4 == 0, .vrcp (V2.dec w))]
    | 0x07 => pick [(fld w 8 2 == 0 && fld w 14 4 == 0, .vrsqrt (V2.dec w))]
    | 0x08 => pick [(fld w 8 2 == 0 && fld w 14 4 == 0, .vexp2 (V2.dec w))]
    | 0x09 => pick [(fld w 8 2 == 0 && fld w 14 4 == 0, .vlog2 (V2.dec w))]
    | 0x0a => pick [(fld w 8 2 == 0 && fld w 14 4 == 0, .vtanh (V2.dec w))]
    | _ => .illegal
  | 0x1c =>
    match fld w 0 7 with
    | 0x00 => pick [(fld w 25 1 == 0, .vcmpEq (VM.dec w))]
    | 0x01 => pick [(fld w 25 1 == 0, .vcmpNe (VM.dec w))]
    | 0x02 => pick [(fld w 25 1 == 0, .vcmpLt (VM.dec w))]
    | 0x03 => pick [(fld w 25 1 == 0, .vcmpLe (VM.dec w))]
    | 0x04 => pick [(fld w 25 1 == 0, .vcmpGt (VM.dec w))]
    | 0x05 => pick [(fld w 25 1 == 0, .vcmpGe (VM.dec w))]
    | 0x06 => pick [(fld w 25 1 == 0, .vcmpUnord (VM.dec w))]
    | _ => .illegal
  | 0x1d =>
    match fld w 0 7 with
    | 0x00 => pick [(true, .vadc (V3.dec w))]
    | 0x01 => pick [(true, .vsbc (V3.dec w))]
    | 0x02 => pick [(true, .vaddm (V3.dec w))]
    | _ => .illegal
  | 0x1e =>
    match fld w 0 7 with
    | 0x00 => pick [(fld w 8 2 == 0 && fld w 14 4 == 0, .vcvt (V2.dec w))]
    | 0x01 => pick [(fld w 8 2 == 0 && fld w 16 2 == 0, .vcvtmxImp (VX.dec w)), (fld w 8 2 == 0 && fld w 16 2 == 2, .vcvtmxExp (VX.dec w))]
    | 0x02 => pick [(fld w 8 2 == 0 && fld w 14 4 == 0, .vquant (V2.dec w))]
    | _ => .illegal
  | 0x1f =>
    match fld w 0 7 with
    | 0x00 => pick [(true, .vsel (V3.dec w))]
    | 0x01 => pick [(true, .vslup (V3.dec w))]
    | 0x02 => pick [(true, .vsldn (V3.dec w))]
    | 0x03 => pick [(fld w 8 2 == 0, .vgathr (VC.dec w))]
    | 0x04 => pick [(fld w 8 2 == 0 && fld w 14 4 == 0, .vcmprs (V2.dec w))]
    | 0x05 => pick [(fld w 8 2 == 0 && fld w 14 4 == 0, .vexpnd (V2.dec w))]
    | 0x06 => pick [(fld w 8 2 == 0 && fld w 14 4 == 0, .vrev (V2.dec w))]
    | _ => .illegal
  | 0x20 =>
    match fld w 0 7 with
    | 0x00 => pick [(fld w 8 2 == 0 && fld w 14 4 == 0, .vredSum (V2.dec w))]
    | 0x01 => pick [(fld w 8 2 == 0 && fld w 14 4 == 0, .vredMax (V2.dec w))]
    | 0x02 => pick [(fld w 8 2 == 0 && fld w 14 4 == 0, .vredMin (V2.dec w))]
    | 0x03 => pick [(fld w 8 2 == 0 && fld w 14 4 == 0, .vredAnd (V2.dec w))]
    | 0x04 => pick [(fld w 8 2 == 0 && fld w 14 4 == 0, .vredOr (V2.dec w))]
    | 0x05 => pick [(fld w 8 2 == 0 && fld w 14 4 == 0, .vredXor (V2.dec w))]
    | 0x06 => pick [(fld w 8 2 == 0 && fld w 14 4 == 0, .vredSexp (V2.dec w))]
    | 0x08 => pick [(fld w 8 2 == 0 && fld w 14 4 == 0, .vhist (V2.dec w))]
    | 0x09 => pick [(fld w 8 10 == 0, .vhmerge (R2.dec w))]
    | 0x0a => pick [(fld w 8 3 == 0 && fld w 14 4 == 0 && fld w 21 1 == 0, .vfirst (VI.dec w))]
    | 0x0b => pick [(fld w 8 3 == 0 && fld w 14 4 == 0 && fld w 21 1 == 0, .viota (VI.dec w))]
    | _ => .illegal
  | 0x21 =>
    match fld w 0 7 with
    | 0x00 => pick [(fld w 8 6 == 0 && fld w 17 1 == 0 && fld w 21 1 == 0 && fld w 25 1 == 0, .mand (M3.dec w))]
    | 0x01 => pick [(fld w 8 6 == 0 && fld w 17 1 == 0 && fld w 21 1 == 0 && fld w 25 1 == 0, .mor (M3.dec w))]
    | 0x02 => pick [(fld w 8 6 == 0 && fld w 17 1 == 0 && fld w 21 1 == 0 && fld w 25 1 == 0, .mxor (M3.dec w))]
    | 0x03 => pick [(fld w 8 6 == 0 && fld w 17 1 == 0 && fld w 21 1 == 0 && fld w 25 1 == 0, .mandn (M3.dec w))]
    | 0x04 => pick [(fld w 8 10 == 0 && fld w 21 1 == 0 && fld w 25 1 == 0, .mnot (M2.dec w))]
    | 0x05 => pick [(fld w 8 10 == 0 && fld w 21 1 == 0, .mpopc (M4.dec w))]
    | 0x06 => pick [(fld w 10 4 == 0 && fld w 21 1 == 0 && fld w 25 1 == 0, .mshl (MK.dec w))]
    | 0x07 => pick [(fld w 10 4 == 0 && fld w 21 1 == 0 && fld w 25 1 == 0, .mshr (MK.dec w))]
    | 0x08 => pick [(fld w 8 14 == 0 && fld w 25 1 == 0, .mset (M1.dec w))]
    | 0x09 => pick [(fld w 8 14 == 0 && fld w 25 1 == 0, .mclr (M1.dec w))]
    | 0x0a => pick [(fld w 8 10 == 0 && fld w 25 1 == 0, .mfromv (MV.dec w))]
    | 0x0b => pick [(fld w 8 10 == 0 && fld w 21 1 == 0, .mtov (M4.dec w))]
    | _ => .illegal
  | 0x28 =>
    match fld w 0 7 with
    | 0x00 => pick [(fld w 8 8 == 0, .mop (X3.dec w))]
    | 0x01 => pick [(fld w 8 2 == 0, .mops (XS.dec w))]
    | 0x02 => pick [(fld w 8 2 == 0 && fld w 11 13 == 0, .mzero (XZ.dec w))]
    | 0x03 => pick [(fld w 8 3 == 0 && fld w 12 8 == 0, .mdrain (XD.dec w)), (fld w 8 3 == 4 && fld w 12 4 == 0, .mdrainW (XDW.dec w))]
    | 0x04 => pick [(fld w 8 12 == 0, .mldacc (XL.dec w)), (fld w 8 8 == 4, .mldaccW (X3.dec w))]
    | 0x05 => pick [(fld w 8 16 == 0, .mtile (XQ.dec w)), (fld w 8 16 == 4, .mtileRel (XQ.dec w))]
    | _ => .illegal
  | 0x29 =>
    match fld w 0 7 with
    | 0x00 => pick [(fld w 8 6 == 0 && fld w 17 1 == 1 && fld w 21 1 == 0 && fld w 25 1 == 1, .tdot (TD.dec w))]
    | 0x01 => pick [(fld w 8 6 == 0 && fld w 21 1 == 1 && fld w 25 1 == 1, .tdotm (TM.dec w))]
    | 0x02 => pick [(fld w 8 6 == 0 && fld w 21 1 == 0 && fld w 25 1 == 1, .tstk (TS.dec w))]
    | 0x03 => pick [(fld w 7 1 == 0 && fld w 10 1 == 0, .red (RD.dec w))]
    | _ => .illegal
  | 0x30 =>
    match fld w 0 7 with
    | 0x00 => pick [(fld w 17 1 == 0, .barrive (CN.dec w))]
    | 0x01 => pick [(fld w 17 1 == 0, .barwait (CN.dec w))]
    | 0x02 => pick [(fld w 17 1 == 0, .semwait (CN.dec w))]
    | 0x03 => pick [(fld w 17 1 == 0, .sempost (CN.dec w))]
    | 0x04 => pick [(fld w 12 14 == 0, .fence (FN.dec w))]
    | _ => .illegal
  | 0x31 => pick [(true, .ld (LDo.dec w))]
  | 0x32 => pick [(fld w 2 1 == 0, .st (STo.dec w))]
  | 0x33 =>
    match fld w 0 7 with
    | 0x00 => pick [(fld w 8 1 == 0, .amoadd (AM.dec w))]
    | 0x01 => pick [(fld w 8 1 == 0, .amoswap (AM.dec w))]
    | 0x02 => pick [(fld w 8 1 == 0, .amocas (AM.dec w))]
    | 0x03 => pick [(fld w 8 1 == 0, .amomin (AM.dec w))]
    | 0x04 => pick [(fld w 8 1 == 0, .amomax (AM.dec w))]
    | 0x05 => pick [(fld w 8 1 == 0, .amoand (AM.dec w))]
    | 0x06 => pick [(fld w 8 1 == 0, .amoor (AM.dec w))]
    | 0x07 => pick [(fld w 8 1 == 0, .amoxor (AM.dec w))]
    | _ => .illegal
  | 0x3f => .header
  | _ => .illegal

/-- A hart word read under R170 to R172, orders 1, 2, 3 and 5. -/
def decodeHart (w : Nat) : Dec :=
  if w == 0 || w == 0xffffffff then .illegal else decodeMajor w

/-- R130: the words that end a block, whatever their other fields hold. -/
def endsBlock (w : Nat) : Bool :=
  match fld w 26 6 with
  | 0x08 | 0x09 | 0x0a => true
  | 0x0b => fld w 0 7 < 3
  | _ => false

/-- R130: the enders a broadcast block permits at word L: REPB and BFETCH. -/
def broadcastEnder (w : Nat) : Bool := fld w 26 6 == 0x0b && (fld w 0 7 == 0 || fld w 0 7 == 2)

/-- An Xhlm instruction if its unused fields are zero (R146). -/
def xpick (o : XH) (c : XH → Instr) : Option Instr := if (c o).wf then some (c o) else none

/-- R146: the Xhlm instructions, opcode custom-0. -/
def decodeXhlm (w : Nat) : Option Instr :=
  if fld w 0 7 != 0x0b then none else
    match fld w 25 7 with
    | 0x00 => if fld w 14 1 == 0 then xpick (XH.dec w) .gdef else none
    | 0x01 => if fld w 14 1 == 0 then xpick (XH.dec w) .bcast else none
    | 0x02 => if fld w 14 1 == 0 then xpick (XH.dec w) .bcastn else none
    | 0x03 => if fld w 14 1 == 0 then xpick (XH.dec w) .gwait else none
    | 0x04 => if fld w 14 1 == 0 then xpick (XH.dec w) .gset else none
    | 0x05 => if fld w 14 1 == 0 then xpick (XH.dec w) .hget else none
    | 0x06 => if fld w 14 1 == 0 then xpick (XH.dec w) .hstat else none
    | 0x07 => if fld w 14 1 == 0 then xpick (XH.dec w) .hresume else none
    | 0x08 => if fld w 14 1 == 0 then xpick (XH.dec w) .hkill else none
    | 0x09 => if fld w 14 1 == 0 then xpick (XH.dec w) .evwait else none
    | 0x0a => if fld w 14 1 == 0 then xpick (XH.dec w) .evpoll else none
    | 0x0b => if fld w 14 1 == 0 then xpick (XH.dec w) .launch else none
    | 0x0c => if fld w 14 1 == 0 then xpick (XH.dec w) .capq else none
    | 0x0d => if fld w 14 1 == 0 then xpick (XH.dec w) .capack else none
    | 0x0e => if fld w 7 18 == 0 then some .taskend else none
    | 0x0f =>
      match fld w 12 3 with
      | 0 => xpick { XH.dec w with g := 0 } .ctbarArrive
      | 1 => xpick { XH.dec w with g := 0 } .ctbarWait
      | 2 => xpick { XH.dec w with g := 0 } .ctbarSemwait
      | 3 => xpick { XH.dec w with g := 0 } .ctbarSempost
      | 4 => xpick { XH.dec w with g := 0 } .ctbarSet
      | _ => none
    | _ => none

/-- The operand fields of a RISC-V load (R124). -/
def CtM.decLoad (w : Nat) : CtM :=
  ⟨BitVec.ofNat 3 (fld w 12 3), BitVec.ofNat 5 (fld w 7 5), BitVec.ofNat 5 (fld w 15 5), BitVec.ofNat 12 (fld w 20 12)⟩
/-- The operand fields of a RISC-V store. -/
def CtM.decStore (w : Nat) : CtM :=
  ⟨BitVec.ofNat 3 (fld w 12 3), BitVec.ofNat 5 (fld w 20 5), BitVec.ofNat 5 (fld w 15 5),
    BitVec.ofNat 12 (fld w 25 7 * 2 ^ 5 + fld w 7 5)⟩
/-- The operand fields of a RISC-V atomic. -/
def CtA.dec (w : Nat) : CtA :=
  ⟨BitVec.ofNat 5 (fld w 27 5), bit w 12, bit w 26, bit w 25, BitVec.ofNat 5 (fld w 7 5), BitVec.ofNat 5 (fld w 15 5),
    BitVec.ofNat 5 (fld w 20 5)⟩

def CtM.encLoad (o : CtM) : Nat := 0x03 + o.r.toNat * 2 ^ 7 + o.f3.toNat * 2 ^ 12 + o.a.toNat * 2 ^ 15 + o.i.toNat * 2 ^ 20
def CtM.encStore (o : CtM) : Nat :=
  0x23 + o.i.toNat % 32 * 2 ^ 7 + o.f3.toNat * 2 ^ 12 + o.a.toNat * 2 ^ 15 + o.r.toNat * 2 ^ 20 + o.i.toNat / 32 * 2 ^ 25
def CtA.enc (o : CtA) : Nat :=
  0x202f + o.d.toNat * 2 ^ 7 + bnat o.d64 * 2 ^ 12 + o.a.toNat * 2 ^ 15 + o.b.toNat * 2 ^ 20 + bnat o.rl * 2 ^ 25
    + bnat o.aq * 2 ^ 26 + o.f5.toNat * 2 ^ 27

/-- The RISC-V instructions that have a row of their own (R123, R381, R401): loads, stores, atomics, fences, CSR
accesses, ECALL, EBREAK, WFI and MRET. -/
def decodeCtRow (w : Nat) : Option Instr :=
  let good (i : Instr) : Option Instr := if i.wf then some i else none
  match fld w 0 7 with
  | 0x03 => good (.ctLoad (CtM.decLoad w))
  | 0x23 => good (.ctStore (CtM.decStore w))
  | 0x2f =>
    if fld w 13 2 != 1 then none else
      match fld w 27 5 with
      | 2 => good (.ctLr (CtA.dec w))
      | 3 => good (.ctSc (CtA.dec w))
      | _ => good (.ctAmo (CtA.dec w))
  | 0x0f =>
    match fld w 12 3 with
    | 0 => some (.ctFence ⟨BitVec.ofNat 4 (fld w 28 4), BitVec.ofNat 4 (fld w 24 4), BitVec.ofNat 4 (fld w 20 4)⟩)
    | 1 => some .ctFenceI
    | _ => none
  | 0x73 =>
    match fld w 12 3 with
    | 0 =>
      if w == 0x00000073 then some .ctEcall
      else if w == 0x00100073 then some .ctEbreak
      else if w == 0x10500073 then some .ctWfi
      else if w == 0x30200073 then some .ctMret
      else none
    | 4 => none
    | f3 => some (.ctCsrAccess ⟨BitVec.ofNat 3 f3, BitVec.ofNat 5 (fld w 7 5), BitVec.ofNat 5 (fld w 15 5),
        BitVec.ofNat 12 (fld w 20 12)⟩)
  | _ => none

/-- A control-thread word that is an instruction of the table. -/
def decodeCt (w : Nat) : Option Instr := (decodeXhlm w).orElse fun _ => decodeCtRow w

/-- The word of an instruction; an event has none. -/
def encode : Instr → Option Nat
  | .add o => some (0x04000000 + o.enc)
  | .sub o => some (0x04000001 + o.enc)
  | .and o => some (0x04000002 + o.enc)
  | .or o => some (0x04000003 + o.enc)
  | .xor o => some (0x04000004 + o.enc)
  | .sll o => some (0x04000005 + o.enc)
  | .srl o => some (0x04000006 + o.enc)
  | .sra o => some (0x04000007 + o.enc)
  | .mul o => some (0x04000008 + o.enc)
  | .mulh o => some (0x04000009 + o.enc)
  | .mulhu o => some (0x0400000a + o.enc)
  | .div o => some (0x0400000b + o.enc)
  | .divu o => some (0x0400000c + o.enc)
  | .rem o => some (0x0400000d + o.enc)
  | .remu o => some (0x0400000e + o.enc)
  | .min o => some (0x0400000f + o.enc)
  | .max o => some (0x04000010 + o.enc)
  | .minu o => some (0x04000011 + o.enc)
  | .maxu o => some (0x04000012 + o.enc)
  | .slt o => some (0x04000013 + o.enc)
  | .sltu o => some (0x04000014 + o.enc)
  | .addi o => some (0x08000000 + o.enc)
  | .andi o => some (0x0c000000 + o.enc)
  | .ori o => some (0x10000000 + o.enc)
  | .xori o => some (0x14000000 + o.enc)
  | .slli o => some (0x18000000 + o.enc)
  | .srli o => some (0x18010000 + o.enc)
  | .srai o => some (0x18020000 + o.enc)
  | .limm o => some (0x1c000000 + o.enc)
  | .lshi o => some (0x38000000 + o.enc)
  | .beq o => some (0x20000000 + o.enc)
  | .bne o => some (0x20008000 + o.enc)
  | .blt o => some (0x20010000 + o.enc)
  | .bge o => some (0x20018000 + o.enc)
  | .bltu o => some (0x20020000 + o.enc)
  | .bgeu o => some (0x20028000 + o.enc)
  | .jal o => some (0x24000000 + o.enc)
  | .jalr o => some (0x28000000 + o.enc)
  | .bfetch o => some (0x2c000000 + o.enc)
  | .stop o => some (0x2c000001 + o.enc)
  | .repb o => some (0x2c000002 + o.enc)
  | .yield o => some (0x2c000003 + o.enc)
  | .pset o => some (0x2c000004 + o.enc)
  | .psetB0 a => some (0x2c000604 + a.toNat * 2 ^ 22)
  | .pnot => some 0x2c000005
  | .xsend o => some (0x30000000 + o.enc)
  | .xrecv o => some (0x30000001 + o.enc)
  | .xpeek o => some (0x30000002 + o.enc)
  | .nop o => some (0x34000000 + o.enc)
  | .hrd o => some (0x34000001 + o.enc)
  | .hwr o => some (0x34000002 + o.enc)
  | .evt o => some (0x34000003 + o.enc)
  | .trapi o => some (0x34000004 + o.enc)
  | .brk o => some (0x34000005 + o.enc)
  | .vcfg o => some (0x40000000 + o.enc)
  | .setvl o => some (0x40000001 + o.enc)
  | .setrm o => some (0x40000002 + o.enc)
  | .mmode o => some (0x40000103 + o.enc)
  | .mmodeOff o => some (0x40000003 + o.enc)
  | .mmodeRd o => some (0x40000203 + o.enc)
  | .vtag o => some (0x40000004 + o.enc)
  | .vtagRd o => some (0x40020004 + o.enc)
  | .act o => some (0x44000000 + o.enc)
  | .wb o => some (0x44000001 + o.enc)
  | .wbp o => some (0x44000002 + o.enc)
  | .pre o => some (0x44000003 + o.enc)
  | .ref o => some (0x44000004 + o.enc)
  | .sdef o => some (0x48000000 + o.enc)
  | .sld o => some (0x48000001 + o.enc)
  | .sst o => some (0x48000002 + o.enc)
  | .spos o => some (0x48000003 + o.enc)
  | .sposRd o => some (0x48000103 + o.enc)
  | .vmov o => some (0x4c000000 + o.enc)
  | .vsplat o => some (0x4c000001 + o.enc)
  | .vextr o => some (0x4c000102 + o.enc)
  | .vinsr o => some (0x4c000103 + o.enc)
  | .twrot o => some (0x50000000 + o.enc)
  | .twbfly o => some (0x50000001 + o.enc)
  | .twbcast o => some (0x50000002 + o.enc)
  | .twxpose o => some (0x50000003 + o.enc)
  | .shsnd o => some (0x54000000 + o.enc)
  | .shrcv o => some (0x54000001 + o.enc)
  | .ldg o => some (0x58000000 + o.enc)
  | .ldgff o => some (0x58000001 + o.enc)
  | .sts o => some (0x58000002 + o.enc)
  | .lds o => some (0x58000003 + o.enc)
  | .stst o => some (0x58000004 + o.enc)
  | .xfer o => some (0x5c000000 + o.enc)
  | .xwait o => some (0x5c000001 + o.enc)
  | .vadd o => some (0x60000000 + o.enc)
  | .vsub o => some (0x60000001 + o.enc)
  | .vmul o => some (0x60000002 + o.enc)
  | .vmulh o => some (0x60000003 + o.enc)
  | .vdiv o => some (0x60000004 + o.enc)
  | .vrem o => some (0x60000005 + o.enc)
  | .vmin o => some (0x60000006 + o.enc)
  | .vmax o => some (0x60000007 + o.enc)
  | .vabsd o => some (0x60000008 + o.enc)
  | .vand o => some (0x64000000 + o.enc)
  | .vor o => some (0x64000001 + o.enc)
  | .vxor o => some (0x64000002 + o.enc)
  | .vsll o => some (0x64000003 + o.enc)
  | .vsrl o => some (0x64000004 + o.enc)
  | .vsra o => some (0x64000005 + o.enc)
  | .vfma o => some (0x68000000 + o.enc)
  | .vfms o => some (0x68000001 + o.enc)
  | .vfnma o => some (0x68000002 + o.enc)
  | .vminadd o => some (0x68000003 + o.enc)
  | .vneg o => some (0x6c000000 + o.enc)
  | .vabs o => some (0x6c000001 + o.enc)
  | .vnot o => some (0x6c000002 + o.enc)
  | .vclz o => some (0x6c000003 + o.enc)
  | .vpopc o => some (0x6c000004 + o.enc)
  | .vsqrt o => some (0x6c000005 + o.enc)
  | .vrcp o => some (0x6c000006 + o.enc)
  | .vrsqrt o => some (0x6c000007 + o.enc)
  | .vexp2 o => some (0x6c000008 + o.enc)
  | .vlog2 o => some (0x6c000009 + o.enc)
  | .vtanh o => some (0x6c00000a + o.enc)
  | .vcmpEq o => some (0x70000000 + o.enc)
  | .vcmpNe o => some (0x70000001 + o.enc)
  | .vcmpLt o => some (0x70000002 + o.enc)
  | .vcmpLe o => some (0x70000003 + o.enc)
  | .vcmpGt o => some (0x70000004 + o.enc)
  | .vcmpGe o => some (0x70000005 + o.enc)
  | .vcmpUnord o => some (0x70000006 + o.enc)
  | .vadc o => some (0x74000000 + o.enc)
  | .vsbc o => some (0x74000001 + o.enc)
  | .vaddm o => some (0x74000002 + o.enc)
  | .vcvt o => some (0x78000000 + o.enc)
  | .vcvtmxImp o => some (0x78000001 + o.enc)
  | .vcvtmxExp o => some (0x78020001 + o.enc)
  | .vquant o => some (0x78000002 + o.enc)
  | .vsel o => some (0x7c000000 + o.enc)
  | .vslup o => some (0x7c000001 + o.enc)
  | .vsldn o => some (0x7c000002 + o.enc)
  | .vgathr o => some (0x7c000003 + o.enc)
  | .vcmprs o => some (0x7c000004 + o.enc)
  | .vexpnd o => some (0x7c000005 + o.enc)
  | .vrev o => some (0x7c000006 + o.enc)
  | .vredSum o => some (0x80000000 + o.enc)
  | .vredMax o => some (0x80000001 + o.enc)
  | .vredMin o => some (0x80000002 + o.enc)
  | .vredAnd o => some (0x80000003 + o.enc)
  | .vredOr o => some (0x80000004 + o.enc)
  | .vredXor o => some (0x80000005 + o.enc)
  | .vredSexp o => some (0x80000006 + o.enc)
  | .vhist o => some (0x80000008 + o.enc)
  | .vhmerge o => some (0x80000009 + o.enc)
  | .vfirst o => some (0x8000000a + o.enc)
  | .viota o => some (0x8000000b + o.enc)
  | .mand o => some (0x84000000 + o.enc)
  | .mor o => some (0x84000001 + o.enc)
  | .mxor o => some (0x84000002 + o.enc)
  | .mandn o => some (0x84000003 + o.enc)
  | .mnot o => some (0x84000004 + o.enc)
  | .mpopc o => some (0x84000005 + o.enc)
  | .mshl o => some (0x84000006 + o.enc)
  | .mshr o => some (0x84000007 + o.enc)
  | .mset o => some (0x84000008 + o.enc)
  | .mclr o => some (0x84000009 + o.enc)
  | .mfromv o => some (0x8400000a + o.enc)
  | .mtov o => some (0x8400000b + o.enc)
  | .mop o => some (0xa0000000 + o.enc)
  | .mops o => some (0xa0000001 + o.enc)
  | .mzero o => some (0xa0000002 + o.enc)
  | .mdrain o => some (0xa0000003 + o.enc)
  | .mdrainW o => some (0xa0000403 + o.enc)
  | .mldacc o => some (0xa0000004 + o.enc)
  | .mldaccW o => some (0xa0000404 + o.enc)
  | .mtile o => some (0xa0000005 + o.enc)
  | .mtileRel o => some (0xa0000405 + o.enc)
  | .tdot o => some (0xa6020000 + o.enc)
  | .tdotm o => some (0xa6200001 + o.enc)
  | .tstk o => some (0xa6000002 + o.enc)
  | .red o => some (0xa4000003 + o.enc)
  | .barrive o => some (0xc0000000 + o.enc)
  | .barwait o => some (0xc0000001 + o.enc)
  | .semwait o => some (0xc0000002 + o.enc)
  | .sempost o => some (0xc0000003 + o.enc)
  | .fence o => some (0xc0000004 + o.enc)
  | .ld o => some (0xc4000000 + o.enc)
  | .st o => some (0xc8000000 + o.enc)
  | .amoadd o => some (0xcc000000 + o.enc)
  | .amoswap o => some (0xcc000001 + o.enc)
  | .amocas o => some (0xcc000002 + o.enc)
  | .amomin o => some (0xcc000003 + o.enc)
  | .amomax o => some (0xcc000004 + o.enc)
  | .amoand o => some (0xcc000005 + o.enc)
  | .amoor o => some (0xcc000006 + o.enc)
  | .amoxor o => some (0xcc000007 + o.enc)
  | .gdef o => some (0x0000000b + o.enc)
  | .bcast o => some (0x0200000b + o.enc)
  | .bcastn o => some (0x0400000b + o.enc)
  | .gwait o => some (0x0600000b + o.enc)
  | .gset o => some (0x0800000b + o.enc)
  | .hget o => some (0x0a00000b + o.enc)
  | .hstat o => some (0x0c00000b + o.enc)
  | .hresume o => some (0x0e00000b + o.enc)
  | .hkill o => some (0x1000000b + o.enc)
  | .evwait o => some (0x1200000b + o.enc)
  | .evpoll o => some (0x1400000b + o.enc)
  | .launch o => some (0x1600000b + o.enc)
  | .capq o => some (0x1800000b + o.enc)
  | .capack o => some (0x1a00000b + o.enc)
  | .taskend => some 0x1c00000b
  | .ctbarArrive o => some (0x1e00000b + o.enc)
  | .ctbarWait o => some (0x1e00100b + o.enc)
  | .ctbarSemwait o => some (0x1e00200b + o.enc)
  | .ctbarSempost o => some (0x1e00300b + o.enc)
  | .ctbarSet o => some (0x1e00400b + o.enc)
  | .ctLoad o => some o.encLoad
  | .ctStore o => some o.encStore
  | .ctAmo o | .ctLr o | .ctSc o => some o.enc
  | .ctFence o => some (0x0f + o.succ.toNat * 2 ^ 20 + o.pred.toNat * 2 ^ 24 + o.fm.toNat * 2 ^ 28)
  | .ctFenceI => some 0x100f
  | .ctEcall => some 0x00000073
  | .ctEbreak => some 0x00100073
  | .ctWfi => some 0x10500073
  | .ctMret => some 0x30200073
  | .ctCsrAccess o => some (0x73 + o.d.toNat * 2 ^ 7 + o.f3.toNat * 2 ^ 12 + o.a.toNat * 2 ^ 15 + o.csr.toNat * 2 ^ 20)
  | _ => none

/-- The word of an instruction, as it stands in htval and mtval. -/
def Instr.word (i : Instr) : Nat := (encode i).getD 0

/-- The instruction of a word numbered as the opcode table numbers it. The control thread and the harts share no
memory of code, so a word can be both an Xhlm instruction and a hart word; the Xhlm reading is taken first (log 12). -/
def decodeTableWord (nbits w : Nat) : Option Instr :=
  if nbits != 32 || 2 ^ 32 ≤ w then none else
    match decodeXhlm w with
    | some i => some i
    | none =>
      match decodeHart w with
      | .ok i => some i
      | _ => decodeCtRow w

end Sys2Proof
end

