-- ==== Sys2Proof/Config.lean ====
section
/-! DEFINITION. What the spec leaves to an implementation: constants without a body, of which no proof can know a value
(log 13), and the fixed figures of R3, R185 and R106. -/

namespace Sys2Proof.Config

/-- R202: the tile row the engine checks, drawn from a generator that software cannot read. -/
opaque sampledRow : Nat → BitVec 6

/-- R55: the Reed-Solomon check symbols of 68 symbols: the 64 bytes of a line and sideband bytes 4 to 7. The spec gives no generator
polynomial. -/
opaque rsCode : Nat → BitVec 32

/-- R86, R428, R457: an ECDSA signature under the module's identity key, whose value no rule gives. -/
opaque signature : Nat → BitVec 512

/-- R413: the bytes of a region of the save area, whose layout is the device's own. -/
opaque saveArea : Nat → Nat

/-- R455: the SHA-256 hash of the firmware in a slot at power-up. -/
opaque factoryFirmwareHash : Nat → BitVec 256

/-- R15, R112: the Yowald port that leads to a module; no rule gives the wiring. -/
opaque portOf : Nat → Nat

/-- R44: a translation walks at most three levels. -/
def levels : Nat := 3

/-- R144: records an event queue holds. -/
def eventQueueSize : Nat := 64
/-- R142: entries a link queue holds. -/
def linkQueueSize : Nat := 4
/-- R136: blocks a gang's queue holds. -/
def gangQueueSize : Nat := 8
/-- R72: accepted tasks a module holds. -/
def taskLimit : Nat := 4096
/-- R79: completion records the hub holds. -/
def holdLimit : Nat := 256
/-- R197: groups a commit buffer holds. -/
def commitBufferSize : Nat := 16

/-- R421: ring entries of a core not yet written. -/
def ringEntries : Nat := 16
/-- R20, R26: outstanding requests of a core's gather unit. -/
def requestLimit : Nat := 1024
/-- R16: lines of 64 bytes that the MSC of a stack holds. -/
def mscLines : Nat := 2 ^ 20
/-- R49: entries of a core's compute-page TLB, and of its column TLB. -/
def rowTlbSize : Nat := 512
def colTlbSize : Nat := 256
/-- R20: lines of the control thread's instruction cache, and of its data cache. -/
def icacheLines : Nat := 512
def dcacheLines : Nat := 1024
/-- R440: entries of the error log. -/
def logSize : Nat := 4096
/-- R427: records of the retirement region. -/
def retireSize : Nat := 2048
/-- R133: blocks of a bank block cache. -/
def blockCacheSize : Nat := 64
/-- R422: entries of a core's event trace. -/
def traceSize : Nat := 4096

end Sys2Proof.Config
end

