-- ==== Sys2Proof/Machine/Tab.lean ====
section
/-! DEFINITION. Finite tables: what is not listed has a default value. They hold the machine's cores, banks, registers
and lines, of which any one run touches few. -/

namespace Sys2Proof.Machine

/-- A table by number, in rising order of its keys. -/
abbrev Tab (α : Type) := List (Nat × α)

/-- The entry at `k`, if listed. -/
def Tab.find {α : Type} : Tab α → Nat → Option α
  | [], _ => none
  | (j, x) :: t, k => if j = k then some x else Tab.find t k

/-- The entry at `k`, or `d` where none is listed. -/
def Tab.get {α : Type} (t : Tab α) (k : Nat) (d : α) : α := (Tab.find t k).getD d

/-- The table with `x` at `k`. -/
def Tab.put {α : Type} : Tab α → Nat → α → Tab α
  | [], k, x => [(k, x)]
  | (j, y) :: t, k, x => if j = k then (k, x) :: t else if k < j then (k, x) :: (j, y) :: t else (j, y) :: Tab.put t k x

/-- The table without an entry at `k`. -/
def Tab.drop {α : Type} : Tab α → Nat → Tab α
  | [], _ => []
  | (j, y) :: t, k => if j = k then Tab.drop t k else (j, y) :: Tab.drop t k

/-- The numbers listed. -/
def Tab.keys {α : Type} (t : Tab α) : List Nat := t.map (·.1)

/-- Every entry changed by `f`. -/
def Tab.mapVals {α : Type} (t : Tab α) (f : Nat → α → α) : Tab α := t.map fun e => (e.1, f e.1 e.2)

end Sys2Proof.Machine
end

