-- ==== Sys2Proof/Machine/Mem.lean ====
section
/-! DEFINITION. Byte memory in its one canonical form (addresses rising, no byte that reads as an unlisted one does) and
8 KiB rows. An unlisted byte of DRAM reads 0: cold reset fills every addressable line with zero data (R57). -/

namespace Sys2Proof.Machine

/-- Bytes by address. -/
abbrev Mem := List Host.Cell

/-- What an unlisted address reads as (R57). DEDUCED, log 63, safe. -/
def unlisted : Byte := 0

/-- The byte at `a`. -/
def Mem.get : Mem → Nat → Byte
  | [], _ => unlisted
  | (j, x) :: t, a => if j = a then x else Mem.get t a

/-- The memory with byte `x` at `a`, in canonical form. -/
def Mem.set : Mem → Nat → Byte → Mem
  | [], a, x => if x = unlisted then [] else [(a, x)]
  | (j, y) :: t, a, x =>
    if a < j then (if x = unlisted then (j, y) :: t else (a, x) :: (j, y) :: t)
    else if j = a then (if x = unlisted then t else (a, x) :: t)
    else (j, y) :: Mem.set t a x

/-- The canonical form: addresses strictly rising and no entry equal to what an unlisted address reads as. -/
def Mem.wf : Mem → Bool
  | [] => true
  | [(_, x)] => x != unlisted
  | (a, x) :: (b, y) :: t => x != unlisted && a < b && Mem.wf ((b, y) :: t)

/-- `n` bytes from `a` as one little-endian number (R5). -/
def Mem.read (m : Mem) (a : Nat) : Nat → Nat
  | 0 => 0
  | n + 1 => (m.get a).toNat + 256 * Mem.read m (a + 1) n

/-- The low `n` bytes of `v` written from `a` upward (R5). -/
def Mem.write (m : Mem) (a : Nat) : Nat → Nat → Mem
  | 0, _ => m
  | n + 1, v => Mem.write (m.set a (BitVec.ofNat 8 v)) (a + 1) n (v / 256)

/-- The entries at or above `a` and below `a + n`, as one little-endian number of `n` bytes: the form of a whole row,
read from the listed bytes alone. -/
def Mem.slice (m : Mem) (a n : Nat) : Nat :=
  match m with
  | [] => 0
  | (j, x) :: t => (if a ≤ j ∧ j < a + n then x.toNat * 2 ^ (8 * (j - a)) else 0) + Mem.slice t a n

/-- The nonzero bytes of a number of 2^k bytes, placed from `a` upward: halves that are zero list nothing. -/
def rowCells (a : Nat) : Nat → Nat → Mem
  | 0, v => if v % 256 = 0 then [] else [(a, BitVec.ofNat 8 v)]
  | k + 1, v =>
    if v = 0 then []
    else rowCells a k (v % 2 ^ (8 * 2 ^ k)) ++ rowCells (a + 2 ^ k) k (v / 2 ^ (8 * 2 ^ k))

/-- The memory with the 2^k bytes from `a` (a multiple of 2^k) replaced by those of `v`. -/
def Mem.place (m : Mem) (a k v : Nat) : Mem :=
  m.filter (fun c => decide (c.1 < a)) ++ (rowCells a k v ++ m.filter (fun c => decide (a + 2 ^ k ≤ c.1)))

end Sys2Proof.Machine
end

