-- ==== Sys2Proof/Machine/State.lean ====
section
/-! DEFINITION. The state of one HM8 module as plain data, and its reset. A table (Tab) lists what differs from the
default of its kind; memory is in canonical form (Mem.wf). -/

namespace Sys2Proof.Machine

/-! ## Bank state (R31, R189, R203, R408) -/

/-- R189. -/
inductive LatchState
  | closed
  | opening
  | opened
  | restoring
deriving DecidableEq, Repr, Inhabited

/-- R203: the condition of a line that is not GOOD. -/
inductive Cond
  | ue
  | poison
  | e2eBad
deriving DecidableEq, Repr, Inhabited

/-- R54: the sideband of a line. RSCHK and E2E are held as what differs from the line's right codes: the number of
bad symbols, and the exclusive or with the right E2E value (log 14). -/
structure Side where
  rsv : BitVec 6 := 0
  poison : Bool := false
  owner : Option (BitVec 6) := none
  state : BitVec 3 := 0
  e2eDiff : BitVec 16 := 0
  badSymbols : Nat := 0
deriving DecidableEq, Repr, Inhabited

/-- A bad line of a register: its condition, the sideband held with it (R57; its E2E as what differs from the right one,
which a commit of part of the line carries along), and which of the eight groups that cover it have been committed with
every byte newly written since (R203). -/
structure LineCond where
  cond : Cond
  side : Side := {}
  fresh : Nat := 0
deriving DecidableEq, Repr, Inhabited

/-- A vector register v0-v7 or w0-w7 (R31). `bits` holds the 8 KiB row as a little-endian number; the progress index is
the number of leading ones of `arrival` (R193). The latch fields are those of v registers. -/
structure VReg where
  bits : Nat := 0
  tag : BitVec 4 := 15
  arrival : BitVec 32 := 0xffffffff
  valid : Bool := false
  latch : LatchState := .closed
  row : Option Nat := none
  dirty : Bool := false
  conds : Tab LineCond := []
deriving DecidableEq, Repr, Inhabited

/-- A subarray group (R187, R232, R268, R425); `risen` counts the hub times, multiples of 16 ms / 528, whose rise of OWED it
has taken or passed over; `testing` are the rows that a destructive step on it writes (R113). -/
structure Sag where
  owed : Nat := 0
  ptr : Nat := 0
  risen : Nat := 0
  busy : Bool := false
  forced : Bool := false
  step : Bool := false
  testing : List Nat := []
  stuck : List Nat := []
  spareRows : Nat := 0
  saveRows : Tab Nat := []
deriving DecidableEq, Repr, Inhabited

/-- A bank: its OWNER (0 for none) and bank state (R408), its SAGs, the spare lanes in use (R425). -/
structure Bank where
  owner : Nat := 0
  regs : Tab VReg := []
  masks : Tab Nat := []
  sags : Tab Sag := []
  spareLanes : Nat := 0
deriving DecidableEq, Repr, Inhabited

/-! ## Hart state (R31, R32, R142, R224) -/

/-- R134. -/
inductive HState
  | free
  | member
  | split
  | parked
  | faulted
deriving DecidableEq, Repr, Inhabited

/-- R242. -/
structure Handle where
  base : Word := 0
  stride : BitVec 16 := 0
  count : BitVec 16 := 0
  pos : Nat := 0
deriving DecidableEq, Repr, Inhabited

/-- R145, with the body as one number. -/
structure EvRec where
  cause : BitVec 8
  src : BitVec 8
  bank : BitVec 8
  gang : BitVec 8
  detail : Word
  time : Nat
  hpc : Word
  body : BitVec 256
deriving DecidableEq, Repr, Inhabited

/-- One result group of a lane, gather or drain operation: element encodings, mask bits, the flags it raises, under SR the
generator's state after each of its elements (R289), for a gather the requests it holds (R26, R258), and its place in the
order in which groups entered the commit buffer (R197). -/
structure Grp where
  g : Nat
  elems : List (Nat × Nat) := []
  mbits : List (Nat × Bool) := []
  fl : BitVec 4 := 0
  seeds : List (Nat × Nat) := []
  req : Nat := 0
  stamp : Nat := 0
deriving DecidableEq, Repr, Inhabited

/-- What a writer of groups does besides committing them: at retirement (R196), or by ending in a trap after the
groups it holds. -/
structure AtEnd where
  seed : Option (BitVec 32) := none
  gd : Option (Nat × Word) := none
  fl : BitVec 4 := 0
  vl : Option Nat := none
  w7 : Option Nat := none
  zeroTile : Option Nat := none
  trap : Option (Nat × Word × Nat) := none
deriving DecidableEq, Repr, Inhabited

/-- A writer of register `d` (width `w` bits an element) or of mask `m`: groups not yet computed and groups computed
and pending in the commit buffer (R197); `again` after a first disagreement on the oldest group (R200); the sources read
group by group and whole, and the groups whose sources have still to arrive (R194); the requests that a gather's group being
fetched holds (R26); of an operation behind the hart's present word, under SR, the generator's state after each element of the groups
that it has committed (R289). -/
structure LaneOp where
  word : Nat
  d : Option Nat := none
  d2 : Option Nat := none
  w : Nat := 64
  m : Option Nat := none
  todo : List Grp := []
  buf : List Grp := []
  again : Bool := false
  fin : AtEnd := {}
  same : List Nat := []
  whole : List Nat := []
  left : List Nat := []
  asks : Nat := 0
  drawn : List (Nat × Nat) := []
deriving DecidableEq, Repr, Inhabited

/-- Where a column access goes: this module, another module of the domain, or host memory (R370, R387). -/
inductive Place
  | here (pa : Nat)
  | remote (module pa : Nat)
  | host (bus : Nat)
deriving DecidableEq, Repr, Inhabited

/-- A write of `n` bytes that has translated: its VA, its place and what it writes; for an element of a scatter, its group. -/
structure Put where
  va : Nat
  place : Place
  n : Nat
  value : Nat
  group : Nat := 0
deriving DecidableEq, Repr, Inhabited

/-- The work a hart's issued and not yet retired instruction waits for. -/
inductive Pend
  /-- A replay: the latch of a line that was UE is sensed again, once the ACT of R204 may start; then the word reissues. -/
  | resense (k : Nat) (started : Bool)
  /-- ACT or SLD: the latch is being sensed (R228); the handle to advance, if any. -/
  | sense (k pa : Nat) (adv : Option Nat)
  /-- WB, WBP or SST: the latch is being captured (R228). -/
  | capture (k pa : Nat) (close : Bool) (adv : Option Nat)
  /-- WB, WBP or SST: captured, the row write of this data is not complete (R230). -/
  | rowWrite (k pa bits : Nat) (conds : Tab LineCond) (adv : Option Nat)
  /-- REF: the next row of a SAG, and `left` more, are still to be refreshed (R235). -/
  | refresh (k left : Nat)
  /-- A lane operation with groups to compute or to commit. -/
  | lane (op : LaneOp)
  /-- A gather: the groups whose requests are still to be made, and those whose data have come (R259). -/
  | gather (left : List Nat) (op : LaneOp)
  /-- LD or an AMO whose data or acknowledgement has not returned (R395); it acts again when it does. -/
  | column (i : Instr)
  /-- A scatter: its writes still to be performed, and the requests that its group in progress holds (R26, R258, R261). -/
  | scatter (left : List Put) (asks : Nat)
  /-- A Twill move (R252). -/
  | twill (kind d a : Nat) (amt : Int)
  /-- SHSND: register, peer core, bank and channel (R254). -/
  | send (reg core bank chan : Nat)
  /-- SHRCV. -/
  | recv (reg core bank chan : Nat)
  /-- A matrix word that the engine has not accepted (R351). -/
  | engine
  /-- A RED whose instance has not combined (R363): first destination register, channel, scope. -/
  | red (d chan scope : Nat) (i : Instr)
  /-- A counter wait in the counter's queue (R392). -/
  | counter (i : Instr)
  /-- All work is done: the instruction retires at the hart's next turn. -/
  | done
  /-- The work ended by a trap at the hart's next turn: cause, detail, group. -/
  | trapped (cause detail egi : Nat)
deriving DecidableEq, Repr, Inhabited

/-- A request to another module or to the host that an access waits for (R386, R387): VA, module and address (or the bus
address), and what was asked: a message kind of Machine/Column.lean, or 16 for a host read and 17 to 19 for an AtomicOp. -/
structure Req where
  va : Nat
  module : Nat
  addr : Nat
  host : Bool
  kind : Nat
deriving DecidableEq, Repr, Inhabited

/-- An XFER slot (R262 to R264): the copy in progress as the places of its units (module, 64 for host memory or 65 for
this module, and address), the lines copied, whether it has posted writes to the host (R390), the request it waits for, the
answers it has, and the status. -/
structure XSlot where
  busy : Bool := false
  src : List (Nat × Nat) := []
  dst : List (Nat × Nat) := []
  pos : Nat := 0
  posted : Bool := false
  asked : Option Req := none
  got : Tab Nat := []
  unit : BitVec 8 := 0
  cause : BitVec 8 := 0
deriving DecidableEq, Repr, Inhabited

/-- What the ring records of an instruction at its issue (R420): `vl`, log2 of the element bits, active elements, the
lowest and the highest byte VA; and the first VA accessed, for the trace (R422). -/
structure Note where
  vl : Nat := 0
  width : Nat := 0
  active : Nat := 0
  lo : Nat := 0
  hi : Nat := 0
  first : Option Nat := none
deriving DecidableEq, Repr, Inhabited

/-- A word behind the one that a hart has in progress (R183, R463): the lane operation it has issued, or the work that another
word has issued, or neither for a word that later ones have passed by and which acts in its turn; whether the operation is in
progress, or kept to issue again from its lowest group not committed; the ring's note of it. -/
structure Young where
  op : Option LaneOp := none
  work : Option Pend := none
  live : Bool := true
  note : Note := {}
deriving DecidableEq, Repr, Inhabited

/-- A hart (R31, R32, R134, R142, R224, R336). `drawn` holds, under SR, the generator's state after each element of the
groups that the word at `hpc` has committed (R289); `young` are the words behind it, in order; `ringLeft` counts its entries of
the retired-instruction ring not yet written (R421); `faultVa` is the block in which the hart last faulted (R130, R225),
and `bcastKind` says that it was a broadcast block; `stores` are its stores handed over and not yet performed, in order, and what the
first of them waits for (R395); `dying` says that HKILL has named it while its atomic operation, or its REF, was under way (R155); `far` is the VA, above 48 bits, of a
block whose fetch waits for a table's line (R133, R47). -/
structure Hart where
  st : HState := .free
  g : Tab Word := []
  hp : Bool := true
  handles : Tab Handle := []
  vl : BitVec 21 := 0
  rmode : BitVec 6 := 0
  egi : BitVec 5 := 0
  hpc : BitVec 48 := 0
  hcause : BitVec 8 := 0
  htval : Word := 0
  seed : BitVec 32 := 0
  flags : BitVec 4 := 0
  repact : Bool := false
  repi : BitVec 32 := 0
  blk : List Nat := []
  bcastKind : Bool := false
  faultVa : Nat := 0
  sigOff : Bool := false
  bpSkip : Bool := false
  fromW : List Word := []
  fromE : List Word := []
  fromCT : List Word := []
  toCT : List Word := []
  pend : Option Pend := none
  mmode : Bool := false
  ml : Nat := 0
  cache : List (Nat × List Nat) := []
  slots : Tab XSlot := []
  evWait : List EvRec := []
  req : Option Req := none
  hostGot : Tab Nat := []
  reSensed : List (Nat × Nat) := []
  note : Note := {}
  aheadRecv : Option Nat := none
  aheadSent : Bool := false
  latchOwned : Bool := false
  posted : Bool := false
  redN : Tab Nat := []
  after : Nat := 0
  drawn : List (Nat × Nat) := []
  young : List Young := []
  ringLeft : Nat := 0
  stores : List Put := []
  storeReq : Option Req := none
  storeGot : Tab Nat := []
  dying : Bool := false
  far : Option Nat := none
deriving DecidableEq, Repr, Inhabited

/-! ## Core state -/

/-- The broadcast block in progress (R135 to R137): words, VA, sequence number, next word, participants still in it, those that have
retired the word, the pass. -/
structure Running where
  words : List Nat
  va : Nat
  seq : Nat
  pos : Nat
  parts : List Nat
  done : List Nat := []
  repact : Bool := false
  repi : BitVec 32 := 0
deriving DecidableEq, Repr, Inhabited

/-- A queued block (R136). -/
structure Queued where
  words : List Nat
  va : Nat
  seq : Nat
deriving DecidableEq, Repr, Inhabited

/-- A gang (R128, R134 to R136). -/
structure Gang where
  members : BitVec 32 := 0
  hold : Bool := false
  queue : List Queued := []
  nextSeq : BitVec 32 := 0
  last : BitVec 32 := 0xffffffff
  run : Option Running := none
deriving DecidableEq, Repr, Inhabited

/-- Who waits on a counter: a bank's hart, or the control thread (with its destination register), of a core (R392). -/
structure CtrWait where
  core : Nat
  bank : Option Nat
  amount : Nat
  rd : Nat := 0
deriving DecidableEq, Repr, Inhabited

/-- A counter in three copies (R391), the queue of its semaphore waiters and its barrier waiters (R392). -/
structure Ctr where
  c0 : BitVec 32 := 0
  c1 : BitVec 32 := 0
  c2 : BitVec 32 := 0
  failed : Bool := false
  sems : List CtrWait := []
  bars : List CtrWait := []
deriving DecidableEq, Repr, Inhabited

/-- An accumulator tile (R34, R340, R202): 64 × 64 elements of 32 bits, row by row from the low bits. -/
structure Tile where
  bits : Nat := 0
  owner : Option Nat := none
  si32 : Bool := false
  failed : Bool := false
  badRow : BitVec 6 := 0
deriving DecidableEq, Repr, Inhabited

/-- An operation queued for the matrix engine (R350, R351): the issuing bank, the word, ml, rmode and, once it has been
taken up, the sources it has read. -/
structure EngOp where
  bank : Nat
  instr : Instr
  ml : Nat
  rmode : BitVec 6
  taken : Bool := false
  srcA : VReg := {}
  srcB : VReg := {}
  srcX : VReg := {}
  scales : Nat := 0
deriving DecidableEq, Repr, Inhabited

/-- The B stage of R349: the bank, the register, its tag and ml at the fill. -/
structure Stage where
  bank : Nat
  reg : Nat
  tag : BitVec 4
  ml : Nat
deriving DecidableEq, Repr, Inhabited

/-- One hart's part in a RED instance (R363): its bank and core, the instance of its channel it joined, operator and
descriptor, and the source values. -/
structure RedPart where
  inst : Nat
  core : Nat
  bank : Nat
  op : Nat
  desc : Word
  m : Word
  s : Word
deriving DecidableEq, Repr, Inhabited

/-- The state of a data-cache word (R381); Invalid words are not listed. -/
inductive WordSt
  | clean
  | dirty
  | owned
deriving DecidableEq, Repr, Inhabited

/-- A word of the control thread's data cache: its data, the bytes it has and, if Dirty, the bytes written. -/
structure DWord where
  st : WordSt
  data : Word
  mask : BitVec 8 := 0
  has : BitVec 8 := 0xff
deriving DecidableEq, Repr, Inhabited

/-- The RISC-V privilege mode (R123). -/
inductive Mode
  | user
  | machine
deriving DecidableEq, Repr, Inhabited

/-- The control thread (R34, R123, R127, R381, R401, R412, R418, R420, R441, R448); `stash` are the registers that the runtime
keeps of the task from the interrupt of R407 on. -/
structure Ct where
  running : Bool := false
  x : Tab Word := []
  pc : Word := 0
  mode : Mode := .machine
  mie : Bool := false
  mpie : Bool := false
  mpp : Mode := .user
  mprv : Bool := false
  meie : Bool := false
  mtvec : Word := 0
  mscratch : Word := 0
  mepc : Word := 0
  mcause : Word := 0
  mtval : Word := 0
  req : BitVec 2 := 0
  busy : Bool := false
  err : BitVec 8 := 0
  sctx : BitVec 16 := 0
  slot : BitVec 3 := 0
  sbank : BitVec 5 := 0
  op : BitVec 4 := 0
  opDone : Bool := false
  logv : Word := 0
  bpa : Tab Word := []
  bpm : Tab Word := []
  ring : Word := 0
  ringpos : Word := 0
  psel : BitVec 8 := 0
  icache : Tab Nat := []
  dcache : Tab DWord := []
  resv : Option Nat := none
  rreq : Option Req := none
  hostGot : Tab Nat := []
  posted : Bool := false
  ending : Bool := false
  stash : Option (Tab Word) := none
deriving DecidableEq, Repr, Inhabited

/-- What a core does (R94, R407, R423, R433). -/
inductive CoreSt
  | free
  | running
  | saving
  | loading
  | paused
  | held
  | ended
deriving DecidableEq, Repr, Inhabited

/-- `n` bytes of a save area that are still to be written, from a VA of an address space, of a function: what they become, and whether
their line is stored with POISON (R409, R413). -/
structure AreaPut where
  asid : Nat
  fn : Nat
  va : Nat
  n : Nat
  v : Nat
  poison : Bool := false
deriving DecidableEq, Repr, Inhabited

/-- A saved context (R407, R409): control thread, harts, gangs, counters, events, tiles, the banks saved and the slot, the
notices that wait for it (R415), for each piece of the save area that has been written, by its offset, which free bytes
(R413), and the offsets of the lines that were stored with POISON (R409). Rows of a bank saved in a slot of save rows stand there, and not here. -/
structure Saved where
  task : Nat
  ct : Ct
  harts : Tab Hart
  gangs : Tab Gang
  ctrs : Tab Ctr
  evq : List EvRec
  tiles : Tab Tile
  banks : Tab Bank := []
  slot : Option Nat := none
  waiting : List EvRec := []
  unloadedAt : Nat := 0
  areas : Tab Nat := []
  poisoned : List Nat := []
deriving DecidableEq, Repr, Inhabited

/-- An entry of the event trace (R422). -/
structure Trace where
  time : Nat
  bank : Nat
  kind : Nat
  value : Nat
deriving DecidableEq, Repr, Inhabited

/-- A core (R20, R31, R34, R127, R128, R144, R391, R407, R422). A TLB holds leaves by address space and 2 MiB granule of VA
(R49): the entry, and from bit 64 its level. `ringq` are the ring's entries not yet written, with their banks (R421); `saveLeft` is
what a save has still to write of the save area, and `saveReq` the request that a save or a restore waits for (R413). -/
structure Core where
  st : CoreSt := .free
  task : Option Nat := none
  ctx : BitVec 16 := 0
  asid : BitVec 12 := 0
  gen : BitVec 16 := 0
  flags : BitVec 16 := 0
  clk : Nat := 0
  instret : Nat := 0
  ct : Ct := {}
  gangs : Tab Gang := []
  harts : Tab Hart := []
  banks : Tab Bank := []
  evq : List EvRec := []
  ctrs : Tab Ctr := []
  tiles : Tab Tile := []
  engine : List EngOp := []
  stage : Option Stage := none
  reds : Tab (List RedPart) := []
  saved : Tab Saved := []
  nextCtx : BitVec 16 := 1
  trace : List Trace := []
  traceOn : Bool := false
  traceTrigger : Option (Nat × Nat) := none
  traceLeft : Option Nat := none
  rowTlb : Tab Nat := []
  colTlb : Tab Nat := []
  ringq : List (Nat × Nat) := []
  ringReq : Option Req := none
  ringGot : Tab Nat := []
  saveLeft : List AreaPut := []
  saveReq : Option Req := none
  saveGot : Tab Nat := []
deriving DecidableEq, Repr, Inhabited

/-! ## Hub state -/

/-- R70: a queue block; `sqEpoch` counts how often its submission queue has been enabled. -/
structure QBlock where
  sqEn : Bool := false
  sqLog : BitVec 5 := 0
  sqOwner : BitVec 5 := 0
  sqBase : BitVec 28 := 0
  sqTail : BitVec 16 := 0
  sqHead : BitVec 16 := 0
  cqBase : BitVec 52 := 0
  cqEn : Bool := false
  cqLog : BitVec 5 := 0
  cqOwner : BitVec 5 := 0
  cqPasidEn : Bool := false
  cqPasid : BitVec 20 := 0
  cqHead : BitVec 16 := 0
  cqPhase : Bool := true
  cqTail : BitVec 16 := 0
  qstat : BitVec 6 := 0
  sqEpoch : Nat := 0
deriving DecidableEq, Repr, Inhabited

/-- R69: a DMA window. -/
structure DmaWin where
  limit : BitVec 52 := 0
  base : BitVec 52 := 0
  en : Bool := false
  wr : Bool := false
  rd : Bool := false
  fn : BitVec 5 := 0
deriving DecidableEq, Repr, Inhabited

/-- R68, R69: the management BAR; R67: log2 of the memory window's size; R388: the functions whose AtomicOp Requester Enable is set. -/
structure Bar where
  rcause : BitVec 2 := 0
  replreq : Bool := false
  recovery : Bool := false
  e2eev : Bool := false
  ready : Bool := false
  asidBase : BitVec 24 := 0
  memwin : BitVec 10 := 0
  winLog : Nat := 30
  errEn : Bool := false
  errVec : BitVec 11 := 0
  vfasid : Tab (BitVec 13 × BitVec 12) := []
  dmawin : Tab DmaWin := []
  q : Tab QBlock := []
  atomicEn : List Nat := []
deriving DecidableEq, Repr, Inhabited

/-- R58: the fields of a task record. -/
structure Record where
  version : BitVec 8
  prio : BitVec 8
  flags : BitVec 16
  asid : BitVec 16
  gen : BitVec 16
  modmask : Word
  coreset : Word
  entry : Word
  arg0 : Word
  arg1 : Word
  arg2 : Word
  arg3 : Word
  sp : Word
  ranges : Word
  nranges : BitVec 32
  watchdog : BitVec 32
  waits : List Word
  signal : Word
  cq : Word
  usertag : Word
  savebase : Word
  work : Word
  deadline : BitVec 32
  rsvZero : Bool
deriving DecidableEq, Repr, Inhabited

/-- R74, R91, R121: the stages of a task. -/
inductive Stage4
  | queued
  | toFlush
  | flushing
  | barrier
  | ready
  | preempted
  | running
  | ending
deriving DecidableEq, Repr, Inhabited

/-- How a task ends (R77). -/
structure TaskEnd where
  kind : BitVec 3
  code : BitVec 8
  detail : BitVec 32
deriving DecidableEq, Repr, Inhabited

/-- An accepted task (R72, R91, R92, R94, R121, R404, R77); its ranges as VA, length and CODE. `waitLogged` are the failed
counters of its wait conditions whose event has been logged (R74); `endAt` is the hub time at which its end was decided (R403),
`stoppedAt` that at which its running time last stopped, and `boundaryRan` what it then was at the last boundary (R404). -/
structure Task where
  num : Nat
  source : Nat
  fn : Nat
  recd : Record
  cores : List Nat
  ranges : List (Nat × Nat × Bool) := []
  stage : Stage4 := .queued
  acceptedAt : Nat := 0
  readyAt : Nat := 0
  eff : Nat := 0
  latestStart : Option Nat := none
  waitLogged : List Nat := []
  ranFor : Nat := 0
  runFrom : Option Nat := none
  acked : List Nat := []
  done : List Nat := []
  unchecked : Nat := 0
  origin : Option Nat := none
  ends : Option TaskEnd := none
  endAt : Nat := 0
  stoppedAt : Nat := 0
  boundaryRan : Nat := 0
deriving DecidableEq, Repr, Inhabited

/-- A span this module started, at its start barrier (R80): GEN, task, members still to arrive. -/
structure Barrier where
  gen : Nat
  num : Nat
  missing : List Nat
deriving DecidableEq, Repr, Inhabited

/-- A completion record waiting in the hub (R79): its queue, function and bytes, and what SIGNAL and CQ ask for once it
is written. -/
structure Held where
  q : Nat
  fn : Nat
  record : BitVec 256
  signal : Word
  cq : Word
deriving DecidableEq, Repr, Inhabited

/-- A LAUNCH at the acceptance unit (R157): the core, the record's VA and rd, and whether the unit has started to read its
record (R147). -/
structure LaunchReq where
  core : Nat
  va : Nat
  rd : Nat
  started : Bool := false
deriving DecidableEq, Repr, Inhabited

/-- The record that the acceptance unit has begun and not finished (R72, R80), of a queue or of LAUNCH (64). -/
inductive Serving
  /-- The record of a function is being read, at a PA where it is of a ring, which has been enabled `epoch` times. -/
  | reading (q fn pa epoch : Nat)
  /-- It has been read, for a function, and is being checked. -/
  | record (q fn : Nat) (v : BitVec 2048) (epoch : Nat)
  /-- A launch packet of a module is being checked. -/
  | packet (origin : Nat) (v : BitVec 2048)
deriving DecidableEq, Repr, Inhabited

/-- Scheduling (R72, R75, R79, R80, R91, R93). The acceptance unit reads lists that lie outside the module by requests
of its own. `flushq` are the tasks at stage 2 in the order in which they reached it (R75), and `flushLeft` what the range
flush has still to handle of the first, as VA and length. Both round robins begin at queue 0: DESIGN CHOICE, log 8,
unsafe. -/
structure Sched where
  tasks : List Task := []
  nextNum : Nat := 0
  lastAccepted : Nat := 64
  serving : Option Serving := none
  flushq : List Nat := []
  flushLeft : List (Nat × Nat) := []
  launches : List LaunchReq := []
  req : Option Req := none
  hostGot : Tab Nat := []
  flushReq : Option Req := none
  flushGot : Tab Nat := []
  lastStarted : Tab Nat := []
  held : List Held := []
  refused : Option Held := none
  barriers : List Barrier := []
  packets : List (Nat × BitVec 2048) := []
deriving DecidableEq, Repr, Inhabited

/-- R106: the shares and scheduler parameters of the configuration record of TYPE 4. -/
structure Shares where
  refreshC : Nat := 4
  refreshH : Nat := 8
  scrub : Nat := 2
  test : Nat := 6
  hostDma : Nat := 12
  recalls : Nat := 4
  fabric : Nat := 8
  mgmt : Nat := 1
  ageLimit : Nat := 10
  grace : Nat := 500
deriving DecidableEq, Repr, Inhabited

/-- A core lease (R110, R117, R120): kind 0 ordinary, 1 urgent, 2 immediate; the SEQ of its notice (0 while none has been
sent), EFFTIME, whether it is in force. -/
structure Lease where
  kind : Nat
  seq : Nat := 0
  effTime : Nat := 0
  inForce : Bool := false
deriving DecidableEq, Repr, Inhabited

/-- A capacity notice (R119), the cores it went to, and the task that ran on the first of them. -/
structure Notice where
  seq : Nat
  kind : Nat
  flags : Nat
  utype : Nat
  unit : Nat
  grace : Nat
  effTime : Nat
  sentTo : List Nat
  task : Option Nat := none
deriving DecidableEq, Repr, Inhabited

/-- The suspicion score of a unit, its last changes and its probation flag (R116, R118, R428). -/
structure Score where
  value : Nat := 0
  history : List Nat := []
  probation : Bool := false
deriving DecidableEq, Repr, Inhabited

/-- A row of a SAG that a repair row is to take over, as soon as its copy has budget and the SAG (R426). -/
structure RowSub where
  core : Nat
  bank : Nat
  sag : Nat
  row : Nat
deriving DecidableEq, Repr, Inhabited

/-- Fen, budgets and notices (R101 to R122). Unit numbers are those of `unitKey`. For the period: the columns whose
REFRESH share is hot (stack × 9 + region), the clk of each stack, the clk each core's classes have been charged, and the clk of the period
up to which each holds a metered resource. `risen`
counts the hub times whose rises of OWED the hub has seen to (R232), `stepKinds` holds the kind of test that the step on a
unit belongs to: 0 ordinary, 1 urgent, 2 immediate (R117), `waited` are the units that some operation waits for (R114), and `subs` the
rows to be substituted (R426). -/
structure Fen where
  shares : Shares := {}
  hotCols : List Nat := []
  risen : Nat := 0
  periods : Tab Nat := []
  spent : Tab (List Nat) := []
  heldTo : Tab (List Nat) := []
  scores : Tab Score := []
  leases : Tab Lease := []
  lastLease : Tab Nat := []
  steps : List FenUnit := []
  stepKinds : Tab Nat := []
  stepEnded : Tab Nat := []
  waited : List Nat := []
  subs : List RowSub := []
  nextSeq : Nat := 1
  notices : List Notice := []
  latest : Tab Nat := []
  waiting : List (Nat × EvRec) := []
  acks : List (Nat × Nat) := []
deriving DecidableEq, Repr, Inhabited

/-- R430: a LAYER record; R431: the core being copied and the region it goes to; R433: the cores being removed, those
stopped for it and the hub time of each one's stop. -/
structure Layer where
  map : BitVec 32 := 0x76543210
  retired : BitVec 9 := 0
  remap : Option (Nat × Nat) := none
  shrink : List Nat := []
  stopped : Tab Nat := []
deriving DecidableEq, Repr, Inhabited

/-- R428: a retirement record. -/
structure Retired where
  utype : Nat
  action : Nat
  reason : Nat
  unit : Nat
  time : Nat
  boots : Nat
  logical : Nat
  history : List Nat
  sigOk : Bool := true
deriving DecidableEq, Repr, Inhabited

/-- R440: an error-log entry. -/
structure LogEntry where
  time : Nat
  code : BitVec 8
  src : Nat
  core : Nat
  detail : Word
  value : Word
deriving DecidableEq, Repr, Inhabited

/-- A flash slot of firmware (R455): its version, whether its signature verifies, its hash. -/
structure Slot where
  seq : Nat
  ok : Bool
  hash : BitVec 256 := 0
deriving DecidableEq, Repr, Inhabited

/-- The repair maps (R425, R437): spare lanes in use by bank (core × 32 + bank), repair rows in use by SAG, spare signals in
use by bus and direction, and the buses, ports and slices that are out of service. -/
structure Repairs where
  lanes : Tab Nat := []
  rows : Tab Nat := []
  signals : Tab Nat := []
  buses : List Nat := []
  ports : List Nat := []
  slices : List Nat := []
deriving DecidableEq, Repr, Inhabited

/-- The BODY of a configuration record (R86): of TYPE 1 (R430), TYPE 2, TYPE 3 and TYPE 4 (R106).
No rule lays out TYPES 2 and 3; `cert` is the certificate's bytes as a number. DESIGN CHOICE, log 79, unsafe. -/
inductive Body
  | cores (domain : BitVec 64) (modId : BitVec 8) (zero : BitVec 56) (layers : Tab Word)
  | repairs (r : Repairs)
  | identity (cert : Nat)
  | budgets (x : Shares) (zero : BitVec 32)
deriving DecidableEq, Repr, Inhabited

/-- R86: a configuration record, but for its signature. -/
structure ConfigRec where
  type : Nat
  version : Nat := 1
  length : Nat
  seq : Nat
  body : Body
deriving DecidableEq, Repr, Inhabited

/-- R86: the key of a signature: the vendor's, the module's identity key, or one that firmware does not accept. -/
inductive SignKey
  | vendor
  | identity
  | other
deriving DecidableEq, Repr, Inhabited

/-- A slot of a configuration record (R87): the record, what its signature signs, and with which key. A signature is held as the
record and the key that it was made with: it verifies for that record and under that key, and no other. DESIGN CHOICE, log 79,
unsafe. -/
structure ConfigSlot where
  record : ConfigRec
  signed : ConfigRec
  key : SignKey
deriving DecidableEq, Repr, Inhabited

/-- A record signed with a key. -/
def ConfigSlot.sign (k : SignKey) (r : ConfigRec) : ConfigSlot := ⟨r, r, k⟩

/-- The lengths of the bodies: R430, R106; of TYPES 2 and 3, no rule gives one (log 79). -/
def Body.length : Body → Nat
  | .cores _ _ _ _ => 1040
  | .repairs _ => 4096
  | .identity _ => 64
  | .budgets _ _ => 16

/-- The records at the first power-up, signed with the vendor key (R86). DESIGN CHOICE, log 7, unsafe. -/
def factoryConfigs : Tab (List ConfigSlot) :=
  let slot := fun (ty : Nat) (b : Body) => (ty, [ConfigSlot.sign .vendor { type := ty, length := b.length, seq := 1, body := b }])
  [slot 1 (.cores 1 0 0 []), slot 2 (.repairs {}), slot 3 (.identity 0), slot 4 (.budgets {} 0)]

/-- Flash, retirement and the core map (R86, R87, R425 to R440, R455); `softRepair` are the signals in use by the soft-repair
registers (R437). DESIGN CHOICE, log 7, unsafe. -/
structure Flash where
  configs : Tab (List ConfigSlot) := factoryConfigs
  firmware : List Slot := [⟨1, true, Config.factoryFirmwareHash 0⟩]
  running : Option (BitVec 256) := none
  modId : BitVec 6 := 0
  domain : BitVec 64 := 1
  layers : Tab Layer := []
  records : List Retired := []
  recordsLost : Nat := 0
  boots : Nat := 0
  log : List LogEntry := []
  lost : BitVec 32 := 0
  busSpares : Tab Nat := []
  softRepair : Tab Nat := []
  retiredBuses : List Nat := []
  offPorts : List Nat := []
  offSlices : List Nat := []
deriving DecidableEq, Repr, Inhabited

/-- R448, R449: a cluster's power state, the command in progress, the last refusal and the retained OWED counts. -/
structure Cluster where
  state : BitVec 2 := 0
  busy : Option Nat := none
  refuse : BitVec 8 := 0
  kept : Tab Nat := []
deriving DecidableEq, Repr, Inhabited

/-- R447: a temperature sensor, in degrees Celsius: 25 until SENSOR_READ. DESIGN CHOICE, log 9, unsafe. -/
structure Sensor where
  reading : Nat := 25
  failed : Bool := false
deriving DecidableEq, Repr, Inhabited

/-- Power, clocks, temperature and clusters (R443 to R453). Clocks are in units of 100 MHz. -/
structure Power where
  plimit : Nat := 3200
  watts : Nat := 0
  overFor : Nat := 0
  hold : Bool := false
  belowAllPeriod : Bool := true
  detWanted : Bool := false
  det : Bool := false
  clocks : Tab Nat := []
  powerTrip : Option Nat := none
  thermalTrips : List Nat := []
  sensors : Tab Sensor := []
  clusters : Tab Cluster := []
  retention : Bool := false
  testMode : Bool := false
deriving DecidableEq, Repr, Inhabited

/-- The state a line of another module's page is held in (R384). -/
inductive Held4
  | s
  | e
  | o
  | m
deriving DecidableEq, Repr, Inhabited

/-- A line of another module that this module's MSC holds (R384), with its E2E as what differs from the right one (R84). -/
structure RLine where
  st : Held4
  data : Nat
  poison : Bool := false
  e2eDiff : BitVec 16 := 0
deriving DecidableEq, Repr, Inhabited

/-- A request of another module at this home, in the order of arrival (R385): its message kind, the PA, what an atomic
operation or write-back carries, and what it waits for itself. -/
structure RemoteOp where
  kind : Nat
  src : Nat
  pa : Nat
  op : Nat := 0
  n : Nat := 64
  x : Nat := 0
  y : Nat := 0
  poison : Bool := false
  e2eDiff : BitVec 16 := 0
  asked : Option Req := none
  got : Tab Nat := []
deriving DecidableEq, Repr, Inhabited

/-- Data that a module has returned for a recall, and that wait for the end of a destructive step on their row (R113, R237). -/
structure Late where
  src : Nat
  line : Nat
  data : Nat
  cond : Arrival
  owned : Bool
deriving DecidableEq, Repr, Inhabited

/-- A host access through the memory window that waits in the hub, in order (R389, R451): part of one line each. -/
inductive HostOp
  | write (pa n data : Nat) (poisoned : Bool)
  | read (pa n : Nat)
  | atomic (pa n op x y : Nat) (poisoned : Bool)
  /-- A doorbell, which the device observes after the host's writes before it (R71). -/
  | doorbell (fn q : Nat) (v : Word)
deriving DecidableEq, Repr, Inhabited

/-- What the module sends to the outside. -/
inductive Out
  /-- A completion record: bus address, PASID, the 32 bytes. -/
  | recordWrite (addr : Nat) (pasid : Option Nat) (data : Nat)
  /-- A posted write to host memory: bus address, byte count, data, and whether it is sent poisoned (R66, R84). -/
  | hostWrite (addr n : Nat) (data : Nat) (poisoned : Bool)
  /-- An MSI-X message: function and vector. -/
  | msix (fn vec : Nat)
  /-- A read, or an AtomicOp (op 0 read, 1 FetchAdd, 2 Swap, 3 CAS), of host memory. -/
  | hostRequest (op addr n : Nat) (x y : Word)
  /-- The answer to a host read of the window: data, poisoned, aborted. -/
  | hostAnswer (data : Nat) (poisoned aborted : Bool)
  /-- A request or answer to another module (kinds in Machine/Coher.lean). -/
  | fabric (dst kind line : Nat) (data : Nat)
  /-- A launch packet (R80). -/
  | packet (dst : Nat) (record : BitVec 2048)
  /-- A management message (R454). -/
  | mgmt (code : Nat) (data : List Nat)
  /-- The answer to a host read of a management BAR (R68). -/
  | barAnswer (v : Word)
deriving DecidableEq, Repr, Inhabited

/-! ## The module -/

/-- What happens to the module from outside, apart from the events of the table. DESIGN CHOICE, log 78, unsafe. -/
inductive Outside
  /-- A host read of a register of a function's management BAR (R8, R68 to R70, R85). -/
  | barRead (fn off : Nat)
  /-- The Resizable BAR capability sets the memory window's size, as log2 (R67). -/
  | windowSize (log : Nat)
  /-- AtomicOp Requester Enable of a function (R388). -/
  | atomicEnable (fn : Nat) (on : Bool)
  /-- A TLB of a core caches the translation of a VA, or gives one up (R49): of the compute-page TLB, or the column TLB. -/
  | tlbFill (core va : Nat) (rows : Bool)
  | tlbDrop (core va : Nat) (rows : Bool)
  /-- A line of this module's memory is damaged where it is stored: its bad symbols, and its E2E (R55, R56). -/
  | lineFault (line badSymbols : Nat) (e2eDiff : BitVec 16)
  /-- A later read of a register finds bad symbols in a line, or its E2E wrong (R203). -/
  | latchFault (core bank reg line badSymbols : Nat) (e2eDiff : BitVec 16)
  /-- A copy of a counter changes (R391). -/
  | counterFault (hub : Bool) (core ctr copy : Nat) (v : BitVec 32)
  /-- The configuration record in a slot of flash, or a record of the retirement region, does not verify any more (R87,
  R429). -/
  | configFault (type slot : Nat)
  | retireFault (n : Nat)
  /-- The boot self-test of a unit fails, with the stuck cells it found; or that of a core (R425, R455). -/
  | selfTest (u : FenUnit) (stuck : List Nat)
  | coreSelfTest (core : Nat)
  /-- The repair of a bus cannot be reloaded at boot (R437). -/
  | busUnloaded (n : Nat)
deriving DecidableEq, Repr, Inhabited

/-- What self-test finds at the next boot (R425, R437, R455): a failing unit with its stuck cells, a failing core, a bus whose repair
cannot be reloaded. -/
inductive Finding
  | unit (u : FenUnit) (stuck : List Nat)
  | core (c : Nat)
  | bus (n : Nat)
deriving DecidableEq, Repr, Inhabited

/-- Which agent moves, or what the outside does, next. -/
inductive Turn
  /-- The hart of a bank, in split mode; `whole` is false to leave its word's later steps to their own events. -/
  | hart (core bank : Nat) (whole : Bool)
  /-- A gang's sequencer. -/
  | gang (core g : Nat) (whole : Bool)
  /-- A control thread. -/
  | ct (core : Nat)
  /-- An event. -/
  | event (i : Instr)
  /-- What the table has no event for. -/
  | outside (o : Outside)
  /-- Hub time passes, in ns. -/
  | tick (ns : Nat)
deriving DecidableEq, Repr, Inhabited

/-- One module. `agenda` to `rr` are the model's own (log 1, 2, 4): the turns to come, the agent whose instruction
executes, and the round-robin place of the turn taken when the agenda is empty. `mem` and `side` hold what a column access
finds. `msc` lists this module's lines in the MSCs (R16): `none` for a clean one, and the line's bytes and sideband in DRAM
for a dirty one. `invals` holds the invalidations not yet acknowledged, as line (a row's plus `rowMark`) and module (R239,
R385), `recalls` the rows whose sideband a recall has read (R237), `walkData` the lines of tables that their owners have
supplied to a walk (R385), `firsts` the lines whose next access is that of an agent of this module that a request of its own has
been answered for (R385), `late` the returned data that wait for a test step, `heldOut` the messages that wait for a Yowald port
(R112), `finds` what the next self-test finds. -/
structure State where
  agenda : List Turn := []
  actCore : Nat := 0
  actBank : Nat := 0
  actGang : Option Nat := none
  actLen : Nat := 4
  stepwise : Bool := false
  rr : Nat := 0
  draws : Nat := 0
  now : Nat := 0
  mem : Mem := []
  side : Tab Side := []
  msc : Tab (Option (Nat × Side)) := []
  rlines : Tab RLine := []
  remoteResv : Tab Nat := []
  rown : List Nat := []
  rshr : List Nat := []
  invals : List (Nat × Nat) := []
  recalls : List Nat := []
  walkData : Tab Nat := []
  touched : List Nat := []
  cores : Tab Core := []
  hctrs : Tab Ctr := []
  bar : Bar := {}
  sched : Sched := {}
  fen : Fen := {}
  flash : Flash := {}
  power : Power := {}
  hostq : List HostOp := []
  hostReq : Option Req := none
  hostGot : Tab Nat := []
  remoteQ : List RemoteOp := []
  firsts : List (Nat × Waiter) := []
  late : List Late := []
  heldOut : List Out := []
  finds : List Finding := []
  out : List Out := []
deriving DecidableEq, Repr, Inhabited

/-- The machine right after power-on reset, before its firmware has run (R8, R31, R34, R57, R128, R224, R455).
DESIGN CHOICE, log 5, unsafe. DEDUCED, log 68, unsafe. -/
def State.reset : State := {}

/-- Why the machine stops. No instruction of the table stops it on every path. -/
inductive Fault
  /-- `step`: raised by no state that a run reaches; it stands for a state no rule describes. Safe: the model stops. -/
  | noRule
deriving DecidableEq, Repr, Inhabited

/-- Why an instruction has no meaning here. -/
inductive Refusal
  /-- An arm of `exec` whose instruction has no meaning yet. Safe: the model stops. -/
  | notModelled (mnemonic : String)
deriving DecidableEq, Repr, Inhabited

/-- What a step or an instruction answers. -/
abbrev Res := Host.Outcome State Fault Refusal

/-! ## Looking things up -/

/-- The hart of a bank at task start: seed is the bank's number plus one (R224). -/
def Hart.init (b : Nat) : Hart := { seed := BitVec.ofNat 32 (b + 1) }

def State.core (s : State) (c : Nat) : Core := s.cores.get c {}
def Core.hart (k : Core) (b : Nat) : Hart := k.harts.get b (Hart.init b)
def Core.bank (k : Core) (b : Nat) : Bank := k.banks.get b {}
def Core.gang (k : Core) (g : Nat) : Gang := k.gangs.get g {}
def Core.tile (k : Core) (q : Nat) : Tile := k.tiles.get q {}
def Bank.reg (b : Bank) (r : Nat) : VReg := b.regs.get r {}
def Bank.sag (b : Bank) (k : Nat) : Sag := b.sags.get k {}
def State.hart (s : State) (c b : Nat) : Hart := (s.core c).hart b
def State.bank (s : State) (c b : Nat) : Bank := (s.core c).bank b
def State.gang (s : State) (c g : Nat) : Gang := (s.core c).gang g
def State.reg (s : State) (c b r : Nat) : VReg := (s.bank c b).reg r
def State.tile (s : State) (c q : Nat) : Tile := (s.core c).tile q
def State.ct (s : State) (c : Nat) : Ct := (s.core c).ct
def State.clusterAt (s : State) (n : Nat) : Cluster := s.power.clusters.get n {}
def State.layer (s : State) (n : Nat) : Layer := s.flash.layers.get n {}
def State.qblock (s : State) (q : Nat) : QBlock := s.bar.q.get q {}

def State.setCore (s : State) (c : Nat) (k : Core) : State := { s with cores := s.cores.put c k }
def Core.setHart (k : Core) (b : Nat) (h : Hart) : Core := { k with harts := k.harts.put b h }
def Core.setBank (k : Core) (b : Nat) (x : Bank) : Core := { k with banks := k.banks.put b x }
def Core.setGang (k : Core) (g : Nat) (x : Gang) : Core := { k with gangs := k.gangs.put g x }
def Core.setTile (k : Core) (q : Nat) (x : Tile) : Core := { k with tiles := k.tiles.put q x }
def Bank.setReg (b : Bank) (r : Nat) (x : VReg) : Bank := { b with regs := b.regs.put r x }
def Bank.setSag (b : Bank) (k : Nat) (x : Sag) : Bank := { b with sags := b.sags.put k x }
def State.setHart (s : State) (c b : Nat) (h : Hart) : State := s.setCore c ((s.core c).setHart b h)
def State.setBank (s : State) (c b : Nat) (x : Bank) : State := s.setCore c ((s.core c).setBank b x)
def State.setGang (s : State) (c g : Nat) (x : Gang) : State := s.setCore c ((s.core c).setGang g x)
def State.setTile (s : State) (c q : Nat) (x : Tile) : State := s.setCore c ((s.core c).setTile q x)
def State.setReg (s : State) (c b r : Nat) (x : VReg) : State := s.setBank c b ((s.bank c b).setReg r x)
def State.setCt (s : State) (c : Nat) (x : Ct) : State := s.setCore c { s.core c with ct := x }
def State.setCluster (s : State) (n : Nat) (x : Cluster) : State :=
  { s with power := { s.power with clusters := s.power.clusters.put n x } }
def State.setLayer (s : State) (n : Nat) (x : Layer) : State :=
  { s with flash := { s.flash with layers := s.flash.layers.put n x } }
def State.setQ (s : State) (q : Nat) (x : QBlock) : State := { s with bar := { s.bar with q := s.bar.q.put q x } }

/-! ## What leaves the module -/

/-- R15, R439: the Yowald port that traffic with a module takes: the one that leads to it, or the first in service where that is
disabled. Which one takes over is DESIGN CHOICE, log 75, unsafe. -/
def State.portTo (s : State) (m : Nat) : Nat :=
  if s.flash.offPorts.contains (Config.portOf m) then
    ((List.range 16).find? fun i => !s.flash.offPorts.contains i).getD (Config.portOf m)
  else Config.portOf m

/-- R112, R439: traffic with a module waits: the Yowald port that it takes is under a step, or no port is in service.
DESIGN CHOICE, log 75, unsafe. -/
def State.portHeld (s : State) (m : Nat) : Bool :=
  s.flash.offPorts.contains (s.portTo m) || s.fen.steps.any fun u => match u with
    | .port i => i == s.portTo m
    | _ => false

/-- A message that waits for a Yowald port. -/
def State.waitsPort (s : State) : Out → Bool
  | .fabric m _ _ _ => s.portHeld m
  | .packet m _ => s.portHeld m
  | _ => false

/-- A message leaves the module, or waits for its port (R112). -/
def State.send (s : State) (m : Out) : State :=
  if s.waitsPort m then { s with heldOut := s.heldOut ++ [m] } else { s with out := s.out ++ [m] }

def State.sendAll (s : State) (l : List Out) : State := l.foldl State.send s

/-- R112: the messages that waited for a port go on, in order. -/
def State.sendHeld (s : State) : State := { s with heldOut := [] }.sendAll s.heldOut

end Sys2Proof.Machine
end

