-- ==== Sys2Proof/Machine/Log.lean ====
section
/-! DEFINITION. The error log (R440), the suspicion scores (R116 to R118) and the event trace (R422). -/

namespace Sys2Proof.Machine

/-- R422: a trigger met (kind 0 a cause code, 1 a breakpoint, 2 a hub time) starts the count of entries left. -/
def State.traceMeet (s : State) (c kind value : Nat) : State :=
  let k := s.core c
  match k.traceTrigger with
  | some (t, v) =>
    if t / 4096 = kind ∧ (v = value ∨ (kind = 2 ∧ v ≤ value)) ∧ k.traceLeft = none then
      s.setCore c { k with traceLeft := some (t % 4096) }
    else s
  | none => s

/-- R398, R399: the allocated codes. -/
def codeListed (n : Nat) : Bool :=
  let within := fun (lo hi : Nat) => decide (lo ≤ n ∧ n ≤ hi)
  within 0x01 0x0f || within 0x20 0x2b || within 0x40 0x49 || within 0x60 0x61 || within 0x80 0x86 || within 0x88 0x8f ||
    within 0xa1 0xa4 || within 0xc1 0xc4 || within 0xe0 0xe5

/-- R440: an entry enters the log; a full log loses its oldest entry and counts it, in 32 bits that wrap (DESIGN CHOICE, log 99,
unsafe). No entry has a code outside R399 (R398). Its code may be a trigger of the trace of the core that it names (R422). -/
def State.logEvent (s0 : State) (code src core : Nat) (detail value : Nat) : State :=
  let s := s0.traceMeet core 0 code
  let e : LogEntry := ⟨s.now, BitVec.ofNat 8 code, src, core, BitVec.ofNat 64 detail, BitVec.ofNat 64 value⟩
  if !codeListed code then s0
  else if s.flash.log.length < Config.logSize then { s with flash := { s.flash with log := s.flash.log ++ [e] } }
  else { s with flash := { s.flash with log := s.flash.log.drop 1 ++ [e], lost := s.flash.lost + 1 } }

/-- A hub event, logged with no core and with VALUE 0: R399 gives its detail only (DESIGN CHOICE, log 99, unsafe). -/
def State.logHub (s : State) (code detail : Nat) : State := s.logEvent code 0 0xffff detail 0

/-- The number of a unit of R119's kinds: 1 core, 2 SAG, 3 vertical bus, 4 Yowald port, 5 MSC slice. -/
def unitKey (utype n : Nat) : Nat := utype * 2 ^ 24 + n

/-- The unit number of SAG `k` of a bank (R119). -/
def sagUnit (core bank k : Nat) : Nat := core * 256 + bank * 8 + k

/-- R116, R428: a score changes to `v`, keeping its last sixteen values; R118: probation ends below 256. -/
def Score.change (x : Score) (v : Nat) : Score :=
  { value := min v 65535, history := (min v 65535 :: x.history).take 16, probation := x.probation && decide (256 ≤ v) }

def State.score (s : State) (utype n : Nat) : Score := s.fen.scores.get (unitKey utype n) {}

def State.setScore (s : State) (utype n : Nat) (x : Score) : State :=
  { s with fen := { s.fen with scores := s.fen.scores.put (unitKey utype n) x } }

/-- R116: an event adds to the score of the unit it arose in. -/
def State.addScore (s : State) (utype n pts : Nat) : State :=
  s.setScore utype n ((s.score utype n).change ((s.score utype n).value + pts))

/-- R117: Fen owes the unit an urgent test. -/
def State.urgentDue (s : State) (utype n : Nat) : Bool :=
  decide (256 ≤ (s.score utype n).value) && !(s.score utype n).probation

/-- R117: Fen owes the unit an immediate test. -/
def State.immediateDue (s : State) (utype n : Nat) : Bool := decide (1024 ≤ (s.score utype n).value)

/-! ## The event trace (R422) -/

/-- Ones among the low `w` bits of `x`. -/
def popBits (w x : Nat) : Nat := ((List.range w).filter x.testBit).length

/-- An entry, unless the trace is frozen. Kinds: 0 taken branch or block end, 1 predicate write, 2 mask write, 3 first VA of an
access. -/
def State.traceAdd (s0 : State) (c b kind value : Nat) : State :=
  if !(s0.core c).traceOn then s0
  else
    let s := s0.traceMeet c 2 s0.now
    let k := s.core c
    if k.traceLeft = some 0 then s
    else s.setCore c { k with
      trace := (if k.trace.length < Config.traceSize then k.trace else k.trace.drop 1) ++ [⟨s.now, b, kind, value⟩]
      traceLeft := k.traceLeft.map (· - 1) }

end Sys2Proof.Machine
end

