-- ==== Sys2Proof/Machine/Budget.lean ====
section
/-! DEFINITION. The clocks, and the metered shares of a period (R101 to R106, R443). -/

namespace Sys2Proof.Machine

/-- R443, R446: the clock of a stack, in hundred MHz. -/
def State.stackClock (s : State) (k : Nat) : Nat :=
  if s.power.thermalTrips.contains k then 6 else if s.power.powerTrip.isSome then 9 else s.power.clocks.get k 18

/-- The clock of a core's stack, in hundred MHz (R443). -/
def State.clockOf (s : State) (c : Nat) : Nat := s.stackClock (c / 128)

/-- R102: the classes of activity. -/
inductive Class
  | refresh
  | scrub
  | test
  | hostDma
  | recalls
  | fabric
  | mgmt
  | task
deriving DecidableEq, Repr, Inhabited

def Class.idx : Class → Nat
  | .refresh => 0
  | .scrub => 1
  | .test => 2
  | .hostDma => 3
  | .recalls => 4
  | .fabric => 5
  | .mgmt => 6
  | .task => 7

/-- R447: the column of a core: its stack and the region that serves it. -/
def State.columnOf (s : State) (c : Nat) : Nat :=
  c / 128 * 9 + fld (s.layer (c / 8)).map.toNat (4 * (c % 8)) 4

/-- R102, R106: the units of a class on a core; the TASK class has what the others leave (R107). -/
def State.units (s : State) (c : Nat) : Class → Nat
  | .refresh => if s.fen.hotCols.contains (s.columnOf c) then s.fen.shares.refreshH else s.fen.shares.refreshC
  | .scrub => s.fen.shares.scrub
  | .test => s.fen.shares.test
  | .hostDma => s.fen.shares.hostDma
  | .recalls => s.fen.shares.recalls
  | .fabric => s.fen.shares.fabric
  | .mgmt => s.fen.shares.mgmt
  | .task =>
    let x := s.fen.shares
    400 - (x.refreshH + x.scrub + x.test + x.hostDma + x.recalls + x.fabric + x.mgmt)

/-- R101: the clk of the period on a core. -/
def State.periodClk (s : State) (c : Nat) : Nat := s.fen.periods.get (c / 128) 180000

/-- R101: the clk that a class may be charged in the period. -/
def State.allowance (s : State) (c : Nat) (k : Class) : Nat := s.units c k * s.periodClk c / 400

def State.spentBy (s : State) (c : Nat) (k : Class) : Nat := (s.fen.spent.get c []).getD k.idx 0

/-- The clk of the period that a core's clock has come to. -/
def State.periodPos (s : State) (c : Nat) : Nat := s.now % 100000 * s.clockOf c / 10

/-- The clk of the period up to which a class holds a metered resource of a core. -/
def State.heldTo (s : State) (c : Nat) (k : Class) : Nat := (s.fen.heldTo.get c []).getD k.idx 0

/-- R103: what an operation of `clk` clk that starts now costs its class: the clk in which no other operation of the class holds
a metered resource of the core. -/
def State.cost (s : State) (c : Nat) (k : Class) (clk : Nat) : Nat :=
  s.periodPos c + clk - max (s.periodPos c) (s.heldTo c k)

/-- R103, R104: the class has budget left for the whole length. TASK has no ceiling. -/
def State.affords (s : State) (c : Nat) (k : Class) (clk : Nat) : Bool :=
  decide (k = .task) || decide (s.spentBy c k + s.cost c k clk ≤ s.allowance c k)

/-- A list of eight figures with one changed. -/
def eight (l : List Nat) (i v : Nat) : List Nat := ((List.range 8).map fun j => l.getD j 0).set i v

/-- R103: the class is charged; TASK is not. DEDUCED, log 58, unsafe. -/
def State.charge (s : State) (c : Nat) (k : Class) (clk : Nat) : State :=
  if k = .task then s
  else
    { s with fen := { s.fen with
      spent := s.fen.spent.put c (eight (s.fen.spent.get c []) k.idx (s.spentBy c k + s.cost c k clk))
      heldTo := s.fen.heldTo.put c (eight (s.fen.heldTo.get c []) k.idx (max (s.heldTo c k) (s.periodPos c + clk))) } }

/-- R411: a save or restore is charged to MGMT while its budget remains, and to the task beyond. -/
def State.chargeMgmt (s : State) (c clk : Nat) : State :=
  s.charge c .mgmt (min clk (s.allowance c .mgmt - s.spentBy c .mgmt))

end Sys2Proof.Machine
end

