-- ==== Sys2Proof/Machine/Translate.lean ====
section
/-! DEFINITION. Address spaces, translation and the checks on row addresses (R39 to R53, R387). -/

namespace Sys2Proof.Machine

/-- R47: what an address is used for. -/
inductive Kind
  | row
  | col
  | fetch
deriving DecidableEq, Repr, Inhabited

def Kind.code : Kind → Nat
  | .row => 0
  | .col => 1
  | .fetch => 2

/-- A cause and its detail. -/
abbrev Cause := Nat × Nat

/-- R48. -/
def detail48 (va : Nat) (k : Kind) (level : Nat) (write : Bool) : Nat :=
  va % 2 ^ 48 + k.code * 2 ^ 48 + level * 2 ^ 50 + bnat write * 2 ^ 52

/-- A translation: the leaf's HOME, the PA in it, the page's size and the leaf. -/
structure Loc where
  home : Nat
  pa : Nat
  size : Nat
  leaf : Nat
deriving DecidableEq, Repr, Inhabited

/-- R46. -/
def malformed (e level : Nat) : Bool :=
  fld e 40 18 != 0 || fld e 9 3 != 0 ||
  (if bit e 1 then level == 1 || (fld e 12 9 != 0) || (level == 2 && fld e 12 18 != 0)
   else level == 3 || fld e 2 7 != 0 || fld e 58 6 != 0)

/-- R44: the index of a level. -/
def vaIndex (va level : Nat) : Nat := fld va (48 - 9 * level) 9

/-- The line of a PA, and the PA of a line. -/
def lineOf (pa : Nat) : Nat := pa / 64
def linePa (line : Nat) : Nat := line * 64

def State.sideOf (s : State) (line : Nat) : Side := s.side.get line {}

/-- R384: another module holds the line in E, O or M. -/
def Side.away (x : Side) : Bool := decide (2 ≤ x.state.toNat ∧ x.state.toNat ≤ 4)

/-- What a walk answers instead of a cause while the owner of a table's line has still to supply it (R47, R385); the detail
is the PA read, and from bit 40 the VA translated. No cause code has more than 8 bits. -/
def walkWait : Nat := 0x100
def walkDetail (pa va : Nat) : Nat := pa % 2 ^ 40 + va % 2 ^ 48 * 2 ^ 40

/-- `n` bytes of a table, inside one line: as the MSC has them, whatever the line's condition (DESIGN CHOICE, log 72,
unsafe), or as the owner of a line that another module holds has supplied them; `none` until it has. -/
def State.tableBytes (s : State) (pa n : Nat) : Option Nat :=
  if (s.sideOf (lineOf pa)).away then
    match s.walkData.find (lineOf pa) with
    | some v => some (fld v (8 * (pa % 64)) (8 * n))
    | none => none
  else some (s.mem.read pa n)

/-- The walk of R47 from `table` at `level`, over at most `n` levels, reading tables by `rd`: the cause with its level (or
`walkWait` with the address), or the leaf with its level. -/
def walk (rd : Nat → Option Nat) (va : Nat) : Nat → Nat → Nat → Except (Nat × Nat) (Nat × Nat)
  | 0, _, level => .error (0x27, level)
  | n + 1, table, level =>
    match rd (table + 8 * vaIndex va level) with
    | none => .error (walkWait, table + 8 * vaIndex va level)
    | some e =>
      if !bit e 0 then .error (0x20, level)
      else if malformed e level then .error (0x27, level)
      else if bit e 1 then .ok (e, level)
      else walk rd va n (fld e 12 28 * 4096) (level + 1)

/-- R43: the PA of an address space's entry. -/
def State.spaceAddr (s : State) (asid : Nat) : Nat := s.bar.asidBase.toNat * 2 ^ 16 + 16 * asid

/-- R43: the address-space entry's ROOT, if the entry is valid. -/
def State.spaceRoot (s : State) (asid : Nat) : Option Nat :=
  match s.tableBytes (s.spaceAddr asid) 16 with
  | some e => if bit e 0 && fld e 64 64 == 0 && fld e 40 24 == 0 && fld e 1 11 == 0 then some (fld e 12 28) else none
  | none => none

/-- The checks of R47 on a leaf, but for the RowChecks. -/
def State.leafLoc (s : State) (mach : Bool) (va : Nat) (k : Kind) (reads writes : Bool) (e level : Nat) :
    Except Cause Loc :=
  let d := detail48 va k level writes
  let size := if level = 2 then 2 ^ 30 else 2 ^ 21
  if (reads && !bit e 2) || (writes && !bit e 3) || (decide (k = .fetch) && !bit e 4) || (!bit e 8 && !mach) then
    .error (0x23, d)
  else if k = .row ∧ (!bit e 5 || !bit e 6) then
    .error (0x21, d + bnat (!bit e 5) * 2 ^ 53 + bnat (!bit e 6) * 2 ^ 54)
  else if fld e 58 6 ≠ s.flash.modId.toNat ∧ (!bit e 7 ∨ k ≠ .col) then .error (0x26, d)
  else .ok ⟨fld e 58 6, fld e 12 28 * 4096 + va % size, size, e⟩

/-- R47, but for the RowChecks, by a walk: the translation of an agent without a TLB, or after a miss. `mach` is
MachineMode. DEDUCED, log 33, safe. -/
def State.translate (s : State) (asid : Nat) (mach : Bool) (va : Nat) (k : Kind) (reads writes : Bool) :
    Except Cause Loc :=
  let d := fun level => detail48 va k level writes
  if k = .row ∧ va % 8192 ≠ 0 then .error (0x29, d 0)
  else if (s.tableBytes (s.spaceAddr asid) 16).isNone then .error (walkWait, walkDetail (s.spaceAddr asid) va)
  else match s.spaceRoot asid with
  | none => .error (0x28, d 0)
  | some root =>
    if va / 2 ^ 48 ≠ 0 then .error (0x20, d 0)
    else match walk (fun a => s.tableBytes a 8) va Config.levels (root * 4096) 1 with
    | .error (c, level) => .error (c, if c = walkWait then walkDetail level va else d level)
    | .ok (e, level) => s.leafLoc mach va k reads writes e level

/-- R49: the place of a translation in a TLB. -/
def tlbKey (asid va : Nat) : Nat := asid * 2 ^ 27 + va / 2 ^ 21

/-- R49: the leaf, with its level, that core `c` has cached for a translation: of its compute-page TLB for kind ROW, of its
column TLB for the others. -/
def State.tlbLeaf (s : State) (c : Nat) (va : Nat) (k : Kind) : Option (Nat × Nat) :=
  let t := if k = .row then (s.core c).rowTlb else (s.core c).colTlb
  (t.find (tlbKey (s.core c).asid.toNat va)).map fun v => (v % 2 ^ 64, v / 2 ^ 64)

/-- R47, R49: the translation of an access of core `c`, through its TLB. Where a table entry has changed under a running
task, a cached leaf gives its old value, and a walk its new one; TLB_FILL and TLB_DROP decide which is cached.
DESIGN CHOICE, log 73, unsafe. -/
def State.translateOn (s : State) (c : Nat) (mach : Bool) (va : Nat) (k : Kind) (reads writes : Bool) : Except Cause Loc :=
  if k = .row ∧ va % 8192 ≠ 0 then .error (0x29, detail48 va k 0 writes)
  else if va / 2 ^ 48 ≠ 0 then s.translate (s.core c).asid.toNat mach va k reads writes
  else match s.tlbLeaf c va k with
    | some (e, level) => s.leafLoc mach va k reads writes e level
    | none => s.translate (s.core c).asid.toNat mach va k reads writes

/-- R41: the fields of a PA. -/
def paCore (pa : Nat) : Nat := fld pa 30 10
def paSag (pa : Nat) : Nat := fld pa 27 3
def paRow (pa : Nat) : Nat := fld pa 18 9
def paBank (pa : Nat) : Nat := fld pa 13 5

/-- The PA of a row (R41). -/
def rowPa (core bank k row : Nat) : Nat := core * 2 ^ 30 + k * 2 ^ 27 + row * 2 ^ 18 + bank * 2 ^ 13

/-- R51, checks 8 to 10. -/
def rowChecks (c b k va pa : Nat) (writes : Bool) : Except Cause Nat :=
  let d := detail48 va .row 0 writes
  if paCore pa ≠ c then .error (0x25, d)
  else if paBank pa ≠ b then .error (0x24, d)
  else if paSag pa ≠ k then .error (0x2a, d)
  else .ok pa

def State.asid (s : State) (c : Nat) : Nat := (s.core c).asid.toNat

/-- R51, checks 1 to 10 on a row that an instruction of bank `b` names: its page's size and its PA. -/
def State.rowAt (s : State) (c b k va : Nat) (writes : Bool) : Except Cause (Nat × Nat) :=
  match s.translateOn c false va .row (!writes) writes with
  | .error e => .error e
  | .ok l =>
    match rowChecks c b k va l.pa writes with
    | .error e => .error e
    | .ok pa => .ok (l.size, pa)

/-- R52: the derived row `va` of the named row `base`: checks 1 to 10 on each, then check 11. Where the named row itself is
refused, the detail names it. DESIGN CHOICE, log 74, unsafe. -/
def State.derivedRow (s : State) (c b k base va : Nat) (writes : Bool) : Except Cause Nat :=
  match s.rowAt c b k base writes with
  | .error e => .error e
  | .ok (size, _) =>
    match s.rowAt c b k va writes with
    | .error e => .error e
    | .ok (_, pa) => if va / size = base / size then .ok pa else .error (0x22, detail48 va .row 0 writes)

/-- R247: a row VA with the bank of a participant. -/
def bankRow (va b : Nat) : Nat := va - fld va 13 5 * 2 ^ 13 + b * 2 ^ 13

/-- R387: the place of a column access. -/
def Loc.place (l : Loc) (s : State) : Place :=
  if l.home = s.flash.modId.toNat then .here l.pa
  else if s.flash.domain.toNat.testBit l.home then .remote l.home l.pa
  else .host (l.home * 2 ^ 40 + l.pa)

/-- R90: an enabled DMA window of function `fn` holds the bus addresses `a` to `a + n - 1` and permits the access. -/
def State.dmaAllows (s : State) (fn a n : Nat) (write : Bool) : Bool :=
  s.bar.dmawin.any fun e =>
    let w := e.2
    w.en && w.fn.toNat == fn && (if write then w.wr else w.rd) &&
      decide (w.base.toNat * 4096 ≤ a) && decide (a + n ≤ (w.limit.toNat + 1) * 4096)

/-- The function a core's task belongs to (R72). -/
def State.fnOf (s : State) (c : Nat) : Nat :=
  match (s.core c).task with
  | none => 0
  | some n => match s.sched.tasks.find? (fun t => t.num == n) with
    | none => 0
    | some t => t.fn

/-- A column address of core `c`: translated with kind COL (R47) and, for host memory, inside a DMA window (R387,
R124). DEDUCED, log 27, unsafe. -/
def State.colAt (s : State) (c : Nat) (mach : Bool) (va n : Nat) (reads writes : Bool) : Except Cause Place :=
  match s.translateOn c mach va .col reads writes with
  | .error e => .error e
  | .ok l =>
    match l.place s with
    | .host bus =>
      if (!reads || s.dmaAllows (s.fnOf c) bus n false) && (!writes || s.dmaAllows (s.fnOf c) bus n true)
      then .ok (.host bus) else .error (0x23, detail48 va .col 0 writes)
    | p => .ok p

end Sys2Proof.Machine
end

