-- ==== Sys2Proof/Machine/Sideband.lean ====
section
/-! DEFINITION. The sideband of a line, its checks and the conditions it gives (R54 to R57, R83, R84, R203, R417). -/

namespace Sys2Proof.Machine

/-- One bit of a CRC of 16 bits with polynomial `poly`, most significant bit first. -/
def crcBit (poly crc : Nat) (b : Bool) : Nat :=
  let x := crc * 2 % 65536
  if (crc.testBit 15) != b then x ^^^ poly else x

/-- One byte, most significant bit first. -/
def crcByte (poly crc byte : Nat) : Nat :=
  [7, 6, 5, 4, 3, 2, 1, 0].foldl (fun c n => crcBit poly c (byte.testBit n)) crc

/-- The CRC over the `n` low bytes of `v`, in ascending order of the bytes. -/
def crcBytes (poly : Nat) : Nat → Nat → Nat → Nat
  | 0, crc, _ => crc
  | n + 1, crc, v => crcBytes poly n (crcByte poly crc (v % 256)) (v / 256)

/-- R55: the E2E value of 64 data bytes. -/
def e2e (data : Nat) : Nat := crcBytes 0x8bb7 64 0 data

/-- The condition a line has when it is read (R55, R56, R203): RS correction of at most two symbols first, then POISON,
then the E2E check. `none` is GOOD. -/
def Side.cond (x : Side) : Option Cond :=
  if 2 < x.badSymbols ∨ 4 < x.state.toNat ∨ x.rsv ≠ 0 then some .ue
  else if x.poison then some .poison
  else if x.e2eDiff ≠ 0 then some .e2eBad
  else none

/-- R83: the line fails its RSCHK or its E2E check, whatever its POISON. -/
def Side.fails (x : Side) : Bool := decide (2 < x.badSymbols) || decide (4 < x.state.toNat) || x.rsv != 0 || x.e2eDiff != 0

/-- A sideband, not listed where it has R54's reset value. -/
def State.setSide (s : State) (line : Nat) (x : Side) : State :=
  { s with side := if x = {} then s.side.drop line else s.side.put line x }

/-- The condition of the line that holds `pa`. -/
def State.lineCond (s : State) (pa : Nat) : Option Cond := (s.sideOf (lineOf pa)).cond

/-- R54, R55: the 64 sideband bits of a line, RSCHK as an implementation gives it for the 68 symbols that it covers: the data bytes,
then sideband bytes 4 to 7. -/
def State.sideBits (s : State) (line : Nat) : Nat :=
  let x := s.sideOf line
  let data := s.mem.read (linePa line) 64
  let high := (e2e data ^^^ x.e2eDiff.toNat) + x.state.toNat * 2 ^ 16 + (x.owner.getD s.flash.modId).toNat * 2 ^ 19 +
    bnat x.poison * 2 ^ 25 + x.rsv.toNat * 2 ^ 26
  (Config.rsCode (data + high * 2 ^ 512)).toNat + high * 2 ^ 32

/-- The cause a consumer of a line in a condition meets (R205, R206, R395). -/
def Cond.cause : Cond → Nat
  | .ue => 0x40
  | .poison => 0x40
  | .e2eBad => 0x41

/-- R83, R84, R417: the sideband after a write. A write of all 64 bytes makes fresh codes and clears POISON; a partial
one keeps POISON, and sets it when the existing line fails its checks. -/
def Side.afterWrite (x : Side) (whole : Bool) : Side :=
  { x with
    e2eDiff := 0
    badSymbols := 0
    rsv := 0
    state := if 4 < x.state.toNat then 0 else x.state
    poison := !whole && x.cond.isSome }

end Sys2Proof.Machine
end

