-- ==== Sys2Proof/Machine/Column.lean ====
section
/-! DEFINITION. Column accesses at the memory-side caches: reads, writes and atomic operations on this module's memory,
on lines of other modules and on host memory (R368 to R374, R381, R384 to R390, R434). -/

namespace Sys2Proof.Machine

/-! ## Messages to other modules -/

/-- The kinds of fabric messages (R385): 0 read, 1 ownership, 2 forward of a read, 3 recall, 4 invalidation, 5
write-back, 6 answer, 7 atomic operation at the home, 8 arrival at a barrier, 9 START, 10 refusal, 11 abort, 13
invalidation of a row. -/
def msgRead : Nat := 0
def msgOwn : Nat := 1
def msgForward : Nat := 2
def msgRecall : Nat := 3
def msgInvalidate : Nat := 4
def msgWriteBack : Nat := 5
def msgAnswer : Nat := 6
def msgAmo : Nat := 7
def msgArrived : Nat := 8
def msgStart : Nat := 9
def msgRefused : Nat := 10
def msgAbort : Nat := 11
def msgInvalRow : Nat := 13

/-- The kind of a walk's request, sent as a forward of a read (R47, R385). -/
def msgWalk : Nat := 14

/-- A line of another module: home and line number. -/
def rkey (module pa : Nat) : Nat := module * 2 ^ 34 + pa / 64

/-! ## Who accesses -/

/-- The request of another module that `w` names. -/
def RemoteOp.is (e : RemoteOp) (src line : Nat) : Bool := e.src == src && lineOf e.pa == line

/-- The oldest of them changed by `f`. -/
def mapOldest (src line : Nat) (f : RemoteOp → RemoteOp) : List RemoteOp → List RemoteOp
  | [] => []
  | e :: es => if e.is src line then f e :: es else e :: mapOldest src line f es

def State.mapRemote (s : State) (src line : Nat) (f : RemoteOp → RemoteOp) : State :=
  { s with remoteQ := mapOldest src line f s.remoteQ }

def State.reqOf (s : State) : Waiter → Option Req
  | .hart c b => (s.hart c b).req
  | .stored c b => (s.hart c b).storeReq
  | .copy c b n => ((s.hart c b).slots.get n {}).asked
  | .ct c => (s.ct c).rreq
  | .ring c => (s.core c).ringReq
  | .save c => (s.core c).saveReq
  | .hub => s.sched.req
  | .flush => s.sched.flushReq
  | .host => s.hostReq
  | .peer src line => (s.remoteQ.find? fun e => e.is src line).bind (·.asked)

def State.setReq (s : State) (w : Waiter) (r : Option Req) : State :=
  match w with
  | .hart c b => s.setHart c b { s.hart c b with req := r }
  | .stored c b => s.setHart c b { s.hart c b with storeReq := r }
  | .copy c b n =>
    let h := s.hart c b
    s.setHart c b { h with slots := h.slots.put n { h.slots.get n {} with asked := r } }
  | .ct c => s.setCt c { s.ct c with rreq := r }
  | .ring c => s.setCore c { s.core c with ringReq := r }
  | .save c => s.setCore c { s.core c with saveReq := r }
  | .hub => { s with sched := { s.sched with req := r } }
  | .flush => { s with sched := { s.sched with flushReq := r } }
  | .host => { s with hostReq := r }
  | .peer src line => s.mapRemote src line fun e => { e with asked := r }

/-- The answers that have come for `w`, by address. -/
def State.hostData (s : State) (w : Waiter) : Tab Nat :=
  match w with
  | .hart c b => (s.hart c b).hostGot
  | .stored c b => (s.hart c b).storeGot
  | .copy c b n => ((s.hart c b).slots.get n {}).got
  | .ct c => (s.ct c).hostGot
  | .ring c => (s.core c).ringGot
  | .save c => (s.core c).saveGot
  | .hub => s.sched.hostGot
  | .flush => s.sched.flushGot
  | .host => s.hostGot
  | .peer src line => match s.remoteQ.find? fun e => e.is src line with
    | some e => e.got
    | none => []

def State.setHostData (s : State) (w : Waiter) (t : Tab Nat) : State :=
  match w with
  | .hart c b => s.setHart c b { s.hart c b with hostGot := t }
  | .stored c b => s.setHart c b { s.hart c b with storeGot := t }
  | .copy c b n =>
    let h := s.hart c b
    s.setHart c b { h with slots := h.slots.put n { h.slots.get n {} with got := t } }
  | .ct c => s.setCt c { s.ct c with hostGot := t }
  | .ring c => s.setCore c { s.core c with ringGot := t }
  | .save c => s.setCore c { s.core c with saveGot := t }
  | .hub => { s with sched := { s.sched with hostGot := t } }
  | .flush => { s with sched := { s.sched with flushGot := t } }
  | .host => { s with hostGot := t }
  | .peer src line => s.mapRemote src line fun e => { e with got := t }

/-- A request to a home, or to the module that holds a line of this one. -/
def askLine (va module line kind : Nat) : Req := ⟨va, module, linePa line, false, kind⟩
/-- A read of host memory. -/
def askHost (va bus : Nat) : Req := ⟨va, 0, bus, true, 16⟩

/-- A request whose answer tells of an effect (R388, R396): it cannot be sent a second time. -/
def Req.effect (r : Req) : Bool := r.kind == msgAmo || decide (17 ≤ r.kind)

/-- Forwards and recalls, whose line traffic RECALL pays for (R102). -/
def Req.recalls (r : Req) : Bool := !r.host && (r.kind == msgForward || r.kind == msgRecall || r.kind == msgWalk)

/-- Where an answer that forwards a line is kept, and where a failure is (R385, R386). -/
def fwdKey (line : Nat) : Nat := 2 ^ 50 + line
def failKey : Nat := 2 ^ 60

/-- What marks a row, by its first line, among the lines of `invals`. -/
def rowMark : Nat := 2 ^ 40

/-- The other modules of the coherent domain. -/
def State.others (s : State) : List Nat :=
  (List.range 64).filter fun m => s.flash.domain.toNat.testBit m && m != s.flash.modId.toNat

/-- The modules that have still to acknowledge the invalidation of a line, or of a row. -/
def State.unacked (s : State) (key : Nat) : List Nat := (s.invals.filter fun e => e.1 == key).map (·.2)

/-- R239, R385: invalidations of a line, or of a row, go to the modules named, or again to those that have not acknowledged
the last ones (R386). -/
def State.sendInvals (s : State) (kind key : Nat) (ms : List Nat) : State :=
  let missing := s.unacked key
  let ask := if missing = [] then ms else missing
  { s with invals := if missing = [] then s.invals ++ ms.map fun m => (key, m) else s.invals }.sendAll
    (ask.map fun m => .fabric m kind (key % rowMark) 0)

/-- R239, R385: whom an invalidation goes to: the module that holds a line in E, O or M, or all others of the domain. -/
def State.invalTargets (s : State) (kind key : Nat) : List Nat :=
  let x := s.sideOf key
  if kind = msgInvalidate ∧ x.away then [(x.owner.getD s.flash.modId).toNat] else s.others

/-- The place in `invals` of what an invalidation request waits for. -/
def Req.invalKey (r : Req) : Nat := if r.kind = msgInvalRow then rowMark + r.addr / 64 else r.addr / 64

/-- A request that waits for acknowledgements of invalidations. -/
def Req.invals (r : Req) : Bool := !r.host && (r.kind == msgInvalidate || r.kind == msgInvalRow)

/-- R430: the logical id is removed. -/
def State.removed (s : State) (c : Nat) : Bool := fld (s.layer (c / 8)).map.toNat (4 * (c % 8)) 4 == 15

/-- The four cores of a cluster (R18). -/
def clusterCores (n : Nat) : List Nat := [4 * n, 4 * n + 1, 4 * n + 2, 4 * n + 3]

/-- R434: the cores that serve a removed logical id, ascending. -/
def State.relays (s : State) (c : Nat) : List Nat :=
  let near := (clusterCores (c / 4)).filter fun x => !s.removed x
  if near ≠ [] then near
  else ((List.range 8).map fun i => c / 8 * 8 + i).filter fun x => !s.removed x

/-- R434: the core whose vertical bus takes an access to `pa`: bank b of a removed id is served by its relay core b mod n. -/
def State.server (s : State) (pa : Nat) : Nat :=
  let c := paCore pa
  if s.removed c then (s.relays c).getD (paBank pa % (s.relays c).length) c else c

/-- R102, R434: a class is charged for an access to a line of this module; a relay's service counts against its TASK class, which
is not metered. -/
def State.chargeAt (s : State) (pa : Nat) (k : Class) (clk : Nat) : State :=
  if s.removed (paCore pa) then s else s.charge (paCore pa) k clk

/-- R104: the class that pays for an access to a line of this module has budget. -/
def State.affordsAt (s : State) (pa : Nat) (k : Class) (clk : Nat) : Bool :=
  s.removed (paCore pa) || s.affords (paCore pa) k clk

/-- A request enters the module's traffic, charged to RECALL where that class pays. -/
def State.post (s : State) (w : Waiter) (r : Req) (m : Out) : State :=
  let s1 := s.setReq w (some r)
  if r.invals then s1.sendInvals r.kind r.invalKey (s.invalTargets r.kind r.invalKey)
  else if r.recalls then (s1.send m).chargeAt r.addr .recalls 1
  else s1.send m

/-- The modules that a request goes to. -/
def State.peers (s : State) (r : Req) : List Nat :=
  if r.host then [] else if r.invals then s.others else [r.module]

/-- Sends a request for `w`, once: a waiter with a request outstanding only waits, and a recall waits for budget (R104). -/
def State.request (s : State) (w : Waiter) (r : Req) (m : Out) : State :=
  if (s.reqOf w).isSome || (r.recalls && !s.affordsAt r.addr .recalls 1) || (s.peers r).any s.portHeld then s
  else s.post w r m

/-- The state of an access that waits: what it began is discarded, apart from the request it sent, the mark of a granule
that it is to write (R113), and the units that it waits for (R114). DEDUCED, log 67, unsafe. -/
def State.keepRequest (s s' : State) (w : Waiter) : State :=
  let s1 := { s with touched := s'.touched, fen := { s.fen with waited := s'.fen.waited } }
  match s.reqOf w, s'.reqOf w, s'.out.getLast? with
  | none, some r, some m => s1.post w r m
  | none, some r, none => if r.invals then s1.post w r (.hostRequest 0 0 0 0 0) else s1
  | _, _, _ => s1

/-! ## This module's memory -/

/-- R434: PA of a removed logical id that no relay core serves. A layer's cores are 8 consecutive ids. -/
def State.unserved (s : State) (pa : Nat) : Bool :=
  let map := (s.layer (paCore pa / 8)).map.toNat
  fld map (4 * (paCore pa % 8)) 4 == 15 && (List.range 8).all fun c => fld map (4 * c) 4 == 15

/-- R451: the cluster that holds `pa` is not ON. Clusters are of four cores (R18, R448). -/
def State.clusterOff (s : State) (pa : Nat) : Bool := (s.clusterAt (paCore pa / 4)).state != 0

/-- R112, R114: the MSC slice of a line is under a step. -/
def State.sliceHeld (s : State) (pa : Nat) : Bool :=
  s.fen.steps.any fun u => match u with
    | .slice k i => k == paCore pa / 128 && i == fld pa 6 4
    | _ => false

/-- R112, R437: a vertical bus takes no traffic: it is under a step, or retired. -/
def State.busDown (s : State) (n : Nat) : Bool :=
  s.flash.retiredBuses.contains n || s.fen.steps.any fun u => match u with
    | .bus k i => k * 32 + i == n
    | _ => false

/-- R112, R114, R434, R437, R451: accesses to `pa` wait: its cluster is not ON, the bus that serves it takes no traffic, or its MSC
slice is under a step. -/
def State.asleep (s : State) (pa : Nat) : Bool :=
  !s.unserved pa && (s.clusterOff pa || s.busDown (s.server pa / 4) || s.sliceHeld pa)

/-- The core whose vertical bus an agent's accesses take. -/
def ownCore : Waiter → Option Nat
  | .hart c _ => some c
  | .stored c _ => some c
  | .copy c _ _ => some c
  | .ct c => some c
  | .ring c => some c
  | .save c => some c
  | _ => none

/-- R112, R114, R190, R437: accesses of the agent wait: the bus of its own cluster takes no traffic. -/
def State.busHeld (s : State) (w : Waiter) : Bool :=
  match ownCore w with
  | some c => s.busDown (c / 4)
  | none => false

/-- R113: a destructive step writes patterns to the row that holds `pa`. -/
def State.rowTested (s : State) (pa : Nat) : Bool :=
  ((s.bank (paCore pa) (paBank pa)).sag (paSag pa)).testing.contains (paRow pa)

/-- R112: a unit, by its key, is under a step. -/
def State.underStep (s : State) (key : Nat) : Bool :=
  s.fen.steps.any fun u => key == match u with
    | .sag c b k => unitKey 2 (sagUnit c b k)
    | .bus k i => unitKey 3 (k * 32 + i)
    | .port i => unitKey 4 i
    | .slice k i => unitKey 5 (k * 16 + i)

/-- R114: an operation waits for a unit that is under a step, or rests after one. -/
def State.unitWait (s : State) (utype n : Nat) : State :=
  let key := unitKey utype n
  if (s.underStep key || (s.fen.stepEnded.find key).isSome) && !s.fen.waited.contains key then
    { s with fen := { s.fen with waited := s.fen.waited ++ [key] } }
  else s

/-- R114: an operation starts on a unit: one that waited for it ends the unit's rest. DEDUCED, log 76, unsafe. -/
def State.unitUsed (s : State) (utype n : Nat) : State :=
  let key := unitKey utype n
  if s.fen.waited.contains key then
    { s with fen := { s.fen with stepEnded := s.fen.stepEnded.drop key, waited := s.fen.waited.filter (· != key) } }
  else s

/-- The bus and the slice that an access to `pa` uses. -/
def State.accessUnits (s : State) (pa : Nat) : State :=
  (s.unitUsed 3 (s.server pa / 4)).unitUsed 5 (paCore pa / 128 * 16 + fld pa 6 4)

/-- R114: an access of an agent to `pa` waits: for its own bus, and for the bus and the slice of the line. -/
def State.accessWait (s : State) (w : Waiter) (pa : Nat) : State :=
  let s1 := match ownCore w with
    | some c => if s.busHeld w then s.unitWait 3 (c / 4) else s
    | none => s
  let s2 := if s1.busDown (s1.server pa / 4) then s1.unitWait 3 (s1.server pa / 4) else s1
  if s2.sliceHeld pa then s2.unitWait 5 (paCore pa / 128 * 16 + fld pa 6 4) else s2

/-- R237: the row that holds `pa` is being sensed, so column writes to it wait. -/
def State.sensing (s : State) (pa : Nat) : Bool :=
  let r := s.reg (paCore pa) (paBank pa) (paSag pa)
  r.latch == .opening && r.row == some (pa / 8192 * 8192)

/-- R381: words of other control threads' caches that a write to these bytes ends the ownership of, and reservations of
their line. -/
def Ct.revoke (t : Ct) (key lo hi : Nat) : Ct :=
  { t with
    dcache := t.dcache.filter fun e =>
      !(e.2.st == .owned && decide (key + lo < e.1 + 8) && decide (e.1 < key + hi))
    resv := if t.resv = some ((key + lo) / 64) then none else t.resv }

/-- The address a control thread's cache holds a word under: module and PA. -/
def dkey (module pa : Nat) : Nat := module * 2 ^ 40 + pa

/-- R381: a write by another agent, of `n` bytes at address key `a`, for the control thread of a core and those of its saved
contexts. `self` is the core whose own thread writes, if one does. -/
def Core.revoke (k : Core) (own : Bool) (a n : Nat) : Core :=
  { k with
    ct := if own then k.ct else k.ct.revoke a 0 n
    saved := k.saved.mapVals fun _ v => { v with ct := v.ct.revoke a 0 n } }

/-- R381: a write by another agent, of `n` bytes at address key `a`. `self` is the control thread that writes, if one
does. -/
def State.revokeWords (s : State) (self : Option Nat) (a n : Nat) : State :=
  { s with
    cores := s.cores.mapVals fun c k => k.revoke (decide (self = some c)) a n
    remoteResv := s.remoteResv.filter fun e => !(decide (e.2 * 64 < a + n) && decide (a < e.2 * 64 + 64)) }

/-! ## The memory-side caches (R16, R64, R236, R384) -/

/-- R381: the MSC gives up the line at address key `a`: words of it that control threads own become Invalid. Reservations of
the line stay. -/
def Ct.disown (t : Ct) (a : Nat) : Ct :=
  { t with dcache := t.dcache.filter fun e => !(e.2.st == .owned && e.1 / 64 == a / 64) }

def State.disownLine (s : State) (a : Nat) : State :=
  { s with cores := s.cores.mapVals fun _ k =>
      { k with ct := k.ct.disown a, saved := k.saved.mapVals fun _ v => { v with ct := v.ct.disown a } } }

/-- The same of `n` lines. -/
def State.disownLines (s : State) (a n : Nat) : State :=
  (List.range n).foldl (fun t i => t.disownLine (a + 64 * i)) s

/-- A line that leaves its MSC has data to write back: a dirty line of this module, or an O or M line of another. -/
def RLine.dirty (l : RLine) : Bool := l.st == .o || l.st == .m

/-- R84, R203: the condition of a line of another module. -/
def RLine.cond (l : RLine) : Option Cond := if l.poison then some .poison else if l.e2eDiff ≠ 0 then some .e2eBad else none

/-- R112, R237, R384: the MSC can give up the line of key `key` (home and line number) now: a dirty line of this module unless its row
is being sensed, an O or M line unless the port to its home is under a step. -/
def State.mayEvict (s : State) (key : Nat) : Bool :=
  if key / 2 ^ 34 = s.flash.modId.toNat then
    !(s.sensing (linePa (key % 2 ^ 34)) && ((s.msc.find (key % 2 ^ 34)).getD none).isSome)
  else !(((s.rlines.find key).map RLine.dirty).getD false && s.portHeld (key / 2 ^ 34))

/-- A line leaves the MSC that holds it (R384), if it can: a dirty line of this module goes to its row, an O or M line to its home
with its POISON and its E2E (R84), and an S or E line silently. The key is home and line number. -/
def State.mscEvict (s : State) (key : Nat) : State :=
  let home := key / 2 ^ 34
  let line := key % 2 ^ 34
  if !s.mayEvict key then s
  else if home = s.flash.modId.toNat then { s.disownLine (dkey home (linePa line)) with msc := s.msc.drop line }
  else match s.rlines.find key with
    | none => s
    | some l =>
      let s1 := { s.disownLine (dkey home (linePa line)) with rlines := s.rlines.drop key }
      if l.dirty then
        s1.send (.fabric home msgWriteBack line (l.data % 2 ^ 512 + bnat (l.st == .m) * 2 ^ 512 + bnat l.poison * 2 ^ 513 +
          l.e2eDiff.toNat * 2 ^ 514))
      else s1

/-- R16: the stack whose MSC holds a line of key `key`; that of the PA for another module's line too.
DESIGN CHOICE, log 18, unsafe. -/
def keyStack (key : Nat) : Nat := paCore (linePa (key % 2 ^ 34)) / 128

/-- The keys of the lines that the MSC of a stack holds. -/
def State.stackKeys (s : State) (k : Nat) : List Nat :=
  (s.msc.keys.map fun n => s.flash.modId.toNat * 2 ^ 34 + n).filter (fun n => keyStack n == k) ++
    s.rlines.keys.filter fun n => keyStack n == k

/-- R16: room for one more line of key `key`: a full MSC gives up its first line that it can. Which line it
gives up is not stated; MSC_EVICTION takes any other. DESIGN CHOICE, log 18, unsafe. -/
def State.mscRoom (s : State) (key : Nat) : State :=
  let l := s.stackKeys (keyStack key)
  if l.contains key || decide (l.length < Config.mscLines) then s
  else match l.find? s.mayEvict with
    | some v => s.mscEvict v
    | none => s

/-- R439: the line's MSC slice is disabled, and its accesses are served from DRAM. -/
def State.bypassed (s : State) (line : Nat) : Bool :=
  s.flash.offSlices.contains (paCore (linePa line) / 128 * 16 + line % 16)

/-- A line of this module that a column access reads or writes enters its MSC (R16, R236). -/
def State.mscFill (s : State) (line : Nat) : State :=
  if (s.msc.find line).isSome || s.bypassed line then s
  else
    let s1 := s.mscRoom (s.flash.modId.toNat * 2 ^ 34 + line)
    { s1 with msc := s1.msc.put line none }

/-- The line is dirty in the MSC, over its bytes and sideband in DRAM (R54, R64). -/
def State.markDirty (s : State) (line : Nat) : State :=
  match s.msc.find line with
  | some (some _) => s
  | _ =>
    if s.bypassed line then s
    else
    let s1 := s.mscFill line
    { s1 with msc := s1.msc.put line (some (s.mem.read (linePa line) 64, s.sideOf line)) }

/-- A row's lines in the MSC: PRESENT of R236 is that there are some. -/
def inRow (pa line : Nat) : Bool := decide (lineOf pa ≤ line ∧ line < lineOf pa + 128)
def State.rowPresent (s : State) (pa : Nat) : Bool := s.msc.any fun e => inRow pa e.1

/-- R113: the 2 MiB granule of `pa` has been written. -/
def State.touchPage (s : State) (pa : Nat) : State :=
  if s.touched.contains (pa / 2 ^ 21) then s else { s with touched := s.touched ++ [pa / 2 ^ 21] }

/-- `n` bytes inside one line of this module enter the MSC; a failing line that they merge into becomes POISON (R83, R417). -/
def State.mergeData (s : State) (pa n v : Nat) : State :=
  let s1 := ((s.accessUnits pa).markDirty (lineOf pa)).touchPage pa
  { s1.setSide (lineOf pa) ((s1.sideOf (lineOf pa)).afterWrite (decide (n = 64))) with mem := s1.mem.write pa n v }

/-- R83: the line that `n` bytes merge into fails its RSCHK or its E2E check. -/
def State.mergesBad (s : State) (pa n : Nat) : Bool := n != 64 && (s.sideOf (lineOf pa)).fails

/-- `n` bytes inside one line of this module enter the MSC, and the event of a failing line is logged (R83, R395, R417). -/
def State.mergeHere (s : State) (pa n v : Nat) : State :=
  if s.unserved pa then s.logHub 0x49 pa
  else (if s.mergesBad pa n then s.logHub 0x41 (linePa (lineOf pa)) else s).mergeData pa n v

/-- A write of `n` bytes inside one line of this module, at the MSC (R373, R381). -/
def State.writeHere (s : State) (self : Option Nat) (pa n v : Nat) : State :=
  (s.revokeWords self (dkey s.flash.modId.toNat pa) n).mergeHere pa n v

/-! ## What an access answers -/

/-- The answer of an access: done with its data and the line's condition, or waiting for another module or the host. -/
inductive Acc
  | done (s : State) (data : Nat) (cond : Option Cond)
  | wait (s : State)
deriving DecidableEq, Repr, Inhabited

/-- R84, R116: the column path finds that a line fails its E2E: the slice that holds it, or the vertical bus that
carries it, scores; unless a hart's instruction carried it, it is logged. DEDUCED, log 57, unsafe. -/
def State.e2eFound (s : State) (w : Waiter) (pa : Nat) : State :=
  let s1 := match s.msc.find (lineOf pa) with
    | some _ => s.addScore 5 (paCore pa / 128 * 16 + fld pa 6 4) 32
    | none => s.addScore 3 (s.server pa / 4) 32
  match w with
  | .hart _ _ => s1
  | .copy _ _ _ => s1
  | _ => s1.logHub 0x41 (linePa (lineOf pa))

/-- A line of this module as a reader finds it. -/
def State.foundHere (s : State) (w : Waiter) (pa n : Nat) (x : Side) : Acc :=
  .done (((if x.cond = some .e2eBad then s.e2eFound w pa else s).accessUnits pa).mscFill (lineOf pa)) (s.mem.read pa n)
    x.cond

/-- R385: an agent of this module whose request of its own for the line has been answered has had its access: those of other modules
go on. -/
def State.hadFirst (s : State) (w : Waiter) (line : Nat) : State :=
  if s.firsts = [] then s else { s with firsts := s.firsts.filter fun e => e != (line, w) }

/-- What a forwarded line is kept as: its data, its POISON, and its E2E as what differs from the right one (R84). -/
def fwdLine (data : Nat) (poison : Bool) (e2eDiff : BitVec 16) : Nat :=
  data % 2 ^ 512 + bnat poison * 2 ^ 512 + e2eDiff.toNat * 2 ^ 513

/-- R385: reads of this module's memory. A line that another module holds in E, O or M is asked for. -/
def State.readHere (s : State) (w : Waiter) (va pa n : Nat) : Acc :=
  if s.asleep pa || s.busHeld w || s.rowTested pa then .wait (s.accessWait w pa)
  else if s.unserved pa then .done s (s.mem.read pa n) (some .poison)
  else
    let x := s.sideOf (lineOf pa)
    match x.owner with
    | some y =>
      if 2 ≤ x.state.toNat ∧ x.state.toNat ≤ 4 then
        match (s.hostData w).find (fwdKey (lineOf pa)) with
        | some v =>
          .done ((s.setHostData w ((s.hostData w).drop (fwdKey (lineOf pa)))).hadFirst w (lineOf pa)) (fld v (8 * (pa % 64)) (8 * n))
            (if bit v 512 then some .poison else none)
        | none => .wait (s.request w (askLine va y.toNat (lineOf pa) msgForward) (.fabric y.toNat msgForward (lineOf pa) 0))
      else (s.hadFirst w (lineOf pa)).foundHere w pa n x
    | none => (s.hadFirst w (lineOf pa)).foundHere w pa n x

/-- R47, R385: a walk's read of a table's line that another module holds in E, O or M: its owner is asked for it. `detail` is that of
`walkWait`. -/
def State.walkRequest (s : State) (w : Waiter) (detail : Nat) : State :=
  let pa := detail % 2 ^ 40
  let va := detail / 2 ^ 40
  let y := ((s.sideOf (lineOf pa)).owner.getD s.flash.modId).toNat
  s.request w ⟨va, y, linePa (lineOf pa), false, msgWalk⟩ (.fabric y msgForward (lineOf pa) 0)

/-- R385: what a write by an agent of the home waits for: the recall of a line that another module holds in E, O or M, and
the acknowledgements of the invalidations of shared copies. A write waits for the latter before it is performed at any
scope. DEDUCED, log 23, safe. -/
def State.ownHere (s : State) (w : Waiter) (va pa : Nat) : Option State :=
  let x := s.sideOf (lineOf pa)
  if x.away then
    some (s.request w (askLine va (x.owner.getD s.flash.modId).toNat (lineOf pa) msgRecall)
      (.fabric (x.owner.getD s.flash.modId).toNat msgRecall (lineOf pa) 0))
  else if (x.state = 1 ∨ s.unacked (lineOf pa) ≠ []) ∧ s.others ≠ [] then
    some (s.request w (askLine va (s.others.headD 0) (lineOf pa) msgInvalidate) (.hostRequest 0 0 0 0 0))
  else none

/-- R385: the sideband of a line of which no other module holds a copy any more. -/
def State.dropShared (s : State) (line : Nat) : State :=
  let x := s.sideOf line
  if x.state = 1 then s.setSide line { x with state := 0, owner := none } else s

/-- R390: the agent has posted writes to host memory that no completed read has followed. -/
def State.posted (s : State) : Waiter → Bool
  | .hart c b => (s.hart c b).posted
  | .stored c b => (s.hart c b).posted
  | .copy c b n => ((s.hart c b).slots.get n {}).posted
  | .ct c => (s.ct c).posted
  | _ => false

def State.setPosted (s : State) (w : Waiter) (v : Bool) : State :=
  match w with
  | .hart c b => s.setHart c b { s.hart c b with posted := v }
  | .stored c b => s.setHart c b { s.hart c b with posted := v }
  | .copy c b n =>
    let h := s.hart c b
    s.setHart c b { h with slots := h.slots.put n { h.slots.get n {} with posted := v } }
  | .ct c => s.setCt c { s.ct c with posted := v }
  | _ => s

/-- Where the completion of a zero-length read is kept. -/
def readMark : Nat := 2 ^ 52

/-- R90: a bus address that the function of an agent's task may read: the base of its first enabled window with RD. -/
def State.readWindow (s : State) (w : Waiter) : Option Nat :=
  let fn := match ownCore w with
    | some c => s.fnOf c
    | none => 0
  (s.bar.dmawin.find? fun e => e.2.en && e.2.rd && e.2.fn.toNat == fn).map fun e => e.2.base.toNat * 4096

/-- R390: what ends a release of system scope (and a copy to the host): a zero-length read to the root complex, unless
the agent has no posted write before it, or `need` is false. R90 lets it out only inside a window with RD; where the
function has none, no read is sent and the release ends at once. DEDUCED, log 65, unsafe. -/
def State.hostSettled (s : State) (need : Bool) (w : Waiter) (va : Nat) : Acc :=
  if !need || !s.posted w then .done s 0 none
  else match (s.hostData w).find readMark, s.readWindow w with
    | some _, _ => .done ((s.setHostData w ((s.hostData w).drop readMark)).setPosted w false) 0 none
    | none, some bus => .wait (s.request w (askHost va readMark) (.hostRequest 0 bus 0 0 0))
    | none, none => .done (s.setPosted w false) 0 none

/-- R114: an access of an agent waits for its own bus. -/
def State.ownWait (s : State) (w : Waiter) : State :=
  match ownCore w with
  | some c => s.unitWait 3 (c / 4)
  | none => s

/-- A load of `n` bytes, naturally aligned or inside one line. DESIGN CHOICE, log 11, unsafe. -/
def State.load (s : State) (w : Waiter) (va : Nat) (p : Place) (n : Nat) : Acc :=
  if s.busHeld w then .wait (s.ownWait w)
  else match p with
  | .here pa => s.readHere w va pa n
  | .remote m pa =>
    if s.sliceHeld pa then .wait (s.accessWait w pa)
    else match s.rlines.find (rkey m pa) with
    | some l => .done s (fld l.data (8 * (pa % 64)) (8 * n)) l.cond
    | none => .wait (s.request w (askLine va m (lineOf pa) msgRead) (.fabric m msgRead (lineOf pa) 0))
  | .host bus =>
    match (s.hostData w).find bus with
    | some v => .done (s.setHostData w ((s.hostData w).drop bus)) (v % 2 ^ (8 * n)) none
    | none => .wait (s.request w (askHost va bus) (.hostRequest 0 bus n 0 0))

/-- Data put into a line at byte `o`. -/
def patch (data o n v : Nat) : Nat :=
  data - fld data (8 * o) (8 * n) * 2 ^ (8 * o) + v % 2 ^ (8 * n) * 2 ^ (8 * o)

/-- A store of `n` bytes inside one line, by control thread `self` or by another agent. Stores to host memory are
posted (R387). -/
def State.store (s : State) (w : Waiter) (self : Option Nat) (va : Nat) (p : Place) (n v : Nat) : Acc :=
  if s.busHeld w then .wait (s.ownWait w)
  else match p with
  | .here pa =>
    if s.rowTested pa then .wait (s.touchPage pa)
    else if s.sensing pa || s.asleep pa then .wait (s.accessWait w pa)
    else match s.ownHere w va pa with
    | some s' => .wait s'
    | none => .done (((s.dropShared (lineOf pa)).writeHere self pa n v).hadFirst w (lineOf pa)) 0 none
  | .remote m pa =>
    if s.sliceHeld pa then .wait (s.accessWait w pa)
    else match s.rlines.find (rkey m pa) with
    | some l =>
      if l.st = .e ∨ l.st = .m then
        let bad := decide (n < 64) && (l.poison || l.e2eDiff != 0)
        let l' := { l with st := .m, data := patch l.data (pa % 64) n v, poison := bad, e2eDiff := 0 }
        .done { s.revokeWords self (dkey m pa) n with rlines := s.rlines.put (rkey m pa) l' } 0 none
      else .wait (s.request w (askLine va m (lineOf pa) msgOwn) (.fabric m msgOwn (lineOf pa) 0))
    | none => .wait (s.request w (askLine va m (lineOf pa) msgOwn) (.fabric m msgOwn (lineOf pa) 0))
  | .host bus => .done ((s.send (.hostWrite bus n (v % 2 ^ (8 * n)) false)).setPosted w true) 0 none

/-- R396: the new value of an atomic operation of `bits` bits, with `x` AMOCAS's compared value; `none` writes nothing. -/
def amoNew (op bits old b x : Nat) : Option Nat :=
  match op with
  | 0 => some ((old + b) % 2 ^ bits)
  | 1 => some b
  | 2 => if old = x then some b else none
  | 3 => some (if sval bits old ≤ sval bits b then old else b)
  | 4 => some (if sval bits old ≤ sval bits b then b else old)
  | 5 => some (old &&& b)
  | 6 => some (old ||| b)
  | 7 => some (old ^^^ b)
  | 8 => some (min old b)
  | _ => some (max old b)

/-- What marks the address of a request for an operation at the home, apart from requests for lines. -/
def amoMark : Nat := 2 ^ 45

/-- R396, R388: an atomic operation of `n` bytes: `op` as AMO's fn (8 and 9 are the control thread's AMOMINU and
AMOMAXU), `sys` for system scope. It answers the old value. AtomicOps to the host are 1 FetchAdd, 2 Swap, 3 CAS. -/
def State.atomic (s : State) (w : Waiter) (self : Option Nat) (va : Nat) (p : Place) (n op b x : Nat) (sys : Bool) :
    Acc :=
  if s.busHeld w then .wait (s.ownWait w)
  else match p with
  | .host bus =>
    match (s.hostData w).find bus with
    | some v => .done (s.setHostData w ((s.hostData w).drop bus)) (v % 2 ^ (8 * n)) none
    | none => .wait (s.request w ⟨va, 0, bus, true, 17 + op⟩
        (.hostRequest (op + 1) bus n (BitVec.ofNat 64 b) (BitVec.ofNat 64 x)))
  | .remote m pa =>
    if sys then
      match (s.hostData w).find (dkey m pa) with
      | some v => .done (s.setHostData w ((s.hostData w).drop (dkey m pa))) (v % 2 ^ (8 * n)) none
      | none => .wait (s.request w ⟨va, m, amoMark + pa, false, msgAmo⟩
          (.fabric m msgAmo pa (op + 16 * n + 2 ^ 16 * b + 2 ^ 80 * x)))
    else if s.sliceHeld pa then .wait (s.accessWait w pa)
    else match s.rlines.find (rkey m pa) with
    | some l =>
      if l.st = .e ∨ l.st = .m then
        let old := fld l.data (8 * (pa % 64)) (8 * n)
        if l.cond.isSome then .done s old l.cond
        else match amoNew op (8 * n) old b x with
        | none => .done s old none
        | some v => .done { s.revokeWords self (dkey m pa) n with
            rlines := s.rlines.put (rkey m pa) { l with st := .m, data := patch l.data (pa % 64) n v } } old none
      else .wait (s.request w (askLine va m (lineOf pa) msgOwn) (.fabric m msgOwn (lineOf pa) 0))
    | none => .wait (s.request w (askLine va m (lineOf pa) msgOwn) (.fabric m msgOwn (lineOf pa) 0))
  | .here pa =>
    if s.rowTested pa then .wait (s.touchPage pa)
    else if s.sensing pa || s.asleep pa then .wait (s.accessWait w pa)
    else match s.ownHere w va pa with
    | some s' => .wait s'
    | none =>
      match s.readHere w va pa n with
      | .wait s' => .wait s'
      | .done s1 old (some c) => .done s1 old (some c)
      | .done s1 old none =>
        match amoNew op (8 * n) old b x with
        | none => .done s1 old none
        | some v => .done ((s1.dropShared (lineOf pa)).writeHere self pa n v) old none

/-- The cause of a read's condition, with the detail of R48 (R395, R417). DEDUCED, log 26, unsafe. -/
def condCause (c : Cond) (va : Nat) (write : Bool) : Cause := (c.cause, detail48 va .col 0 write)

end Sys2Proof.Machine
end

