-- ==== Sys2Proof/Machine/Regs.lean ====
section
/-! DEFINITION. What a hart's registers hold: scalar registers, masks, vector contents by element and by group, tags
(R31, R33, R167, R189, R270 to R273). -/

namespace Sys2Proof.Machine

/-- A scalar register; g0 reads 0 (R31). -/
def Hart.greg (h : Hart) (r : Nat) : Word := if r = 0 then 0 else h.g.get r 0

/-- R167: a write of g0 is discarded. -/
def Hart.setG (h : Hart) (r : Nat) (v : Word) : Hart := if r = 0 then h else { h with g := h.g.put r v }

/-- A mask register; m0 is all ones (R31). -/
def Bank.mask (k : Bank) (m : Nat) : Nat := if m = 0 then 2 ^ 8192 - 1 else k.masks.get m 0

/-- R167: a write of m0 is discarded. -/
def Bank.setMask (k : Bank) (m v : Nat) : Bank := if m = 0 then k else { k with masks := k.masks.put m (v % 2 ^ 8192) }

/-- What a register reads as (R33, R189): a CLOSED latch, and a register not written since task start, as zero. -/
def VReg.content (r : Nat) (x : VReg) : Nat :=
  if r < 8 then (if x.latch = .closed then 0 else x.bits) else (if x.valid then x.bits else 0)

/-- Element `i` of width `w` bits (R271). -/
def elemAt (bits w i : Nat) : Nat := bits >>> (w * i) % 2 ^ w

/-- A row with element `i` of width `w` replaced. -/
def putElem (bits w i v : Nat) : Nat := bits ^^^ ((elemAt bits w i ^^^ v % 2 ^ w) <<< (w * i))

/-- R270: bits of an element. -/
def tagBits (t : Nat) : Nat :=
  match t with
  | 0 | 1 | 8 | 9 => 8
  | 2 | 3 | 10 | 11 => 16
  | 4 | 5 | 12 => 32
  | 13 => 4
  | 14 => 2
  | _ => 64

/-- R270: elements of a row. -/
def capOf (t : Nat) : Nat := 65536 / tagBits t

/-- R13, R272: the group of element `i` of width `w`. -/
def groupOf (w i : Nat) : Nat := i * w / 8 % 256 / 8

/-- R273: the mask bit of element `i` under tag `t`. -/
def maskIndex (t i : Nat) : Nat := if t = 13 then i / 2 else if t = 14 then i / 4 else i

/-- R272, R203: the line of a register that group `g` reads in lane `j`. -/
def groupLine (g j : Nat) : Nat := 4 * j + g / 8

/-- The lowest group that reads line `n` (R203). -/
def lineGroup (n : Nat) : Nat := 8 * (n % 4)

/-- R193: leading arrival bits. -/
def VReg.progress (x : VReg) : Nat :=
  ((List.range 32).takeWhile fun g => x.arrival.getLsbD g).length

/-- The bytes of group `g`, by lane, as one mask over the row. -/
def groupMask (g : Nat) : Nat :=
  (List.range 32).foldl (fun a j => a ||| (0xffffffffffffffff <<< (2048 * j + 64 * g))) 0

/-- The element tag of a register of a hart. -/
def State.tag (s : State) (c b r : Nat) : Nat := (s.reg c b r).tag.toNat

def State.greg (s : State) (c b r : Nat) : Word := (s.hart c b).greg r

/-- Whether line `n` of a register has a condition that a consumer meets (R203). -/
def VReg.badLine (x : VReg) (n : Nat) : Option Cond := (x.conds.find n).map (·.cond)

/-- The first bad line, by lane, that group `g` of a register reads. -/
def VReg.badIn (x : VReg) (g : Nat) : Option (Nat × Cond) :=
  ((List.range 32).filterMap fun j => (x.badLine (groupLine g j)).map fun c => (groupLine g j, c)).head?

/-- R203: group `g` was committed with every byte new (or not); a line whose eight groups all were is GOOD again. -/
def freshLine (g : Nat) (full : Bool) (e : Nat × LineCond) : Option (Nat × LineCond) :=
  if e.1 % 4 = g / 8 ∧ full then
    let f := e.2.fresh ||| 2 ^ (g % 8)
    if f = 255 then none else some (e.1, { e.2 with fresh := f })
  else some e

def VReg.freshen (x : VReg) (g : Nat) (full : Bool) : VReg := { x with conds := x.conds.filterMap (freshLine g full) }

end Sys2Proof.Machine
end

