-- ==== Sys2Proof/Machine/Latch.lean ====
section
/-! DEFINITION. Rows, the memory-side cache and other modules: what opening and writing a row do (R228 to R231, R236 to
R240). -/

namespace Sys2Proof.Machine

/-- The first PA of the row of `pa`. -/
def rowStart (pa : Nat) : Nat := pa / 8192 * 8192

/-- The lines of a row that another module holds in E, O or M (R384). -/
def State.remoteLines (s : State) (pa : Nat) : List (Nat × Side) :=
  s.side.filter fun e =>
    inRow pa e.1 && e.2.away

/-- R187, R114: a SAG that an array operation may start on. -/
def State.sagIdle (s : State) (c b k : Nat) : Bool :=
  let x := (s.bank c b).sag k
  !x.busy && !x.forced && !x.step

/-- R114: an array operation other than Fen's waits for a SAG. -/
def State.sagWait (s : State) (c b k : Nat) : State := s.unitWait 2 (sagUnit c b k)

/-- R187: a SAG is busy from the start of an array operation, until SAG_BUSY_END in a stepwise run. -/
def State.setSagBusy (s : State) (c b k : Nat) (v : Bool) : State :=
  s.setBank c b ((s.bank c b).setSag k { (s.bank c b).sag k with busy := v })

/-- An array operation other than Fen's starts on a SAG (R114, R187). -/
def State.useSag (s : State) (c b k : Nat) : State := (s.setSagBusy c b k s.stepwise).unitUsed 2 (sagUnit c b k)

/-- R237: the home has read the row's sideband for a recall: a recall row read, charged to RECALL (R102, R186). `none` while
its budget is spent. -/
def State.recallRead (s : State) (c b k pa : Nat) : Option State :=
  if s.recalls.contains pa then some s
  else if !s.affords c .recalls 1 then none
  else some { (s.charge c .recalls 1).useSag c b k with recalls := s.recalls ++ [pa] }

/-- R385: an agent of this module that has waited for the lines of a row has its access now. -/
def State.hadRow (s : State) (pa : Nat) : State :=
  if s.firsts = [] then s else { s with firsts := s.firsts.filter fun e => !inRow pa e.1 }

/-- R237: the state waiting for a recall that an ACT of the row needs, if it needs one; otherwise ROWN is clear. -/
def State.recallRow (s : State) (c b k va pa : Nat) : State ⊕ State :=
  if s.rown.contains pa then
    match s.recallRead c b k pa with
    | none => .inl s
    | some s1 => match s1.remoteLines pa with
      | [] => .inr { s1.hadRow pa with rown := s1.rown.filter (· != pa), recalls := s1.recalls.filter (· != pa) }
      | e :: _ =>
        let y := (e.2.owner.getD s.flash.modId).toNat
        .inl (s1.request (.hart c b) (askLine va y e.1 msgRecall) (.fabric y msgRecall e.1 0))
  else .inr s

/-- R237: the MSC writes back the row's dirty lines; the copies stay, clean. -/
def State.writeBackRow (s : State) (pa : Nat) : State :=
  { s with msc := s.msc.map fun e => if inRow pa e.1 then (e.1, none) else e }

/-- R239: what a WB or WBP waits for before it writes its row: the invalidation of the row in every module where RSHR is set,
and of the lines that other modules hold in E, O or M, whose data are discarded. The home sees to it while the word waits at
issue. DEDUCED, log 77, unsafe. -/
def State.rowOut (s : State) (c b va pa : Nat) : Option State :=
  let ask := fun (m line kind : Nat) =>
    some (s.request (.hart c b) (askLine va m line kind) (.hostRequest 0 0 0 0 0))
  if s.rshr.contains pa && s.others != [] then ask (s.others.headD 0) (lineOf pa) msgInvalRow
  else if s.rown.contains pa then
    match s.remoteLines pa with
    | [] => none
    | e :: _ => ask (e.2.owner.getD s.flash.modId).toNat e.1 msgInvalidate
  else none

/-- R239: the MSC's lines of the row are invalidated as a WB writes it, and the dirty ones that it discards are logged. -/
def State.discardRow (s : State) (pa : Nat) : State :=
  let mine := s.msc.filter fun e => inRow pa e.1 && e.2.isSome
  mine.foldl (fun t e => t.logHub 0x46 (linePa e.1))
    { s.hadRow pa with msc := s.msc.filter (fun e => !inRow pa e.1), rshr := s.rshr.filter (· != pa), rown := s.rown.filter (· != pa) }

/-- R381: a reservation of one of the 128 lines from `line` ends. -/
def Ct.endResvRow (t : Ct) (line : Nat) : Ct :=
  { t with resv := match t.resv with
      | some l => if line ≤ l ∧ l < line + 128 then none else some l
      | none => none }

/-- R229, R381: the row at `pa` becomes `bits`; a line that has a condition has POISON and the E2E that the latch held; owned
words and reservations of control threads end. -/
def State.putRow (s : State) (pa bits : Nat) (conds : Tab LineCond) : State :=
  let s1 := (s.revokeWords none (dkey s.flash.modId.toNat pa) 8192).touchPage pa
  let side := s1.side.filter fun e => !inRow pa e.1
  let cores := s1.cores.mapVals fun _ k => { k with ct := k.ct.endResvRow (lineOf (dkey s.flash.modId.toNat pa)) }
  { s1 with
    mem := s1.mem.place pa 13 bits
    side := conds.foldl (fun t e => Tab.put t (lineOf pa + e.1) { poison := true, e2eDiff := e.2.side.e2eDiff }) side
    cores := cores }

/-- R228 to R230: the row write of a WB, WBP or SST of captured data. -/
def State.writeRow (s : State) (pa bits : Nat) (conds : Tab LineCond) : State := (s.discardRow pa).putRow pa bits conds

/-- R228: the end of a capture: the latch is bound to the row and clean, or CLOSED. -/
def State.endCapture (s : State) (c b k pa : Nat) (close : Bool) : State :=
  let x := s.reg c b k
  s.setReg c b k (if close then { x with latch := .closed, row := none, dirty := false, conds := [] }
    else { x with latch := .opened, row := some pa, dirty := false })

/-- R231: PRE. -/
def State.closeLatch (s : State) (c b k : Nat) : State :=
  let x := s.reg c b k
  s.setReg c b k { x with latch := .closed, row := none, dirty := false, conds := [], arrival := 0xffffffff }

/-- R232: a row of the SAG is refreshed. -/
def Sag.refresh (x : Sag) : Sag := { x with owed := x.owed - 1, ptr := (x.ptr + 1) % 528 }

/-- The work of a hart's words in progress: of its present word, and of those behind it. -/
def Hart.works (h : Hart) : List Pend := h.pend.toList ++ h.young.filterMap (·.work)

/-- R230, R240: the row is being written by a WB, WBP or SST; requests of other modules for its lines wait for the end of
it. -/
def State.rowWriting (s : State) (pa : Nat) : Bool :=
  (s.hart (paCore pa) (paBank pa)).works.any fun w => match w with
    | .capture _ p _ _ => p == rowStart pa
    | .rowWrite _ p _ _ _ => p == rowStart pa
    | _ => false

/-- R236: rows that a latch is bound to. -/
def State.rowHeld (s : State) (pa : Nat) : Bool :=
  let r := s.reg (paCore pa) (paBank pa) (paSag pa)
  r.latch != .closed && r.row == some (rowStart pa)

/-! ## The range-interlock table (R371). In this model an access of a hart is performed before its next word issues, so
the entries that a later access of the hart can meet are those of its copies and row operations in progress, and its stores that have
still to be performed (R372); the table holds those of every hart's accesses in progress. -/

/-- A place as a copy's slot holds it. -/
def Place.code : Place → Nat × Nat
  | .here pa => (65, pa)
  | .remote m pa => (m, pa)
  | .host bus => (64, bus)

/-- A unit of 8 KiB overlaps the `n` bytes at a place. -/
def unitMeets (p : Nat × Nat) (n : Nat) (u : Nat × Nat) : Bool :=
  p.1 == u.1 && decide (p.2 < u.2 + 8192) && decide (u.2 < p.2 + n)

/-- The `n` bytes at a place overlap what a put writes. -/
def putMeets (p : Place) (n : Nat) (x : Put) : Bool :=
  p.code.1 == x.place.code.1 && decide (p.code.2 < x.place.code.2 + x.n) && decide (x.place.code.2 < p.code.2 + n)

/-- R371: a row operation in progress overlaps the access, and either of the two writes. -/
def Pend.rowMeets (p : Place) (n : Nat) (write : Bool) : Pend → Bool
  | .sense _ pa _ => write && unitMeets p.code n (65, pa)
  | .capture _ pa _ _ => unitMeets p.code n (65, pa)
  | .rowWrite _ pa _ _ _ => unitMeets p.code n (65, pa)
  | _ => false

/-- R371, R372: an entry, or a store not yet performed, of the hart overlaps the access and either of the two writes. -/
def State.held (s : State) (c b : Nat) (p : Place) (n : Nat) (write : Bool) : Bool :=
  let h := s.hart c b
  (h.slots.any fun e =>
    e.2.busy && (e.2.dst.any (unitMeets p.code n) || (write && e.2.src.any (unitMeets p.code n)))) ||
    h.stores.any (putMeets p n) || h.works.any (Pend.rowMeets p n write)

/-- R26: the requests that an access in progress holds: those of the groups of a gather that have not committed and of the one that
it fetches, those of a scatter's group, and one of a load or an atomic operation. -/
def Pend.requests : Pend → Nat
  | .gather _ op => op.todo.foldl (fun n g => n + g.req) op.asks
  | .scatter _ asks => asks
  | .column _ => 1
  | _ => 0

/-- R26: the requests that a hart holds; a store that has not been performed holds one. -/
def Hart.requests (h : Hart) : Nat := h.works.foldl (fun n p => n + p.requests) h.stores.length

/-- R26: the requests of the gather unit that are held: by the harts, and by a miss of the control thread. -/
def State.requestsHeld (s : State) (c : Nat) : Nat :=
  (s.core c).harts.foldl (fun n e => n + e.2.requests) (bnat (s.ct c).rreq.isSome)

/-- R26: `n` requests are free. -/
def State.requestsFree (s : State) (c n : Nat) : Bool := decide (s.requestsHeld c + n ≤ Config.requestLimit)

/-- R371: the entry of a V-class access in progress. -/
def Pend.entries : Pend → Nat
  | .sense _ _ _ | .capture _ _ _ _ | .rowWrite _ _ _ _ _ | .gather _ _ | .scatter _ _ => 1
  | _ => 0

/-- R371: the entries a hart holds: two for each copy, and those of the words in progress. -/
def Hart.entries (h : Hart) : Nat :=
  2 * (h.slots.filter fun x => x.2.busy).length + (h.works.map Pend.entries).sum

/-- R371: a V-class access that needs `need` entries finds fewer free. -/
def State.tableFull (s : State) (c need : Nat) : Bool :=
  decide (64 < need + (s.core c).harts.foldl (fun n e => n + e.2.entries) 0)

end Sys2Proof.Machine
end

