-- ==== Sys2Proof/Machine/Num.lean ====
section
/-! DEFINITION. Exact values, formats, rounding, conversion and stochastic draws (R270 to R289). -/

namespace Sys2Proof.Machine

/-- An exact value: NaN, an infinity (`true` negative), or `n / d`; `nz` is the sign of a zero. -/
inductive XVal
  | nan
  | inf (neg : Bool)
  | fin (n : Int) (d : Nat) (nz : Bool)
deriving DecidableEq, Repr, Inhabited

/-- m × 2^e. -/
def dyad (m : Int) (e : Int) (nz : Bool) : XVal :=
  if 0 ≤ e then .fin (m * 2 ^ e.toNat) 1 nz else .fin m (2 ^ (-e).toNat) nz

def XVal.ofInt (n : Int) : XVal := .fin n 1 false

def XVal.isNan : XVal → Bool
  | .nan => true
  | _ => false

def XVal.isInf : XVal → Bool
  | .inf _ => true
  | _ => false

def XVal.isFin : XVal → Bool
  | .fin _ _ _ => true
  | _ => false

def XVal.isZero : XVal → Bool
  | .fin n _ _ => n == 0
  | _ => false

/-- Negative, with the sign of a zero or an infinity. -/
def XVal.isNeg : XVal → Bool
  | .nan => false
  | .inf g => g
  | .fin n _ z => if n = 0 then z else decide (n < 0)

def XVal.isInteger : XVal → Bool
  | .fin n d _ => n % (d : Int) == 0
  | _ => false

/-- A float format (R275): exponent bits, mantissa bits, bias, whether it has infinities. -/
structure Fmt where
  e : Nat
  f : Nat
  b : Nat
  infs : Bool
deriving DecidableEq, Repr, Inhabited

def fmtFP32 : Fmt := ⟨8, 23, 127, true⟩
def fmtFP16 : Fmt := ⟨5, 10, 15, true⟩
def fmtBF16 : Fmt := ⟨8, 7, 127, true⟩
def fmtE5M2 : Fmt := ⟨5, 2, 15, true⟩
def fmtE4M3 : Fmt := ⟨4, 3, 7, false⟩
def fmtE2M1 : Fmt := ⟨2, 1, 1, false⟩

/-- The format of a float tag. -/
def fmtOf (t : Nat) : Fmt :=
  match t with
  | 8 => fmtE4M3
  | 9 => fmtE5M2
  | 10 => fmtBF16
  | 11 => fmtFP16
  | _ => fmtFP32

/-- The magnitude code of the largest finite value. -/
def Fmt.maxCode (m : Fmt) : Nat :=
  if m.infs then (2 ^ m.e - 1) * 2 ^ m.f - 1 else if m.f = 3 then 0x7e else 7

/-- The canonical NaN. -/
def Fmt.nan (m : Fmt) : Nat := if m.infs then (2 ^ m.e - 1) * 2 ^ m.f + 2 ^ (m.f - 1) else 0x7f

/-- The magnitude code of infinity. -/
def Fmt.infCode (m : Fmt) : Nat := (2 ^ m.e - 1) * 2 ^ m.f

/-- The exponent of the smallest subnormal. -/
def Fmt.qmin (m : Fmt) : Int := 1 - (m.b : Int) - (m.f : Int)

/-- A code with its sign bit. -/
def Fmt.signed (m : Fmt) (neg : Bool) (mag : Nat) : Nat := mag + bnat neg * 2 ^ (m.e + m.f)

/-- R275: the value of a code. -/
def Fmt.value (m : Fmt) (c : Nat) : XVal :=
  let neg := c.testBit (m.e + m.f)
  let mag := c % 2 ^ (m.e + m.f)
  let E := mag / 2 ^ m.f
  let M := mag % 2 ^ m.f
  if m.infs && E == 2 ^ m.e - 1 then (if M = 0 then .inf neg else .nan)
  else if !m.infs && m.f == 3 && mag == 0x7f then .nan
  else
    let x : Nat := if E = 0 then M else 2 ^ m.f + M
    dyad (if neg then -(x : Int) else x) (m.qmin + (if E = 0 then 0 else (E : Int) - 1)) neg

/-- R277. -/
def ue5m3 (c : Nat) : XVal :=
  if c = 0xff then .nan else dyad (8 + c % 8 : Nat) ((c / 8 : Nat) - 18) false

/-- What rounding reads: rmode (R224). -/
structure Rm where
  rm : Nat
  sat : Bool
  nantrap : Bool
  seedRpt : Bool
deriving DecidableEq, Repr, Inhabited

def rmOf (x : BitVec 6) : Rm :=
  ⟨x.toNat % 8, x.getLsbD 3, x.getLsbD 4, x.getLsbD 5⟩

/-- What rounding writes: the generator's state and flags (bits 0 SAT, 1 NANP, 2 OOR, 3 INEXACT). -/
structure Rd where
  seed : Nat
  fl : BitVec 4 := 0
deriving DecidableEq, Repr, Inhabited

def Rd.inexact (r : Rd) : Rd := { r with fl := r.fl ||| 8#4 }
def Rd.sat (r : Rd) : Rd := { r with fl := r.fl ||| 1#4 }
def Rd.nanp (r : Rd) : Rd := { r with fl := r.fl ||| 2#4 }
def Rd.oor (r : Rd) : Rd := { r with fl := r.fl ||| 4#4 }
def Rd.inexactIf (r : Rd) (c : Bool) : Rd := if c then r.inexact else r

/-- R288: the generator's next state. -/
def nextSeed (s : Nat) : Nat :=
  let a := s ^^^ (s * 2 ^ 13 % 2 ^ 32)
  let b := a ^^^ (a / 2 ^ 17)
  b ^^^ (b * 2 ^ 5 % 2 ^ 32)

/-- R289: a `Round` call takes its draw under SR. -/
def Rd.draw (r : Rd) (rm : Nat) : Rd := if rm = 5 then { r with seed := nextSeed r.seed } else r

/-- R284, R288: whether a value between `lo` and its successor, at fraction `r / d` above `lo`, goes to the one of
larger magnitude. `odd` is lo's last bit, `u` the draw. -/
def roundUp (rm : Nat) (neg : Bool) (odd : Bool) (r d u : Nat) : Bool :=
  if r = 0 then false
  else match rm with
    | 0 => decide (d < 2 * r) || (2 * r == d && odd)
    | 1 => false
    | 2 => neg
    | 3 => !neg
    | 4 => decide (d ≤ 2 * r)
    | _ => if neg then !decide (u * d < (d - r) * 2 ^ 32) else decide (u * d < r * 2 ^ 32)

/-- floor(log2(n / d)) of a positive quotient. -/
def logFloor (n d : Nat) : Int :=
  let k : Int := (n.log2 : Int) - (d.log2 : Int)
  if 0 ≤ k then (if n < d * 2 ^ k.toNat then k - 1 else k)
  else (if n * 2 ^ (-k).toNat < d then k - 1 else k)

/-- A positive magnitude n / d rounded to a format with its exponent unbounded above: the code, counted on past the
largest finite one, and whether it is inexact. -/
def roundMag (m : Fmt) (rm : Nat) (neg : Bool) (n d u : Nat) : Nat × Bool :=
  let q := max m.qmin (logFloor n d - (m.f : Int))
  let N := if q < 0 then n * 2 ^ (-q).toNat else n
  let D := if q < 0 then d else d * 2 ^ q.toNat
  let lo := (q - m.qmin).toNat * 2 ^ m.f + N / D
  (if roundUp rm neg (N / D % 2 == 1) (N % D) D u then lo + 1 else lo, N % D != 0)

/-- R285: the code of an overflow, by mode and sign: infinity, or the largest finite value. -/
def overflowInf (rm : Nat) (neg : Bool) : Bool :=
  match rm with
  | 1 => false
  | 2 => neg
  | 3 => !neg
  | _ => true

/-- R13, R284, R285: `Round` to a float format. In E4M3 an infinity becomes the NaN, in E2M1 it becomes 6 and raises SAT;
either way the result differs from the infinity, and INEXACT is raised. -/
def roundFloat (m : Fmt) (rm : Nat) (x : XVal) (st0 : Rd) : Nat × Rd :=
  let st := st0.draw rm
  let toInf := fun (neg : Bool) (st : Rd) =>
    if m.infs then (m.signed neg m.infCode, st)
    else if m.f = 3 then (m.nan, st.inexact)
    else (m.signed neg m.maxCode, st.inexact.sat)
  match x with
  | .nan => (m.nan, st)
  | .inf neg => toInf neg st
  | .fin n d z =>
    if n = 0 then (m.signed z 0, st)
    else
      let neg := decide (n < 0)
      let (c, ix) := roundMag m rm neg n.natAbs d st.seed
      if c ≤ m.maxCode then (m.signed neg c, st.inexactIf ix)
      else if overflowInf rm neg then toInf neg st.inexact
      else (m.signed neg m.maxCode, st.inexact)

/-- R284: `Round` of a finite value to an integer, unbounded. -/
def roundInt (rm : Nat) (n : Int) (d : Nat) (st0 : Rd) : Int × Rd :=
  let st := st0.draw rm
  let a := n.natAbs
  let neg := decide (n < 0)
  let m : Nat := a / d + bnat (roundUp rm neg (a / d % 2 == 1) (a % d) d st.seed)
  (if neg then -(m : Int) else m, st.inexactIf (a % d != 0))

/-- R274: an integer tag's width, sign and ends. -/
def signedTag (t : Nat) : Bool := t % 2 == 0
def intMin (t : Nat) : Int := if signedTag t then -(2 ^ (tagBits t - 1) : Nat) else 0
def intMax (t : Nat) : Int :=
  if signedTag t then (2 ^ (tagBits t - 1) : Nat) - 1 else (2 ^ tagBits t : Nat) - 1
def indef (t : Nat) : Int := if signedTag t then intMin t else intMax t

/-- The encoding of an integer under a tag. -/
def encInt (t : Nat) (v : Int) : Nat := uval (tagBits t) v

/-- `Sat` to an integer tag. -/
def satInt (t : Nat) (v : Int) (st : Rd) : Nat × Rd :=
  if v < intMin t then (encInt t (intMin t), st.sat)
  else if intMax t < v then (encInt t (intMax t), st.sat)
  else (encInt t v, st)

/-- R286: `Convert` to an integer tag. -/
def convertInt (t : Nat) (rm : Rm) (x : XVal) (st : Rd) : Nat × Rd :=
  match x with
  | .nan => if rm.sat then (0, st.sat) else (encInt t (indef t), st.inexact)
  | .inf neg =>
    if rm.sat then (encInt t (if neg then intMin t else intMax t), st.sat) else (encInt t (indef t), st.inexact)
  | .fin n d _ =>
    let isInt := n % (d : Int) == 0
    let (v, st1) := if isInt then (n / (d : Int), st) else roundInt rm.rm n d st
    if intMin t ≤ v ∧ v ≤ intMax t then (encInt t v, st1)
    else if rm.sat then satInt t v st1
    else if isInt then (encInt t v, st1)
    else (encInt t (indef t), st1.inexact)

/-- The value an integer tag, a T2 or a float code has; QS4 needs its scale code. -/
def valueOf (t code scale : Nat) : XVal :=
  if t < 8 then .ofInt (if signedTag t then sval (tagBits t) code else (code : Int))
  else if t = 13 then
    match ue5m3 scale, fmtE2M1.value code with
    | .fin sn sd _, .fin n d z => .fin (n * sn) (d * sd) z
    | _, _ => .nan
  else if t = 14 then .ofInt (if code = 1 then 1 else if code = 3 then -1 else 0)
  else (fmtOf t).value code

/-! ## Exact arithmetic (R276, R283) -/

def XVal.neg : XVal → XVal
  | .nan => .nan
  | .inf g => .inf (!g)
  | .fin n d z => .fin (-n) d (!z)

def XVal.abs : XVal → XVal
  | .nan => .nan
  | .inf _ => .inf false
  | .fin n d _ => .fin (n.natAbs : Int) d false

/-- A sum; `rdn` is the sign that an exact zero of unlike signs takes (R276). -/
def XVal.add (rdn : Bool) : XVal → XVal → XVal
  | .nan, _ => .nan
  | _, .nan => .nan
  | .inf a, .inf b => if a = b then .inf a else .nan
  | .inf a, _ => .inf a
  | _, .inf b => .inf b
  | .fin n d z, .fin n' d' z' =>
    let m := n * (d' : Int) + n' * (d : Int)
    if d = d' then .fin (n + n') d (if n + n' = 0 then (if n = 0 ∧ z = z' then z else rdn) else false)
    else .fin m (d * d') (if m = 0 then (if n = 0 ∧ z = z' then z else rdn) else false)

def XVal.sub (rdn : Bool) (a b : XVal) : XVal := a.add rdn b.neg

def XVal.mul (a b : XVal) : XVal :=
  match a, b with
  | .nan, _ => .nan
  | _, .nan => .nan
  | .fin n d _, .fin n' d' _ => .fin (n * n') (d * d') (a.isNeg != b.isNeg)
  | x, y => if x.isZero || y.isZero then .nan else .inf (x.isNeg != y.isNeg)

/-- R312: division in REAL, as IEEE 754. -/
def XVal.div (a b : XVal) : XVal :=
  match a, b with
  | .nan, _ => .nan
  | _, .nan => .nan
  | .inf _, .inf _ => .nan
  | .inf x, y => .inf (x != y.isNeg)
  | x, .inf _ => .fin 0 1 (x.isNeg != b.isNeg)
  | .fin n d _, .fin n' d' _ =>
    if n' = 0 then (if n = 0 then .nan else .inf (a.isNeg != b.isNeg))
    else .fin (n * (d' : Int) * (if n' < 0 then -1 else 1)) (d * n'.natAbs) (a.isNeg != b.isNeg)

/-- Exact order of two values that are not NaN; zeros are equal. -/
def XVal.lt (a b : XVal) : Bool :=
  match a, b with
  | .nan, _ => false
  | _, .nan => false
  | .inf true, .inf true => false
  | .inf true, _ => true
  | _, .inf true => false
  | .inf false, _ => false
  | _, .inf false => true
  | .fin n d _, .fin n' d' _ => decide (n * (d' : Int) < n' * (d : Int))

def XVal.eq (a b : XVal) : Bool := !a.isNan && !b.isNan && !a.lt b && !b.lt a

/-- As `lt`, with −0 below +0 (R312). -/
def XVal.below (a b : XVal) : Bool := a.lt b || (a.isZero && b.isZero && a.isNeg && !b.isNeg)

/-- R312: NaN if either is NaN. -/
def XVal.min (a b : XVal) : XVal := if a.isNan || b.isNan then .nan else if b.below a then b else a
def XVal.max (a b : XVal) : XVal := if a.isNan || b.isNan then .nan else if a.below b then b else a

/-- R286: `Convert` of a value to tag `t` (not T2 or RAW); `scale` is the scale code of a QS4 element. -/
def convert (t : Nat) (rm : Rm) (scale : Nat) (x : XVal) (st : Rd) : Nat × Rd :=
  if t < 8 then convertInt t rm x st
  else if t = 13 then
    match x, ue5m3 scale with
    | .nan, _ => (0, st.inexact)
    | _, .nan => (0, st.inexact)
    | x, sc => roundFloat fmtE2M1 rm.rm (x.div sc) st
  else
    let (c, st1) := roundFloat (fmtOf t) rm.rm x st
    if t = 8 ∧ c = fmtE4M3.nan ∧ !x.isNan ∧ rm.sat then (fmtE4M3.signed x.isNeg fmtE4M3.maxCode, st1.sat) else (c, st1)

/-- Whether a code of tag `t` is a NaN (no code of an integer tag, QS4, T2 or RAW is). -/
def nanCode (t c : Nat) : Bool := decide (8 ≤ t ∧ t ≤ 12) && ((fmtOf t).value c).isNan

end Sys2Proof.Machine
end

