-- ==== Sys2Proof/Machine/Trans.lean ====
section
/-! DEFINITION. The transcendental operations and the SEXP combination (R13, R291, R293): the value of f(x) is enclosed
by integer arithmetic on 360 fractional bits, far finer than any FP32 rounding boundary can come to it, and rounded once
(log 16). -/

namespace Sys2Proof.Machine

/-- ln 2 in units of 2^-400. -/
def ln2 : Nat :=
  1789879222497203190815761498240779176894896805856420935579692301363062920687047601279850318367644315849030039181347319086

/-- Fractional bits. -/
def fixBits : Nat := 360

/-- floor(sqrt n), by `k` bits from the top. -/
def isqrtGo (n : Nat) : Nat → Nat → Nat
  | 0, r => r
  | k + 1, r => isqrtGo n k (if (r + 2 ^ k) * (r + 2 ^ k) ≤ n then r + 2 ^ k else r)

def isqrt (n : Nat) : Nat := isqrtGo n (n.log2 / 2 + 1) 0

/-- The square root of n / d, exact where it is a multiple of the grid 2^-200 relative to its size and otherwise the
middle of the grid cell that holds it. -/
def sqrtVal (n d : Nat) : XVal :=
  let k := 200 + d.log2
  let q := n * 4 ^ k / d
  let r := isqrt q
  if r * r * d = n * 4 ^ k then .fin (r : Int) (2 ^ k) false else .fin (2 * r + 1 : Nat) (2 ^ (k + 1)) false

/-- e^y for 0 ≤ y < 1 in units of 2^-360: the terms of the series from the `k`-th on. -/
def expGo (y : Nat) : Nat → Nat → Nat → Nat
  | 0, _, _ => 0
  | f + 1, k, term => term + expGo y f (k + 1) (term * y / 2 ^ fixBits / (k + 1))

def expFix (y : Nat) : Nat := expGo y 90 0 (2 ^ fixBits)

/-- 2^x for a finite x = n / d that is not an integer: 2^k × a fraction in units of 2^-360, in the middle of a unit. -/
def exp2Fix (n : Int) (d : Nat) : Int × Nat :=
  let k := n / (d : Int)
  let f := (n % (d : Int)).toNat * 2 ^ fixBits / d
  (k, expFix (f * ln2 / 2 ^ 400))

/-- 2^x exactly or enclosed; beyond ±2^20 the exponent is clamped, which changes no rounding to FP32. -/
def exp2Val (x : XVal) : XVal :=
  match x with
  | .nan => .nan
  | .inf g => if g then .fin 0 1 false else .inf false
  | .fin n d _ =>
    if n % (d : Int) = 0 then
      dyad 1 (max (-1048576) (min 1048576 (n / (d : Int)))) false
    else
      let (k, f) := exp2Fix n d
      if n.natAbs < d * 2 ^ 18 then dyad (2 * f + 1 : Nat) (k - fixBits - 1) false
      else dyad 3 (max (-1048576) (min 1048576 k)) false

/-- 2 artanh(t) for 0 ≤ t < 1 in units of 2^-360. -/
def artanhGo (t2 : Nat) : Nat → Nat → Nat → Nat
  | 0, _, _ => 0
  | f + 1, k, p => 2 * p / (2 * k + 1) + artanhGo t2 f (k + 1) (p * t2 / 2 ^ fixBits)

/-- ln of a ratio n / d ≥ 1 below 2, in units of 2^-360. -/
def lnFix (n d : Nat) : Nat :=
  let t := (n - d) * 2 ^ fixBits / (n + d)
  artanhGo (t * t / 2 ^ fixBits) 130 0 t

/-- log2 of a positive n / d. -/
def log2Val (n d : Nat) : XVal :=
  let k := logFloor n d
  let m := if 0 ≤ k then (n, d * 2 ^ k.toNat) else (n * 2 ^ (-k).toNat, d)
  if m.1 = m.2 then .fin k 1 false
  else .fin (k * (ln2 : Int) + ((lnFix m.1 m.2 * 2 ^ 40 + 2 ^ 39 : Nat) : Int)) ln2 false

/-- tanh of a positive n / d: just below x where x is small, just below 1 where it is large. -/
def tanhVal (n d : Nat) : XVal :=
  if n * 2 ^ 40 < d then .fin (n * (2 ^ 90 - 1) : Nat) (d * 2 ^ 90) false
  else if d * 64 < n then .fin (2 ^ 90 - 1 : Nat) (2 ^ 90) false
  else
    -- e^(2x) = 2^z, z = 2x / ln 2
    let z := 2 * n * 2 ^ (400 + fixBits) / (d * ln2)
    let k := z / 2 ^ fixBits
    let e := expFix (z % 2 ^ fixBits * ln2 / 2 ^ 400) * 2 ^ k
    .fin (2 * (e - 2 ^ fixBits) + 1 : Nat) (2 * (e + 2 ^ fixBits)) false

def XVal.withSign (neg : Bool) (x : XVal) : XVal := if neg then x.neg else x

/-- R293: f of a value, before its rounding to FP32. -/
inductive TransOp
  | sqrt
  | rcp
  | rsqrt
  | exp2
  | log2
  | tanh
deriving DecidableEq, Repr, Inhabited

def transVal (op : TransOp) (x : XVal) : XVal :=
  match op, x with
  | _, .nan => .nan
  | .sqrt, .inf g => if g then .nan else .inf false
  | .sqrt, .fin n d z => if n = 0 then .fin 0 1 z else if n < 0 then .nan else sqrtVal n.natAbs d
  | .rcp, .inf g => .fin 0 1 g
  | .rcp, .fin n d z => if n = 0 then .inf z else (XVal.fin d n.natAbs false).withSign (decide (n < 0))
  | .rsqrt, .inf g => if g then .nan else .fin 0 1 false
  | .rsqrt, .fin n d z => if n = 0 then .inf z else if n < 0 then .nan else sqrtVal d n.natAbs
  | .exp2, x => exp2Val x
  | .log2, .inf g => if g then .nan else .inf false
  | .log2, .fin n d _ => if n = 0 then .inf true else if n < 0 then .nan else log2Val n.natAbs d
  | .tanh, .inf g => .fin (if g then -1 else 1) 1 false
  | .tanh, .fin n d z => if n = 0 then .fin 0 1 z else (tanhVal n.natAbs d).withSign (decide (n < 0))

/-- A `Round` to FP32 under RNE, which draws nothing. -/
def roundRne (x : XVal) (st : Rd) : Nat × Rd := roundFloat fmtFP32 0 x st

/-- R293: f(x), rounded to FP32 under RNE, as a value. -/
def transRound (op : TransOp) (x : XVal) (st : Rd) : XVal × Rd :=
  let (c, st1) := roundRne (transVal op x) st
  (fmtFP32.value c, st1)

/-- R291: the pair of a combination, as FP32 codes. -/
def sexpTerm (mk sk m : XVal) (st : Rd) : XVal × Rd :=
  if mk = .inf true then (.ofInt 0, st)
  else if mk.eq m then (sk, st)
  else
    let (d, st1) := roundRne (mk.sub false m) st
    let (e, st2) := roundRne (exp2Val (fmtFP32.value d)) st1
    let (p, st3) := roundRne (sk.mul (fmtFP32.value e)) st2
    (fmtFP32.value p, st3)

def sexpCombine (a b : Nat × Nat) (st : Rd) : (Nat × Nat) × Rd :=
  let v := fmtFP32.value
  let m1 := v a.1
  let s1 := v a.2
  let m2 := v b.1
  let s2 := v b.2
  if m1.isNan || s1.isNan || m2.isNan || s2.isNan then ((fmtFP32.nan, fmtFP32.nan), st)
  else
    let mc := if m1.below m2 then b.1 else a.1
    let m := v mc
    let (t1, st1) := sexpTerm m1 s1 m st
    let (t2, st2) := sexpTerm m2 s2 m st1
    let (s, st3) := roundRne (t1.add false t2) st2
    ((mc, s), st3)

end Sys2Proof.Machine
end

