-- ==== Sys2Proof/Machine/Lanes.lean ====
section
/-! DEFINITION. Latches and the lane group: sensing a row, opening a register for a writer, the commit buffer, rechecks
and the commit of groups (R189, R193 to R206, R228). -/

namespace Sys2Proof.Machine

/-! ## Registers as sources and destinations -/

/-- R190, R194: a reader waits while the latch is being sensed and while a group of it is still to come. -/
def State.canRead (s : State) (c b r : Nat) : Bool :=
  (s.reg c b r).latch != .opening && (s.reg c b r).arrival == 0xffffffff

/-- The registers that a queued matrix operation still has to read (R191, R349). -/
def engReads : Instr → List Nat
  | .mop o => [o.a.toNat, o.b.toNat]
  | .mops o => [o.a.toNat, o.b.toNat, o.x.toNat, 15]
  | .mldacc o => [o.a.toNat]
  | .mldaccW o => [o.a.toNat, o.b.toNat]
  | _ => []

/-- R190, R195: a writer waits while the latch is being sensed or captured, while an earlier writer has groups to
commit and while the matrix engine has still to read the register. -/
def State.canWrite (s : State) (c b r : Nat) : Bool :=
  s.canRead c b r && (s.reg c b r).latch != .restoring &&
    !((s.core c).engine.any fun e => e.bank == b && !e.taken && (engReads e.instr).contains r)

/-- R33, R189: a register that a writer opens: a CLOSED latch becomes OPEN, unbound and dirty with zero contents, and a
register not yet written this task holds zero. -/
def VReg.openFor (r : Nat) (x : VReg) : VReg :=
  if r < 8 then
    if x.latch = .closed then { x with latch := .opened, row := none, dirty := true, bits := 0, conds := [] } else x
  else if x.valid then x else { x with valid := true, bits := 0, conds := [] }

/-- R193: arrival bits below `egi` stay and the others are cleared. -/
def arrivalBelow (egi : Nat) (a : BitVec 32) : BitVec 32 := a &&& BitVec.ofNat 32 (2 ^ egi - 1)

/-- R193: what issuing a writer of the register does. -/
def VReg.beginWrite (r egi : Nat) (x : VReg) : VReg :=
  let y := x.openFor r
  { y with arrival := arrivalBelow egi y.arrival }

def State.beginWrite (s : State) (c b r egi : Nat) : State := s.setReg c b r ((s.reg c b r).beginWrite r egi)

/-- R193: every arrival bit set again at the end of a writer. -/
def State.endWrite (s : State) (c b r : Nat) : State := s.setReg c b r { s.reg c b r with arrival := 0xffffffff }

/-- The bits of a row written by placing each `(index, encoding)`. -/
def putElems (bits w : Nat) (es : List (Nat × Nat)) : Nat := es.foldl (fun a e => putElem a w e.1 e.2) bits

/-- Mask bits written one by one. -/
def putMaskBits (m : Nat) (bs : List (Nat × Bool)) : Nat := bs.foldl (fun a e => putElem a 1 e.1 (bnat e.2)) m

/-- R13, R193, R203: a group enters register `r`. -/
def VReg.commit (r w : Nat) (g : Grp) (x : VReg) : VReg :=
  let full := decide (w * g.elems.length = 2048)
  { (x.freshen g.g full) with
    bits := putElems x.bits w g.elems
    dirty := x.dirty || decide (r < 8)
    arrival := x.arrival ||| BitVec.ofNat 32 (2 ^ g.g) }

/-- R77: a group committed without recheck. -/
def State.addUnchecked (s : State) (c : Nat) : State :=
  match (s.core c).task with
  | none => s
  | some n =>
    let f := fun (t : Task) => if t.num = n then { t with unchecked := t.unchecked + 1 } else t
    { s with sched := { s.sched with tasks := s.sched.tasks.map f } }

/-- R349: a commit to the register that the B stage was filled from. -/
def State.dropStage (s : State) (c b r : Nat) : State :=
  match (s.core c).stage with
  | some x => if x.bank = b ∧ x.reg = r then s.setCore c { s.core c with stage := none } else s
  | none => s

/-- One register's part of a group. -/
def State.commitReg (s : State) (c b w r : Nat) (g : Grp) : State :=
  (s.setReg c b r ((s.reg c b r).commit r w g)).dropStage c b r

/-- The elements of a group that go to a second destination (R355): those past the first's capacity. -/
def Grp.upper (g : Grp) (n : Nat) : Grp :=
  { g with elems := g.elems.filterMap fun e => if n ≤ e.1 then some (e.1 - n, e.2) else none }

def Grp.lower (g : Grp) (n : Nat) : Grp := { g with elems := g.elems.filter fun e => decide (e.1 < n) }

/-- A group's elements enter the destination registers. -/
def State.commitRegs (s : State) (c b : Nat) (op : LaneOp) (g : Grp) : State :=
  match op.d, op.d2 with
  | some d, some e => (s.commitReg c b op.w d (g.lower (65536 / op.w))).commitReg c b op.w e (g.upper (65536 / op.w))
  | some d, none => s.commitReg c b op.w d g
  | none, _ => s

/-- A group's mask bits enter the destination mask. -/
def State.commitMask (s : State) (c b : Nat) (op : LaneOp) (g : Grp) : State :=
  match op.m with
  | none => s
  | some m => s.setBank c b ((s.bank c b).setMask m (putMaskBits ((s.bank c b).mask m) g.mbits))

/-- R199, R289: a group's flags are added to the hart's, and its draws are kept for a restart of the word. -/
def State.joinGrp (s : State) (c b : Nat) (g : Grp) : State :=
  s.setHart c b { s.hart c b with flags := (s.hart c b).flags ||| g.fl, drawn := (s.hart c b).drawn ++ g.seeds }

/-- Commits a group of a lane operation: elements, mask bits and flags (R13, R199, R297). -/
def State.commitGrp (s : State) (c b : Nat) (op : LaneOp) (g : Grp) : State :=
  ((s.commitRegs c b op g).commitMask c b op g).joinGrp c b g

/-- Commits a group of an operation behind the hart's present word, which keeps its draws itself. -/
def State.commitYoung (s : State) (c b : Nat) (op : LaneOp) (g : Grp) : State :=
  let s1 := (s.commitRegs c b op g).commitMask c b op g
  s1.setHart c b { s1.hart c b with flags := (s1.hart c b).flags ||| g.fl }

/-- Commits a group of the operation at place `k` of a hart (0 the present word), and what the operation keeps of it. -/
def State.commitAt (s : State) (c b k : Nat) (op : LaneOp) (g : Grp) : State × LaneOp :=
  if k = 0 then (s.commitGrp c b op g, op) else (s.commitYoung c b op g, { op with drawn := op.drawn ++ g.seeds })

/-! ## Sensing a row (R203, R228) -/

/-- The conditions of the lines of the row at `pa`, as its capture finds them. -/
def State.rowConds (s : State) (pa : Nat) : Tab LineCond :=
  s.side.filterMap fun e =>
    if lineOf pa ≤ e.1 ∧ e.1 < lineOf pa + 128 then
      e.2.cond.map fun x => (e.1 - lineOf pa, { cond := x, side := { e.2 with poison := e.2.poison || x == .e2eBad } })
    else none

/-- R116, R203: what capturing the row's lines adds to the SAG's score. The POISON that a line gets whose E2E fails is in
the sideband that the latch holds; the row keeps its own. DEDUCED, log 70, unsafe. -/
def State.captureEffects (s : State) (c b k pa : Nat) : State :=
  let hit := s.side.filter fun e => decide (lineOf pa ≤ e.1 ∧ e.1 < lineOf pa + 128)
  hit.foldl (fun t e =>
    let t1 := if e.2.badSymbols = 1 ∨ e.2.badSymbols = 2 then t.addScore 2 (sagUnit c b k) 1 else t
    if e.2.cond = some .e2eBad then t1.addScore 2 (sagUnit c b k) 32 else t1) s

/-- R189, R228: the latch is OPEN, clean and bound to the row. -/
def State.senseRow (s : State) (c b k pa : Nat) : State :=
  let x := s.reg c b k
  let y := { x with bits := s.mem.slice pa 8192, latch := .opened, row := some pa, dirty := false,
                    arrival := 0xffffffff, conds := s.rowConds pa }
  (s.setReg c b k y).captureEffects c b k pa

/-! ## Consuming lines (R203 to R207) -/

/-- R207. -/
def lineDetail (word r line g wh : Nat) : Nat := word * 2 ^ 32 + r * 2 ^ 20 + line * 2 ^ 13 + g * 2 ^ 8 + wh

/-- What reading group `g` of the given registers meets first: register, line and condition. -/
def State.consumeAt (s : State) (c b : Nat) (rs : List Nat) (g : Nat) : Option (Nat × Nat × Cond) :=
  (rs.filterMap fun r => ((s.reg c b r).badIn g).map fun e => (r, e.1, e.2)).head?

/-- The first group from `lo` on whose reading meets a bad line: `same` registers are read group by group, `whole`
registers wholly before the first group (DEDUCED, log 30, safe). A group without an active element is read too: no rule says
(DESIGN CHOICE, log 88, unsafe). -/
def State.consumeFrom (s : State) (c b : Nat) (same whole : List Nat) (lo : Nat) : Option (Nat × Nat × Nat × Cond) :=
  let w := ((List.range 32).filterMap fun g => (s.consumeAt c b whole g)).head?
  match w with
  | some e => some (lo, e)
  | none => ((List.range 32).filterMap fun g =>
      if lo ≤ g then (s.consumeAt c b same g).map fun e => (g, e) else none).head?

/-- R205: the line that ends an instruction becomes POISON, in its sideband too. -/
def State.poisonLine (s : State) (c b r line : Nat) : State :=
  let x := s.reg c b r
  let old := (x.conds.find line).getD { cond := .ue }
  s.setReg c b r { x with conds := x.conds.put line { cond := .poison, side := { old.side with poison := true } } }

/-! ## Words behind the one in progress (R183, R197, R463) -/

/-- The registers a writer of groups writes; `w7` is one where its scale bytes are written (R324). -/
def LaneOp.dests (op : LaneOp) : List Nat :=
  op.d.toList ++ op.d2.toList ++ if op.fin.w7.isSome then [15] else []

/-- R193: the destinations' arrival bits at the end of a lane operation. -/
def State.endDests (s : State) (c b : Nat) (op : LaneOp) : State := op.dests.foldl (fun t r => t.endWrite c b r) s

/-- The operation `k` words behind the hart's present one. -/
def State.setYoung (s : State) (c b k : Nat) (f : LaneOp → LaneOp) (live : Bool) : State :=
  let h := s.hart c b
  s.setHart c b { h with young := h.young.modify k fun y => { y with op := y.op.map f, live := live } }

/-- The work `k` words behind the hart's present one. -/
def State.setWork (s : State) (c b k : Nat) (p : Option Pend) : State :=
  let h := s.hart c b
  s.setHart c b { h with young := h.young.modify k fun y => { y with work := p } }

/-- `f` acts on the work `k` words behind the hart's present one as on the present word's. -/
def State.withWork (s : State) (c b k : Nat) (f : State → State) : State :=
  let own := (s.hart c b).pend
  let t := f (s.setHart c b { s.hart c b with pend := ((s.hart c b).young[k]?).bind (·.work) })
  let u := t.setWork c b k (t.hart c b).pend
  u.setHart c b { u.hart c b with pend := own }

/-- A handle advances as its SLD or SST retires (R243). -/
def Hart.advanceHandle (h : Hart) (adv : Option Nat) : Hart :=
  match adv with
  | none => h
  | some n =>
    let x := h.handles.get n {}
    { h with handles := h.handles.put n { x with pos := (x.pos + 1) % x.count.toNat } }

def State.advanceHandle (s : State) (c b : Nat) (adv : Option Nat) : State :=
  s.setHart c b ((s.hart c b).advanceHandle adv)

/-- A row operation in progress runs to its end (R405). -/
def State.rowEnd (s : State) (c b : Nat) (p : Pend) : Option State :=
  match p with
  | .sense k pa adv => some ((s.senseRow c b k pa).advanceHandle c b adv)
  | .capture k pa close adv =>
    some (((s.endCapture c b k pa close).writeRow pa ((s.reg c b k).content k) (s.reg c b k).conds).advanceHandle c b adv)
  | .rowWrite _ pa bits conds adv => some ((s.writeRow pa bits conds).advanceHandle c b adv)
  | _ => none

/-- R405, R463: the work of a word behind the present one as a stop leaves it: an ACT is complete. -/
def State.keepWork (s : State) (c b k : Nat) : State :=
  match ((s.hart c b).young[k]?).bind (·.work) with
  | some (.sense r pa _) => (s.senseRow c b r pa).setWork c b k (some .done)
  | _ => s

/-- The groups that a lane operation has neither committed nor in the commit buffer. -/
def LaneOp.unmade (op : LaneOp) : List Nat := op.todo.map (·.g) ++ op.left

/-- R463: an operation is kept, to issue again from its lowest group not committed. -/
def LaneOp.keep (op : LaneOp) : LaneOp :=
  { op with todo := [], buf := [], again := false, left := op.unmade, drawn := op.drawn ++ op.buf.flatMap (·.seeds) }

/-- R204: a squashed operation keeps no group that it has not committed. -/
def LaneOp.squash (op : LaneOp) : LaneOp :=
  { op with todo := [], buf := [], again := false, left := op.buf.map (·.g) ++ op.unmade }

/-- R201, R463: an operation behind the hart's present word stops: its pending groups are committed, and it is kept. -/
def State.keepOne (s : State) (c b k : Nat) : State :=
  match ((s.hart c b).young[k]?).bind (·.op) with
  | some op =>
    ((op.buf.foldl (fun t g => t.commitYoung c b op g) s).endDests c b op).setYoung c b k LaneOp.keep false
  | none => s.keepWork c b k

/-- R201, R463: every operation behind the hart's present word is kept. -/
def State.keepYoung (s : State) (c b : Nat) : State :=
  (List.range (s.hart c b).young.length).foldl (fun t k => t.keepOne c b k) s

/-- R204: every operation behind the hart's present word is squashed. -/
def State.squashYoung (s : State) (c b : Nat) : State :=
  (List.range (s.hart c b).young.length).foldl (fun t k =>
    match ((t.hart c b).young[k]?).bind (·.op) with
    | some op => (t.endDests c b op).setYoung c b k LaneOp.squash false
    | none => t.keepWork c b k) s

/-- R204: a latch of the hart is being sensed again. -/
def Hart.replaying (h : Hart) : Bool :=
  match h.pend with
  | some (.resense _ _) => true
  | _ => false

/-- R204: the register can be sensed again. DEDUCED, log 64, unsafe. -/
def VReg.canReplay (r : Nat) (x : VReg) : Bool := decide (r < 8) && x.latch == .opened && !x.dirty && x.row.isSome

/-- R204, R205: what happens when line `line` of register `r` is consumed in condition `x`: the row is to be sensed again
(`inl`), or the instruction ends by a trap at group `g` (`inr`: the state, cause and detail). `dirty` where the word itself
has made the register dirty by then. -/
def State.consumed (s : State) (c b word r line g wh : Nat) (x : Cond) (dirty : Bool) : State ⊕ (State × Nat × Nat) :=
  let v := s.reg c b r
  let h := s.hart c b
  if h.replaying then .inl s
  else if x = .ue ∧ v.canReplay r ∧ !dirty ∧ !h.reSensed.contains (r, line) then
    .inl ((s.setHart c b { h with reSensed := h.reSensed ++ [(r, line)], pend := some (.resense r false) }).squashYoung c b)
  else .inr (if x = .ue then s.poisonLine c b r line else s, x.cause, lineDetail word r line g wh)

/-! ## The commit buffer -/

/-- R59: the task's recheck policy is IDLE. -/
def Core.idlePolicy (k : Core) : Bool := k.flags.getLsbD 2

def State.setPend (s : State) (c b : Nat) (p : Option Pend) : State := s.setHart c b { s.hart c b with pend := p }

/-- R196: what a writer of groups leaves in its hart as it retires. -/
def AtEnd.onHart (f : AtEnd) (h : Hart) : Hart :=
  let h1 := { h with
    seed := f.seed.getD h.seed
    flags := h.flags ||| f.fl
    vl := match f.vl with | some v => BitVec.ofNat 21 v | none => h.vl }
  match f.gd with
  | some (r, v) => h1.setG r v
  | none => h1

/-- R322 to R324: the 32 groups of `w7` commit together; a B stage filled from it holds no longer (R349). Scale bytes fill no group of
`w7` whole, so a line that is not GOOD keeps its condition (R203). -/
def AtEnd.onW7 (f : AtEnd) (c b : Nat) (s : State) : State :=
  match f.w7 with
  | some v => (s.setReg c b 15 { (s.reg c b 15).openFor 15 with bits := v, arrival := 0xffffffff }).dropStage c b 15
  | none => s

/-- R355: the tile that MDRAIN clears. -/
def AtEnd.onTile (f : AtEnd) (c : Nat) (s : State) : State :=
  match f.zeroTile with
  | some q => s.setTile c q { s.tile c q with bits := 0, failed := false }
  | none => s

/-- R196: what a writer of groups does as its last group has committed and it retires. -/
def AtEnd.apply (f : AtEnd) (c b : Nat) (s : State) : State :=
  f.onTile c (f.onW7 c b (s.setHart c b (f.onHart (s.hart c b))))

/-- R422: the trace records a mask write. -/
def State.traceMask (s : State) (c b : Nat) (m : Option Nat) : State :=
  match m with
  | some m => s.traceAdd c b 2 (popBits 8192 ((s.bank c b).mask m))
  | none => s

/-- A lane operation whose groups are all committed retires, or traps at the group it stopped before. -/
def State.retireLane (s : State) (c b : Nat) (op : LaneOp) : State :=
  let s1 := s.traceMask c b op.m
  match op.fin.trap with
  | some (cause, detail, g) => s1.setPend c b (some (.trapped cause detail.toNat g))
  | none => (op.fin.apply c b s1).setPend c b (some .done)

/-- The end of a lane operation whose groups are all committed. -/
def State.endLane (s : State) (c b : Nat) (op : LaneOp) : State := (s.endDests c b op).retireLane c b op

def State.setLane (s : State) (c b : Nat) (op : LaneOp) : State :=
  if op.todo = [] ∧ op.buf = [] ∧ op.left = [] then s.endLane c b op else s.setPend c b (some (.lane op))

/-- A gather with groups to request and groups to commit. -/
def State.setGather (s : State) (c b : Nat) (left : List Nat) (op : LaneOp) : State :=
  if left = [] ∧ op.todo = [] then s.endLane c b op else s.setPend c b (some (.gather left op))

/-- R200: the instruction ends at the group whose recheck disagreed twice. DEDUCED, log 36, unsafe. -/
def State.recheckFail (s : State) (c b : Nat) (op : LaneOp) (g : Grp) : State :=
  let s1 := s.endDests c b op
  (s1.addScore 1 c 64).setPend c b (some (.trapped 0x43 (g.g * 2 ^ 32 + op.word) g.g))

/-- R197 to R200: one lane cycle of an operation. -/
def State.laneCycle (s : State) (c b : Nat) (op : LaneOp) (agree : Bool) : State :=
  let recheck := fun (s : State) (op : LaneOp) =>
    match op.buf with
    | [] => s.setLane c b op
    | g :: rest =>
      if agree then (s.commitGrp c b op g).setLane c b { op with buf := rest, again := false }
      else if op.again then s.recheckFail c b op g
      else (s.addScore 1 c 64).setLane c b { op with again := true }
  if op.again then recheck s op
  else match op.todo, op.buf with
    | [], _ => recheck s op
    | g :: todo, buf =>
      if buf.length < Config.commitBufferSize then s.setLane c b { op with todo := todo, buf := buf ++ [g] }
      else if (s.core c).idlePolicy then
        match buf with
        | [] => s
        | o :: rest =>
          ((s.commitGrp c b op o).addUnchecked c).setLane c b { op with todo := todo, buf := rest ++ [g] }
      else recheck s op

/-- Lane cycles, every recheck agreeing, until the operation ends. -/
def State.laneRun : Nat → Nat → Nat → State → State
  | 0, _, _, s => s
  | n + 1, c, b, s =>
    match (s.hart c b).pend with
    | some (.lane op) => State.laneRun n c b (s.laneCycle c b op true)
    | _ => s

/-! ## Lane cycles of several operations of a hart -/

/-- The operation in progress at place `k`: the hart's present word (0), or one behind it. -/
def Hart.laneAt (h : Hart) (k : Nat) : Option LaneOp :=
  match k with
  | 0 => match h.pend with
    | some (.lane op) => some op
    | _ => none
  | k + 1 => (h.young[k]?).bind fun y => if y.live then y.op else none

/-- The operations in progress, the oldest first, with their places. -/
def Hart.lanes (h : Hart) : List (Nat × LaneOp) :=
  (List.range (h.young.length + 1)).filterMap fun k => (h.laneAt k).map fun op => (k, op)

/-- An operation all of whose groups are committed. -/
def LaneOp.ended (op : LaneOp) : Bool := op.todo == [] && op.buf == [] && op.left == []

/-- The operation at place `k` as a lane cycle leaves it. One that ends behind the present word acts no more until it retires
(R196). -/
def State.putLane (s : State) (c b k : Nat) (op : LaneOp) : State :=
  match k with
  | 0 => s.setLane c b op
  | k + 1 => (if op.ended then s.endDests c b op else s).setYoung c b k (fun _ => op) true

/-- R197: the oldest group of the commit buffer: its operation's place, the operation, the group and those behind it. -/
def oldestPending (l : List (Nat × LaneOp)) : Option (Nat × LaneOp × Grp × List Grp) :=
  l.foldl (fun a e => match e.2.buf, a with
    | [], _ => a
    | g :: rest, none => some (e.1, e.2, g, rest)
    | g :: rest, some x => if g.stamp < x.2.2.1.stamp then some (e.1, e.2, g, rest) else some x) none

/-- R200: an operation behind the present word whose recheck disagreed twice: it ends there when it comes to retire, and those
behind it are kept. -/
def State.recheckFailAt (s : State) (c b k : Nat) (op : LaneOp) (g : Grp) : State :=
  match k with
  | 0 => s.recheckFail c b op g
  | k + 1 =>
    let bad : LaneOp := { op with todo := [], buf := [], again := false, left := []
                                  fin := { trap := some (0x43, BitVec.ofNat 64 (g.g * 2 ^ 32 + op.word), g.g) } }
    let s1 := ((s.endDests c b op).addScore 1 c 64).setYoung c b k (fun _ => bad) false
    (List.range (s.hart c b).young.length).foldl (fun t j => if k < j then t.keepOne c b j else t) s1

/-- R197, R200: the oldest pending group is rechecked. -/
def State.recheckOldest (s : State) (c b : Nat) (agree : Bool) : State :=
  match oldestPending (s.hart c b).lanes with
  | none => s
  | some (k, op, g, rest) =>
    if agree then
      let r := s.commitAt c b k op g
      r.1.putLane c b k { r.2 with buf := rest, again := false }
    else if op.again then s.recheckFailAt c b k op g
    else (s.addScore 1 c 64).putLane c b k { op with again := true }

/-- R197: the operation at place `k` computes its next group, which enters the commit buffer. -/
def State.computeNext (s : State) (c b k : Nat) : State :=
  let l := (s.hart c b).lanes
  let stamp := l.foldl (fun n e => e.2.buf.foldl (fun m g => max m (g.stamp + 1)) n) 0
  match (s.hart c b).laneAt k with
  | some op => match op.todo with
    | [] => s
    | g :: todo => s.putLane c b k { op with todo := todo, buf := op.buf ++ [{ g with stamp := stamp }] }
  | none => s

/-- R198: the oldest pending group commits without a recheck. -/
def State.commitUnchecked (s : State) (c b : Nat) : State :=
  match oldestPending (s.hart c b).lanes with
  | none => s
  | some (k, op, g, rest) =>
    let r := s.commitAt c b k op g
    (r.1.addUnchecked c).putLane c b k { r.2 with buf := rest }

/-- R197, R198: one lane cycle of a hart with words in progress behind its present one; the oldest operation that can produce a
group does. -/
def State.laneCycles (s : State) (c b : Nat) (agree : Bool) : State :=
  let l := (s.hart c b).lanes
  let pending := (l.map fun e => e.2.buf.length).sum
  if l.any fun e => e.2.again then s.recheckOldest c b agree
  else match l.find? fun e => e.2.todo != [] with
    | none => s.recheckOldest c b agree
    | some (k, _) =>
      if pending < Config.commitBufferSize then s.computeNext c b k
      else if (s.core c).idlePolicy then (s.commitUnchecked c b).computeNext c b k
      else s.recheckOldest c b agree

/-- R193: the arrival bits of the groups that an operation has still to commit are cleared as it issues again. -/
def State.reopen (s : State) (c b : Nat) (op : LaneOp) : State :=
  op.dests.foldl (fun t r =>
    let x := t.reg c b r
    t.setReg c b r { x with arrival := op.left.foldl (fun a g => a &&& ~~~(BitVec.ofNat 32 (2 ^ g))) x.arrival }) s

/-- R463: the word behind the one that has just retired becomes the hart's present one: from its issue on, from where its
operation stands, or at its end. -/
def State.promote (s : State) (c b : Nat) : State :=
  match (s.hart c b).young with
  | [] => s
  | y :: ys =>
    let s1 := s.setHart c b { s.hart c b with young := ys, note := y.note }
    match y.op with
    | none => s1.setPend c b y.work
    | some op =>
      let s2 := s1.setHart c b { s1.hart c b with drawn := op.drawn }
      if op.ended then s2.retireLane c b op
      else (if y.live then s2 else s2.reopen c b op).setPend c b (some (.lane { op with drawn := [] }))

/-- R259: group `g` of a gather, whose data have come, commits. -/
def State.gatherStep (s : State) (c b : Nat) (left : List Nat) (op : LaneOp) (g : Nat) : State :=
  match op.todo.find? fun x => x.g == g with
  | none => s
  | some x => (s.commitGrp c b op x).setGather c b left { op with todo := op.todo.filter fun y => y.g != g }

/-- R201: the pending groups of a stopped lane operation are rechecked and committed. -/
def State.drainLane (s : State) (c b : Nat) (op : LaneOp) : State :=
  (op.buf.foldl (fun t g => t.commitGrp c b op g) s).endDests c b op

/-- The lowest group a lane operation has not committed once its buffer is drained. -/
def LaneOp.next (op : LaneOp) : Nat := op.unmade.headD 0

end Sys2Proof.Machine
end

