-- ==== Sys2Proof/Machine/Flags.lean ====
section
/-! DEFINITION. Results by element and group, the flags they raise and the trap they may cause (R199, R279, R287, R289). -/

namespace Sys2Proof.Machine

/-- What one element of a lane operation gives: its index, its encoding, a mask bit, the flags it raises and, under SR, the
generator's state after it. -/
structure ElemRes where
  i : Nat
  enc : Option Nat := none
  mbit : Option (Nat × Bool) := none
  fl : BitVec 4 := 0
  seed : Option Nat := none
deriving DecidableEq, Repr, Inhabited

/-- R287: NANP for a NaN result without a NaN source. -/
def Rd.nanIf (r : Rd) (res : Bool) (srcs : List XVal) : Rd := if res && !(srcs.any (·.isNan)) then r.nanp else r

/-- R279: a T2 code 10 read as a value. -/
def Rd.t2 (r : Rd) (codes : List (Nat × Nat)) : Rd := r.inexactIf (codes.any fun e => e.1 == 14 && e.2 == 2)

/-- The flags of a group. -/
def groupFlags (es : List ElemRes) : BitVec 4 := es.foldl (fun a e => a ||| e.fl) 0

/-- R287: the first element of a group that produced a NaN. -/
def firstNan (es : List ElemRes) : Option Nat := (es.find? fun e => e.fl.getLsbD 1).map (·.i)

/-- R287: the detail of `0x60 NAN_TRAP`. -/
def nanDetail (i word : Nat) : Nat := i * 2 ^ 32 + word

/-! ## Elements in ascending order (R289) -/

/-- `f` on each active index from `i` on, for `k` indices, in ascending order, threading the generator. -/
def elemsGo (act : Nat → Bool) (f : Nat → Rd → ElemRes × Rd) : Nat → Nat → Nat → List ElemRes → List ElemRes × Nat
  | 0, _, seed, acc => (acc.reverse, seed)
  | k + 1, i, seed, acc =>
    if act i then
      let (e, r) := f i { seed := seed }
      elemsGo act f k (i + 1) r.seed ({ e with fl := e.fl ||| r.fl } :: acc)
    else elemsGo act f k (i + 1) seed acc

/-- The groups `lo` to 31 of results grouped by an element width. -/
def groupsFrom (lo w : Nat) (es : List ElemRes) : List Grp :=
  (List.range 32).filterMap fun g =>
    if g < lo then none
    else
      let m := es.filter fun e => groupOf w e.i == g
      some { g := g, elems := m.filterMap (fun e => e.enc.map fun x => (e.i, x)), mbits := m.filterMap (·.mbit),
             fl := groupFlags m, seeds := m.filterMap fun e => e.seed.map fun x => (e.i, x) }

/-- R287: the group and element of the first NaN trap. -/
def nanGroup (lo w : Nat) (es : List ElemRes) : Option (Nat × Nat) :=
  ((List.range 32).filterMap fun g =>
    if g < lo then none else (firstNan (es.filter fun e => groupOf w e.i == g)).map fun i => (g, i)).head?

end Sys2Proof.Machine
end

