-- ==== Sys2Proof/Machine/Engine.lean ====
section
/-! DEFINITION. The matrix engine: its operations, the sampled check, and what a stop of a hart does to them (R202, R292,
R344 to R360). -/

namespace Sys2Proof.Machine

/-! ## Operands -/

/-- R344: the row that the tag of va selects: the tags of vb, the tag of the tile's format and the k-steps of a unit. -/
def mopRow (ta : Nat) : Option (List Nat × Nat × Nat) :=
  match ta with
  | 10 => some ([10], 12, 1)
  | 11 => some ([11], 12, 1)
  | 8 | 9 => some ([8, 9], 12, 2)
  | 13 => some ([13], 12, 4)
  | 0 | 1 => some ([0, 1], 4, 1)
  | _ => none

/-- R277: the value of element `i` of a register. -/
def matElem (tag bits scales i : Nat) : XVal := valueOf tag (elemAt bits (tagBits tag) i) (elemAt scales 8 (i / 4))

/-- R347: the bitmap of group `p`, and the compressed column of step `k`, if the bitmap keeps it. -/
def bitmapOf (x p : Nat) : Nat := elemAt x 64 p

def keptBefore (m i : Nat) : Nat := ((List.range i).filter fun j => m.testBit j).length

def stepColumn (mops : Option (Nat × Nat)) (k : Nat) : Option Nat :=
  match mops with
  | none => some k
  | some (n, x) =>
    let m := bitmapOf x (k / 48)
    if m.testBit (k % 48) then some (k / 48 * n + keptBefore m (k % 48)) else none

/-- R344, R348: a step that adds something: the column of A and the row of B, 64 values each. -/
def stepOf (op : EngOp) (mops : Option (Nat × Nat)) (k : Nat) : Option (List XVal × List XVal) :=
  (stepColumn mops k).map fun t =>
    ((List.range 64).map fun r => matElem op.srcA.tag.toNat op.srcA.bits op.scales (64 * t + r),
     (List.range 64).map fun j => matElem op.srcB.tag.toNat op.srcB.bits op.scales (64 * k + j))

/-! ## Accumulation (R292, R346) -/

/-- An addition into the accumulator: its code, whether it was inexact, whether it produced a NaN (R357). -/
def macAdd (fp : Bool) (acc : Nat) (as bs : List XVal) : Nat × Bool × Bool :=
  if fp then
    let ps := List.zipWith XVal.mul as bs
    let p := ps.foldl (fun x y => x.add false y) (XVal.ofInt 0)
    let a := fmtFP32.value acc
    let s := a.add false p
    let (code, rd) := roundRne s { seed := 0 }
    let known := (as ++ bs).any (·.isNan)
    (code, rd.fl.getLsbD 3, (p.isNan && !known) || (s.isNan && !a.isNan && !p.isNan))
  else
    let p := (List.zipWith (fun x y => match x, y with | .fin n _ _, .fin m _ _ => n * m | _, _ => 0) as bs).foldl (· + ·)
      (0 : Int)
    (uval 32 (sval 32 acc + p), false, false)

/-- One unit added to a row of the tile. -/
def macRow (fp : Bool) (as : List XVal) (cols : List (List XVal)) (row : List Nat) : List (Nat × Bool × Bool) :=
  List.zipWith (fun acc bs => macAdd fp acc as bs) row cols

/-- One unit added to the tile's rows. -/
def macUnit (fp : Bool) (steps : List (List XVal × List XVal)) (rows : List (List Nat)) :
    List (List (Nat × Bool × Bool)) :=
  let cols := (List.range 64).map fun j => steps.map fun s => s.2.getD j .nan
  rows.zipIdx.map fun e => macRow fp (steps.map fun s => s.1.getD e.2 .nan) cols e.1

/-- The first NaN that a unit produced: row and column. -/
def unitNan (rows : List (List (Nat × Bool × Bool))) : Option (Nat × Nat) :=
  (rows.zipIdx.filterMap fun e => (e.1.findIdx? fun x => x.2.2).map fun j => (e.2, j)).head?

/-- What an accumulation gives: rows, whether some addition was inexact, the first NaN (step, row, column). -/
structure Mac where
  rows : List (List Nat)
  inexact : Bool := false
  nan : Option (Nat × Nat × Nat) := none
deriving DecidableEq, Repr, Inhabited

def macGo (fp : Bool) (op : EngOp) (mops : Option (Nat × Nat)) (k unit : Nat) : List Nat → Mac → Mac
  | [], m => m
  | u :: us, m =>
    let steps := ((List.range unit).filter fun j => decide (u + j < k)).filterMap fun j => stepOf op mops (u + j)
    let rows := macUnit fp steps m.rows
    macGo fp op mops k unit us
      { rows := rows.map fun r => r.map (·.1)
        inexact := m.inexact || rows.any fun r => r.any (·.2.1)
        nan := match m.nan with
          | some x => some x
          | none => (unitNan rows).map fun e => (u, e.1, e.2) }

/-- R340: the tile's rows of codes, and a tile's bits from them. -/
def tileRows (bits : Nat) : List (List Nat) :=
  (List.range 64).map fun r => (List.range 64).map fun j => elemAt bits 32 (64 * r + j)

def packRows (rows : List (List Nat)) : Nat :=
  rows.foldr (fun r a => r.foldr (fun x y => x % 2 ^ 32 + y * 2 ^ 32) 0 + a * 2 ^ 2048) 0

/-- R346: the whole operation on a tile. -/
def EngOp.run (op : EngOp) (mops : Option (Nat × Nat)) (tile : Tile) : Mac :=
  let unit := match mopRow op.srcA.tag.toNat with | some (_, _, n) => n | none => 1
  let us := (List.range ((op.ml + unit - 1) / unit)).map fun n => n * unit
  macGo (!tile.si32) op mops op.ml unit us { rows := tileRows tile.bits }

/-! ## The operations of the queue -/

/-- The tile of a matrix word. -/
def engTile : Instr → Nat
  | .mop o => o.q.toNat
  | .mops o => o.q.toNat
  | .mzero o => o.q.toNat
  | .mdrain o => o.q.toNat
  | .mdrainW o => o.q.toNat
  | .mldacc o => o.q.toNat
  | .mldaccW o => o.q.toNat
  | _ => 0

/-- Registers read at take-up. -/
def State.engSources (s : State) (c : Nat) (op : EngOp) : List Nat :=
  let scales := fun (a : Nat) => if s.tag c op.bank a = 13 then [15] else []
  match op.instr with
  | .mop o => [o.a.toNat, o.b.toNat] ++ scales o.a.toNat
  | .mops o => [o.a.toNat, o.b.toNat, o.x.toNat] ++ scales o.a.toNat
  | .mldacc o => [o.a.toNat]
  | .mldaccW o => [o.a.toNat, o.b.toNat]
  | _ => []

/-- R202: the operations that a failed tile refuses. -/
def readsTile : Instr → Bool
  | .mop _ => true
  | .mops _ => true
  | .mdrain _ => true
  | .mdrainW _ => true
  | _ => false

def State.dropHead (s : State) (c : Nat) : State := s.setCore c { s.core c with engine := (s.core c).engine.drop 1 }

def State.setHead (s : State) (c : Nat) (op : EngOp) : State :=
  s.setCore c { s.core c with engine := op :: (s.core c).engine.drop 1 }

/-- R351: the engine accepts the word of a hart that waits for it. -/
def State.accepted (s : State) (c b : Nat) : State :=
  match (s.hart c b).pend with
  | some .engine => s.setPend c b (some .done)
  | _ => s

def State.acceptedIf (s : State) (x : Bool) (c b : Nat) : State := if x then s.accepted c b else s

/-- A trap of a word that waits for the engine. -/
def State.engTrap (s : State) (c b cause detail : Nat) : State := s.setPend c b (some (.trapped cause detail 0))

/-- R193: the destinations of a drain that is withdrawn or refused. -/
def State.closeDrain (s : State) (c : Nat) (op : EngOp) : State :=
  match op.instr with
  | .mdrain o => s.endWrite c op.bank o.d.toNat
  | .mdrainW o => (s.endWrite c op.bank o.d.toNat).endWrite c op.bank o.e.toNat
  | _ => s

/-- R355: the drained elements: index, code, flags. -/
def drainElems (td : Nat) (rm : Rm) (tile : Tile) (seed : Nat) : List ElemRes × Nat :=
  elemsGo (fun _ => true) (fun i r =>
    let code := elemAt tile.bits 32 i
    let x := if tile.si32 then XVal.ofInt (sval 32 code) else fmtFP32.value code
    let (e, r1) := convert td rm 0 x r
    ({ i := i, enc := some e }, r1.nanIf (nanCode td e) [x])) 4096 0 seed []

/-- R355: a drain leaves the engine as groups for its hart's lane group. -/
def State.drainTile (s : State) (c : Nat) (op : EngOp) (d : Nat) (e : Option Nat) (z : Bool) : State :=
  let b := op.bank
  let q := engTile op.instr
  let td := s.tag c b d
  let rm := rmOf op.rmode
  let w := tagBits td
  let lo := (s.hart c b).egi.toNat
  let (es, seed) := drainElems td rm (s.tile c q) (s.hart c b).seed.toNat
  let fin : AtEnd :=
    { seed := if rm.rm = 5 ∧ !rm.seedRpt then some (BitVec.ofNat 32 seed) else none
      zeroTile := if z then some q else none }
  let gs := groupsFrom lo w es
  let lane : LaneOp := { word := op.instr.word, d := some d, d2 := e, w := w, todo := gs, fin := fin }
  match if rm.nantrap then nanGroup lo w es else none with
  | none => s.setLane c b lane
  | some (g, i) =>
    s.setLane c b { lane with
      todo := gs.filter fun x => decide (x.g < g)
      fin := { trap := some (0x60, BitVec.ofNat 64 (nanDetail i op.instr.word), g) } }

/-- R349: the stage after a MOPS is taken up. -/
def State.fillStage (s : State) (c : Nat) (op : EngOp) : State :=
  match op.instr with
  | .mops o =>
    let x : Stage := { bank := op.bank, reg := o.b.toNat, tag := (s.reg c op.bank o.b.toNat).tag, ml := op.ml }
    if o.s && (s.core c).stage == some x then s else s.setCore c { s.core c with stage := some x }
  | _ => s

/-- R350, R351, R359: the engine takes up the first operation of its queue. -/
def State.engineTake (s : State) (c : Nat) : State :=
  match (s.core c).engine with
  | [] => s
  | op :: _ =>
    if op.taken then s
    else
      let b := op.bank
      let q := engTile op.instr
      let t := s.tile c q
      let word := op.instr.word
      if readsTile op.instr && t.failed then ((s.dropHead c).closeDrain c op).engTrap c b 0x44 (q * 2 ^ 8 + t.badRow.toNat)
      else match s.consumeFrom c b [] (s.engSources c op) 0 with
      | some (_, r, line, x) =>
        match s.consumed c b word r line (lineGroup line) 4 x false with
        | .inl s' => s'.dropHead c
        | .inr (s', cause, detail) => (s'.dropHead c).engTrap c b cause detail
      | none =>
        let v := fun (r : Nat) => { s.reg c b r with bits := (s.reg c b r).content r }
        let w7 := (s.reg c b 15).content 15
        match op.instr with
        | .mop o =>
          let op' := { op with taken := true, srcA := v o.a.toNat, srcB := v o.b.toNat, scales := w7 }
          let s1 := s.setHead c op'
          if (rmOf op.rmode).nantrap then s1 else s1.accepted c b
        | .mops o =>
          let op' := { op with taken := true, srcA := v o.a.toNat, srcB := v o.b.toNat, srcX := v o.x.toNat, scales := w7 }
          let s1 := (s.setHead c op').fillStage c op
          if (rmOf op.rmode).nantrap then s1 else s1.accepted c b
        | .mzero o =>
          (((s.setHead c { op with taken := true }).setTile c q
            { t with bits := 0, si32 := o.i, failed := false })).accepted c b
        | .mldacc o => s.setHead c { op with taken := true, srcA := v o.a.toNat }
        | .mldaccW o => s.setHead c { op with taken := true, srcA := v o.a.toNat, srcB := v o.b.toNat }
        | .mdrain o => (s.setHead c { op with taken := true }).drainTile c op o.d.toNat none o.z
        | .mdrainW o => (s.setHead c { op with taken := true }).drainTile c op o.d.toNat (some o.e.toNat) o.z
        | _ => s.dropHead c

/-- R354: the values of a load, as the tile holds them. -/
def loadTile (fp : Bool) (a : VReg) (second : Option VReg) : Nat :=
  let enc := fun (x : VReg) (i : Nat) =>
    let v := valueOf x.tag.toNat (elemAt x.bits (tagBits x.tag.toNat) i) 0
    if fp then (roundRne v { seed := 0 }).1
    else match v with | .fin n _ _ => uval 32 n | _ => 0
  let code := fun (i : Nat) => match second with
    | none => enc a i
    | some b => if i < 2048 then enc a i else enc b (i - 2048)
  packRows ((List.range 64).map fun r => (List.range 64).map fun j => code (64 * r + j))

/-- R358: the detail of `0x61 MATRIX_NAN`. -/
def matrixNanDetail (k r j q word : Nat) : Nat := k * 2 ^ 56 + r * 2 ^ 48 + j * 2 ^ 40 + q * 2 ^ 32 + word

/-- R202, R346, R357, R358: the end of a MOP or MOPS: the sampled check agrees at once (`agree`), or after the operation
has run again (`again`), or never. -/
def State.outerEnd (s : State) (c : Nat) (op : EngOp) (mops : Option (Nat × Nat)) (agree again : Bool) : State :=
  let b := op.bank
  let q := engTile op.instr
  let t := s.tile c q
  let trapping := (rmOf op.rmode).nantrap
  let s1 := { s with draws := s.draws + 1 }
  let s2 := if agree then s1 else s1.addScore 1 c 64
  if !agree && !again then
    ((s2.addScore 1 c 64).setTile c q { t with failed := true, badRow := Config.sampledRow s.draws }).acceptedIf trapping c b
  else
    let m := op.run mops t
    match trapping, m.nan with
      | true, some (k, r, j) =>
        match (s2.hart c b).pend with
        | some .engine => s2.engTrap c b 0x61 (matrixNanDetail k r j q op.instr.word)
        | _ => s2
      | _, _ =>
        let fl : BitVec 4 := (if m.inexact then 8 else 0) ||| (if m.nan.isSome then 2 else 0)
        let h := s2.hart c b
        ((s2.setTile c q { t with bits := packRows m.rows }).setHart c b { h with flags := h.flags ||| fl }).acceptedIf
          trapping c b

/-- The operation that the engine has taken up runs to its end. -/
def State.engineEnd (s : State) (c : Nat) (agree again : Bool) : State :=
  match (s.core c).engine with
  | [] => s
  | op :: _ =>
    if !op.taken then s
    else
      let s1 := s.dropHead c
      let q := engTile op.instr
      let t := s.tile c q
      match op.instr with
      | .mop _ => s1.outerEnd c op none agree again
      | .mops o => s1.outerEnd c op (some (if o.n then 24 else 16, op.srcX.bits)) agree again
      | .mldacc _ =>
        let fp := isFloatTag op.srcA.tag.toNat
        (s1.setTile c q { t with bits := loadTile fp op.srcA none, si32 := !fp, failed := false }).accepted c op.bank
      | .mldaccW _ =>
        let fp := isFloatTag op.srcA.tag.toNat
        (s1.setTile c q { t with bits := loadTile fp op.srcA (some op.srcB), si32 := !fp, failed := false }).accepted c
          op.bank
      | _ => s1
where
  isFloatTag (t : Nat) : Bool := decide (8 ≤ t) && decide (t ≤ 12)

/-- One operation of the queue, whole. -/
def State.engineWhole (s : State) (c : Nat) : State := (s.engineTake c).engineEnd c true true

/-- R360: what a stop of a hart does: an operation of its own that has been taken up runs to its end, and the others are
withdrawn. -/
def State.engineStop (s : State) (c b : Nat) : State :=
  let s1 := match (s.core c).engine with
    | op :: _ => if op.bank = b && op.taken then s.engineEnd c true true else s
    | [] => s
  let mine := (s1.core c).engine.filter fun e => e.bank == b && !e.taken
  let s2 := mine.foldl (fun t e => t.closeDrain c e) s1
  s2.setCore c { s2.core c with engine := (s2.core c).engine.filter fun e => !(e.bank == b && !e.taken) }

end Sys2Proof.Machine
end

