-- ==== Sys2Proof/Machine/Ops.lean ====
section
/-! DEFINITION. Taking a cause on a hart and on the control thread, event records, retirement, and the frame in which a
hart word runs, alone or in lockstep (R126, R134 to R145, R172, R196, R217, R248, R400, R401, R408, R420 to R422). -/

namespace Sys2Proof.Machine

/-! ## Gangs and events -/

/-- The gang of a bank (R134). -/
def Core.gangOf (k : Core) (b : Nat) : Option Nat :=
  (List.range 4).find? fun g => (k.gang g).members.getLsbD b

/-- The members of a gang, by ascending bank. -/
def Gang.banks (g : Gang) : List Nat := (List.range 32).filter fun b => g.members.getLsbD b

/-- The VA of the block of `hpc`, and the word. -/
def Hart.blockVa (h : Hart) : Nat := h.hpc.toNat / 64 * 64
def Hart.wordIdx (h : Hart) : Nat := h.hpc.toNat % 64 / 4

/-- The word at a hart's place. -/
def State.wordAt (s : State) (c b : Nat) : Nat :=
  let h := s.hart c b
  match h.st, (s.core c).gangOf b with
  | .member, some g => match (s.gang c g).run with
    | some r => r.words.getD r.pos 0
    | none => 0
  | _, _ => h.blk.getD h.wordIdx 0

/-- R145: byte 3 of an event record. -/
def Core.gangByte (k : Core) (b : Nat) : BitVec 8 :=
  match k.gangOf b with
  | some g => BitVec.ofNat 8 (128 + g)
  | none => 0

/-- R371, R375, R421: every access of the hart is performed; only copies that XFER started, stores handed over and entries of the ring
can be outstanding. -/
def Hart.quiet (h : Hart) : Bool := h.ringLeft == 0 && h.stores == [] && h.slots.all fun e => !e.2.busy

/-- The oldest record that may enter once there is space: a hart's (by bank), or the first that waits in the hub (R144, R415). A hart's
waits for the hart's copies too, since a fault is a release of its retired accesses (R375). -/
def State.oldestWaiting (s : State) (c : Nat) : Option (EvRec × Option Nat) :=
  let hs := (s.core c).harts.filterMap fun e => if e.2.quiet then e.2.evWait.head?.map fun r => (r, some e.1) else none
  let ns := ((s.fen.waiting.find? fun e => e.1 == c).map fun e => (e.2, (none : Option Nat))).toList
  (hs ++ ns).foldl (fun a e => match a with
    | none => some e
    | some x => if e.1.time < x.1.time then some e else some x) none

/-- R144: waiting records enter as space frees, in the order in which they arose. -/
def State.drainEvents : Nat → Nat → State → State
  | 0, _, s => s
  | n + 1, c, s =>
    if Config.eventQueueSize ≤ (s.core c).evq.length ∨ (s.core c).st ≠ .running then s
    else match s.oldestWaiting c with
    | none => s
    | some (r, who) =>
      let s1 := s.setCore c { s.core c with evq := (s.core c).evq ++ [r] }
      let s2 := match who with
        | some b => s1.setHart c b { s1.hart c b with evWait := (s1.hart c b).evWait.drop 1 }
        | none => { s1 with fen := { s1.fen with waiting := s1.fen.waiting.eraseP fun e => e.1 == c && e.2 == r } }
      State.drainEvents n c s2

/-- A hub record for a core (R144, R415): it enters the queue, or waits in the hub while the queue is full, the context is stopped, or
another waits before it. Its cause may be a trigger of the trace (R422). -/
def State.hubRecord (s0 : State) (c : Nat) (r : EvRec) : State :=
  let s := s0.traceMeet c 0 r.cause.toNat
  if (s.core c).evq.length < Config.eventQueueSize ∧ (s.core c).st = .running ∧ (s.fen.waiting.any fun e => e.1 == c) = false then
    s.setCore c { s.core c with evq := (s.core c).evq ++ [r] }
  else { s with fen := { s.fen with waiting := s.fen.waiting ++ [(c, r)] } }

/-! ## Faults of harts -/

/-- R385: an agent whose access has ended holds back no request of another module. -/
def State.noFirst (s : State) (w : Waiter) : State :=
  if s.firsts = [] then s else { s with firsts := s.firsts.filter fun e => e.2 != w }

/-- R138, R360, R400: the hart's fault registers and state; a member leaves its block. -/
def State.suspend (s0 : State) (c b cause detail egi : Nat) : State :=
  let s := ((s0.noFirst (.hart c b)).engineStop c b).keepYoung c b
  let h := s.hart c b
  let k := s.core c
  let g := (k.gangOf b).getD 0
  let run := (k.gang g).run
  let inBlock := h.st == .member && (run.map fun r => r.parts.contains b) == some true
  let h1 := { h with
    st := .faulted, hcause := BitVec.ofNat 8 cause, htval := BitVec.ofNat 64 detail, egi := BitVec.ofNat 5 egi,
    repact := if inBlock then (run.map (·.repact)).getD false else h.repact
    repi := if inBlock then (run.map (·.repi)).getD 0 else h.repi
    bcastKind := if h.st == .member then inBlock else h.bcastKind
    faultVa := h.blockVa, after := 0
    pend := none, blk := [], req := none, hostGot := [], bpSkip := false, latchOwned := false
    dying := false, far := none }
  let k1 := k.setHart b h1
  let k2 := if inBlock then
      k1.setGang g { k1.gang g with run := run.map fun r => { r with parts := r.parts.filter (· != b) } }
    else k1
  (s.setCore c k2).traceMeet c 0 cause

/-- R144, R145: the record of a fault, as the hart stands before it is suspended. -/
def State.faultRecord (s : State) (c b cause detail egi : Nat) : EvRec :=
  let h := s.hart c b
  let k := s.core c
  let run := ((k.gang ((k.gangOf b).getD 0)).run)
  let repi := if h.st = .member then (run.map (·.repi)).getD 0 else h.repi
  { cause := BitVec.ofNat 8 cause, src := 0, bank := BitVec.ofNat 8 b, gang := k.gangByte b,
    detail := BitVec.ofNat 64 detail, time := s.now, hpc := h.hpc.setWidth 64,
    body := BitVec.ofNat 256 (egi + (if h.st = .member then 1 else 2) * 2 ^ 8 + repi.toNat * 2 ^ 32) }

/-- Taking a hart fault (R138, R400): the shared operation of every cause. Cause 0x86 makes no record (R155).
DEDUCED, log 41, safe. -/
def State.hartFault (s : State) (c b cause detail egi : Nat) : State :=
  let r := s.faultRecord c b cause detail egi
  let s1 := s.suspend c b cause detail egi
  if cause = 0x86 then s1
  else if (s1.core c).evq.length < Config.eventQueueSize ∧ (s.hart c b).quiet ∧ (s.hart c b).evWait = [] then
    s1.setCore c { s1.core c with evq := (s1.core c).evq ++ [r] }
  else s1.setHart c b { s1.hart c b with evWait := (s1.hart c b).evWait ++ [r] }

/-! ## Traps of the control thread -/

/-- Taking a trap on the control thread (R126, R401; the RISC-V privileged architecture): mepc, mcause and mtval are
saved, MIE moves to MPIE and the mode to MPP, the thread goes on in M mode at mtvec, and its reservation ends (R381). A device
cause may be a trigger of the trace (R422). -/
def State.ctTrap (s0 : State) (c : Nat) (cause : Nat) (tval : Nat) (epc : Word) : State :=
  let s := s0.noFirst (.ct c)
  let t := s.ct c
  let base := t.mtvec.toNat / 4 * 4
  let vectored := t.mtvec.toNat % 4 == 1 && decide (2 ^ 63 ≤ cause)
  (if cause = 24 then s.traceMeet c 0 (tval / 2 ^ 56) else s).setCt c { t with
    mepc := epc, mcause := BitVec.ofNat 64 cause, mtval := BitVec.ofNat 64 tval,
    mpie := t.mie, mie := false, mpp := t.mode, mode := .machine,
    pc := BitVec.ofNat 64 (base + if vectored then 4 * (cause % 2 ^ 63) else 0), resv := none, rreq := none, hostGot := [] }

/-- R126: a device cause, with its code in mtval[63:56]; a walk that waits is none. Of a detail of 64 bits, the low 56 bits that mtval
has room for are kept: the module of R386 is cut. DESIGN CHOICE, log 97, unsafe. -/
def State.ctCause (s : State) (c code detail : Nat) : State :=
  if code = walkWait then s.walkRequest (.ct c) detail
  else s.ctTrap c 24 (code * 2 ^ 56 + detail % 2 ^ 56) (s.ct c).pc

/-- The return from a trap: MRET (RISC-V privileged architecture); MPRV ends where it leaves M mode. -/
def State.ctReturn (s : State) (c : Nat) : State :=
  let t := s.ct c
  s.setCt c { t with mode := t.mpp, mie := t.mpie, mpie := true, mpp := .user, pc := t.mepc
                     mprv := t.mprv && t.mpp == .machine }

/-- x0 reads 0. -/
def Ct.xreg (t : Ct) (r : Nat) : Word := if r = 0 then 0 else t.x.get r 0
def Ct.setX (t : Ct) (r : Nat) (v : Word) : Ct := if r = 0 then t else { t with x := t.x.put r v }

/-- An instruction of the control thread that completes: rd, the next pc, and instret. -/
def State.ctDone (s : State) (c r : Nat) (v : Word) : State :=
  let s1 := s.setCt c
    { (s.ct c).setX r v with pc := (s.ct c).pc + BitVec.ofNat 64 s.actLen, rreq := none, hostGot := [] }
  s1.setCore c { s1.core c with instret := (s1.core c).instret + 1 }

/-! ## Retirement of a hart word -/

/-- Where a word sends its hart (R131, R212 to R217). -/
inductive Go
  | next
  | jump (va : Nat)
  | park
  | rep (n : Nat)
deriving DecidableEq, Repr, Inhabited

/-- R129: LENGTH of a header. -/
def headerLen (w : Nat) : Nat := fld w 22 4

/-- LENGTH of the block the hart holds. -/
def Hart.blockLen (h : Hart) : Nat := headerLen (h.blk.headD 0)

def Hart.goTo (h : Hart) (va : Nat) : Hart :=
  { h with hpc := BitVec.ofNat 48 va, blk := [], bcastKind := false, sigOff := false }

/-- R141: the hart becomes PARKED. -/
def Hart.parkNow (h : Hart) : Hart := { h with st := .parked, blk := [], bcastKind := false, sigOff := false }

/-- R131, R139: the end of a split hart's block. -/
def Hart.blockEnd (h : Hart) : Hart := if h.bcastKind then h.parkNow else h.goTo (h.blockVa + 64)

/-- R217: the passes of a REPB of count `n` that are still to run. -/
def Hart.passesLeft (h : Hart) (n : Nat) : BitVec 32 := if h.repact then h.repi else BitVec.ofNat 32 n

/-- The VA at which a split hart's next block is fetched, where a word leaves its block for another (R131, R133). -/
def Hart.leaves (h : Hart) (g : Go) : Option Nat :=
  match g with
  | .jump va => some va
  | .next => if h.wordIdx < h.blockLen || h.bcastKind then none else some (h.blockVa + 64)
  | .rep n => if h.passesLeft n != 0 || h.bcastKind then none else some (h.blockVa + 64)
  | .park => none

/-- Where a split hart goes after a word. -/
def Hart.advance (h : Hart) (g : Go) : Hart :=
  match g with
  | .next => if h.wordIdx < h.blockLen then { h with hpc := h.hpc + 4 } else h.blockEnd
  | .jump va => h.goTo va
  | .park => h.parkNow
  | .rep n =>
    let r := h.passesLeft n
    if r ≠ 0 then { h with repact := true, repi := r - 1, hpc := BitVec.ofNat 48 (h.blockVa + 4) }
    else { h with repact := false, repi := r }.blockEnd

/-- The fields that any retirement resets (R224: egi returns to 0). -/
def Hart.clean (h : Hart) : Hart :=
  { h with
    egi := 0, bpSkip := false, pend := none, req := none, hostGot := [], reSensed := [], latchOwned := false
    note := {}, drawn := [] }

/-- R420, R421: the majors whose words the ring records, and VCFG and VTAG. -/
def ringWord (w : Nat) : Bool :=
  let m := fld w 26 6
  (decide (0x11 ≤ m) && decide (m ≤ 0x16)) || (decide (0x18 ≤ m) && decide (m ≤ 0x21)) || m == 0x28 || m == 0x29 ||
    (m == 0x10 && (fld w 0 7 == 0 || fld w 0 7 == 4))

/-- R420: bytes of a ring entry as a number. -/
def ringEntry (hpc b : Nat) (n : Note) : Nat :=
  hpc + b * 2 ^ 48 + n.vl * 2 ^ 64 + n.width * 2 ^ 96 + n.active * 2 ^ 112 + n.lo * 2 ^ 128 + n.hi * 2 ^ 192

/-- R421: the oldest entry that has still to be written leaves the core. -/
def State.ringNext (s : State) (c : Nat) : State :=
  match (s.core c).ringq with
  | [] => s
  | (b, _) :: rest =>
    let s1 := s.setCore c { s.core c with ringq := rest, ringReq := none, ringGot := [] }
    s1.setHart c b { s1.hart c b with ringLeft := (s1.hart c b).ringLeft - 1 }

/-- R421: an entry is dropped, and counted. -/
def State.countLost (s : State) (c : Nat) : State :=
  s.setCt c { s.ct c with ringpos := (s.ct c).ringpos + 0x100000000 }

/-- R421: the write of the oldest entry fails. -/
def State.ringLost (s : State) (c : Nat) : State := (s.ringNext c).countLost c

/-- R421: an entry is written at POS, which rises. -/
def Ct.ringUp (t : Ct) : Ct :=
  let p := t.ringpos.toNat
  { t with ringpos := BitVec.ofNat 64 (p / 2 ^ 32 * 2 ^ 32 + (p + 1) % 2 ^ 32) }

/-- The VA of the entry that is written next (R420). -/
def Ct.ringVa (t : Ct) : Nat :=
  fld t.ring.toNat 11 37 * 2 ^ 11 + t.ringpos.toNat % 2 ^ 32 % 2 ^ fld t.ring.toNat 48 4 * 32

/-- R421: the oldest entry is written, or counted as lost where its write fails; `false` where it waits, or there is none. -/
def State.ringStep (s : State) (c : Nat) : State × Bool :=
  match (s.core c).ringq with
  | [] => (s, false)
  | (b, e) :: _ =>
    let va := (s.ct c).ringVa
    match s.colAt c false va 32 false true with
    | .error (cause, detail) =>
      if cause = walkWait then (s.walkRequest (.ring c) detail, false) else (s.ringLost c, true)
    | .ok p =>
      match s.store (.ring c) none va p 32 e with
      | .wait s' => (s.keepRequest s' (.ring c), false)
      | .done s' _ _ =>
        let s1 := s'.ringNext c
        let s2 := s1.setCt c (s1.ct c).ringUp
        (match p with | .host _ => s2.setPosted (.hart c b) true | _ => s2, true)

/-- R421: entries are written, in retirement order. -/
def State.ringRun : Nat → Nat → State → State
  | 0, _, s => s
  | n + 1, c, s => match s.ringStep c with
    | (t, true) => State.ringRun n c t
    | (t, false) => t

/-- R420, R421: a retiring word's entry: one of at most 16 that have still to be written, or counted as lost. -/
def State.ringWrite (s : State) (c b word : Nat) : State :=
  let t := s.ct c
  if !t.ring.getLsbD 63 || fld t.ring.toNat 48 4 < 6 || !ringWord word then s
  else if Config.ringEntries ≤ (s.core c).ringq.length then s.countLost c
  else
    let e := ringEntry (s.hart c b).hpc.toNat b (s.hart c b).note
    let s1 := s.setCore c { s.core c with ringq := (s.core c).ringq ++ [(b, e)] }
    (s1.setHart c b { s1.hart c b with ringLeft := (s1.hart c b).ringLeft + 1 }) |> State.ringRun Config.ringEntries c

/-- The word at a hart's place is the last of its block. -/
def State.atLastWord (s : State) (c b : Nat) : Bool :=
  let h := s.hart c b
  match h.st, ((s.core c).gangOf b).bind fun g => (s.gang c g).run with
  | .member, some r => r.pos == headerLen (r.words.headD 0)
  | .member, none => false
  | _, _ => h.wordIdx == h.blockLen

/-- What retirement does apart from moving the hart on: ring and trace. -/
def State.retireNotes (s : State) (c b word : Nat) (acted : Bool) (g : Go) : State :=
  let n := (s.hart c b).note
  let s1 := if acted then s.ringWrite c b word else s
  let s2 := match n.first with
    | some va => if acted then s1.traceAdd c b 3 va else s1
    | none => s1
  match g with
  | .next => if s.atLastWord c b then s2.traceAdd c b 0 (s.hart c b).hpc.toNat else s2
  | .jump va => s2.traceAdd c b 0 va
  | _ => s2.traceAdd c b 0 (s.hart c b).hpc.toNat

/-- R131, R133, R213: the block at an address above 48 bits: its fetch fails, once the tables' lines that tell how have come (R47). -/
def State.farFetch (s : State) (c b : Nat) (va : Option Nat) : State :=
  match va with
  | some a =>
    if a < 2 ^ 48 then s
    else match s.translateOn c false a .fetch false false with
      | .error (cause, detail) =>
        if cause = walkWait then (s.setHart c b { s.hart c b with far := some a }).walkRequest (.hart c b) detail
        else s.hartFault c b cause detail 0
      | .ok _ => s
  | none => s

/-- A fetch above 48 bits that waits is tried again. -/
def State.farAgain (s : State) (c b : Nat) : State :=
  (s.setHart c b { s.hart c b with far := none }).farFetch c b (s.hart c b).far

/-- A split hart's word retires. -/
def State.retire (s : State) (c b word : Nat) (acted : Bool) (g : Go) : State :=
  let s1 := s.retireNotes c b word acted g
  let h := (s1.hart c b).clean
  ((s1.setHart c b (h.advance g)).promote c b).farFetch c b (h.leaves g)

/-! ## Stopping work in progress (R201, R255, R366, R392, R405) -/

/-- A waiter leaves the queues of a counter (R392). -/
def Ctr.withdraw (x : Ctr) (c : Nat) (b : Option Nat) : Ctr :=
  { x with sems := x.sems.filter (fun w => !(w.core == c && w.bank == b))
           bars := x.bars.filter (fun w => !(w.core == c && w.bank == b)) }

def State.withdraw (s : State) (c : Nat) (b : Option Nat) : State :=
  let s1 := s.setCore c { s.core c with ctrs := (s.core c).ctrs.mapVals fun _ x => x.withdraw c b }
  { s1 with hctrs := s1.hctrs.mapVals fun _ x => x.withdraw c b }

/-- R366: a hart's part leaves its RED instance. -/
def State.leaveReds (s : State) (c b : Nat) : State :=
  { s with cores := s.cores.mapVals fun _ k =>
      { k with reds := k.reds.mapVals fun _ ps => ps.filter fun p => !(p.core == c && p.bank == b) } }

/-- R204: the row has been sensed again; the word reissues at its next turn. -/
def State.resenseDone (s : State) (c b k : Nat) : State :=
  (s.senseRow c b k ((s.reg c b k).row.getD 0)).setPend c b none

/-- The hart's work in progress is brought to its boundary: completed (then it is `done` or ended by its own cause), or
stopped at the group answered. A REF goes on, and the stop waits for it (R187, R405). -/
def State.stopWork (s0 : State) (c b : Nat) : State × Option Nat :=
  let s := (s0.engineStop c b).keepYoung c b
  match (s.hart c b).pend with
  | none => (s, some (s.hart c b).egi.toNat)
  | some .done => (s, none)
  | some (.trapped _ _ _) => (s, none)
  | some (.resense k true) => (s.resenseDone c b k, some (s.hart c b).egi.toNat)
  | some (.resense _ false) => (s.setPend c b none, some (s.hart c b).egi.toNat)
  | some (.refresh _ _) => (s, none)
  | some (.lane op) =>
    if op.unmade = [] ∨ fld op.word 26 6 = 0x28 then (State.laneRun 80 c b s, none) else ((s.drainLane c b op).setPend c b none, some op.next)
  | some (.gather left op) => if left = [] ∧ op.todo = [] then (s.endLane c b op, none)
    else ((s.drainLane c b op).setPend c b none, some ((left ++ op.todo.map (·.g)).foldl min 31))
  | some (.twill _ d _ _) => ((s.endWrite c b d).setPend c b none, some 0)
  | some (.recv r _ _ _) => ((s.endWrite c b r).setPend c b none, some 0)
  | some (.red _ _ _ _) => ((s.leaveReds c b).setPend c b none, some 0)
  | some (.counter _) => ((s.withdraw c (some b)).setPend c b none, some 0)
  | some p => match s.rowEnd c b p with
    | some s1 => (s1.setPend c b (some .done), none)
    | none => (s.setPend c b none, some 0)

/-! ## The frame of a hart word -/

/-- What a word does on a hart: it completes, waits, has issued and left work in `pend`, or raises a cause. -/
inductive HRes
  | ok (s : State) (g : Go)
  | wait (s : State)
  | work (s : State)
  | trap (s : State) (cause detail egi : Nat)
deriving DecidableEq, Repr, Inhabited

/-- A hart word: its instruction, predicate bit, whether it must stand in full lockstep (order 6 of R172), whether it
touches the bank (R408), the count of a REPB, what it does (on the state at the word's start, the state, core and
bank), how its pending work goes on, and what the ring notes of it. -/
structure Op where
  instr : Instr
  p : Bool := false
  lock : Bool := false
  touch : Bool := false
  rep : Option Nat := none
  act : State → State → Nat → Nat → HRes
  poll : Bool → State → Nat → Nat → Pend → HRes := fun _ s _ _ _ => .wait s
  note : State → Nat → Nat → Note := fun s c b => { vl := (s.hart c b).vl.toNat }

def Op.word (o : Op) : Nat := o.instr.word

/-- R166: the word acts on the hart. -/
def State.acts (s : State) (c b : Nat) (o : Op) : Bool := !o.p || (s.hart c b).hp

/-- R408: OWNER after a touching word's check, if the word may proceed. -/
def State.ownBank (s : State) (c b : Nat) : Option State :=
  let k := s.core c
  let o := (k.bank b).owner
  if o = k.ctx.toNat then some s
  else if o = 0 ∧ ((k.saved.find k.ctx.toNat).bind fun v => v.banks.find b).isNone then
    some (s.setBank c b { k.bank b with masks := [], regs := [], owner := k.ctx.toNat })
  else none

/-- R204, R190: the ACT of a replay starts once its conditions hold, and the latch is OPENING. -/
def State.resenseStart (s : State) (c b k : Nat) : HRes :=
  let x := s.reg c b k
  let pa := x.row.getD 0
  if !s.sagIdle c b k || s.clusterOff pa || (s.power.hold && !s.power.det) then .wait s
  else
    let s1 := (s.writeBackRow pa).setReg c b k { x with latch := .opening }
    .work ((s1.setSagBusy c b k s.stepwise).setPend c b (some (.resense k true)))

/-- A replay goes on. -/
def State.resensePoll (s : State) (c b k : Nat) (started force : Bool) : HRes :=
  if !started then s.resenseStart c b k
  else if force then .wait ((s.resenseDone c b k).setSagBusy c b k false)
  else .wait s

/-- Pending work goes on; `force` completes what only time holds. -/
def Op.pollOne (o : Op) (force : Bool) (s : State) (c b : Nat) (p : Pend) : HRes :=
  match p with
  | .resense k started => s.resensePoll c b k started force
  | .done => .ok (s.setPend c b none) .next
  | .trapped cause detail egi => .trap (s.setPend c b none) cause detail egi
  | p => o.poll force s c b p

/-- A walk that waits is no cause: the word waits, as it stood (R47, R53). -/
def HRes.walks (r : HRes) (s : State) (c b : Nat) : HRes :=
  match r with
  | .trap _ cause detail _ => if cause = walkWait then .wait (s.walkRequest (.hart c b) detail) else r
  | r => r

/-- Polls until the work ends or waits. -/
def Op.settle (o : Op) (force : Bool) (c b : Nat) : Nat → State → HRes
  | 0, s => .wait s
  | n + 1, s =>
    match (s.hart c b).pend with
    | none => .wait s
    | some p =>
      match (o.pollOne force s c b p).walks s c b with
      | .work s' => o.settle force c b n s'
      | r => r

/-- Enough polls for any one instruction: two for each group, and some. -/
def pollFuel : Nat := 200

/-- The word on one hart, from its issue or from where its work stands. -/
def Op.run (o : Op) (s0 s : State) (c b : Nat) : HRes :=
  match (s.hart c b).pend with
  | some _ => o.settle (!s.stepwise) c b pollFuel s
  | none =>
    if !s.acts c b o then .ok s .next
    else
      let owned := if o.touch then s.ownBank c b else some s
      match owned with
      | none => .wait (s.setHart c b { s.hart c b with latchOwned := true })
      | some s1 =>
        let mark := fun (t : State) => t.setHart c b { t.hart c b with note := o.note s1 c b, latchOwned := false }
        match (o.act s0 s1 c b).walks s1 c b with
        | .work s' => if s'.stepwise then .wait (mark s') else o.settle true c b pollFuel (mark s')
        | .ok s' g => .ok (mark s') g
        | .wait s' => .wait (mark s')
        | .trap s' cause detail egi => .trap (mark s') cause detail egi

/-- R248: GANG_ABSENT's detail. -/
def gangDetail (members word : Nat) : Nat := members * 2 ^ 32 + word

/-- Where a word sends its hart: REPB counts its pass (R217). -/
def Op.goes (o : Op) (g : Go) : Go :=
  match g, o.rep with
  | .next, some n => .rep n
  | g, _ => g

/-- The word of a split hart. -/
def Op.execSplit (o : Op) (s : State) (c b : Nat) : State :=
  if o.lock then
    let members := ((s.core c).gangOf b).map fun g => ((s.core c).gang g).members.toNat
    s.hartFault c b 0x0c (gangDetail (members.getD 0) o.word) 0
  else
    let acted := s.acts c b o
    match o.run s s c b with
    | .ok s' g => s'.retire c b o.word acted (o.goes g)
    | .wait s' => s'
    | .work s' => s'
    | .trap s' cause detail egi => s'.hartFault c b cause detail egi

/-! ## Lockstep (R135 to R138) -/

def State.running (s : State) (c g : Nat) : Option Running := (s.gang c g).run
def State.setRunning (s : State) (c g : Nat) (r : Running) : State := s.setGang c g { s.gang c g with run := some r }

/-- Participants that have not retired the current word. -/
def Running.todo (r : Running) : List Nat := r.parts.filter fun b => !r.done.contains b

/-- A participant has retired the word: it leaves by a BFETCH (R140), or waits for the others. -/
def State.gangRetire (s : State) (c g b word : Nat) (acted : Bool) (go : Go) : State :=
  let s1 := s.retireNotes c b word acted go
  let h := (s1.hart c b).clean
  match s1.running c g, go with
  | none, _ => s1.setHart c b h
  | some r, .jump va =>
    ((s1.setHart c b { h.goTo va with st := .split }).setRunning c g { r with parts := r.parts.filter (· != b) }).farFetch
      c b (some va)
  | some r, _ => (s1.setHart c b h).setRunning c g { r with done := r.done ++ [b] }

/-- R135: whether the word waits at issue on some participant; the first that waits gives the state. -/
def Op.waits (o : Op) (s : State) (c : Nat) : List Nat → Option State
  | [] => none
  | b :: bs =>
    if (s.hart c b).pend.isSome then Op.waits o s c bs
    else match o.run s { s with stepwise := true } c b with
      | .wait s' => if (s'.hart c b).pend.isSome then Op.waits o s c bs else some { s' with stepwise := s.stepwise }
      | _ => Op.waits o s c bs

/-- The word on each participant in turn, by ascending bank. -/
def Op.onAll (o : Op) (s0 : State) (c g : Nat) : List Nat → State → State
  | [], s => s
  | b :: bs, s =>
    let acted := s.acts c b o
    let s' := match o.run s0 s c b with
      | .ok s' go => s'.gangRetire c g b o.word acted go
      | .wait s' => s'
      | .work s' => s'
      | .trap s' cause detail egi => s'.hartFault c b cause detail egi
    Op.onAll o s0 c g bs s'

/-- R204: replays of participants go on while the word waits. -/
def State.replays (s : State) (c : Nat) (bs : List Nat) : State :=
  bs.foldl (fun t b => match (t.hart c b).pend with
    | some (.resense k started) => match t.resensePoll c b k started (!t.stepwise) with
      | .work t' => t'
      | .wait t' => t'
      | _ => t
    | _ => t) s

/-- One step of each participant's work in progress; whether any went on. -/
def Op.pollAll (o : Op) (c g : Nat) : List Nat → State → State × Bool
  | [], s => (s, false)
  | b :: bs, s =>
    match (s.hart c b).pend with
    | none => Op.pollAll o c g bs s
    | some p =>
      let (s1, went) := match (o.pollOne true s c b p).walks s c b with
        | .work s' => (s', true)
        | .ok s' go => (s'.gangRetire c g b o.word true go, true)
        | .trap s' cause detail egi => (s'.hartFault c b cause detail egi, true)
        | .wait s' => (s', false)
      let (s2, more) := Op.pollAll o c g bs s1
      (s2, went || more)

/-- R217: where the sequencer goes once every participant has retired word `pos` of a block of length `len`. -/
def Running.forward (r : Running) (len : Nat) (rep : Option Nat) : Running :=
  if r.pos < len then { r with pos := r.pos + 1, done := [] }
  else match rep with
    | none => { r with pos := len + 1, done := [] }
    | some n =>
      let q := if r.repact then r.repi else BitVec.ofNat 32 n
      if q ≠ 0 then { r with repact := true, repi := q - 1, pos := 1, done := [] }
      else { r with repact := false, repi := q, pos := len + 1, done := [] }

/-- The hpc of each participant follows the sequencer's word, whose operation it may have issued (R463). -/
def State.alignPcs (s : State) (c g : Nat) : State :=
  match s.running c g with
  | none => s
  | some r =>
    if r.pos ≤ headerLen (r.words.headD 0) then
      r.parts.foldl (fun t b =>
        (t.setHart c b { t.hart c b with hpc := BitVec.ofNat 48 (r.va + 4 * r.pos) }).promote c b) s
    else s

/-- The sequencer goes on when nobody is left to retire the word. -/
def State.gangForward (s : State) (c g : Nat) (rep : Option Nat) : State :=
  match s.running c g with
  | none => s
  | some r =>
    if r.todo ≠ [] then s
    else if r.parts = [] then s.setRunning c g { r with pos := headerLen (r.words.headD 0) + 1, done := [] }
    else (s.setRunning c g (r.forward (headerLen (r.words.headD 0)) rep)).alignPcs c g

/-- R248: the word is absent from a member. -/
def State.absent (s : State) (c g : Nat) (r : Running) : Bool :=
  r.done == [] && !(r.parts.any fun b => (s.hart c b).pend.isSome) &&
    (s.gang c g).banks.any fun b => !r.parts.contains b

/-- The row operation of an SLD or SST that ends by a trap: its handle does not advance (R243). -/
def Pend.noAdvance : Pend → Pend
  | .sense k pa _ => .sense k pa none
  | .capture k pa close _ => .capture k pa close none
  | .rowWrite k pa bits conds _ => .rowWrite k pa bits conds none
  | p => p

/-- R248: a participant ends the word in progress with 0x0C: at the group it stops at, or once its row operation is complete
(R405). A word whose work is done already retires. -/
def State.endAbsent (s : State) (c b detail : Nat) : State :=
  match ((s.hart c b).pend).bind fun p => s.rowEnd c b p.noAdvance with
  | some s1 => (s1.setPend c b none).hartFault c b 0x0c detail 0
  | none => match s.stopWork c b with
    | (s1, some e) => s1.hartFault c b 0x0c detail e
    | (s1, none) => s1

/-- R248: where a participant faulted, at its own issue or later, while the word was in progress on others, they end it with
0x0C. DEDUCED, log 29, unsafe. -/
def State.loseLockstep (c g word : Nat) (before : List Nat) (s : State) : State :=
  let lost := before.any fun b => (s.hart c b).st == .faulted
  if !lost then s
  else before.foldl (fun t b =>
    if (t.hart c b).st = .member ∧ (t.hart c b).pend.isSome then
      t.endAbsent c b (gangDetail (s.gang c g).members.toNat word)
    else t) s

/-- A word in lockstep goes on step by step on all its participants together, until all have retired it, all wait, or one of
them faults (R248). -/
def Op.inStep (o : Op) (c g : Nat) (before : List Nat) : Nat → State → State
  | 0, s => s
  | n + 1, s =>
    match o.pollAll c g before s with
    | (s1, true) => Op.inStep o c g before n (State.loseLockstep c g o.word before s1)
    | (s1, false) => s1

/-- The word of a gang's sequencer on the participants that have still to retire it. A word that needs lockstep issues to
all before it goes on for any. -/
def Op.onTodo (o : Op) (s : State) (c g : Nat) (r : Running) : State :=
  if o.lock then
    let s1 := State.loseLockstep c g o.word r.todo (o.onAll s c g r.todo { s with stepwise := true })
    let s2 := { s1 with stepwise := s.stepwise }
    if s.stepwise then s2 else o.inStep c g r.todo pollFuel s2
  else o.onAll s c g r.todo s

/-- The word of a gang's sequencer. -/
def Op.execGang (o : Op) (s : State) (c g : Nat) : State :=
  match s.running c g with
  | none => s
  | some r =>
    if o.lock && s.absent c g r then
      (r.todo.foldl (fun t b =>
        t.hartFault c b 0x0c (gangDetail (s.gang c g).members.toNat o.word) 0) s).gangForward c g o.rep
    else match o.waits s c r.todo with
    | some s' => s'.replays c r.todo
    | none => (o.onTodo s c g r).gangForward c g o.rep

/-- The meaning of a hart word, for the acting hart or gang. -/
def Op.exec (o : Op) (s : State) : Res :=
  .next (match s.actGang with
    | some g => o.execGang s s.actCore g
    | none => o.execSplit s s.actCore s.actBank)

end Sys2Proof.Machine
end

