-- ==== Sys2Proof/Machine/Scalar.lean ====
section
/-! DEFINITION. Scalar arithmetic, immediates and constants (R209 to R211). -/

namespace Sys2Proof.Machine

/-- A word that completes at once on the hart alone. -/
def hartOp (i : Instr) (p : Bool) (f : Hart → Hart) : Op :=
  { instr := i, p := p, act := fun _ s c b => .ok (s.setHart c b (f (s.hart c b))) .next }

/-- R209: the high 64 bits of a product. -/
def mulHigh (a b : Int) : Word := BitVec.ofInt 64 (a * b / 2 ^ 64)

/-- R209: the quotient truncated towards zero; −1 for a zero divisor. -/
def divSigned (a b : Word) : Word := if b = 0 then -1 else BitVec.ofInt 64 (a.toInt.tdiv b.toInt)
def divUnsigned (a b : Word) : Word := if b = 0 then -1 else BitVec.ofNat 64 (a.toNat / b.toNat)
def remSigned (a b : Word) : Word := if b = 0 then a else BitVec.ofInt 64 (a.toInt.tmod b.toInt)
def remUnsigned (a b : Word) : Word := if b = 0 then a else BitVec.ofNat 64 (a.toNat % b.toNat)

/-- R209: gd := ga op gb. -/
def scalarOp (i : Instr) (o : S3) (f : Word → Word → Word) : Op :=
  hartOp i o.p fun h => h.setG o.d.toNat (f (h.greg o.a.toNat) (h.greg o.b.toNat))

/-- R210: gd := ga op SignExtend(imm18). -/
def immOp (i : Instr) (o : SI) (f : Word → Word → Word) : Op :=
  hartOp i false fun h => h.setG o.d.toNat (f (h.greg o.a.toNat) (o.i.signExtend 64))

/-- R171, R210: a shift by an immediate. -/
def shiftOp (i : Instr) (o : SH) (f : Word → Nat → Word) : Op :=
  hartOp i false fun h => h.setG o.d.toNat (f (h.greg o.a.toNat) o.s.toNat)

def aluAdd (a b : Word) : Word := a + b
/-- R209. -/
def execAdd (o : S3) (s : State) : Res := (scalarOp (.add o) o aluAdd).exec s
def aluSub (a b : Word) : Word := a - b
/-- R209. -/
def execSub (o : S3) (s : State) : Res := (scalarOp (.sub o) o aluSub).exec s
def aluAnd (a b : Word) : Word := a &&& b
/-- R209. -/
def execAnd (o : S3) (s : State) : Res := (scalarOp (.and o) o aluAnd).exec s
def aluOr (a b : Word) : Word := a ||| b
/-- R209. -/
def execOr (o : S3) (s : State) : Res := (scalarOp (.or o) o aluOr).exec s
def aluXor (a b : Word) : Word := a ^^^ b
/-- R209. -/
def execXor (o : S3) (s : State) : Res := (scalarOp (.xor o) o aluXor).exec s
def aluSll (a b : Word) : Word := a <<< (b.toNat % 64)
/-- R209. -/
def execSll (o : S3) (s : State) : Res := (scalarOp (.sll o) o aluSll).exec s
def aluSrl (a b : Word) : Word := a >>> (b.toNat % 64)
/-- R209. -/
def execSrl (o : S3) (s : State) : Res := (scalarOp (.srl o) o aluSrl).exec s
def aluSra (a b : Word) : Word := a.sshiftRight (b.toNat % 64)
/-- R209. -/
def execSra (o : S3) (s : State) : Res := (scalarOp (.sra o) o aluSra).exec s
def aluMul (a b : Word) : Word := a * b
/-- R209. -/
def execMul (o : S3) (s : State) : Res := (scalarOp (.mul o) o aluMul).exec s
def aluMulh (a b : Word) : Word := mulHigh a.toInt b.toInt
/-- R209. -/
def execMulh (o : S3) (s : State) : Res := (scalarOp (.mulh o) o aluMulh).exec s
def aluMulhu (a b : Word) : Word := mulHigh a.toNat b.toNat
/-- R209. -/
def execMulhu (o : S3) (s : State) : Res := (scalarOp (.mulhu o) o aluMulhu).exec s
def aluDiv (a b : Word) : Word := divSigned a b
/-- R209. -/
def execDiv (o : S3) (s : State) : Res := (scalarOp (.div o) o aluDiv).exec s
def aluDivu (a b : Word) : Word := divUnsigned a b
/-- R209. -/
def execDivu (o : S3) (s : State) : Res := (scalarOp (.divu o) o aluDivu).exec s
def aluRem (a b : Word) : Word := remSigned a b
/-- R209. -/
def execRem (o : S3) (s : State) : Res := (scalarOp (.rem o) o aluRem).exec s
def aluRemu (a b : Word) : Word := remUnsigned a b
/-- R209. -/
def execRemu (o : S3) (s : State) : Res := (scalarOp (.remu o) o aluRemu).exec s
def aluMin (a b : Word) : Word := if a.slt b then a else b
/-- R209. -/
def execMin (o : S3) (s : State) : Res := (scalarOp (.min o) o aluMin).exec s
def aluMax (a b : Word) : Word := if a.slt b then b else a
/-- R209. -/
def execMax (o : S3) (s : State) : Res := (scalarOp (.max o) o aluMax).exec s
def aluMinu (a b : Word) : Word := if a.ult b then a else b
/-- R209. -/
def execMinu (o : S3) (s : State) : Res := (scalarOp (.minu o) o aluMinu).exec s
def aluMaxu (a b : Word) : Word := if a.ult b then b else a
/-- R209. -/
def execMaxu (o : S3) (s : State) : Res := (scalarOp (.maxu o) o aluMaxu).exec s
def aluSlt (a b : Word) : Word := if a.slt b then 1 else 0
/-- R209. -/
def execSlt (o : S3) (s : State) : Res := (scalarOp (.slt o) o aluSlt).exec s
def aluSltu (a b : Word) : Word := if a.ult b then 1 else 0
/-- R209. -/
def execSltu (o : S3) (s : State) : Res := (scalarOp (.sltu o) o aluSltu).exec s
/-- R210. -/
def execAddi (o : SI) (s : State) : Res := (immOp (.addi o) o aluAdd).exec s
/-- R210. -/
def execAndi (o : SI) (s : State) : Res := (immOp (.andi o) o aluAnd).exec s
/-- R210. -/
def execOri (o : SI) (s : State) : Res := (immOp (.ori o) o aluOr).exec s
/-- R210. -/
def execXori (o : SI) (s : State) : Res := (immOp (.xori o) o aluXor).exec s
/-- R210. -/
def execSlli (o : SH) (s : State) : Res := (shiftOp (.slli o) o fun a k => a <<< k).exec s
/-- R210. -/
def execSrli (o : SH) (s : State) : Res := (shiftOp (.srli o) o fun a k => a >>> k).exec s
/-- R210. -/
def execSrai (o : SH) (s : State) : Res := (shiftOp (.srai o) o fun a k => a.sshiftRight k).exec s
/-- R211: the sign-extended 22-bit constant. -/
def execLimm (o : LI) (s : State) : Res :=
  (hartOp (.limm o) false fun h => h.setG o.d.toNat (o.i.signExtend 64)).exec s

/-- R211: gd × 2^22 + imm22. -/
def execLshi (o : LI) (s : State) : Res :=
  (hartOp (.lshi o) false fun h => h.setG o.d.toNat (h.greg o.d.toNat <<< 22 + o.i.setWidth 64)).exec s

end Sys2Proof.Machine
end

