-- ==== Sys2Proof/Machine/Sregs.lean ====
section
/-! DEFINITION. The special registers of a hart: their values and what a write of each does (R151, R185, R224, R443). -/

namespace Sys2Proof.Machine

/-- R443: a timing floor at a clock of `clk` hundred MHz, from its value at 1.8 GHz. -/
def floorAt (v clk : Nat) : Nat := (v * clk + 17) / 18

/-- R224: `tdesc`. -/
def State.tdesc (s : State) (c : Nat) : Word :=
  let k := s.clockOf c
  BitVec.ofNat 64 (floorAt 27 k + floorAt 81 k * 2 ^ 8 + floorAt 36 k * 2 ^ 16 + floorAt 8 k * 2 ^ 24 + 32 * 2 ^ 32 +
    8 * 2 ^ 40 + 2 * 2 ^ 44 + k * 2 ^ 48)

/-- R134. -/
def HState.code : HState → Nat
  | .free => 0
  | .member => 1
  | .split => 2
  | .parked => 3
  | .faulted => 4

/-- The pass in force on a hart: its gang's block while it is in lockstep, else its own (R138, R217). -/
def State.passOf (s : State) (c b : Nat) : Bool × BitVec 32 :=
  let h := s.hart c b
  match h.st, (s.core c).gangOf b with
  | .member, some g =>
    match (s.gang c g).run with
    | some r => if r.parts.contains b then (r.repact, r.repi) else (h.repact, h.repi)
    | none => (h.repact, h.repi)
  | _, _ => (h.repact, h.repi)

/-- R224: `hstat`. -/
def State.hstat (s : State) (c b : Nat) : Word :=
  let h := s.hart c b
  let p := s.passOf c b
  let g := (s.core c).gangOf b
  BitVec.ofNat 64 (h.st.code + g.getD 0 * 2 ^ 4 + bnat g.isSome * 2 ^ 7 + bnat h.mmode * 2 ^ 8 + bnat p.1 * 2 ^ 9 +
    p.2.toNat * 2 ^ 32)

/-- R224: the value of special register `n` (numbers of R151). -/
def State.sreg (s : State) (c b n : Nat) : Word :=
  let h := s.hart c b
  match n with
  | 0 => h.vl.setWidth 64
  | 1 => h.rmode.setWidth 64
  | 2 => h.egi.setWidth 64
  | 3 => h.hpc.setWidth 64
  | 4 => h.hcause.setWidth 64
  | 5 => h.htval
  | 6 => s.hstat c b
  | 7 => h.seed.setWidth 64
  | 8 => s.tdesc c
  | 9 => h.flags.setWidth 64
  | _ => if h.hp then 1 else 0

/-- R224: a value with a reserved encoding, for a register that HWR writes. -/
def sregRefused (n : Nat) (v : Word) : Bool := n == 1 && decide (6 ≤ v.toNat % 8)

/-- R224: a write; fields that are RO or RSV do not change. -/
def Hart.setSreg (h : Hart) (n : Nat) (v : Word) : Hart :=
  match n with
  | 0 => { h with vl := v.setWidth 21 }
  | 1 => { h with rmode := v.setWidth 6 }
  | 7 => { h with seed := if v.setWidth 32 = 0#32 then 1 else v.setWidth 32 }
  | 9 => { h with flags := v.setWidth 4 }
  | 10 => { h with hp := v.getLsbD 0 }
  | _ => h

end Sys2Proof.Machine
end

