-- ==== Sys2Proof/Machine/Control.lean ====
section
/-! DEFINITION. Control transfer, blocks, predicate, links, events and special registers of a hart (R212 to R226). -/

namespace Sys2Proof.Machine

/-- R212: the conditions of branches and PSET, by code. -/
def condHolds (k : Nat) (a b : Word) : Bool :=
  match k with
  | 0 => a == b
  | 1 => a != b
  | 2 => a.slt b
  | 3 => !a.slt b
  | 4 => a.ult b
  | _ => !a.ult b

/-- R164: the target of an offset in blocks, modulo 2^64. -/
def Hart.target (h : Hart) (off : Int) : Nat := uval 64 ((h.blockVa : Int) + 64 * off)

/-- R212: a conditional branch. -/
def branchOp (i : Instr) (o : BR) (k : Nat) : Op :=
  { instr := i
    act := fun _ s c b =>
      let h := s.hart c b
      .ok s (if condHolds k (h.greg o.a.toNat) (h.greg o.b.toNat) then .jump (h.target o.o.toInt) else .next) }

/-- R212. -/
def execBeq (o : BR) (s : State) : Res := (branchOp (.beq o) o 0).exec s
/-- R212. -/
def execBne (o : BR) (s : State) : Res := (branchOp (.bne o) o 1).exec s
/-- R212. -/
def execBlt (o : BR) (s : State) : Res := (branchOp (.blt o) o 2).exec s
/-- R212. -/
def execBge (o : BR) (s : State) : Res := (branchOp (.bge o) o 3).exec s
/-- R212. -/
def execBltu (o : BR) (s : State) : Res := (branchOp (.bltu o) o 4).exec s
/-- R212. -/
def execBgeu (o : BR) (s : State) : Res := (branchOp (.bgeu o) o 5).exec s

/-- R213: the link value, the VA of the block after this one. -/
def Hart.link (h : Hart) : Word := BitVec.ofNat 64 (h.blockVa + 64)

/-- R213. -/
def execJal (o : JL) (s : State) : Res :=
  Op.exec
    { instr := .jal o
      act := fun _ s c b =>
        let h := s.hart c b
        .ok (s.setHart c b (h.setG o.l.toNat h.link)) (.jump (h.target o.o.toInt)) } s

/-- R213: `0x06 JUMP_ALIGN` for a target that is no multiple of 64. -/
def execJalr (o : SI) (s : State) : Res :=
  Op.exec
    { instr := .jalr o
      act := fun _ s c b =>
        let h := s.hart c b
        let t := (h.greg o.a.toNat + o.i.signExtend 64).toNat
        if t % 64 ≠ 0 then .trap s 0x06 t 0
        else .ok (s.setHart c b (h.setG o.d.toNat h.link)) (.jump t) } s

/-- R215. -/
def execBfetch (o : R1) (s : State) : Res :=
  Op.exec
    { instr := .bfetch o, p := o.p
      act := fun _ s c b =>
        let t := (s.greg c b o.r.toNat).toNat
        if t % 64 ≠ 0 then .trap s 0x06 t 0 else .ok s (.jump t) } s

/-- R216. -/
def execStop (o : P0) (s : State) : Res :=
  Op.exec { instr := .stop o, p := o.p, act := fun _ s _ _ => .ok s .park } s

/-- R217: the count is taken and the block runs again, or ends; by the sequencer in lockstep. -/
def execRepb (o : N10) (s : State) : Res :=
  Op.exec { instr := .repb o, rep := some o.n.toNat, act := fun _ s _ _ => .ok s .next } s

/-- R218. -/
def execYield (o : P0) (s : State) : Res :=
  Op.exec { instr := .yield o, p := o.p, act := fun _ s _ _ => .ok s .next } s

/-- A word that sets `hp` (R219). -/
def hpOp (i : Instr) (f : Hart → Bool) : Op :=
  { instr := i
    act := fun _ s c b =>
      let h := s.hart c b
      .ok ((s.setHart c b { h with hp := f h }).traceAdd c b 1 (bnat (f h))) .next }

/-- R219. -/
def execPset (o : PS) (s : State) : Res :=
  (hpOp (.pset o) fun h => condHolds o.c.toNat (h.greg o.a.toNat) (h.greg o.b.toNat)).exec s
/-- R219. -/
def execPsetB0 (a : BitVec 4) (s : State) : Res := (hpOp (.psetB0 a) fun h => (h.greg a.toNat).getLsbD 0).exec s
/-- R219. -/
def execPnot (s : State) : Res := (hpOp .pnot fun h => !h.hp).exec s

/-! ## Links (R142, R143, R220) -/

/-- R142: the next member of the hart's gang, wrapping; itself outside a gang. -/
def Core.east (k : Core) (b : Nat) : Nat :=
  match k.gangOf b with
  | none => b
  | some g =>
    let m := (k.gang g).banks
    ((m.find? fun x => decide (b < x)).getD (m.headD b))

/-- R142: the previous member. -/
def Core.west (k : Core) (b : Nat) : Nat :=
  match k.gangOf b with
  | none => b
  | some g =>
    let m := (k.gang g).banks.reverse
    ((m.find? fun x => decide (x < b)).getD (m.headD b))

/-- R220: links 0 E, 1 W, 2 CT. -/
def execXsend (o : LK) (s : State) : Res :=
  Op.exec
    { instr := .xsend o, p := o.p
      act := fun _ s c b =>
        let v := s.greg c b o.r.toNat
        let full := fun (q : List Word) => decide (Config.linkQueueSize ≤ q.length)
        match o.k.toNat with
        | 0 =>
          let e := (s.core c).east b
          let h := s.hart c e
          if full h.fromW then .wait s else .ok (s.setHart c e { h with fromW := h.fromW ++ [v] }) .next
        | 1 =>
          let e := (s.core c).west b
          let h := s.hart c e
          if full h.fromE then .wait s else .ok (s.setHart c e { h with fromE := h.fromE ++ [v] }) .next
        | _ =>
          let h := s.hart c b
          if full h.toCT then .wait s else .ok (s.setHart c b { h with toCT := h.toCT ++ [v] }) .next } s

/-- The receive queue of a link. -/
def Hart.recvQueue (h : Hart) (k : Nat) : List Word :=
  match k with
  | 0 => h.fromE
  | 1 => h.fromW
  | _ => h.fromCT

def Hart.setRecvQueue (h : Hart) (k : Nat) (q : List Word) : Hart :=
  match k with
  | 0 => { h with fromE := q }
  | 1 => { h with fromW := q }
  | _ => { h with fromCT := q }

/-- R220. -/
def execXrecv (o : LK) (s : State) : Res :=
  Op.exec
    { instr := .xrecv o, p := o.p
      act := fun _ s c b =>
        let h := s.hart c b
        match h.recvQueue o.k.toNat with
        | [] => .wait s
        | v :: q => .ok (s.setHart c b ((h.setRecvQueue o.k.toNat q).setG o.r.toNat v)) .next } s

/-- R220: the oldest entry without removing it, and `hp`. -/
def execXpeek (o : LK) (s : State) : Res :=
  (hartOp (.xpeek o) o.p fun h =>
    match h.recvQueue o.k.toNat with
    | [] => { h with hp := false }
    | v :: _ => { h with hp := true }.setG o.r.toNat v).exec s

/-! ## System -/

/-- R223. -/
def execNop (o : P0) (s : State) : Res :=
  Op.exec { instr := .nop o, p := o.p, act := fun _ s _ _ => .ok s .next } s

/-- R357: a matrix operation that the hart has issued has not completed. -/
def State.engineBusy (s : State) (c b : Nat) : Bool := (s.core c).engine.any fun e => e.bank == b

/-- R224. -/
def execHrd (o : RT) (s : State) : Res :=
  Op.exec
    { instr := .hrd o, p := o.p
      act := fun _ s c b =>
        if o.t = 9 && s.engineBusy c b then .wait s
        else .ok (s.setHart c b ((s.hart c b).setG o.r.toNat (s.sreg c b o.t.toNat))) .next } s

/-- R224: `0x05 SREG_VALUE` for a reserved value. -/
def execHwr (o : RT) (s : State) : Res :=
  Op.exec
    { instr := .hwr o, p := o.p
      act := fun _ s c b =>
        let v := s.greg c b o.r.toNat
        if o.t = 9 && s.engineBusy c b then .wait s
        else if sregRefused o.t.toNat v then .trap s 0x05 (Instr.hwr o).word 0
        else .ok (s.setHart c b ((s.hart c b).setSreg o.t.toNat v)) .next } s

/-- R221: the record of an EVT. -/
def State.evtRecord (s : State) (c b : Nat) (v : Word) : EvRec :=
  { cause := 0x88, src := 0, bank := BitVec.ofNat 8 b, gang := (s.core c).gangByte b, detail := v, time := s.now,
    hpc := (s.hart c b).hpc.setWidth 64, body := 0 }

/-- R221. -/
def execEvt (o : R1) (s : State) : Res :=
  Op.exec
    { instr := .evt o, p := o.p
      act := fun _ s c b =>
        let k := s.core c
        if !(s.hart c b).quiet || decide (Config.eventQueueSize ≤ k.evq.length) then .wait s
        else .ok (s.setCore c { k with evq := k.evq ++ [s.evtRecord c b (s.greg c b o.r.toNat)] }) .next } s

/-- R222: the detail of TRAPI and BRK. -/
def trapDetail (n word : Nat) : Nat := n * 2 ^ 32 + word

/-- R222. -/
def execTrapi (o : N10) (s : State) : Res :=
  Op.exec
    { instr := .trapi o, p := o.p
      act := fun _ s _ _ => .trap s 0x08 (trapDetail o.n.toNat (Instr.trapi o).word) 0 } s

/-- R222. -/
def execBrk (o : N10) (s : State) : Res :=
  Op.exec
    { instr := .brk o, p := o.p
      act := fun _ s _ _ => .trap s 0xc1 (trapDetail o.n.toNat (Instr.brk o).word) 0 } s

end Sys2Proof.Machine
end

