-- ==== Sys2Proof/Machine/Operands.lean ====
section
/-! DEFINITION. The operands of vector words: reach, masks, splats, tag checks, scales, and the issue of a lane
operation (R165 to R168, R246, R278, R295 to R301). -/

namespace Sys2Proof.Machine

/-! ## Tag classes (R301) -/

def isI (t : Nat) : Bool := t < 8
def isF (t : Nat) : Bool := 8 ≤ t && t ≤ 12
def isQ (t : Nat) : Bool := t == 13
def isT (t : Nat) : Bool := t == 14
def isR (t : Nat) : Bool := t == 15
def isIF (t : Nat) : Bool := isI t || isF t
def isIFQ (t : Nat) : Bool := isIF t || isQ t
def isIFQT (t : Nat) : Bool := isIFQ t || isT t
def anyTag (_ : Nat) : Bool := true

/-! ## Tag refusals (order 7 of R172) -/

/-- An operand under check: its number, its tag, whether it is permitted. -/
abbrev TagCheck := Nat × Nat × Bool

/-- R172: the detail of `0x03 TAG_ILLEGAL`. -/
def tagDetail (word num tag : Nat) : Nat := word + tag * 2 ^ 32 + num * 2 ^ 36

/-- The refused operand of lowest number; the list gives registers of one number in ascending order. -/
def firstRefused (l : List TagCheck) : Option (Nat × Nat) :=
  l.foldl (fun a e => match a with
    | none => if e.2.2 then none else some (e.1, e.2.1)
    | some x => if !e.2.2 && decide (e.1 < x.1) then some (e.1, e.2.1) else some x) none

/-- A vector operand: its number and register. -/
abbrev Named := Nat × Nat

/-- R246: under G each named register carries one tag on every member. -/
def State.sameTags (s : State) (c b : Nat) (g : Bool) (ns : List Named) : List TagCheck :=
  if !g then []
  else match (s.core c).gangOf b with
    | none => []
    | some q => ns.map fun e =>
        (e.1, s.tag c b e.2, (s.gang c q).banks.all fun x => s.tag c x e.2 == s.tag c b e.2)

/-- R299: under G each vector operand has the element size `w`. -/
def State.sameSizes (s : State) (c b w : Nat) (g : Bool) (ns : List Named) : List TagCheck :=
  if !g then [] else ns.map fun e => (e.1, s.tag c b e.2, tagBits (s.tag c b e.2) == w)

/-- R301: operands of vd's element size. Under G the operand that differs is refused (R299). Without G the spec does not say
which operand a difference refuses, and the model names vd. DESIGN CHOICE, log 69, unsafe. -/
def State.oneSize (s : State) (c b : Nat) (g : Bool) (ns : List Named) : List TagCheck :=
  let w := tagBits (s.tag c b (ns.headD (0, 0)).2)
  if g then s.sameSizes c b w g ns
  else [(0, s.tag c b (ns.headD (0, 0)).2, ns.all fun e => tagBits (s.tag c b e.2) == w)]

/-- R278: the check of `w7` where scales are read. -/
def State.scaleCheck (s : State) (c b : Nat) (scaled : Bool) : List TagCheck :=
  if scaled then [(5, s.tag c b 15, s.tag c b 15 == 1 || s.tag c b 15 == 15)] else []

/-! ## Splats (R168) -/

/-- The encoding of a small integer under a tag, where it is exact. -/
def smallEnc (t : Nat) (v : Int) : Option Nat :=
  if t = 15 then some (uval 64 v)
  else if t < 8 then (if intMin t ≤ v ∧ v ≤ intMax t then some (encInt t v) else none)
  else if t < 13 then some (roundFloat (fmtOf t) 0 (.ofInt v) { seed := 0 }).1
  else none

/-- The splat of form 01 (a scalar register's value) or 10 (a signed immediate), under tag `t`; `none` is refused. -/
def splatEnc (t form : Nat) (g : Word) (imm : BitVec 4) : Option Nat :=
  if t = 13 ∨ t = 14 then none
  else if form = 1 then some (g.toNat % 2 ^ tagBits t)
  else smallEnc t imm.toInt

/-! ## Reach (R295, R246) -/

/-- The rank of a bank in its gang and the gang's member count; rank 0 of 1 without G. -/
def State.rank (s : State) (c b : Nat) (g : Bool) : Nat × Nat :=
  match g, (s.core c).gangOf b with
  | true, some q =>
    let m := (s.gang c q).banks
    ((m.filter fun x => decide (x < b)).length, m.length)
  | _, _ => (0, 1)

/-- What an instruction on a hart sees at its issue: its local element count, the gang-wide index of its element 0, its
execution mask and the tag by which mask bits are taken, rmode, seed, `w7` and egi; whether it is a member that takes no
part (R246); the draws of groups already committed (R289). DEDUCED, log 21, unsafe. -/
structure View where
  n : Nat
  first : Nat
  mask : Nat
  mtag : Nat
  rm : Rm
  seed : Nat
  w7 : Nat
  egi : Nat
  out : Bool
  drawn : List (Nat × Nat)
deriving DecidableEq, Repr, Inhabited

/-- The view for a coverage of `cov` elements a member and mask field `m`. -/
def State.view (s : State) (c b : Nat) (g : Bool) (cov mtag m : Nat) : View :=
  let h := s.hart c b
  let r := s.rank c b g
  { n := min cov (min h.vl.toNat (cov * r.2) - r.1 * cov), first := r.1 * cov, mask := (s.bank c b).mask m, mtag := mtag
    rm := rmOf h.rmode, seed := h.seed.toNat, w7 := (s.reg c b 15).content 15, egi := h.egi.toNat
    out := g && decide (h.vl.toNat ≤ r.1 * cov), drawn := if h.egi = 0 then [] else h.drawn }

/-- Element `i` is active (R295). -/
def View.active (v : View) (i : Nat) : Bool := decide (i < v.n) && v.mask.testBit (maskIndex v.mtag i)

/-- The scale byte of element `i` (R277). -/
def View.scale (v : View) (i : Nat) : Nat := elemAt v.w7 8 (i / 4)

/-- The smallest capacity of the given tags. -/
def coverage (ts : List Nat) : Nat := ts.foldl (fun a t => min a (capOf t)) 32768

/-- R289: an element under SR: one of a committed group leaves the generator as its first computation did, whatever its
operands have become since. -/
def View.drawing (v : View) (f : Nat → Rd → ElemRes × Rd) (i : Nat) (r : Rd) : ElemRes × Rd :=
  match Tab.find v.drawn i with
  | some x => ({ i := i }, { r with seed := x })
  | none =>
    let (e, r1) := f i r
    ({ e with seed := some r1.seed }, r1)

/-- R289: elements in ascending order. DEDUCED, log 22, safe. -/
def View.elems (v : View) (f : Nat → Rd → ElemRes × Rd) : List ElemRes × Nat :=
  elemsGo v.active (if v.rm.rm = 5 then v.drawing f else f) v.n 0 v.seed []

/-- The seed a retirement leaves: the last state drawn, or none under SEEDRPT or without SR (R289). -/
def View.seedAfter (v : View) (last : Nat) : Option (BitVec 32) :=
  if v.rm.rm = 5 ∧ !v.rm.seedRpt then some (BitVec.ofNat 32 last) else none

/-! ## Issue of a lane operation -/

/-- What a vector word writes and reads: destination register or mask, the element width its groups follow, sources
read group by group, sources read whole, and the members and registers it reads over Twill (R299). -/
structure Lane where
  word : Nat
  d : Option Nat := none
  w : Nat := 64
  m : Option Nat := none
  same : List Nat := []
  whole : List Nat := []
  theirs : List (Nat × Nat) := []
deriving DecidableEq, Repr, Inhabited

/-- R190, R194, R195: sources and destinations are ready. -/
def Lane.ready (l : Lane) (s : State) (c b : Nat) (alsoWrites : List Nat) : Bool :=
  ((l.same ++ l.whole).all fun r => s.canRead c b r) && ((l.d.toList ++ alsoWrites).all fun r => s.canWrite c b r)

/-- What a bad line comes to: its group, the hart whose register holds it, the register, the line, its condition and
R207's WHERE. -/
structure BadLine where
  g : Nat
  bank : Nat
  reg : Nat
  line : Nat
  cond : Cond
  wh : Nat
deriving DecidableEq, Repr, Inhabited

/-- R299, R206: the first bad line that the word receives over Twill from another member. -/
def State.overTwill (s : State) (c g : Nat) (rs : List (Nat × Nat)) : Option BadLine :=
  (rs.filterMap fun e => ((s.reg c e.1 e.2).conds.head?.map fun x =>
    { g := g, bank := e.1, reg := e.2, line := x.1, cond := x.2.cond, wh := 1 })).head?

/-- The first bad line that the word meets: of the hart's own sources, or of those received over Twill. -/
def State.firstLine (s : State) (c b : Nat) (l : Lane) (lo : Nat) : Option BadLine :=
  match s.consumeFrom c b l.same l.whole lo, s.overTwill c lo l.theirs with
  | some (g, r, line, x), none => some ⟨g, b, r, line, x, 0⟩
  | some (g, r, line, x), some y => if g = lo then some ⟨g, b, r, line, x, 0⟩ else some y
  | none, y => y

/-- R205: the register is dirty when group `g` of an in-place word is read: the commit buffer was full, so that group `lo`
has been committed (R197, R198). -/
def Lane.dirtyBy (l : Lane) (lo : Nat) (x : BadLine) : Bool :=
  l.d == some x.reg && decide (lo + Config.commitBufferSize ≤ x.g)

/-- Issues a lane operation whose results are known: the groups up to the first that traps (on a NaN, or on a bad line
of a source), with what it does at its end. -/
def State.issueLane (s : State) (c b : Nat) (l : Lane) (v : View) (es : List ElemRes) (fin : AtEnd) : HRes :=
  let nan := if v.rm.nantrap then nanGroup v.egi l.w es else none
  let start := fun (s : State) (stop : Nat) (fin : AtEnd) =>
    let s0 := match l.d with | some d => s.beginWrite c b d v.egi | none => s
    let s1 := if fin.w7.isSome then s0.beginWrite c b 15 0 else s0
    let gs := (groupsFrom v.egi l.w es).filter fun g => decide (g.g < stop)
    HRes.work (s1.setLane c b
      { word := l.word, d := l.d, w := l.w, m := l.m, todo := gs, fin := fin, same := l.same, whole := l.whole })
  match s.firstLine c b l v.egi, nan with
  | none, none => start s 32 fin
  | none, some (g, i) => start s g { fin with trap := some (0x60, BitVec.ofNat 64 (nanDetail i l.word), g) }
  | some x, nan =>
    match nan with
    | some (g', i) =>
      if g' < x.g then start s g' { fin with trap := some (0x60, BitVec.ofNat 64 (nanDetail i l.word), g') }
      else lineEnd s x start fin
    | none => lineEnd s x start fin
where
  lineEnd (s : State) (x : BadLine) (start : State → Nat → AtEnd → HRes) (fin : AtEnd) : HRes :=
    match s.consumed c x.bank l.word x.reg x.line x.g x.wh x.cond (l.dirtyBy v.egi x) with
    | .inl s' => .wait s'
    | .inr (s', cause, detail) => start s' x.g { fin with trap := some (cause, BitVec.ofNat 64 detail, x.g) }

/-- How the work of a lane operation goes on: lane cycles. -/
def lanePoll (force : Bool) (s : State) (c b : Nat) (p : Pend) : HRes :=
  match p with
  | .lane op => if force then .work (s.laneCycle c b op true) else .wait s
  | _ => .wait s

/-- R420: what the ring notes of a vector word: the width of `r`'s elements and the active elements. -/
def vecNote (r : Nat) (g : Bool) (cov : State → Nat → Nat → Nat) (m : Nat) (s : State) (c b : Nat) : Note :=
  let t := s.tag c b r
  let v := s.view c b g (cov s c b) t m
  { vl := (s.hart c b).vl.toNat, width := (tagBits t).log2,
    active := ((List.range v.n).filter v.active).length }

/-! ## The shared shape of vector words -/

/-- What a vector word does once its operands are permitted: whether they are ready, what its registers hold against it
even so (a cause and its detail), the register that becomes RAW at issue, the lane operation it issues, and whether members
without an active element take part all the same (R328). -/
structure Plan where
  ready : Bool
  late : Option (Nat × Nat) := none
  retag : Option Nat := none
  lane : Lane
  view : View
  es : List ElemRes
  fin : AtEnd := {}
  all : Bool := false
deriving DecidableEq, Repr, Inhabited

/-- A vector word that runs as a lane operation: its tag checks (order 7 of R172), what refuses it after them (orders 8
and 9: a cause and its detail), and its plan, each from the state at the word's start, the state, core and bank. -/
structure LaneWord where
  instr : Instr
  p : Bool
  g : Bool
  note : State → Nat → Nat → Note
  checks : State → State → Nat → Nat → List TagCheck
  refuse : State → State → Nat → Nat → Option (Nat × Nat)
  plan : State → State → Nat → Nat → Plan

/-- The state with the tag that a plan's word sets (R268): it is RAW from the word's issue on, also where the word then ends by a cause
or is stopped. DESIGN CHOICE, log 94, unsafe. -/
def Plan.tagged (q : Plan) (s : State) (c b : Nat) : State :=
  match q.retag with
  | some r => s.setReg c b r { s.reg c b r with tag := 15 }
  | none => s

/-- A plan is carried out: the word waits, traps or issues. A member that takes no part leaves its registers (R246). -/
def Plan.start (q : Plan) (s : State) (c b : Nat) : HRes :=
  if q.view.out && !q.all then .ok (s.setHart c b (q.fin.onHart (s.hart c b))) .next
  else if !q.ready then .wait s
  else match q.late with
    | some (cause, detail) => .trap s cause detail 0
    | none => (q.tagged s c b).issueLane c b q.lane q.view q.es q.fin

/-- R172: the word's checks in order, and then its plan. -/
def LaneWord.act (x : LaneWord) (s0 s : State) (c b : Nat) : HRes :=
  match firstRefused (x.checks s0 s c b) with
  | some (num, t) => .trap s 0x03 (tagDetail x.instr.word num t) 0
  | none =>
    match x.refuse s0 s c b with
    | some (cause, detail) => .trap s cause detail 0
    | none => (x.plan s0 s c b).start s c b

def LaneWord.op (x : LaneWord) : Op :=
  { instr := x.instr, p := x.p, lock := x.g, touch := true, note := x.note, act := x.act, poll := lanePoll }

/-- A vector word's meaning. -/
def LaneWord.exec (x : LaneWord) (s : State) : Res := x.op.exec s

/-- Order 8 of R172: `0x04 OPERAND_OVERLAP`. -/
def overlapIf (h : Bool) : Option (Nat × Nat) := if h then some (0x04, 0) else none

end Sys2Proof.Machine
end

