-- ==== Sys2Proof/Machine/VArith.lean ====
section
/-! DEFINITION. Element-wise arithmetic on values: majors 0x18, 0x1A and 0x1B (R283, R311 to R316). -/

namespace Sys2Proof.Machine

/-- The value form of an element-wise word: the tags of destination and sources, and whether it is computed in INT. -/
structure Dom where
  td : Nat
  int : Bool
  rm : Rm
deriving DecidableEq, Repr, Inhabited

/-- R276: a zero of the INT domain has no sign. -/
def Dom.clean (m : Dom) (x : XVal) : XVal :=
  match m.int, x with
  | true, .fin n d _ => .fin n d false
  | _, x => x

/-- R276: the sign of an exact zero sum of unlike operands. -/
def Dom.rdn (m : Dom) : Bool := !m.int && m.rm.rm == 2

/-- One `Convert` of a result whose sources are given (R286, R287). -/
def Dom.put (m : Dom) (scale : Nat) (srcs : List XVal) (x : XVal) (r : Rd) : Nat × Rd :=
  let (e, r1) := convert m.td m.rm scale (m.clean x) r
  (e, r1.nanIf (nanCode m.td e) srcs)

/-- R283: sources that are all integers or T2. No row of R283's table has a T2 source beside a float or QS4 source: the model computes
it in REAL. DESIGN CHOICE, log 95, unsafe. -/
def intDomain (ts : List Nat) : Bool := ts.all fun t => isI t || isT t

/-- What an element-wise word on values does: permitted tags, whether vd is also a source, and the result of an element
from a, b and c (vd's old value). -/
structure ValOp where
  okd : Nat → Bool
  oka : Nat → Bool
  okb : Nat → Bool
  reads : Bool := false
  f : Dom → Nat → XVal → XVal → XVal → Rd → Nat × Rd

/-- The second source: a register of a tag, or a splat's encoding under Tag(va). -/
structure Src where
  tag : Nat
  bits : Nat
  splat : Option Nat
deriving DecidableEq, Repr, Inhabited

def Src.code (x : Src) (i : Nat) : Nat := match x.splat with | some e => e | none => elemAt x.bits (tagBits x.tag) i

/-- The vb operand of a V word (R164, R168), and the check of a splat. -/
def State.srcB (s : State) (c b : Nat) (o : V3) (ta : Nat) : Src × Option TagCheck :=
  if o.f = 0 then (⟨s.tag c b o.b.toNat, (s.reg c b o.b.toNat).content o.b.toNat, none⟩, none)
  else match splatEnc ta o.f.toNat (s.greg c b o.b.toNat) o.b with
    | some e => (⟨ta, 0, some e⟩, none)
    | none => (⟨ta, 0, some 0⟩, some (4, ta, false))

/-- The vector operands of a V word: vd, va and, in form 00, vb. -/
def named3 (o : V3) : List Named :=
  [(0, o.d.toNat), (1, o.a.toNat)] ++ if o.f = 0 then [(2, o.b.toNat)] else []

/-- R194, R272: registers of vd's element size are read group by group, the others whole. -/
def State.splitReads (s : State) (c b w : Nat) (rs : List Nat) : List Nat × List Nat :=
  rs.partition fun r => tagBits (s.tag c b r) == w

/-- Whether a value word reads scales (R278). -/
def State.valueScaled (s : State) (c b : Nat) (o : V3) : Bool :=
  isQ (s.tag c b o.d.toNat) || isQ (s.tag c b o.a.toNat) || isQ (s.srcB c b o (s.tag c b o.a.toNat)).1.tag

/-- The tag checks of a value word. -/
def valueChecks (o : V3) (x : ValOp) (s0 s : State) (c b : Nat) : List TagCheck :=
  let td := s.tag c b o.d.toNat
  let ta := s.tag c b o.a.toNat
  let (sb, bad) := s.srcB c b o ta
  [(0, td, x.okd td), (1, ta, x.oka ta)] ++
    (if o.f = 0 then [(2, sb.tag, x.okb sb.tag)] else [(4, ta, x.okb ta)] ++ bad.toList) ++
    s.scaleCheck c b (s.valueScaled c b o) ++ s0.sameTags c b o.g (named3 o) ++
    s.sameSizes c b (tagBits td) o.g (named3 o)

/-- What a value word writes and reads. -/
def valueLane (i : Instr) (o : V3) (x : ValOp) (s : State) (c b : Nat) : Lane :=
  let td := s.tag c b o.d.toNat
  let srcs := o.a.toNat :: (if o.f = 0 then [o.b.toNat] else []) ++ (if x.reads then [o.d.toNat] else [])
  let rd := s.splitReads c b (tagBits td) srcs
  { word := i.word, d := some o.d.toNat, w := tagBits td, same := rd.1
    whole := rd.2 ++ if s.valueScaled c b o then [15] else [] }

/-- The view of a word with vd, va and vb. -/
def State.view3 (s : State) (c b : Nat) (o : V3) : View :=
  s.view c b o.g (coverage ((named3 o).map fun e => s.tag c b e.2)) (s.tag c b o.d.toNat) o.m.toNat

/-- The result of element `k` of a value word, from the generator's state. -/
def valueElem (o : V3) (x : ValOp) (s : State) (c b : Nat) (k : Nat) (r : Rd) : ElemRes × Rd :=
  let td := s.tag c b o.d.toNat
  let ta := s.tag c b o.a.toNat
  let sb := (s.srcB c b o ta).1
  let v := s.view3 c b o
  let dom : Dom := ⟨td, intDomain ([ta, sb.tag] ++ if x.reads then [td] else []), v.rm⟩
  let ca := elemAt ((s.reg c b o.a.toNat).content o.a.toNat) (tagBits ta) k
  let cb := sb.code k
  let cc := elemAt ((s.reg c b o.d.toNat).content o.d.toNat) (tagBits td) k
  let va := valueOf ta ca (v.scale k)
  let vb := valueOf sb.tag cb (v.scale k)
  let vc := if x.reads then valueOf td cc (v.scale k) else .ofInt 0
  let (e, r1) := x.f dom (v.scale k) va vb vc (r.t2 [(ta, ca), (sb.tag, cb)])
  ({ i := k, enc := some e }, r1)

/-- The plan of a value word. -/
def valuePlan (i : Instr) (o : V3) (x : ValOp) (s : State) (c b : Nat) : Plan :=
  let v := s.view3 c b o
  let res := v.elems (valueElem o x s c b)
  { ready := (valueLane i o x s c b).ready s c b [], lane := valueLane i o x s c b, view := v, es := res.1
    fin := { seed := v.seedAfter res.2 } }

/-- A word of majors 0x18 and 0x1A (R311, R314). -/
def valueWord (i : Instr) (o : V3) (x : ValOp) : LaneWord :=
  { instr := i, p := o.p, g := o.g
    note := vecNote o.d.toNat o.g (fun s c b => coverage ((named3 o).map fun e => s.tag c b e.2)) o.m.toNat
    checks := valueChecks o x
    refuse := fun _ s c b => overlapIf (s.valueScaled c b o && o.d == 15)
    plan := fun _ s c b => valuePlan i o x s c b }

/-- R311: one `Convert` of an exact value of a and b. -/
def binVal (okd ok : Nat → Bool) (f : Dom → XVal → XVal → XVal) : ValOp :=
  { okd := okd, oka := ok, okb := ok, f := fun m sc a b _ r => m.put sc [a, b] (f m a b) r }

/-- The integer of an INT value. -/
def XVal.int : XVal → Int
  | .fin n d _ => n / (d : Int)
  | _ => 0

/-- R312: the result of VDIV in INT by zero: the end of the destination's range, with SAT. -/
def divByZero (td : Nat) (neg : Bool) (r : Rd) : Nat × Rd :=
  (if td < 8 then encInt td (if neg then intMin td else intMax td)
   else if td = 13 then (if neg then 0xf else 7)
   else (fmtOf td).signed neg (fmtOf td).maxCode, r.sat)

def divOp : ValOp :=
  { okd := isIFQ, oka := isIFQT, okb := isIFQT
    f := fun m sc a b _ r =>
      if m.int then
        if b.isZero then divByZero m.td a.isNeg r
        else m.put sc [a, b] (.ofInt (a.int.tdiv b.int)) r
      else m.put sc [a, b] (a.div b) r }

/-- R311, R312: a − b × trunc(a / b), and a for b = 0; both are a's remainder. -/
def remOp : ValOp := binVal isI isI fun _ a b => .ofInt (a.int.tmod b.int)

def mulhOp : ValOp :=
  { okd := isI, oka := isI, okb := isI
    f := fun m sc a b _ r => m.put sc [a, b] (.ofInt (a.int * b.int / (2 ^ tagBits m.td : Nat))) r }

/-- R314: one `Convert` of a value of a, b and c. -/
def fmaVal (f : Dom → XVal → XVal → XVal → XVal) : ValOp :=
  { okd := isIF, oka := isIFQT, okb := isIFQT, reads := true
    f := fun m sc a b c r => m.put sc [a, b, c] (f m a b c) r }

/-- R315. -/
def minaddOp : ValOp :=
  { okd := isIF, oka := isIF, okb := isIF, reads := true
    f := fun m _ a b c r =>
      let x := m.clean (if a.isNan || b.isNan || c.isNan then .nan else c.min (a.add m.rdn b))
      if m.td < 8 then
        match x with
        | .nan => (0, r.sat)
        | .inf neg => (encInt m.td (if neg then intMin m.td else intMax m.td), r.sat)
        | .fin n d _ =>
          let (v, r1) := if n % (d : Int) = 0 then (n / (d : Int), r) else roundInt m.rm.rm n d r
          satInt m.td v r1
      else
        let (e, r1) := roundFloat (fmtOf m.td) m.rm.rm x r
        if x.isFin && !((fmtOf m.td).value e).isFin then
          ((fmtOf m.td).signed x.isNeg (fmtOf m.td).maxCode, r1.sat)
        else (e, r1.nanIf (nanCode m.td e) [a, b, c]) }

/-- R311. -/
def execVadd (o : V3) (s : State) : Res := (valueWord (.vadd o) o (binVal isIFQ isIFQT fun m a b => a.add m.rdn b)).exec s
/-- R311. -/
def execVsub (o : V3) (s : State) : Res := (valueWord (.vsub o) o (binVal isIFQ isIFQT fun m a b => a.sub m.rdn b)).exec s
/-- R311. -/
def execVmul (o : V3) (s : State) : Res := (valueWord (.vmul o) o (binVal isIFQ isIFQT fun _ a b => a.mul b)).exec s
/-- R311. -/
def execVmulh (o : V3) (s : State) : Res := (valueWord (.vmulh o) o (mulhOp)).exec s
/-- R311, R312. -/
def execVdiv (o : V3) (s : State) : Res := (valueWord (.vdiv o) o (divOp)).exec s
/-- R311, R312. -/
def execVrem (o : V3) (s : State) : Res := (valueWord (.vrem o) o (remOp)).exec s
/-- R311, R312. -/
def execVmin (o : V3) (s : State) : Res := (valueWord (.vmin o) o (binVal isIFQ isIFQT fun _ a b => a.min b)).exec s
/-- R311, R312. -/
def execVmax (o : V3) (s : State) : Res := (valueWord (.vmax o) o (binVal isIFQ isIFQT fun _ a b => a.max b)).exec s
/-- R311. -/
def execVabsd (o : V3) (s : State) : Res := (valueWord (.vabsd o) o (binVal isIFQ isIFQT fun m a b => (a.sub m.rdn b).abs)).exec s
/-- R314. -/
def execVfma (o : V3) (s : State) : Res := (valueWord (.vfma o) o (fmaVal fun m a b c => (a.mul b).add m.rdn c)).exec s
/-- R314. -/
def execVfms (o : V3) (s : State) : Res := (valueWord (.vfms o) o (fmaVal fun m a b c => (a.mul b).sub m.rdn c)).exec s
/-- R314. -/
def execVfnma (o : V3) (s : State) : Res := (valueWord (.vfnma o) o (fmaVal fun m a b c => c.sub m.rdn (a.mul b))).exec s
/-- R314, R315. -/
def execVminadd (o : V3) (s : State) : Res := (valueWord (.vminadd o) o (minaddOp)).exec s

/-! ## Major 0x1B (R316) -/

/-- A word with one vector source: permitted tags of vd given va's and of va given vd's, and the result from the encoding
and the value. -/
structure UnOp where
  okd : Nat → Nat → Bool
  oka : Nat → Nat → Bool
  moves : Bool := false
  f : Dom → Nat → Nat → Nat → XVal → Rd → Nat × Rd

/-- The vector operands of a word without vb. -/
def named2 (o : V2) : List Named := [(0, o.d.toNat), (1, o.a.toNat)]

/-- Whether a word of one source reads scales (R278); one that moves encodings does not. -/
def State.unaryScaled (s : State) (c b : Nat) (o : V2) (x : UnOp) : Bool :=
  !x.moves && (isQ (s.tag c b o.d.toNat) || isQ (s.tag c b o.a.toNat))

/-- The result of element `k` of a word of one source. -/
def unaryElem (o : V2) (x : UnOp) (s : State) (c b : Nat) (v : View) (k : Nat) (r : Rd) : ElemRes × Rd :=
  let td := s.tag c b o.d.toNat
  let ta := s.tag c b o.a.toNat
  let ca := elemAt ((s.reg c b o.a.toNat).content o.a.toNat) (tagBits ta) k
  let (e, r1) := x.f ⟨td, intDomain [ta], v.rm⟩ (v.scale k) ta ca (valueOf ta ca (v.scale k))
    (if x.moves then r else r.t2 [(ta, ca)])
  ({ i := k, enc := some e }, r1)

/-- The plan of a word of one source. -/
def unaryPlan (i : Instr) (o : V2) (x : UnOp) (s : State) (c b : Nat) : Plan :=
  let td := s.tag c b o.d.toNat
  let rd := s.splitReads c b (tagBits td) [o.a.toNat]
  let l : Lane := { word := i.word, d := some o.d.toNat, w := tagBits td, same := rd.1
                    whole := rd.2 ++ if s.unaryScaled c b o x then [15] else [] }
  let v := s.view c b o.g (coverage [td, s.tag c b o.a.toNat]) td o.m.toNat
  let res := v.elems (unaryElem o x s c b v)
  { ready := l.ready s c b [], lane := l, view := v, es := res.1, fin := { seed := v.seedAfter res.2 } }

/-- An element-wise word of one source. `moves` for one that reads encodings, not values (R278, R279). -/
def unaryWord (i : Instr) (o : V2) (x : UnOp) : LaneWord :=
  { instr := i, p := o.p, g := o.g
    note := vecNote o.d.toNat o.g (fun s c b => coverage ((named2 o).map fun e => s.tag c b e.2)) o.m.toNat
    checks := fun s0 s c b =>
      let td := s.tag c b o.d.toNat
      let ta := s.tag c b o.a.toNat
      [(0, td, x.okd ta td), (1, ta, x.oka td ta)] ++
        s.scaleCheck c b (s.unaryScaled c b o x) ++ s0.sameTags c b o.g (named2 o) ++
        s.sameSizes c b (tagBits td) o.g (named2 o)
    refuse := fun _ s c b => overlapIf (s.unaryScaled c b o x && o.d == 15)
    plan := fun _ s c b => unaryPlan i o x s c b }

/-- A value converted once. -/
def unVal (f : XVal → XVal) : UnOp :=
  { okd := fun _ t => isIFQ t, oka := fun _ t => isIFQT t, f := fun m sc _ _ a r => m.put sc [a] (f a) r }

/-- R316: leading zero bits of a `w`-bit number. -/
def clzBits (w x : Nat) : Nat := if x = 0 then w else w - 1 - x.log2

/-- R316: a count of bits of the encoding. -/
def countVal (f : Nat → Nat → Nat) : UnOp :=
  { okd := fun _ t => isI t, oka := fun _ t => isI t || isR t
    f := fun m sc ta code _ r => m.put sc [] (.ofInt (f (tagBits ta) code)) r }

/-- R293: one rounding to FP32 under RNE, then one `Convert`. -/
def transOp (t : TransOp) : UnOp :=
  { okd := fun _ t => isIFQ t, oka := fun _ x => isIFQ x
    f := fun m sc _ _ a r =>
      let (y, r1) := transRound t a r
      let (e, r2) := convert m.td m.rm sc y r1
      (e, r2.nanIf (nanCode m.td e) [a]) }

def sameBits (t u : Nat) : Bool := tagBits t == tagBits u

/-- R316: the bitwise complement of the encoding; a size that differs from vd's is refused on va. -/
def notOp : UnOp :=
  { okd := fun _ _ => true, oka := sameBits, moves := true
    f := fun m _ _ code _ r => (2 ^ tagBits m.td - 1 - code, r) }

/-- R249: the encoding, moved; a size that differs is refused on vd. -/
def movOp : UnOp :=
  { okd := sameBits, oka := fun _ _ => true, moves := true, f := fun _ _ _ code _ r => (code, r) }

/-- R316. -/
def execVneg (o : V2) (s : State) : Res := (unaryWord (.vneg o) o (unVal XVal.neg)).exec s
/-- R316. -/
def execVabs (o : V2) (s : State) : Res := (unaryWord (.vabs o) o (unVal XVal.abs)).exec s
/-- R316. -/
def execVnot (o : V2) (s : State) : Res := (unaryWord (.vnot o) o (notOp)).exec s
/-- R316. -/
def execVclz (o : V2) (s : State) : Res := (unaryWord (.vclz o) o (countVal clzBits)).exec s
/-- R316. -/
def execVpopc (o : V2) (s : State) : Res := (unaryWord (.vpopc o) o (countVal popBits)).exec s
/-- R293, R316. -/
def execVsqrt (o : V2) (s : State) : Res := (unaryWord (.vsqrt o) o (transOp .sqrt)).exec s
/-- R293, R316. -/
def execVrcp (o : V2) (s : State) : Res := (unaryWord (.vrcp o) o (transOp .rcp)).exec s
/-- R293, R316. -/
def execVrsqrt (o : V2) (s : State) : Res := (unaryWord (.vrsqrt o) o (transOp .rsqrt)).exec s
/-- R293, R316. -/
def execVexp2 (o : V2) (s : State) : Res := (unaryWord (.vexp2 o) o (transOp .exp2)).exec s
/-- R293, R316. -/
def execVlog2 (o : V2) (s : State) : Res := (unaryWord (.vlog2 o) o (transOp .log2)).exec s
/-- R293, R316. -/
def execVtanh (o : V2) (s : State) : Res := (unaryWord (.vtanh o) o (transOp .tanh)).exec s
/-- R249. -/
def execVmov (o : V2) (s : State) : Res := (unaryWord (.vmov o) o (movOp)).exec s

end Sys2Proof.Machine
end

