-- ==== Sys2Proof/Machine/VMove.lean ====
section
/-! DEFINITION. Configuration, element access, select and permute (R302 to R310, R325 to R327). -/

namespace Sys2Proof.Machine

/-! ## Configuration -/

/-- R242: the detail of `0x07 OPERAND_VALUE`. -/
def operandDetail (v : Nat) (word : Nat) : Nat := v % 2 ^ 32 * 2 ^ 32 + word

/-- The tags of the registers a bitmap names. -/
def State.setTags (s : State) (c b : Nat) (bitmap : Nat) (t : BitVec 4) : State :=
  (List.range 16).foldl (fun u r => if bitmap.testBit r then u.setReg c b r { u.reg c b r with tag := t } else u) s

/-- R303. -/
def execVcfg (o : RT) (s : State) : Res :=
  Op.exec
    { instr := .vcfg o, p := o.p, touch := true
      act := fun _ s c b =>
        let v := (s.greg c b o.r.toNat).toNat
        if v / 2 ^ 16 ≠ 0 then .trap s 0x07 (operandDetail v (Instr.vcfg o).word) 0
        else .ok (s.setTags c b v o.t) .next } s

/-- R304. -/
def execSetvl (o : SV) (s : State) : Res :=
  Op.exec
    { instr := .setvl o, p := o.p
      act := fun _ s c b =>
        let n := min (s.greg c b o.a.toNat).toNat (capOf o.t.toNat * (s.rank c b o.g).2)
        let h := { s.hart c b with vl := BitVec.ofNat 21 n }
        .ok (s.setHart c b (h.setG o.d.toNat (BitVec.ofNat 64 n))) .next } s

/-- R305. -/
def execSetrm (o : RM) (s : State) : Res :=
  Op.exec
    { instr := .setrm o, p := o.p
      act := fun _ s c b =>
        let v := o.r.toNat + bnat o.s * 8 + bnat o.n * 16 + bnat o.e * 32
        .ok (s.setHart c b { s.hart c b with rmode := BitVec.ofNat 6 v }) .next } s

/-- R306. -/
def execVtag (o : RT) (s : State) : Res :=
  Op.exec
    { instr := .vtag o, p := o.p, touch := true
      act := fun _ s c b => .ok (s.setTags c b (2 ^ o.r.toNat) o.t) .next } s

/-- R306. -/
def execVtagRd (o : R2) (s : State) : Res :=
  Op.exec
    { instr := .vtagRd o, p := o.p, touch := true
      act := fun _ s c b =>
        .ok (s.setHart c b ((s.hart c b).setG o.d.toNat (BitVec.ofNat 64 (s.tag c b o.a.toNat)))) .next } s

/-! ## The gang's vector (R246, R299) -/

/-- The members that form the vector: the gang under G, else the hart alone. -/
def State.members (s : State) (c b : Nat) (g : Bool) : List Nat :=
  match g, (s.core c).gangOf b with
  | true, some q => (s.gang c q).banks
  | _, _ => [b]

/-- A register over the members, in rank order. -/
def State.gangRows (s : State) (c : Nat) (ms : List Nat) (r : Nat) : List Nat :=
  ms.map fun x => (s.reg c x r).content r

/-- The encoding of gang-wide element `i`. -/
def gangElem (rows : List Nat) (cov w i : Nat) : Nat := elemAt (rows.getD (i / cov) 0) w (i % cov)

/-- A mask register over the members. -/
def State.gangMasks (s : State) (c : Nat) (ms : List Nat) (m : Nat) : List Nat := ms.map fun x => (s.bank c x).mask m

def gangBit (masks : List Nat) (cov t i : Nat) : Bool := (masks.getD (i / cov) 0).testBit (maskIndex t (i % cov))

/-- Register `r` of the members other than bank `b` (R299). -/
def othersOf (ms : List Nat) (b r : Nat) : List (Nat × Nat) := (ms.filter (· != b)).map fun x => (x, r)

/-- The scalar register of the participant of rank 0 under G. -/
def State.rank0 (s : State) (c b : Nat) (g : Bool) : Nat := (s.members c b g).headD b

/-! ## Element access -/

/-- The splat of R308: the encoding of vb's scalar or immediate under vd's tag. -/
def State.splatOf (s : State) (c b : Nat) (o : VS) : Option Nat :=
  splatEnc (s.tag c b o.d.toNat) o.f.toNat (s.greg c b o.b.toNat) o.b

/-- R307, R308. -/
def splatWord (o : VS) : LaneWord :=
  { instr := .vsplat o, p := o.p, g := o.g
    note := vecNote o.d.toNat o.g (fun s c b => capOf (s.tag c b o.d.toNat)) o.m.toNat
    checks := fun s0 s c b =>
      [(4, s.tag c b o.d.toNat, (s.splatOf c b o).isSome)] ++ s0.sameTags c b o.g [(0, o.d.toNat)]
    refuse := fun _ _ _ _ => none
    plan := fun _ s c b =>
      let td := s.tag c b o.d.toNat
      let l : Lane := { word := (Instr.vsplat o).word, d := some o.d.toNat, w := tagBits td }
      let v := s.view c b o.g (capOf td) td o.m.toNat
      { ready := l.ready s c b [], lane := l, view := v
        es := (v.elems fun k r => ({ i := k, enc := s.splatOf c b o }, r)).1 } }

/-- R307, R308. -/
def execVsplat (o : VS) (s : State) : Res := (splatWord o).exec s

/-- R309: the scalar an element's encoding becomes. -/
def extrScalar (t code : Nat) : Word :=
  if t < 8 ∧ signedTag t then BitVec.ofInt 64 (sval (tagBits t) code) else BitVec.ofNat 64 code

/-- The scalar result and flags of a word that reads register `r` whole, of the hart and of the members `others` over Twill
(R299), or the end a bad line gives it. -/
def State.wholeRead (s : State) (c b word r : Nat) (others : List Nat) (f : State → State) : HRes :=
  match s.firstLine c b { word := word, whole := [r], theirs := others.map fun x => (x, r) } 0 with
  | none => .ok (f s) .next
  | some x =>
    match s.consumed c x.bank word x.reg x.line x.g x.wh x.cond false with
    | .inl s' => .wait s'
    | .inr (s', cause, detail) => .trap s' cause detail 0

/-- R309. -/
def execVextr (o : VE) (s : State) : Res :=
  Op.exec
    { instr := .vextr o, p := o.p, lock := o.g, touch := true
      note := vecNote o.a.toNat o.g (fun s c b => capOf (s.tag c b o.a.toNat)) 0
      act := fun s0 s c b =>
        let word := (Instr.vextr o).word
        let ta := s.tag c b o.a.toNat
        match firstRefused (s0.sameTags c b o.g [(1, o.a.toNat)]) with
        | some (num, t) => .trap s 0x03 (tagDetail word num t) 0
        | none =>
          let ms := s0.members c b o.g
          if !(ms.all fun x => s0.canRead c x o.a.toNat) then .wait s
          else
            let cov := capOf ta
            let n := min (s.hart c b).vl.toNat (cov * ms.length)
            let x := (s0.greg c (s0.rank0 c b o.g) o.b.toNat).toNat
            s.wholeRead c b word o.a.toNat (ms.filter (· != b)) fun s =>
              let h := s.hart c b
              if x < n then
                let e := gangElem (s0.gangRows c ms o.a.toNat) cov (tagBits ta) x
                s.setHart c b (h.setG o.d.toNat (extrScalar ta e))
              else s.setHart c b ({ h with flags := h.flags ||| 4#4 }.setG o.d.toNat 0) } s

/-- R310: the element that the index of the rank-0 participant names, in this hart's part of the vector. -/
def insertWord (o : VE) : LaneWord :=
  { instr := .vinsr o, p := o.p, g := o.g
    note := vecNote o.d.toNat o.g (fun s c b => capOf (s.tag c b o.d.toNat)) 0
    checks := fun s0 _ c b => s0.sameTags c b o.g [(0, o.d.toNat)]
    refuse := fun _ _ _ _ => none
    plan := fun s0 s c b =>
      let td := s.tag c b o.d.toNat
      let l : Lane := { word := (Instr.vinsr o).word, d := some o.d.toNat, w := tagBits td }
      let v := s.view c b o.g (capOf td) td 0
      let q := s0.rank0 c b o.g
      let n := min (s.hart c b).vl.toNat (capOf td * (s.rank c b o.g).2)
      let x := (s0.greg c q o.a.toNat).toNat
      let e := (s0.greg c q o.b.toNat).toNat % 2 ^ tagBits td
      { ready := l.ready s c b [], lane := l, view := v
        es := if x < n ∧ v.first ≤ x ∧ x < v.first + capOf td then [{ i := x - v.first, enc := some e }] else []
        fin := { fl := if x < n then 0 else 4#4 } } }

/-- R310. -/
def execVinsr (o : VE) (s : State) : Res := (insertWord o).exec s

/-! ## Permutes (R325 to R327) -/

/-- What a permute computes with: the sources of the gang's vector and this hart's part of it. -/
structure PermIn where
  n : Nat
  cov : Nat
  w : Nat
  td : Nat
  rows : List Nat
  sel : List Nat
  first : Nat
  k : Nat
  act : Nat → Bool

/-- The moves into this hart: pairs of a local element and its encoding. -/
def PermIn.local (p : PermIn) (ps : List (Nat × Nat)) : List ElemRes :=
  (ps.filter fun e => decide (p.first ≤ e.1) && decide (e.1 < p.first + p.cov)).map fun e =>
    { i := e.1 - p.first, enc := some (gangElem p.rows p.cov p.w e.2) }

/-- This hart's active gang-wide indices. -/
def PermIn.mine (p : PermIn) : List Nat :=
  ((List.range p.cov).filter fun i => p.act i).map fun i => p.first + i

/-- Gang-wide indices that the selector picks, ascending. -/
def PermIn.picked (p : PermIn) : List Nat := (List.range p.n).filter fun i => gangBit p.sel p.cov p.td i

/-- The plan of a permute of va, whose elements `f` gives, by amount `k`. -/
def permPlan (word d a m : Nat) (g selector : Bool) (f : PermIn → List ElemRes) (k : Nat) (s0 s : State) (c b : Nat) :
    Plan :=
  let td := s.tag c b d
  let ms := s0.members c b g
  let l : Lane := { word := word, d := some d, w := tagBits td, whole := [a], theirs := othersOf ms b a }
  let cov := capOf td
  let v := s.view c b g cov td (if selector then 0 else m)
  { ready := l.ready s c b [] && ms.all fun x => s0.canRead c x a
    lane := l, view := v
    es := f { n := min (s.hart c b).vl.toNat (cov * ms.length), cov := cov, w := tagBits td, td := td
              rows := s0.gangRows c ms a, sel := s0.gangMasks c ms m, first := v.first, k := k, act := v.active } }

/-- A permute of one vector source. `amount` gives k, or the refused operand's value. -/
def permWord (i : Instr) (d a : Nat) (m : Nat) (g p selector : Bool)
    (amount : State → Nat → Nat → Except Nat Nat) (f : PermIn → List ElemRes) : LaneWord :=
  { instr := i, p := p, g := g
    note := vecNote d g (fun s c b => coverage [s.tag c b d, s.tag c b a]) (if selector then 0 else m)
    checks := fun s0 s c b =>
      s.oneSize c b g [(0, d), (1, a)] ++ s0.sameTags c b g [(0, d), (1, a)]
    refuse := fun s0 _ c b =>
      match amount s0 c (s0.rank0 c b g) with
      | .error v => some (0x07, operandDetail v i.word)
      | .ok _ => overlapIf (d == a)
    plan := fun s0 s c b =>
      permPlan i.word d a m g selector f (match amount s0 c (s0.rank0 c b g) with | .ok k => k | .error _ => 0) s0 s c b }

/-- R327: the amount of a V word's splat. -/
def amountOf (o : V3) (s : State) (c b : Nat) : Except Nat Nat :=
  if o.f = 1 then .ok (s.greg c b o.b.toNat).toNat
  else if o.b.getLsbD 3 then .error (uval 64 o.b.toInt) else .ok o.b.toNat

def noAmount (_ : State) (_ _ : Nat) : Except Nat Nat := .ok 0

/-- R326. -/
def execVslup (o : V3) (s : State) : Res :=
  (permWord (.vslup o) o.d.toNat o.a.toNat o.m.toNat o.g o.p false (amountOf o) fun p =>
    p.local ((p.mine.filter fun i => decide (p.k ≤ i)).map fun i => (i, i - p.k))).exec s
/-- R326. -/
def execVsldn (o : V3) (s : State) : Res :=
  (permWord (.vsldn o) o.d.toNat o.a.toNat o.m.toNat o.g o.p false (amountOf o) fun p =>
    p.local ((p.mine.filter fun i => decide (i + p.k < p.n)).map fun i => (i, i + p.k))).exec s
/-- R326. -/
def execVrev (o : V2) (s : State) : Res :=
  (permWord (.vrev o) o.d.toNat o.a.toNat o.m.toNat o.g o.p false noAmount fun p =>
    p.local (p.mine.map fun i => (i, p.n - 1 - i))).exec s
/-- R326: element j from the j-th selected one. -/
def execVcmprs (o : V2) (s : State) : Res :=
  (permWord (.vcmprs o) o.d.toNat o.a.toNat o.m.toNat o.g o.p true noAmount fun p =>
    p.local (p.picked.zipIdx.map fun e => (e.2, e.1))).exec s
/-- R326: the j-th selected element from element j. -/
def execVexpnd (o : V2) (s : State) : Res :=
  (permWord (.vexpnd o) o.d.toNat o.a.toNat o.m.toNat o.g o.p true noAmount fun p => p.local p.picked.zipIdx).exec s

/-- R326: element i from the element that vi names; out of range, zero and OOR. -/
def gatherRegWord (o : VC) : LaneWord :=
  let d := o.d.toNat
  let a := o.a.toNat
  let x := o.b.toNat
  { instr := .vgathr o, p := o.p, g := o.g
    note := vecNote d o.g (fun s c b => coverage [s.tag c b d, s.tag c b a, s.tag c b x]) o.m.toNat
    checks := fun s0 s c b =>
      let td := s.tag c b d
      let ns : List Named := [(0, d), (1, a), (2, x)]
      s.oneSize c b false [(0, d), (1, a)] ++ [(2, s.tag c b x, isI (s.tag c b x))] ++
        s0.sameTags c b o.g ns ++ s.sameSizes c b (tagBits td) o.g ns
    refuse := fun _ _ _ _ => overlapIf (d == a || d == x)
    plan := fun s0 s c b =>
      let td := s.tag c b d
      let tx := s.tag c b x
      let ms := s0.members c b o.g
      let l : Lane := { word := (Instr.vgathr o).word, d := some d, w := tagBits td, whole := [a, x]
                        theirs := othersOf ms b a }
      let cov := coverage [td, s.tag c b a, tx]
      let v := s.view c b o.g cov td o.m.toNat
      let n := min (s.hart c b).vl.toNat (cov * ms.length)
      let rows := s0.gangRows c ms a
      let bx := (s.reg c b x).content x
      { ready := l.ready s c b [] && ms.all fun y => s0.canRead c y a
        lane := l, view := v
        es := (v.elems fun i r =>
          let code := elemAt bx (tagBits tx) i
          let k := if signedTag tx then sval (tagBits tx) code else (code : Int)
          if 0 ≤ k ∧ k < (n : Int) then ({ i := i, enc := some (gangElem rows cov (tagBits td) k.toNat) }, r)
          else ({ i := i, enc := some 0 }, r.oor)).1 } }

/-- R326. -/
def execVgathr (o : VC) (s : State) : Res := (gatherRegWord o).exec s

end Sys2Proof.Machine
end

