-- ==== Sys2Proof/Machine/Rows.lean ====
section
/-! DEFINITION. Rows, refresh and strip handles (R227 to R235, R241 to R245, R247). -/

namespace Sys2Proof.Machine

/-- R188, R444: the governor holds ACT starts. -/
def State.holdsActs (s : State) : Bool := s.power.hold && !s.power.det

/-- R190: what an ACT or SLD of latch `k` waits for, the recall apart. -/
def State.actReady (s : State) (c b k : Nat) : Bool := s.canWrite c b k && s.sagIdle c b k && !s.holdsActs

/-- R190: what a WB, WBP or SST waits for. -/
def State.wbReady (s : State) (c b k : Nat) : Bool :=
  s.canRead c b k && (s.reg c b k).latch != .restoring && s.sagIdle c b k

/-- R228, R237: opens row `pa`, named as `va`, into latch `k`. -/
def State.startAct (s : State) (c b k va pa : Nat) (adv : Option Nat) : HRes :=
  if !s.actReady c b k || s.held c b (.here pa) 8192 false || s.tableFull c 1 then .wait (s.sagWait c b k)
  else match s.recallRow c b k va pa with
    | .inl s' => .wait s'
    | .inr s1 =>
      if !s1.sagIdle c b k then .wait (s1.sagWait c b k)
      else
        let s2 := s1.writeBackRow pa
        let x := s2.reg c b k
        let s3 := s2.setReg c b k { x with latch := .opening, row := some pa }
        .work ((s3.useSag c b k).setPend c b (some (.sense k pa adv)))

/-- R228, R239: captures latch `k` for row `pa`, named as `va`. -/
def State.startWb (s : State) (c b k va pa : Nat) (close : Bool) (adv : Option Nat) : HRes :=
  if !s.wbReady c b k || s.held c b (.here pa) 8192 true || s.tableFull c 1 then .wait (s.sagWait c b k)
  else match s.rowOut c b va pa with
    | some s' => .wait s'
    | none =>
      let x := s.reg c b k
      let s1 := s.setReg c b k { x with latch := .restoring }
      .work ((s1.useSag c b k).setPend c b (some (.capture k pa close adv)))

/-- R228: tACT has run. -/
def State.senseDone (s : State) (c b k pa : Nat) (adv : Option Nat) : State :=
  ((s.senseRow c b k pa).advanceHandle c b adv).setPend c b (some .done)

/-- R228: tWBCAP has run. -/
def State.captureDone (s : State) (c b k pa : Nat) (close : Bool) (adv : Option Nat) : State :=
  let x := s.reg c b k
  (s.endCapture c b k pa close).setPend c b (some (.rowWrite k pa (x.content k) x.conds adv))

/-- R230: the row write is complete. -/
def State.rowWriteDone (s : State) (c b pa bits : Nat) (conds : Tab LineCond) (adv : Option Nat) : State :=
  ((s.writeRow pa bits conds).advanceHandle c b adv).setPend c b (some .done)

/-- How a row operation goes on. -/
def rowPoll (force : Bool) (s : State) (c b : Nat) (p : Pend) : HRes :=
  if !force then .wait s
  else match p with
    | .sense k pa adv => .work ((s.senseDone c b k pa adv).setSagBusy c b k false)
    | .capture k pa close adv => .work (s.captureDone c b k pa close adv)
    | .rowWrite k pa bits conds adv => .work ((s.rowWriteDone c b pa bits conds adv).setSagBusy c b k false)
    | _ => .wait s

/-- R247: the row VA a participant takes from its own ga. -/
def State.rowVa (s : State) (c b : Nat) (o : RW) : Nat :=
  let v := (s.greg c b o.a.toNat).toNat
  if o.g then bankRow v b else v

/-- R420, R422: a row's first and last byte VA. -/
def rowNote (va : State → Nat → Nat → Nat) (s : State) (c b : Nat) : Note :=
  { vl := (s.hart c b).vl.toNat, lo := va s c b, hi := va s c b + 8191, first := some (va s c b) }

/-- R228. -/
def execAct (o : RW) (s : State) : Res :=
  Op.exec
    { instr := .act o, p := o.p, lock := o.g, touch := true, poll := rowPoll
      note := rowNote fun s c b => s.rowVa c b o
      act := fun _ s c b =>
        match s.rowAt c b o.k.toNat (s.rowVa c b o) false with
        | .error (cause, detail) => .trap s cause detail 0
        | .ok (_, pa) => s.startAct c b o.k.toNat (s.rowVa c b o) pa none } s

/-- WB and WBP (R228, R229). -/
def wbOp (i : Instr) (o : RW) (close : Bool) : Op :=
  { instr := i, p := o.p, lock := o.g, touch := true, poll := rowPoll
    note := rowNote fun s c b => s.rowVa c b o
    act := fun _ s c b =>
      if (s.reg c b o.k.toNat).latch = .closed then .trap s 0x0d 0 0
      else match s.rowAt c b o.k.toNat (s.rowVa c b o) true with
        | .error (cause, detail) => .trap s cause detail 0
        | .ok (_, pa) => s.startWb c b o.k.toNat (s.rowVa c b o) pa close none }

/-- R228. -/
def execWb (o : RW) (s : State) : Res := (wbOp (.wb o) o false).exec s
/-- R228. -/
def execWbp (o : RW) (s : State) : Res := (wbOp (.wbp o) o true).exec s

/-- R231. -/
def execPre (o : KG) (s : State) : Res :=
  Op.exec
    { instr := .pre o, p := o.p, lock := o.g, touch := true
      act := fun _ s c b =>
        if !s.canWrite c b o.k.toNat then .wait s else .ok (s.closeLatch c b o.k.toNat) .next } s

/-- R187, R235: one row of a REF, of which `left` more follow; the word is done when the last has started. -/
def State.refRow (s : State) (c b k left : Nat) : HRes :=
  if !s.sagIdle c b k then .wait (s.sagWait c b k)
  else
    let s1 := (s.setBank c b ((s.bank c b).setSag k ((s.bank c b).sag k).refresh)).useSag c b k
    .work (s1.setPend c b (some (if left = 0 then .done else .refresh k (left - 1))))

/-- How a REF goes on. -/
def refPoll (_ : Bool) (s : State) (c b : Nat) (p : Pend) : HRes :=
  match p with
  | .refresh k left => s.refRow c b k left
  | _ => .wait s

/-- R235. -/
def execRef (o : KN) (s : State) : Res :=
  Op.exec { instr := .ref o, p := o.p, poll := refPoll, act := fun _ s c b => s.refRow c b o.k.toNat o.n.toNat } s

/-! ## Strip handles -/

def Hart.handle (h : Hart) (n : Nat) : Handle := h.handles.get n {}

/-- R242. -/
def execSdef (o : HD) (s : State) : Res :=
  Op.exec
    { instr := .sdef o, p := o.p
      act := fun _ s c b =>
        let word := (Instr.sdef o).word
        let h := s.hart c b
        let va := (h.greg o.a.toNat).toNat
        let v := (h.greg o.b.toNat).toNat
        if va % 8192 ≠ 0 ∨ va / 2 ^ 48 ≠ 0 then .trap s 0x07 (operandDetail va word) 0
        else if v / 2 ^ 32 ≠ 0 ∨ fld v 16 16 = 0 then .trap s 0x07 (operandDetail v word) 0
        else
          let x : Handle := { base := h.greg o.a.toNat, stride := BitVec.ofNat 16 v,
                              count := BitVec.ofNat 16 (v / 2 ^ 16), pos := 0 }
          .ok (s.setHart c b { h with handles := h.handles.put o.n.toNat x }) .next } s

/-- R243: the row VA at a handle's position. -/
def Handle.row (x : Handle) : Nat := uval 48 ((x.base.toNat : Int) + (x.pos : Int) * x.stride.toInt * 2 ^ 18)

/-- The row of a handle as a participant takes it (R247). -/
def State.stripVa (s : State) (c b : Nat) (o : HK) : Nat :=
  let v := ((s.hart c b).handle o.n.toNat).row
  if o.g then bankRow v b else v

/-- The checks of SLD and SST, and then what they start. -/
def State.strip (s : State) (c b : Nat) (o : HK) (word : Nat) (writes : Bool) (f : Nat → HRes) : HRes :=
  let x := (s.hart c b).handle o.n.toNat
  if x.count = 0 then .trap s 0x07 (operandDetail 0 word) 0
  else
    let base := if o.g then bankRow x.base.toNat b else x.base.toNat
    match s.derivedRow c b o.k.toNat base (s.stripVa c b o) writes with
    | .error (cause, detail) => .trap s cause detail 0
    | .ok pa => f pa

/-- R243. -/
def execSld (o : HK) (s : State) : Res :=
  Op.exec
    { instr := .sld o, p := o.p, lock := o.g, touch := true, poll := rowPoll
      note := rowNote fun s c b => s.stripVa c b o
      act := fun _ s c b =>
        s.strip c b o (Instr.sld o).word false fun pa =>
          s.startAct c b o.k.toNat (s.stripVa c b o) pa (some o.n.toNat) } s

/-- R243. -/
def execSst (o : HK) (s : State) : Res :=
  Op.exec
    { instr := .sst o, p := o.p, lock := o.g, touch := true, poll := rowPoll
      note := rowNote fun s c b => s.stripVa c b o
      act := fun _ s c b =>
        if (s.reg c b o.k.toNat).latch = .closed then .trap s 0x0d 0 0
        else s.strip c b o (Instr.sst o).word true fun pa => s.startWb c b o.k.toNat (s.stripVa c b o) pa false
          (some o.n.toNat) } s

/-- R244. -/
def execSpos (o : HP) (s : State) : Res :=
  Op.exec
    { instr := .spos o, p := o.p
      act := fun _ s c b =>
        let h := s.hart c b
        let x := h.handle o.n.toNat
        let v := (h.greg o.r.toNat).toNat
        if x.count.toNat ≤ v then .trap s 0x07 (operandDetail v (Instr.spos o).word) 0
        else .ok (s.setHart c b { h with handles := h.handles.put o.n.toNat { x with pos := v } }) .next } s

/-- R244. -/
def execSposRd (o : HP) (s : State) : Res :=
  Op.exec
    { instr := .sposRd o, p := o.p
      act := fun _ s c b =>
        let h := s.hart c b
        .ok (s.setHart c b (h.setG o.r.toNat (BitVec.ofNat 64 (h.handle o.n.toNat).pos))) .next } s

/-! ## Priority of harts over background operations (R36) -/

/-- A hart's next word is at issue: of its split block, or of its gang's block where it has still to retire it. -/
def State.atIssue (s : State) (c b : Nat) : Bool :=
  let h := s.hart c b
  (s.core c).st == .running && h.pend.isNone && match h.st, (s.core c).gangOf b with
    | .split, _ => h.blk != []
    | .member, some g => match (s.gang c g).run with
      | some r => r.todo.contains b
      | none => false
    | _, _ => false

/-- The array operation on SAG `k` that a word starts could start now, the SAG's idleness and recalls apart. -/
def State.wordWants (s : State) (c b k : Nat) : Instr → Bool
  | .act o => o.k.toNat == k && s.canWrite c b k && !s.holdsActs
  | .sld o => o.k.toNat == k && s.canWrite c b k && !s.holdsActs
  | .wb o | .wbp o => o.k.toNat == k && s.canRead c b k && (s.reg c b k).latch != .restoring
  | .sst o => o.k.toNat == k && s.canRead c b k && (s.reg c b k).latch != .restoring
  | .ref o => o.k.toNat == k
  | _ => false

/-- R36: the hart of a bank has an array operation ready to start on SAG `k`: refresh by hardware, scrubs and test steps let it
start first. -/
def State.wantsSag (s : State) (c b k : Nat) : Bool :=
  match (s.hart c b).pend with
  | some (.refresh n _) => n == k
  | some (.resense n false) => n == k
  | some _ => false
  | none => s.atIssue c b && match decodeHart (s.wordAt c b) with
    | .ok i => s.wordWants c b k i
    | _ => false

end Sys2Proof.Machine
end

