-- ==== Sys2Proof/Machine/Twill.lean ====
section
/-! DEFINITION. Moves between banks and cores: Twill and Serge (R251 to R255). -/

namespace Sys2Proof.Machine

/-- A register receives a whole row: all 32 groups commit. -/
def State.putRegister (s : State) (c b r v : Nat) : State :=
  let x := (s.reg c b r).openFor r
  (s.setReg c b r { x with bits := v, arrival := 0xffffffff, conds := [], dirty := x.dirty || decide (r < 8) }).dropStage
    c b r

/-! ## Twill -/

/-- Kinds: 0 TWROT, 1 TWBFLY, 2 TWBCAST, 3 TWXPOSE. The rank whose va member `r` of `m` receives. -/
def twillSource (kind : Nat) (amt : Int) (r m : Nat) : Option Nat :=
  match kind with
  | 0 => some (((r : Int) - amt) % (m : Int)).toNat
  | 1 => if r ^^^ amt.toNat < m then some (r ^^^ amt.toNat) else none
  | 2 => some amt.toNat
  | _ => none

/-- R251: what member `r` receives, from the rows of va in rank order. -/
def twillRow (kind : Nat) (amt : Int) (r : Nat) (rows : List Nat) : Option Nat :=
  if kind = 3 then
    let m := rows.length
    let w := 65536 / m
    some ((rows.zipIdx.map fun e => elemAt e.1 w r * 2 ^ (w * e.2)).foldl (· + ·) 0)
  else (twillSource kind amt r rows.length).map fun k => rows.getD k 0

/-- The ranks that member `r` reads. -/
def twillReads (kind : Nat) (amt : Int) (r m : Nat) : List Nat :=
  if kind = 3 then List.range m else (twillSource kind amt r m).toList

/-- The line of member `r`'s vd that line `n` of rank `k`'s va goes to, if it is carried. -/
def twillLine (kind r m k n : Nat) : Option Nat :=
  if kind = 3 then
    let w := 128 / m
    if n / w = r then some (k * w + n % w) else none
  else some n

/-- A line that a transfer carries although it is not GOOD: the line it goes to, the bank and line it comes from, its
condition. -/
structure Carried where
  dest : Nat
  bank : Nat
  line : Nat
  cond : Cond
deriving DecidableEq, Repr, Inhabited

/-- The lines that are not GOOD among those bank `x`'s register `a` sends, where `f` gives the line each goes to. -/
def State.sends (s : State) (c x a : Nat) (f : Nat → Option Nat) : List Carried :=
  (s.reg c x a).conds.filterMap fun e => (f e.1).map fun n => ⟨n, x, e.1, e.2.cond⟩

/-- R252: the lines that are not GOOD among those member `b` receives. -/
def State.twillBad (s : State) (c b kind a : Nat) (amt : Int) : List Carried :=
  let ms := s.members c b true
  let r := (s.rank c b true).1
  (twillReads kind amt r ms.length).flatMap fun k => s.sends c (ms.getD k b) a (twillLine kind r ms.length k)

/-- The groups of a transfer that a bad line keeps from committing (R206). -/
def blockedGroup (bad : List Carried) (g : Nat) : Bool := bad.any fun e => e.dest % 4 == g / 8

/-- R193, R203: a register receives the groups `gs` of a row. -/
def VReg.receive (r v : Nat) (gs : List Nat) (x : VReg) : VReg :=
  let y := x.openFor r
  let m := gs.foldl (fun a g => a ||| groupMask g) 0
  { gs.foldl (fun z g => z.freshen g true) y with
    bits := (y.bits ||| m) ^^^ m ||| (v &&& m), arrival := 0xffffffff, dirty := y.dirty || (gs != [] && decide (r < 8)) }

/-- R206: a line that failed its check arrives with POISON, and the check adds to the core's score (R84, R116). -/
def State.poisoned (s : State) (c b d : Nat) (bad : List Carried) : State :=
  bad.foldl (fun t e =>
    if e.cond = .e2eBad then
      let x := t.reg c b d
      (t.setReg c b d { x with conds := x.conds.put e.dest { cond := .poison, side := { poison := true } } }).addScore 1 c 32
    else t) s

/-- R205, R206, R252: the end of a transfer of row `v` into register `d` that carries lines that are not GOOD: the groups
without one commit, and the word ends by the cause of the first at the lowest group that does not. DEDUCED, log 31, unsafe. -/
def State.carriedEnd (s : State) (c b word d a v wh : Nat) (bad : List Carried) : State :=
  let gs := (List.range 32).filter fun g => !blockedGroup bad g
  let low := ((List.range 32).find? (blockedGroup bad)).getD 0
  match bad.find? fun e => decide (e.dest % 4 = low / 8) with
  | none => s
  | some e =>
    let s1 := (s.setReg c b d ((s.reg c b d).receive d v gs)).dropStage c b d
    let s2 := s1.poisoned c b d bad
    let s3 := if e.cond = .ue then s2.poisonLine c e.bank a e.line else s2
    s3.setPend c b (some (.trapped e.cond.cause (lineDetail word a e.line (lineGroup e.line) wh) low))

/-- R252: the member's row arrives; Twill itself finds the check of the lines `found` failed. -/
def State.twillDone (s : State) (found : List Nat) (c b kind d a : Nat) (amt : Int) : State :=
  let ms := s.members c b true
  let r := (s.rank c b true).1
  match twillRow kind amt r (s.gangRows c ms a),
    s.twillBad c b kind a amt ++ found.map fun n => ⟨n, b, n, .e2eBad⟩ with
  | some v, [] => (s.putRegister c b d v).setPend c b (some .done)
  | some v, bad => s.carriedEnd c b (s.wordAt c b) d a v 1 bad
  | none, _ => (s.endWrite c b d).setPend c b (some .done)

def twillPollWith (found : List Nat) (force : Bool) (s : State) (c b : Nat) (p : Pend) : HRes :=
  match force, p with
  | true, .twill kind d a amt => .work (s.twillDone found c b kind d a amt)
  | _, _ => .wait s

def twillPoll : Bool → State → Nat → Nat → Pend → HRes := twillPollWith []

/-- R204: a transfer starts unless a UE line that it carries is to be sensed again first. -/
def State.carried (s : State) (c word a wh : Nat) (bad : List Carried) (f : HRes) : HRes :=
  match (bad.filterMap fun e => match s.consumed c e.bank word a e.line (lineGroup e.line) wh e.cond false with
    | .inl s' => some s'
    | .inr _ => none).head? with
  | some s' => .wait s'
  | none => f

/-- The limits of an amount and a member count (R251): the refused value. -/
def twillLimit (kind : Nat) (amt : Int) (m : Nat) : Option Nat :=
  match kind with
  | 0 => none
  | 1 => if amt < 0 ∨ 31 < amt then some (uval 64 amt) else none
  | 2 => if amt < 0 ∨ (m : Int) ≤ amt then some (uval 64 amt) else none
  | _ => if 2 ^ m.log2 = m then none else some m

/-- R420: what the ring notes of a move into or out of register `r`. -/
def moveNote (r : Nat) (s : State) (c b : Nat) : Note :=
  { vl := (s.hart c b).vl.toNat, width := (tagBits (s.tag c b r)).log2 }

/-- A Twill word; `amount` from the participant of rank 0. -/
def twillOp (i : Instr) (kind d a : Nat) (amount : State → Nat → Nat → Int) : Op :=
  { instr := i, lock := true, touch := true, poll := twillPoll, note := moveNote d
    act := fun s0 s c b =>
      let ms := s0.members c b true
      let amt := amount s0 c (s0.rank0 c b true)
      match twillLimit kind amt ms.length with
      | some v => .trap s 0x07 (operandDetail v i.word) 0
      | none =>
        if d = a then .trap s 0x04 0 0
        else if twillReads kind amt (s0.rank c b true).1 ms.length = [] then .ok s .next
        else if !(ms.all fun x => s0.canRead c x a) || !s.canWrite c b d then .wait s
        else s.carried c i.word a 1 (s.twillBad c b kind a amt)
            (.work ((s.beginWrite c b d 0).setPend c b (some (.twill kind d a amt)))) }

/-- R251: the amount of form 01 or 10. -/
def twAmount (o : TW) (s : State) (c b : Nat) : Int :=
  if o.f = 1 then (s.greg c b o.b.toNat).toInt else o.b.toInt

/-- R251. -/
def execTwrot (o : TW) (s : State) : Res := (twillOp (.twrot o) 0 o.d.toNat o.a.toNat (twAmount o)).exec s
/-- R251. -/
def execTwbfly (o : TW) (s : State) : Res := (twillOp (.twbfly o) 1 o.d.toNat o.a.toNat (twAmount o)).exec s
/-- R251. -/
def execTwbcast (o : TW) (s : State) : Res := (twillOp (.twbcast o) 2 o.d.toNat o.a.toNat (twAmount o)).exec s
/-- R251. -/
def execTwxpose (o : TX) (s : State) : Res :=
  (twillOp (.twxpose o) 3 o.d.toNat o.a.toNat fun _ _ _ => 0).exec s

/-! ## Serge (R253 to R255) -/

/-- R253: a peer descriptor: core, bank and channel; or refused. The task's core set is that of the running task. -/
def State.peer (s : State) (c b : Nat) (v : Nat) : Option (Nat × Nat × Nat) :=
  let core := fld v 0 10
  let set := match (s.core c).task with
    | none => [c]
    | some n => match s.sched.tasks.find? (fun (t : Task) => t.num == n) with
      | some t => t.cores
      | none => [c]
  if v / 2 ^ 23 ≠ 0 ∨ core / 128 ≠ c / 128 ∨ !set.contains core ∨ (core = c ∧ fld v 10 5 = b) then none
  else some (core, fld v 10 5, fld v 15 8)

/-- The words after the one a hart executes, in its block; none where the block has a breakpoint (R419). -/
def State.wordsAfter (s : State) (c b : Nat) : List Nat :=
  let h := s.hart c b
  let e := match h.st, (s.core c).gangOf b with
    | .member, some g =>
      match (s.gang c g).run with
      | some r => (r.va, r.words.drop (r.pos + 1))
      | none => (0, [])
    | _, _ => (h.blockVa, h.blk.drop (h.wordIdx + 1))
  if (s.ct c).bpa.any fun x => bit x.2.toNat 63 && fld x.2.toNat 6 42 == e.1 / 64 then [] else e.2

/-- A scalar word that issues at once and holds back no transfer after it (R209 to R211, NOP). -/
def passesBy (w : Nat) : Bool :=
  let m := fld w 26 6
  (decide (1 ≤ m) && decide (m ≤ 7) || m == 0x0e || (m == 0x0d && fld w 0 7 == 0)) &&
    match decodeHart w with
    | .ok _ => true
    | _ => false

/-- What a passed word writes: a scalar register, before any that have been passed. -/
def passedBy (w : Nat) (written : List Nat) : List Nat :=
  if fld w 26 6 = 0x0d then written else fld w 22 4 :: written

/-- The next word on Serge, with nothing before it but such words, and others among the first `n`, which have issued
(R183); no passed word writes its descriptor: a scalar result takes effect only when its word retires (R196). -/
def sergeAhead : Nat → List Nat → List Nat → Nat
  | _, [], _ => 0
  | n, w :: ws, written =>
    if fld w 26 6 = 0x15 then (if written.contains (fld w 18 4) then 0 else w)
    else if passesBy w then sergeAhead (n - 1) ws (passedBy w written)
    else if n = 0 then 0
    else sergeAhead (n - 1) ws (if 0x30 ≤ fld w 26 6 then passedBy w written else written)

/-- The word on Serge that a hart may have issued behind its present one, or 0. -/
def State.nextWord (s : State) (c b : Nat) : Nat := sergeAhead (s.hart c b).young.length (s.wordsAfter c b) []

/-- A transfer that a hart has issued: register, peer core, bank and channel, and whether its word is a later one of
the block, issued while the present one is in progress (R254, R463; log 34). -/
structure Half where
  reg : Nat
  core : Nat
  bank : Nat
  chan : Nat
  ahead : Bool
deriving DecidableEq, Repr, Inhabited

/-- The SHSND a hart has in progress: its present word, or one behind an SHRCV in progress. -/
def State.sending (s : State) (c b : Nat) : Option Half :=
  let h := s.hart c b
  match h.pend with
  | some (.send r x y z) => some ⟨r, x, y, z, false⟩
  | some (.recv _ _ _ _) =>
    match decodeHart (s.nextWord c b) with
    | .ok (.shsnd o) =>
      if (o.p && !h.hp) || h.aheadSent || !s.canRead c b o.d.toNat || (s.reg c b o.d.toNat).conds != [] then none
      else (s.peer c b (h.greg o.a.toNat).toNat).map fun e => ⟨o.d.toNat, e.1, e.2.1, e.2.2, true⟩
    | _ => none
  | _ => none

/-- The SHRCV a hart has in progress: its present word, or one behind an SHSND in progress. -/
def State.receiving (s : State) (c b : Nat) : Option Half :=
  let h := s.hart c b
  match h.pend with
  | some (.recv r x y z) => some ⟨r, x, y, z, false⟩
  | some (.send _ _ _ _) =>
    match decodeHart (s.nextWord c b) with
    | .ok (.shrcv o) =>
      if (o.p && !h.hp) || h.aheadRecv.isSome || !s.canWrite c b o.d.toNat then none
      else (s.peer c b (h.greg o.a.toNat).toNat).map fun e => ⟨o.d.toNat, e.1, e.2.1, e.2.2, true⟩
    | _ => none
  | _ => none

/-- R206, R254: the ends of a transfer that carries lines which fail their check: both words end by 0x41. -/
def State.sergeBad (s : State) (c b : Nat) (x y : Half) (bad : List Carried) : Option State :=
  match bad with
  | [] => none
  | e :: _ =>
    if x.ahead ∨ y.ahead then none
    else
      let s1 := s.setPend c b (some (.trapped 0x41 (lineDetail (s.wordAt c b) x.reg e.line (lineGroup e.line) 2) 0))
      let word := s.wordAt x.core x.bank
      some (s1.carriedEnd x.core x.bank word y.reg y.reg ((s.reg c b x.reg).content x.reg) 2
        (bad.map fun e => { e with bank := x.bank }))

/-- R254: the transfer from (c, b) to its peer, if both have issued; Serge itself finds the check of the lines `found`
failed. -/
def State.sergeMove (s : State) (found : List Nat) (c b : Nat) : Option State :=
  match s.sending c b with
  | none => none
  | some x =>
    match s.receiving x.core x.bank with
    | none => none
    | some y =>
      let bad := s.sends c b x.reg some ++ found.map fun n => ⟨n, b, n, .e2eBad⟩
      if y.core = c ∧ y.bank = b ∧ y.chan = x.chan then
        if bad ≠ [] then s.sergeBad c b x y bad else
        let v := (s.reg c b x.reg).content x.reg
        let s1 := if x.ahead then s.setHart c b { s.hart c b with aheadSent := true } else s.setPend c b (some .done)
        let s2 := if y.ahead then
            s1.setHart x.core x.bank { s1.hart x.core x.bank with aheadRecv := some v }
          else (s1.putRegister x.core x.bank y.reg v).setPend x.core x.bank (some .done)
        some s2
      else none

/-- A transfer that a hart takes part in, as sender or as receiver. -/
def State.sergeTry (s : State) (found : List Nat) (c b : Nat) : Option State :=
  match s.sergeMove found c b with
  | some s' => some s'
  | none =>
    match s.receiving c b with
    | some y => s.sergeMove found y.core y.bank
    | none => none

def sergePoll (force : Bool) (s : State) (c b : Nat) (p : Pend) : HRes :=
  match force, p with
  | true, .send _ _ _ _ => match s.sergeTry [] c b with | some s' => .work s' | none => .wait s
  | true, .recv _ _ _ _ => match s.sergeTry [] c b with | some s' => .work s' | none => .wait s
  | _, _ => .wait s

/-- R254. -/
def execShsnd (o : R2) (s : State) : Res :=
  Op.exec
    { instr := .shsnd o, p := o.p, touch := true, poll := sergePoll, note := moveNote o.d.toNat
      act := fun _ s c b =>
        let h := s.hart c b
        let v := (h.greg o.a.toNat).toNat
        match s.peer c b v with
        | none => .trap s 0x07 (operandDetail v (Instr.shsnd o).word) 0
        | some (x, y, z) =>
          if h.aheadSent then .ok (s.setHart c b { h with aheadSent := false }) .next
          else if !s.canRead c b o.d.toNat then .wait s
          else
            let r := o.d.toNat
            let bad := s.sends c b r some
            let word := (Instr.shsnd o).word
            s.carried c word r 2 bad (match bad.find? fun e => e.cond != .e2eBad with
              | some e => .trap (if e.cond = .ue then s.poisonLine c b r e.line else s) 0x40
                  (lineDetail word r e.line (lineGroup e.line) 2) 0
              | none => .work (s.setPend c b (some (.send r x y z)))) } s

/-- R254. -/
def execShrcv (o : R2) (s : State) : Res :=
  Op.exec
    { instr := .shrcv o, p := o.p, touch := true, poll := sergePoll, note := moveNote o.d.toNat
      act := fun _ s c b =>
        let h := s.hart c b
        let v := (h.greg o.a.toNat).toNat
        match s.peer c b v with
        | none => .trap s 0x07 (operandDetail v (Instr.shrcv o).word) 0
        | some (x, y, z) =>
          if !s.canWrite c b o.d.toNat then .wait s
          else match h.aheadRecv with
            | some row => .ok ((s.setHart c b { h with aheadRecv := none }).putRegister c b o.d.toNat row) .next
            | none => .work ((s.beginWrite c b o.d.toNat 0).setPend c b (some (.recv o.d.toNat x y z))) } s

end Sys2Proof.Machine
end

