-- ==== Sys2Proof/Machine/VBits.lean ====
section
/-! DEFINITION. Words on encodings: bitwise operations and shifts, selects, compares into masks, carries through masks
(R313, R317, R318, R325, R326). -/

namespace Sys2Proof.Machine

/-- R313: the tags a word on encodings permits: a class for each operand, and splats that R168 permits. -/
def bitChecks (ok : Nat → Bool) (o : V3) (td ta tb : Nat) (bad : Option TagCheck) : List TagCheck :=
  [(0, td, ok td), (1, ta, ok ta)] ++ (if o.f = 0 then [(2, tb, ok tb)] else bad.toList)

/-- What a word on encodings writes and reads. -/
def bitLane (i : Instr) (o : V3) (m : Option Nat) (s : State) (c b : Nat) : Lane :=
  { word := i.word, d := some o.d.toNat, w := tagBits (s.tag c b o.d.toNat), m := m
    same := o.a.toNat :: if o.f = 0 then [o.b.toNat] else [] }

/-- The tag checks of a word on encodings. -/
def bitWordChecks (ok : Nat → Bool) (o : V3) (s0 s : State) (c b : Nat) : List TagCheck :=
  let ta := s.tag c b o.a.toNat
  let (sb, bad) := s.srcB c b o ta
  bitChecks ok o (s.tag c b o.d.toNat) ta sb.tag bad ++ s.oneSize c b o.g (named3 o) ++ s0.sameTags c b o.g (named3 o)

/-- An element-wise word on the encodings of a and b; `sel` gives the mask field another use than execution. -/
def bitWord (i : Instr) (o : V3) (ok : Nat → Bool) (sel : Bool) (f : Nat → Bool → Nat → Nat → Nat) : LaneWord :=
  { instr := i, p := o.p, g := o.g
    note := vecNote o.d.toNat o.g (fun s c b => coverage ((named3 o).map fun e => s.tag c b e.2))
      (if sel then 0 else o.m.toNat)
    checks := bitWordChecks ok o
    refuse := fun _ _ _ _ => none
    plan := fun _ s c b =>
      let td := s.tag c b o.d.toNat
      let ta := s.tag c b o.a.toNat
      let sb := (s.srcB c b o ta).1
      let l := bitLane i o none s c b
      let v := s.view c b o.g (capOf td) td (if sel then 0 else o.m.toNat)
      let ba := (s.reg c b o.a.toNat).content o.a.toNat
      let ms := (s.bank c b).mask o.m.toNat
      let res := v.elems fun k r =>
        let e := f (tagBits td) (ms.testBit (maskIndex td k)) (elemAt ba (tagBits ta) k) (sb.code k)
        ({ i := k, enc := some e }, r)
      { ready := l.ready s c b [], lane := l, view := v, es := res.1 } }

def isIR (t : Nat) : Bool := isI t || isR t

/-- R313: an arithmetic right shift of a `w`-bit encoding. -/
def sraBits (w a k : Nat) : Nat := uval w (sval w a / (2 ^ k : Nat))

/-- R313. -/
def execVand (o : V3) (s : State) : Res := (bitWord (.vand o) o anyTag false (fun _ _ a b => a &&& b)).exec s
/-- R313. -/
def execVor (o : V3) (s : State) : Res := (bitWord (.vor o) o anyTag false (fun _ _ a b => a ||| b)).exec s
/-- R313. -/
def execVxor (o : V3) (s : State) : Res := (bitWord (.vxor o) o anyTag false (fun _ _ a b => a ^^^ b)).exec s
/-- R313. -/
def execVsll (o : V3) (s : State) : Res := (bitWord (.vsll o) o isIR false (fun w _ a b => a * 2 ^ (b % w) % 2 ^ w)).exec s
/-- R313. -/
def execVsrl (o : V3) (s : State) : Res := (bitWord (.vsrl o) o isIR false (fun w _ a b => a / 2 ^ (b % w))).exec s
/-- R313. -/
def execVsra (o : V3) (s : State) : Res := (bitWord (.vsra o) o isIR false (fun w _ a b => sraBits w a (b % w))).exec s
/-- R325, R326. -/
def execVsel (o : V3) (s : State) : Res := (bitWord (.vsel o) o anyTag true (fun _ m a b => if m then a else b)).exec s

/-! ## Compares (R317) -/

/-- The conditions, as fn gives them: EQ, NE, LT, LE, GT, GE, UNORD. -/
def cmpHolds (cc : Nat) (a b : XVal) : Bool :=
  if a.isNan || b.isNan then cc == 1 || cc == 6
  else match cc with
    | 0 => a.eq b
    | 1 => !a.eq b
    | 2 => a.lt b
    | 3 => !b.lt a
    | 4 => b.lt a
    | 5 => !a.lt b
    | _ => false

/-- Classes of a compare: I, F and T; R for EQ and NE where both sizes are one. -/
def cmpOk (cc t u : Nat) : Bool := isIF t || isT t || (isR t && cc < 2 && tagBits u == 64)

/-- The vector operands of a compare. -/
def namedM (o : VM) : List Named := (1, o.a.toNat) :: if o.f = 0 then [(2, o.b.toNat)] else []

def VMtoV3 (o : VM) : V3 := ⟨0, o.a, o.b, o.m, o.g, o.f, o.p⟩

/-- Whether the condition holds of the codes of element `k` (R317). -/
def cmpElem (cc ta : Nat) (sb : Src) (ba k : Nat) : Bool :=
  let ca := elemAt ba (tagBits ta) k
  let cb := sb.code k
  if isR ta || isR sb.tag then (if cc = 0 then ca == cb else ca != cb)
  else cmpHolds cc (valueOf ta ca 0) (valueOf sb.tag cb 0)

/-- A compare. Where both sources are T2, four elements share a bit of md. -/
def cmpWord (i : Instr) (o : VM) (cc : Nat) : LaneWord :=
  { instr := i, p := o.p, g := o.g
    note := vecNote o.a.toNat o.g (fun s c b => coverage ((namedM o).map fun e => s.tag c b e.2)) o.m.toNat
    checks := fun s0 s c b =>
      let ta := s.tag c b o.a.toNat
      let (sb, bad) := s.srcB c b (VMtoV3 o) ta
      [(1, ta, cmpOk cc ta sb.tag)] ++ (if o.f = 0 then [(2, sb.tag, cmpOk cc sb.tag ta)] else bad.toList) ++
        s0.sameTags c b o.g (namedM o) ++ s.sameSizes c b (tagBits ta) o.g (namedM o)
    refuse := fun _ _ _ _ => none
    plan := fun _ s c b =>
      let ta := s.tag c b o.a.toNat
      let sb := (s.srcB c b (VMtoV3 o) ta).1
      let rd := s.splitReads c b (tagBits ta) (o.a.toNat :: if o.f = 0 then [o.b.toNat] else [])
      let l : Lane := { word := i.word, w := tagBits ta, m := some o.d.toNat, same := rd.1, whole := rd.2 }
      let quad := isT ta && isT sb.tag
      let v := s.view c b o.g (coverage [ta, sb.tag]) (if quad then 14 else 0) o.m.toNat
      let ba := (s.reg c b o.a.toNat).content o.a.toNat
      let res := v.elems fun k r =>
        let bit := if quad then
            ([0, 1, 2, 3].all fun j => !v.active (k / 4 * 4 + j) || cmpElem cc ta sb ba (k / 4 * 4 + j))
          else cmpElem cc ta sb ba k
        ({ i := k, mbit := some (if quad then k / 4 else k, bit) },
          r.t2 [(ta, elemAt ba (tagBits ta) k), (sb.tag, sb.code k)])
      { ready := l.ready s c b [], lane := l, view := v, es := res.1 } }

/-- R317. -/
def execVcmpEq (o : VM) (s : State) : Res := (cmpWord (.vcmpEq o) o 0).exec s
/-- R317. -/
def execVcmpNe (o : VM) (s : State) : Res := (cmpWord (.vcmpNe o) o 1).exec s
/-- R317. -/
def execVcmpLt (o : VM) (s : State) : Res := (cmpWord (.vcmpLt o) o 2).exec s
/-- R317. -/
def execVcmpLe (o : VM) (s : State) : Res := (cmpWord (.vcmpLe o) o 3).exec s
/-- R317. -/
def execVcmpGt (o : VM) (s : State) : Res := (cmpWord (.vcmpGt o) o 4).exec s
/-- R317. -/
def execVcmpGe (o : VM) (s : State) : Res := (cmpWord (.vcmpGe o) o 5).exec s
/-- R317. -/
def execVcmpUnord (o : VM) (s : State) : Res := (cmpWord (.vcmpUnord o) o 6).exec s

/-! ## Carries (R318) -/

/-- A word that carries through mask mc: the encoding and the carry from A, B and the carry in. -/
def carryWord (i : Instr) (o : V3) (f : Int → Int → Int → Int) : LaneWord :=
  { instr := i, p := o.p, g := o.g
    note := vecNote o.d.toNat o.g (fun s c b => coverage ((named3 o).map fun e => s.tag c b e.2)) 0
    checks := bitWordChecks isI o
    refuse := fun _ _ _ _ => none
    plan := fun _ s c b =>
      let td := s.tag c b o.d.toNat
      let sb := (s.srcB c b o (s.tag c b o.a.toNat)).1
      let w := tagBits td
      let l := bitLane i o (some o.m.toNat) s c b
      let v := s.view c b o.g (capOf td) td 0
      let ba := (s.reg c b o.a.toNat).content o.a.toNat
      let mc := (s.bank c b).mask o.m.toNat
      let res := v.elems fun k r =>
        let t := f (elemAt ba w k : Nat) (sb.code k : Nat) (bnat (mc.testBit k) : Nat)
        ({ i := k, enc := some (uval w t), mbit := some (k, decide (t < 0 ∨ (2 ^ w : Nat) ≤ t)) }, r)
      { ready := l.ready s c b [], lane := l, view := v, es := res.1 } }

/-- R318. -/
def execVadc (o : V3) (s : State) : Res := (carryWord (.vadc o) o fun a b c => a + b + c).exec s
/-- R318. -/
def execVsbc (o : V3) (s : State) : Res := (carryWord (.vsbc o) o fun a b c => a - b - c).exec s
/-- R318. -/
def execVaddm (o : V3) (s : State) : Res := (carryWord (.vaddm o) o fun a b _ => a + b).exec s

end Sys2Proof.Machine
end

