-- ==== Sys2Proof/Machine/VCvt.lean ====
section
/-! DEFINITION. Conversions (R281, R282, R319 to R324). -/

namespace Sys2Proof.Machine

/-- R319: a conversion to T2: through SI8 with saturation, then to −1, 0 or +1. -/
def convertT2 (m : Dom) (a : XVal) (r : Rd) : Nat × Rd :=
  match a with
  | .nan => (0, r.inexact)
  | a =>
    let (e, r1) := convertInt 0 { m.rm with sat := true } a r
    let x := sval 8 e
    if x < -1 then (3, r1.sat)
    else if 1 < x then (1, r1.sat)
    else (if x = 0 then 0 else if x = 1 then 1 else 3, r1)

/-- R319. -/
def cvtOp : UnOp :=
  { okd := fun _ t => isIFQT t, oka := fun _ t => isIFQT t
    f := fun m sc _ _ a r => if m.td = 14 then convertT2 m a r else m.put sc [a] a r }

/-- R319. -/
def execVcvt (o : V2) (s : State) : Res := (unaryWord (.vcvt o) o cvtOp).exec s

/-! ## MX rows (R281, R282, R320 to R322) -/

/-- R320: the width of a code of a format: 0 E4M3, 1 E5M2, 2 FP4, 3 INT8. -/
def mxBits (t : Nat) : Nat := if t = 2 then 4 else 8

/-- The MX row's coverage. -/
def mxCap (t : Nat) : Nat := if t = 2 then 16384 else 8192

/-- R281: a code's value before its scale. -/
def mxCode (t code : Nat) : XVal :=
  match t with
  | 0 => fmtE4M3.value code
  | 1 => fmtE5M2.value code
  | 2 => fmtE2M1.value code
  | _ => dyad (sval 8 code) (-6) false

/-- 2^(c − 127). -/
def mxScale (c : Nat) : XVal := dyad 1 ((c : Int) - 127) false

/-- R281. -/
def mxValue (t code c : Nat) : XVal := if c = 0xff then .nan else (mxCode t code).mul (mxScale c)

/-- The scale byte of a block. -/
def View.mxByte (v : View) (i : Nat) : Nat := elemAt v.w7 8 (i / 32)

def namedX (o : VX) : List Named := [(0, o.d.toNat), (1, o.a.toNat)]

/-- R321: the import of an MX row. -/
def mxImpWord (o : VX) : LaneWord :=
  { instr := .vcvtmxImp o, p := o.p, g := o.g
    note := vecNote o.d.toNat o.g (fun s c b => min (capOf (s.tag c b o.d.toNat)) (mxCap o.t.toNat)) o.m.toNat
    checks := fun s0 s c b =>
      let td := s.tag c b o.d.toNat
      let ta := s.tag c b o.a.toNat
      [(0, td, isIF td), (1, ta, isR ta)] ++ s.scaleCheck c b true ++ s0.sameTags c b o.g (namedX o)
    refuse := fun _ _ _ _ => overlapIf (o.d == 15)
    plan := fun _ s c b =>
      let t := o.t.toNat
      let td := s.tag c b o.d.toNat
      let same := tagBits td == mxBits t
      let l : Lane := { word := (Instr.vcvtmxImp o).word, d := some o.d.toNat, w := tagBits td
                        same := if same then [o.a.toNat] else []
                        whole := (if same then [] else [o.a.toNat]) ++ [15] }
      let v := s.view c b o.g (min (capOf td) (mxCap t)) td o.m.toNat
      let ba := (s.reg c b o.a.toNat).content o.a.toNat
      let dom : Dom := ⟨td, false, v.rm⟩
      let res := v.elems fun k r =>
        let a := mxValue t (elemAt ba (mxBits t) k) (v.mxByte k)
        let (e, r1) := dom.put 0 [a] a r
        ({ i := k, enc := some e }, r1)
      { ready := l.ready s c b [], lane := l, view := v, es := res.1, fin := { seed := v.seedAfter res.2 } } }

/-- R321. -/
def execVcvtmxImp (o : VX) (s : State) : Res := (mxImpWord o).exec s

/-- R282: emax of a format. -/
def mxEmax (t : Nat) : Int :=
  match t with
  | 0 => 8
  | 1 => 15
  | 2 => 2
  | _ => 0

/-- The largest of values that are not NaN, by magnitude. -/
def maxAbs (xs : List XVal) : XVal := xs.foldl (fun a x => if a.lt x.abs then x.abs else a) (.ofInt 0)

/-- R282: the scale byte of a block with these active values. -/
def mxExport (t : Nat) (xs : List XVal) : Nat :=
  if xs.any (fun x => x.isNan || x.isInf) then 0xff
  else match maxAbs xs with
    | .fin n d _ =>
      if n = 0 then 127 else (max (-127) (min 127 (logFloor n.natAbs d - mxEmax t)) + 127).toNat
    | _ => 0xff

/-- R282: the code of an element of a block with scale byte `c`. -/
def mxEncode (t : Nat) (rm : Rm) (c : Nat) (x : XVal) (r : Rd) : Nat × Rd :=
  let sat := { rm with sat := true }
  if c = 0xff then (0, r)
  else
    let y := x.div (mxScale c)
    match t with
    | 0 => convert 8 sat 0 y r
    | 1 => convert 9 sat 0 y r
    | 2 => roundFloat fmtE2M1 rm.rm y r
    | _ => convertInt 0 sat (y.mul (.ofInt 64)) r

/-- New scale bytes for the blocks of `size` elements that hold an active one. -/
def newScales (v : View) (size count : Nat) (val : Nat → XVal) (f : List XVal → Nat) : List (Nat × Nat) :=
  (List.range count).filterMap fun p =>
    let idx := ((List.range size).map fun j => p * size + j).filter v.active
    if idx = [] then none else some (p, f (idx.map val))

/-- The plan of a word that writes codes and the scale bytes of `w7` (R322, R323): blocks of `size` elements, `cov`
elements covered, the scale of a block's active values and the code of a value under its block's scale. -/
def scaledPlan (l : Lane) (size cov a m : Nat) (g : Bool) (scale : List XVal → Nat)
    (code : Rm → Nat → XVal → Rd → Nat × Rd) (s : State) (c b : Nat) : Plan :=
  let ta := s.tag c b a
  let v := s.view c b g cov ta m
  let ba := (s.reg c b a).content a
  let val := fun k => valueOf ta (elemAt ba (tagBits ta) k) 0
  let w7 := putElems v.w7 8 (newScales v size (cov / size) val scale)
  let res := v.elems fun k r =>
    let (e, r1) := code v.rm (elemAt w7 8 (k / size)) (val k) r
    ({ i := k, enc := some e }, r1)
  { ready := l.ready s c b [15], lane := l, view := v, es := res.1, fin := { seed := v.seedAfter res.2, w7 := some w7 } }

/-- R322: the export of an MX row. -/
def mxExpWord (o : VX) : LaneWord :=
  { instr := .vcvtmxExp o, p := o.p, g := o.g
    note := vecNote o.d.toNat o.g (fun s c b => min (capOf (s.tag c b o.a.toNat)) (mxCap o.t.toNat)) o.m.toNat
    checks := fun s0 s c b =>
      let td := s.tag c b o.d.toNat
      let ta := s.tag c b o.a.toNat
      [(0, td, isR td), (1, ta, isIF ta)] ++ s.scaleCheck c b true ++ s0.sameTags c b o.g (namedX o)
    refuse := fun _ _ _ _ => overlapIf (o.d == 15 || o.a == 15 || o.d == o.a)
    plan := fun _ s c b =>
      let t := o.t.toNat
      let ta := s.tag c b o.a.toNat
      let same := tagBits ta == mxBits t
      let l : Lane := { word := (Instr.vcvtmxExp o).word, d := some o.d.toNat, w := mxBits t
                        same := if same then [o.a.toNat] else [], whole := if same then [] else [o.a.toNat] }
      scaledPlan l 32 (min (capOf ta) (mxCap t)) o.a.toNat o.m.toNat o.g (mxExport t) (mxEncode t) s c b }

/-- R322. -/
def execVcvtmxExp (o : VX) (s : State) : Res := (mxExpWord o).exec s

/-! ## VQUANT (R323) -/

/-- The smallest scale code whose largest value reaches X. -/
def quantScale (xs : List XVal) : Nat :=
  if xs.any (fun x => x.isNan || x.isInf) then 0xff
  else
    let x := maxAbs xs
    ((List.range 255).find? fun c => !((ue5m3 c).mul (.ofInt 6)).lt x).getD 0xfe

/-- R323: quantisation to QS4. -/
def quantWord (o : V2) : LaneWord :=
  { instr := .vquant o, p := o.p, g := o.g
    note := vecNote o.d.toNat o.g (fun s c b => coverage [s.tag c b o.d.toNat, s.tag c b o.a.toNat]) o.m.toNat
    checks := fun s0 s c b =>
      let td := s.tag c b o.d.toNat
      let ta := s.tag c b o.a.toNat
      [(0, td, isQ td), (1, ta, isIF ta)] ++ s.scaleCheck c b true ++ s0.sameTags c b o.g (named2 o)
    refuse := fun _ _ _ _ => overlapIf (o.d == 15 || o.a == 15 || o.d == o.a)
    plan := fun _ s c b =>
      let l : Lane := { word := (Instr.vquant o).word, d := some o.d.toNat, w := 4, whole := [o.a.toNat] }
      scaledPlan l 4 (coverage [s.tag c b o.d.toNat, s.tag c b o.a.toNat]) o.a.toNat o.m.toNat o.g quantScale
        (fun rm sc x r => convert 13 rm sc x r) s c b }

/-- R323. -/
def execVquant (o : V2) (s : State) : Res := (quantWord o).exec s

end Sys2Proof.Machine
end

