-- ==== Sys2Proof/Machine/VRed.lean ====
section
/-! DEFINITION. Reductions, histograms, counts and mask operations (R290, R291, R328 to R335). -/

namespace Sys2Proof.Machine

/-! ## The pairwise tree (R290) -/

/-- One level: nodes 2j and 2j + 1 combined, a last one with the identity. -/
def treeLevel {α : Type} (f : α → α → Rd → α × Rd) (e : α) : List α → Rd → List α × Rd
  | [], r => ([], r)
  | [x], r => let (y, r1) := f x e r; ([y], r1)
  | x :: y :: t, r =>
    let (z, r1) := f x y r
    let (zs, r2) := treeLevel f e t r1
    (z :: zs, r2)

/-- The root over leaves; levels are at most `k`. A single leaf is the root. -/
def treeRoot {α : Type} (f : α → α → Rd → α × Rd) (e : α) : Nat → List α → Rd → α × Rd
  | _, [], r => (e, r)
  | _, [x], r => (x, r)
  | 0, x :: _, r => (x, r)
  | k + 1, l, r =>
    let (l1, r1) := treeLevel f e l r
    treeRoot f e k l1 r1

/-- Levels of a tree over at most 2^21 leaves. -/
def treeDepth : Nat := 22

/-- The leaves: every gang-wide index below n, `none` where inactive. -/
def leaves (s0 : State) (c : Nat) (ms : List Nat) (a m cov w t n : Nat) : List (Option Nat) :=
  let rows := s0.gangRows c ms a
  let masks := s0.gangMasks c ms m
  (List.range n).map fun i => if gangBit masks cov t i then some (gangElem rows cov w i) else none

/-- R290: scale bytes over the members for QS4 leaves. -/
def State.gangScales (s : State) (c : Nat) (ms : List Nat) (cov i : Nat) : Nat :=
  match ms[i / cov]? with
  | some b => elemAt ((s.reg c b 15).content 15) 8 (i % cov / 4)
  | none => 0

/-- What a reduction computes: the permitted tags, what it writes to elements 0 and up from the leaves' codes with their
scales. -/
structure RedOp where
  okd : Nat → Nat → Bool
  oka : Nat → Bool
  values : Bool := true
  f : Dom → Nat → List (Option (Nat × Nat)) → Rd → List Nat × Rd

/-- The leaves of a reduction with the scale bytes of those that have one. -/
def redLeaves (o : V2) (x : RedOp) (s0 s : State) (c b : Nat) : List (Option (Nat × Nat)) :=
  let td := s.tag c b o.d.toNat
  let ta := s.tag c b o.a.toNat
  let ms := s0.members c b o.g
  let cov := coverage [td, ta]
  let n := min (s.hart c b).vl.toNat (cov * ms.length)
  (leaves s0 c ms o.a.toNat o.m.toNat cov (tagBits ta) td n).zipIdx.map fun e =>
    e.1.map fun code => (code, if x.values && isQ ta then s0.gangScales c ms cov e.2 else 0)

/-- The plan of a reduction. -/
def redPlan (i : Instr) (o : V2) (x : RedOp) (s0 s : State) (c b : Nat) : Plan :=
  let a := o.a.toNat
  let td := s.tag c b o.d.toNat
  let ta := s.tag c b a
  let l : Lane := { word := i.word, d := some o.d.toNat, w := tagBits td
                    whole := a :: (if x.values && isQ ta then [15] else [])
                    theirs := othersOf (s0.members c b o.g) b a }
  let v := s.view c b o.g (coverage [td, ta]) td o.m.toNat
  let ls := redLeaves o x s0 s c b
  let (es, r) := x.f ⟨td, intDomain [ta], v.rm⟩ ta ls
    (({ seed := v.seed } : Rd).t2 (if x.values then ls.filterMap fun e => e.map fun y => (ta, y.1) else []))
  { ready := l.ready s c b [] && (s0.members c b o.g).all fun y => s0.canRead c y a
    lane := l, view := v, es := es.zipIdx.map fun e => { i := e.2, enc := some e.1, fl := r.fl }
    fin := { seed := v.seedAfter r.seed }, all := true }

/-- A word of R328. -/
def redWord (i : Instr) (o : V2) (x : RedOp) : LaneWord :=
  { instr := i, p := o.p, g := o.g
    note := vecNote o.d.toNat o.g (fun s c b => coverage [s.tag c b o.d.toNat, s.tag c b o.a.toNat]) o.m.toNat
    checks := fun s0 s c b =>
      let td := s.tag c b o.d.toNat
      let ta := s.tag c b o.a.toNat
      [(0, td, x.okd td ta), (1, ta, x.oka ta)] ++ s.scaleCheck c b (x.values && isQ ta) ++
        s0.sameTags c b o.g (named2 o) ++ s.sameSizes c b (tagBits td) o.g (named2 o)
    refuse := fun _ s c b => overlapIf (o.d == o.a || (x.values && isQ (s.tag c b o.a.toNat) && o.d == 15))
    plan := redPlan i o x }

/-- Leaves as values, the identity where inactive. -/
def leafVals (ta : Nat) (e : XVal) (ls : List (Option (Nat × Nat))) : List XVal :=
  ls.map fun l => match l with
    | some (code, sc) => valueOf ta code sc
    | none => e

/-- R290: SUM: exact for integers; FP32 additions under RNE for floats. -/
def sumOp : RedOp :=
  { okd := fun t _ => isIF t, oka := isIFQT
    f := fun m ta ls r =>
      let xs := leafVals ta (if m.int then .ofInt 0 else .fin 0 1 true) ls
      if m.int then
        let (e, r1) := m.put 0 [] (.ofInt (xs.foldl (fun a x => a + x.int) 0)) r
        ([e], r1)
      else
        let (root, r1) := treeRoot (fun a b r =>
          let (e, r1) := roundRne (a.add false b) r
          (fmtFP32.value e, r1)) (.fin 0 1 true) treeDepth xs r
        let (e, r2) := m.put 0 xs root r1
        ([e], r2) }

/-- R290: MAX and MIN compare exactly. -/
def extremeOp (f : XVal → XVal → XVal) (identity : Nat → XVal) : RedOp :=
  { okd := fun t _ => isIF t, oka := isIFQT
    f := fun m ta ls r =>
      let xs := leafVals ta (identity ta) ls
      let (root, r1) := treeRoot (fun a b r => (f a b, r)) (identity ta) treeDepth xs r
      let (e, r2) := m.put 0 xs root r1
      ([e], r2) }

def maxIdentity (t : Nat) : XVal := if t < 8 then .ofInt (intMin t) else if t = 14 then .ofInt (-1) else .inf true
def minIdentity (t : Nat) : XVal := if t < 8 then .ofInt (intMax t) else if t = 14 then .ofInt 1 else .inf false

/-- R328: a bitwise reduction of encodings. -/
def bitRedOp (f : Nat → Nat → Nat) (ones : Bool) : RedOp :=
  { okd := fun t ta => tagBits t == tagBits ta, oka := fun t => isI t || isR t, values := false
    f := fun m _ ls r =>
      ([ls.foldl (fun a l => match l with
          | some (code, _) => f a code
          | none => a) (if ones then 2 ^ tagBits m.td - 1 else 0)], r) }

/-- R291: SEXP over pairs of FP32 codes. -/
def sexpLeaf (x : XVal) : Nat × Nat :=
  let m := (roundRne x { seed := 0 }).1
  if x = .inf true then (m, 0) else (m, 0x3f800000)

def sexpIdentity : Nat × Nat := (fmtFP32.signed true fmtFP32.infCode, 0)

def sexpOp : RedOp :=
  { okd := fun t _ => t == 12, oka := fun t => isF t || isQ t
    f := fun _ ta ls r =>
      let xs := leafVals ta (.inf true) ls
      let (root, r1) := treeRoot sexpCombine sexpIdentity treeDepth (xs.map sexpLeaf) r
      ([root.1, root.2], (r1.nanIf (nanCode 12 root.1) xs).nanIf (nanCode 12 root.2) xs) }

/-- R328. -/
def execVredSum (o : V2) (s : State) : Res := (redWord (.vredSum o) o (sumOp)).exec s
/-- R328. -/
def execVredMax (o : V2) (s : State) : Res := (redWord (.vredMax o) o (extremeOp XVal.max maxIdentity)).exec s
/-- R328. -/
def execVredMin (o : V2) (s : State) : Res := (redWord (.vredMin o) o (extremeOp XVal.min minIdentity)).exec s
/-- R328. -/
def execVredAnd (o : V2) (s : State) : Res := (redWord (.vredAnd o) o (bitRedOp (· &&& ·) true)).exec s
/-- R328. -/
def execVredOr (o : V2) (s : State) : Res := (redWord (.vredOr o) o (bitRedOp (· ||| ·) false)).exec s
/-- R328. -/
def execVredXor (o : V2) (s : State) : Res := (redWord (.vredXor o) o (bitRedOp (· ^^^ ·) false)).exec s
/-- R328. -/
def execVredSexp (o : V2) (s : State) : Res := (redWord (.vredSexp o) o (sexpOp)).exec s

/-! ## Histograms and counts -/

/-- R329: bins of 32 bits after counting the active elements, in ascending order; the bins that saturated, and the elements
out of range. -/
def histGo (ta ba : Nat) : List Nat → Nat → List Nat × List Nat → Nat × List Nat × List Nat
  | [], bits, r => (bits, r)
  | i :: t, bits, r =>
    let w := tagBits ta
    let code := elemAt ba w i
    let x := if signedTag ta then sval w code else (code : Int)
    if 0 ≤ x ∧ x < 64 then
      let j := 64 * (i * w / 8 / 256) + x.toNat
      let old := elemAt bits 32 j
      if old = 2 ^ 32 - 1 then histGo ta ba t bits (j :: r.1, r.2) else histGo ta ba t (putElem bits 32 j (old + 1)) r
    else histGo ta ba t bits (r.1, i :: r.2)

/-- R199, R329: what the groups of a histogram hold: the bins counted, SAT with the group of a bin that saturated, and OOR
with the group of va that holds the element. DESIGN CHOICE, log 71, unsafe. -/
def histElems (ta old new : Nat) (sat oor : List Nat) : List ElemRes :=
  ((List.range 2048).filterMap fun i =>
    if elemAt old 32 i = elemAt new 32 i ∧ i ∉ sat then none
    else some { i := i, enc := some (elemAt new 32 i), fl := if i ∈ sat then 1#4 else 0#4 }) ++
  (((List.range 32).filter fun g => oor.any fun i => groupOf (tagBits ta) i == g).map fun g =>
    { i := 2 * g, fl := 4#4 })

/-- R329. -/
def histWord (o : V2) : LaneWord :=
  let d := o.d.toNat
  let a := o.a.toNat
  { instr := .vhist o, p := o.p, g := o.g
    note := vecNote d o.g (fun s c b => capOf (s.tag c b a)) o.m.toNat
    checks := fun s0 s c b =>
      let td := s.tag c b d
      [(0, td, td == 5), (1, s.tag c b a, isI (s.tag c b a))] ++ s0.sameTags c b o.g (named2 o) ++
        s.sameSizes c b (tagBits td) o.g (named2 o)
    refuse := fun _ _ _ _ => overlapIf (d == a)
    plan := fun _ s c b =>
      let ta := s.tag c b a
      let l : Lane := { word := (Instr.vhist o).word, d := some d, w := 32, whole := [a] }
      let v := s.view c b o.g (capOf ta) ta o.m.toNat
      let old := ((s.reg c b d).openFor d).bits
      let (new, sat, oor) := histGo ta ((s.reg c b a).content a) ((List.range v.n).filter v.active) old ([], [])
      { ready := l.ready s c b [], lane := l, view := v, es := histElems ta old new sat oor } }

/-- R329. -/
def execVhist (o : V2) (s : State) : Res := (histWord o).exec s

/-- R330: bin `k` of the merged histogram: the saturated sum of the 32 lanes' bins. -/
def mergeBin (ba k : Nat) : ElemRes :=
  let sum := (List.range 32).foldl (fun x j => x + elemAt ba 32 (64 * j + k)) 0
  let (e, r) := satInt 5 sum { seed := 0 }
  { i := k, enc := some e, fl := r.fl }

/-- R330. -/
def mergeWord (o : R2) : LaneWord :=
  let d := o.d.toNat
  let a := o.a.toNat
  { instr := .vhmerge o, p := o.p, g := false
    note := vecNote d false (fun _ _ _ => 2048) 0
    checks := fun _ s c b => [(0, s.tag c b d, s.tag c b d == 5), (1, s.tag c b a, s.tag c b a == 5)]
    refuse := fun _ _ _ _ => overlapIf (d == a)
    plan := fun _ s c b =>
      let l : Lane := { word := (Instr.vhmerge o).word, d := some d, w := 32, whole := [a] }
      { ready := l.ready s c b [], lane := l, view := s.view c b false 2048 5 0
        es := (List.range 64).map (mergeBin ((s.reg c b a).content a)) } }

/-- R330. -/
def execVhmerge (o : R2) (s : State) : Res := (mergeWord o).exec s

/-- min(`vl`, 8192): the mask bits that a mask word acts on (R331, R333). -/
def State.maskLen (s : State) (c b : Nat) : Nat := min (s.hart c b).vl.toNat 8192

/-- R331. -/
def execVfirst (o : VI) (s : State) : Res :=
  Op.exec
    { instr := .vfirst o, p := o.p, touch := true
      act := fun _ s c b =>
        let k := s.bank c b
        let ma := k.mask o.a.toNat &&& k.mask o.m.toNat
        let v := match (List.range (s.maskLen c b)).find? ma.testBit with
          | some i => BitVec.ofNat 64 i
          | none => -1
        .ok (s.setHart c b ((s.hart c b).setG o.d.toNat v)) .next } s

/-- Counts of set bits below each of the given ascending indices. -/
def iotaGo (ma td : Nat) (rm : Rm) : List Nat → Nat → Nat → List ElemRes → List ElemRes × Nat
  | [], _, seed, acc => (acc.reverse, seed)
  | i :: t, n, seed, acc =>
    let (e, r) := convertInt td rm (.ofInt n) { seed := seed }
    iotaGo ma td rm t (n + bnat (ma.testBit i)) r.seed ({ i := i, enc := some e, fl := r.fl } :: acc)

/-- R332. -/
def iotaWord (o : VI) : LaneWord :=
  let d := o.d.toNat
  { instr := .viota o, p := o.p, g := false
    note := vecNote d false (fun s c b => min (capOf (s.tag c b d)) 8192) o.m.toNat
    checks := fun _ s c b => [(0, s.tag c b d, isI (s.tag c b d))]
    refuse := fun _ _ _ _ => none
    plan := fun _ s c b =>
      let td := s.tag c b d
      let l : Lane := { word := (Instr.viota o).word, d := some d, w := tagBits td }
      let v := s.view c b false (min (capOf td) 8192) td o.m.toNat
      { ready := l.ready s c b [], lane := l, view := v
        es := (iotaGo ((s.bank c b).mask o.a.toNat) td v.rm ((List.range v.n).filter v.active) 0 v.seed []).1 } }

/-- R332. -/
def execViota (o : VI) (s : State) : Res := (iotaWord o).exec s

/-! ## Masks (R333 to R335) -/

/-- The low `n` bits of a mask replaced. -/
def lowBits (old new n : Nat) : Nat := old / 2 ^ n * 2 ^ n + new % 2 ^ n

/-- A mask word that reads masks and writes one whole at retirement. -/
def maskOp (i : Instr) (d : BitVec 3) (p : Bool) (amount : State → Nat → Nat → Except Nat Nat)
    (f : Bank → Nat → Nat → Nat) : Op :=
  { instr := i, p := p, touch := true
    act := fun _ s c b =>
      match amount s c b with
      | .error v => .trap s 0x07 (operandDetail v i.word) 0
      | .ok k =>
        let bk := s.bank c b
        let n := s.maskLen c b
        let new := lowBits (bk.mask d.toNat) (f bk n k) n
        .ok ((s.setBank c b (bk.setMask d.toNat new)).traceAdd c b 2 (popBits 8192 new)) .next }

def noShift (_ : State) (_ _ : Nat) : Except Nat Nat := .ok 0

/-- R327, R333: the amount of MSHL and MSHR. -/
def shiftAmount (o : MK) (s : State) (c b : Nat) : Except Nat Nat :=
  if o.f = 1 then .ok (s.greg c b o.k.toNat).toNat
  else if o.k.getLsbD 3 then .error (uval 64 o.k.toInt) else .ok o.k.toNat

/-- R333. -/
def execMand (o : M3) (s : State) : Res :=
  (maskOp (.mand o) o.d o.p noShift fun k _ _ =>
    let a := k.mask o.a.toNat
    let b := k.mask o.b.toNat
    a &&& b).exec s
/-- R333. -/
def execMor (o : M3) (s : State) : Res :=
  (maskOp (.mor o) o.d o.p noShift fun k _ _ =>
    let a := k.mask o.a.toNat
    let b := k.mask o.b.toNat
    a ||| b).exec s
/-- R333. -/
def execMxor (o : M3) (s : State) : Res :=
  (maskOp (.mxor o) o.d o.p noShift fun k _ _ =>
    let a := k.mask o.a.toNat
    let b := k.mask o.b.toNat
    a ^^^ b).exec s
/-- R333. -/
def execMandn (o : M3) (s : State) : Res :=
  (maskOp (.mandn o) o.d o.p noShift fun k _ _ =>
    let a := k.mask o.a.toNat
    let b := k.mask o.b.toNat
    a ^^^ (a &&& b)).exec s
/-- R333. -/
def execMnot (o : M2) (s : State) : Res :=
  (maskOp (.mnot o) o.d o.p noShift fun k _ _ => k.mask o.a.toNat ^^^ (2 ^ 8192 - 1)).exec s
/-- R333: bits move up by k; those moved to L or beyond are lost. -/
def execMshl (o : MK) (s : State) : Res :=
  (maskOp (.mshl o) o.d o.p (shiftAmount o) fun m n k =>
    if n ≤ k then 0 else m.mask o.a.toNat % 2 ^ n * 2 ^ k).exec s
/-- R333. -/
def execMshr (o : MK) (s : State) : Res :=
  (maskOp (.mshr o) o.d o.p (shiftAmount o) fun m n k =>
    if n ≤ k then 0 else m.mask o.a.toNat % 2 ^ n / 2 ^ k).exec s
/-- R333. -/
def execMset (o : M1) (s : State) : Res :=
  (maskOp (.mset o) o.d o.p noShift fun _ n _ => 2 ^ n - 1).exec s
/-- R333. -/
def execMclr (o : M1) (s : State) : Res := (maskOp (.mclr o) o.d o.p noShift fun _ _ _ => 0).exec s

/-- R333. -/
def execMpopc (o : M4) (s : State) : Res :=
  Op.exec
    { instr := .mpopc o, p := o.p, touch := true
      act := fun _ s c b =>
        let n := popBits (s.maskLen c b) ((s.bank c b).mask o.a.toNat)
        .ok (s.setHart c b ((s.hart c b).setG o.d.toNat (BitVec.ofNat 64 n))) .next } s

def isIFR (t : Nat) : Bool := isIF t || isR t

/-- R335: an element is nonzero: a NaN is, ±0 is not, and under RAW the encoding decides. -/
def nonzero (t code : Nat) : Bool := if isF t then !((fmtOf t).value code).isZero else code != 0

/-- R335: mask bits from elements. -/
def fromvWord (o : MV) : LaneWord :=
  let a := o.a.toNat
  { instr := .mfromv o, p := o.p, g := false
    note := vecNote a false (fun s c b => capOf (s.tag c b a)) 0
    checks := fun _ s c b => [(1, s.tag c b a, isIFR (s.tag c b a))]
    refuse := fun _ _ _ _ => none
    plan := fun _ s c b =>
      let ta := s.tag c b a
      let l : Lane := { word := (Instr.mfromv o).word, w := tagBits ta, m := some o.d.toNat, same := [a] }
      let v := s.view c b false (capOf ta) ta 0
      let ba := (s.reg c b a).content a
      { ready := l.ready s c b [], lane := l, view := v
        es := (v.elems fun i r => ({ i := i, mbit := some (i, nonzero ta (elemAt ba (tagBits ta) i)) }, r)).1 } }

/-- R335. -/
def execMfromv (o : MV) (s : State) : Res := (fromvWord o).exec s

/-- R335: the encoding of 1, or all ones under RAW. -/
def oneEnc (t : Nat) : Nat := if t = 15 then 2 ^ 64 - 1 else (smallEnc t 1).getD 0

/-- R335: elements from mask bits. Its values are exact, and under SR it takes no draw, to a float vd either: DESIGN CHOICE, log 96,
unsafe. -/
def tovWord (o : M4) : LaneWord :=
  let d := o.d.toNat
  { instr := .mtov o, p := o.p, g := false
    note := vecNote d false (fun s c b => capOf (s.tag c b d)) 0
    checks := fun _ s c b => [(0, s.tag c b d, isIFR (s.tag c b d))]
    refuse := fun _ _ _ _ => none
    plan := fun _ s c b =>
      let td := s.tag c b d
      let l : Lane := { word := (Instr.mtov o).word, d := some d, w := tagBits td }
      let v := s.view c b false (capOf td) td 0
      let ma := (s.bank c b).mask o.a.toNat
      { ready := l.ready s c b [], lane := l, view := v
        es := (v.elems fun i r => ({ i := i, enc := some (if ma.testBit i then oneEnc td else 0) }, r)).1 } }

/-- R335. -/
def execMtov (o : M4) (s : State) : Res := (tovWord o).exec s

end Sys2Proof.Machine
end

