-- ==== Sys2Proof/Machine/Gather.lean ====
section
/-! DEFINITION. Column gathers and scatters (R256 to R261). -/

namespace Sys2Proof.Machine

/-- A word of major 0x16: data register, base, index register or stride register, mask, G; whether it is indexed. -/
structure GForm where
  d : Nat
  a : Nat
  b : Nat
  m : Nat
  g : Bool
  indexed : Bool
  store : Bool

/-- R257: tags. -/
def GForm.checks (f : GForm) (s0 s : State) (c b : Nat) : List TagCheck :=
  let td := s.tag c b f.d
  let ti := s.tag c b f.b
  let data : TagCheck := (0, td, isIF td || isR td)
  if f.indexed then
    [data, (2, ti, isI ti)] ++ s0.sameTags c b f.g [(0, f.d), (2, f.b)] ++ s.sameSizes c b (tagBits td) f.g [(2, f.b)]
  else data :: s0.sameTags c b f.g [(0, f.d)]

/-- The size in bytes of an element. -/
def GForm.size (f : GForm) (s : State) (c b : Nat) : Nat := tagBits (s.tag c b f.d) / 8

/-- R257: elements covered. -/
def GForm.cov (f : GForm) (s : State) (c b : Nat) : Nat :=
  coverage (s.tag c b f.d :: if f.indexed then [s.tag c b f.b] else [])

/-- R257: the address of element `i`. -/
def GForm.va (f : GForm) (s : State) (c b first i : Nat) : Nat :=
  let base : Int := (s.greg c b f.a).toNat
  if f.indexed then
    let ti := s.tag c b f.b
    let code := elemAt ((s.reg c b f.b).content f.b) (tagBits ti) i
    let k : Int := if signedTag ti then sval (tagBits ti) code else code
    uval 64 (base + k * (f.size s c b : Nat))
  else uval 64 (base + ((first + i : Nat) : Int) * (s.greg c b f.b).toInt)

/-- An active element: its index, its address and where its access goes, or the cause it fails with. -/
structure GElem where
  i : Nat
  va : Nat
  p : Except Cause Place

/-- R257: alignment, then translation with kind COL: a misaligned element that does not translate either raises 0x2B, as R395 has it
for a load. DESIGN CHOICE, log 93, unsafe. -/
def State.colElem (s : State) (c va n : Nat) (store : Bool) : Except Cause Place :=
  if va % n ≠ 0 then .error (0x2b, detail48 va .col 0 store) else s.colAt c false va n (!store) store

/-- The active elements in ascending order. -/
def GForm.elems (f : GForm) (s : State) (c b : Nat) (v : View) : List GElem :=
  ((List.range v.n).filter v.active).map fun i =>
    let va := f.va s c b v.first i
    ⟨i, va, s.colElem c va (f.size s c b) f.store⟩

/-- R371: some element waits for a copy of the hart. -/
def GForm.waits (f : GForm) (s : State) (c b : Nat) (es : List GElem) : Bool :=
  s.tableFull c 1 || es.any fun e => match e.p with
    | .ok p => s.held c b p (f.size s c b) f.store
    | .error _ => false

/-- The first element that fails. -/
def firstFailed : List GElem → Option (GElem × Cause)
  | [] => none
  | e :: es => match e.p with
    | .error x => some (e, x)
    | .ok _ => firstFailed es

/-- The line of a place, and the place's offset in it. -/
def Place.line (p : Place) : Place × Nat :=
  match p with
  | .here pa => (.here (pa / 64 * 64), pa % 64)
  | .remote m pa => (.remote m (pa / 64 * 64), pa % 64)
  | .host bus => (.host (bus / 64 * 64), bus % 64)

/-- R258: the lines of elements that have translated, each with the address of the first element in it. -/
def elemLines (es : List GElem) : List (Place × Nat) :=
  es.foldl (fun acc e => match e.p with
    | .error _ => acc
    | .ok p => if acc.any fun x => x.1 == p.line.1 then acc else acc ++ [(p.line.1, e.va)]) []

/-- What loading lines gives. -/
inductive Fetched
  | got (s : State) (lines : List (Place × Nat))
  | bad (s : State) (x : Cond)
  | failed (s : State) (cause detail : Nat)
  | wait (s : State)

/-- R386, R387: the request of the element at `va` has failed: cause and detail. -/
def State.elemFailed (s : State) (w : Waiter) (va : Nat) : Option Cause :=
  match (s.hostData w).find failKey with
  | some v => if v / 2 ^ 72 = va then some (v % 2 ^ 8, fld v 8 64) else none
  | none => none

/-- The data of the lines of a group. DEDUCED, log 32, safe. -/
def fetchLines (w : Waiter) : List (Place × Nat) → State → List (Place × Nat) → Fetched
  | [], s, acc => .got s acc
  | e :: es, s, acc =>
    match s.elemFailed w e.2 with
    | some (cause, detail) => .failed s cause detail
    | none => match s.load w e.2 e.1 64 with
      | .wait s' => .wait s'
      | .done s' _ (some x) => .bad s' x
      | .done s' v none => fetchLines w es s' ((e.1, v) :: acc)

/-- The elements of a group, from its lines. -/
def elemVals (n : Nat) (lines : List (Place × Nat)) (es : List GElem) : List (Nat × Nat) :=
  es.filterMap fun e => match e.p with
    | .error _ => none
    | .ok p => ((lines.find? fun x => x.1 == p.line.1).map fun x => (e.i, fld x.2 (8 * p.line.2) (8 * n)))

/-- The elements of group `g`. -/
def GForm.mine (f : GForm) (s : State) (c b : Nat) (es : List GElem) (g : Nat) : List GElem :=
  es.filter fun e => groupOf (8 * f.size s c b) e.i == g

/-- R206, R259: the detail of a request's failure: R207's, with WHERE 3, for a line that fails its check. A data cause names no
register and no line: DEDUCED, log 26, unsafe. -/
def gatherDetail (word g cause detail : Nat) : Nat :=
  if cause = 0x40 ∨ cause = 0x41 then lineDetail word 0 0 g 3 else detail

/-- R26, R258, R259: the requests of the next group are made, once they are free, and held from then on: its data come, or it ends
the gather; a walk that waits holds it back (R47). -/
def GForm.request (f : GForm) (s : State) (c b : Nat) (es : List GElem) (g : Nat) (left : List Nat) (op : LaneOp) : HRes :=
  let w : Waiter := .hart c b
  let mine := f.mine s c b es g
  let stop := fun (s : State) (cause detail : Nat) =>
    HRes.work (s.setGather c b []
      { op with asks := 0, fin := { op.fin with trap := some (cause, BitVec.ofNat 64 (gatherDetail op.word g cause detail), g) } })
  match firstFailed mine with
  | some (_, cause, detail) => if cause = walkWait then .trap s cause detail 0 else stop s cause detail
  | none =>
    let lines := elemLines mine
    if op.asks = 0 && !s.requestsFree c lines.length then .wait s
    else match fetchLines w lines s [] with
      | .wait s' => .wait ((s.keepRequest s' w).setPend c b (some (.gather (g :: left) { op with asks := lines.length })))
      | .failed s' cause detail => stop s' cause detail
      | .bad s' x => stop s' x.cause 0
      | .got s' data => .work (s'.setGather c b left { op with
          asks := 0
          todo := op.todo ++ [{ g := g, elems := elemVals (f.size s c b) data mine, req := lines.length }] })

/-- Issues a gather of the given elements: it waits until the requests of its first group are free (R26). -/
def GForm.issue (f : GForm) (s : State) (c b word : Nat) (v : View) (es : List GElem) (fin : AtEnd) : HRes :=
  if !s.requestsFree c (elemLines (f.mine s c b es v.egi)).length then .wait s
  else
    .work ((s.beginWrite c b f.d v.egi).setGather c b ((List.range 32).filter fun g => decide (v.egi ≤ g))
      { word := word, d := some f.d, w := tagBits (s.tag c b f.d), fin := fin })

/-- R260: the elements LDGFF loads and the `vl` it leaves, or the trap of its first active element. -/
def firstFault (es : List GElem) : Except Cause (List GElem × Option Nat) :=
  match firstFailed es with
  | none => .ok (es, none)
  | some (e, x) =>
    if (es.head?.map (·.i)) = some e.i then .error x
    else .ok (es.filter fun y => decide (y.i < e.i), some e.i)

/-- R261: what the elements of a scatter write, as they have translated at issue. -/
def GForm.puts (f : GForm) (s : State) (c b : Nat) (es : List GElem) : List Put :=
  let w := tagBits (s.tag c b f.d)
  let bits := (s.reg c b f.d).content f.d
  es.filterMap fun e => match e.p with
    | .error _ => none
    | .ok p => some { va := e.va, place := p, n := f.size s c b, value := elemAt bits w e.i, group := groupOf w e.i }

/-- R261: of two elements with one address, that of higher index is written. -/
def lastPuts : List Put → List Put
  | [] => []
  | p :: ps => if ps.any fun q => q.place == p.place then lastPuts ps else p :: lastPuts ps

/-- R258: the lines that the writes of group `g` go to. -/
def putLines (g : Nat) (ps : List Put) : List Place :=
  ((ps.filter fun p => p.group == g).map fun p => p.place.line.1).eraseDups

/-- R258: the writes of a scatter, group by group, and in a group line by line. -/
def byLine (ps : List Put) : List Put :=
  (List.range 32).flatMap fun g => (putLines g ps).flatMap fun l => ps.filter fun p => p.group == g && p.place.line.1 == l

/-- R261: a lower-ranked member's scatter of the same word has still to write. -/
def State.lowerPending (s : State) (c b : Nat) (g : Bool) : Bool :=
  (s.members c b g).any fun x =>
    decide (x < b) && match (s.hart c x).pend with | some (.scatter _ _) => true | _ => false

/-- R26, R258, R261: the writes of a scatter go on: those of a group once its requests are free, which it holds until they are
performed. -/
def scatterGo (c b : Nat) : List Put → Nat → State → HRes
  | [], _, s => .work (s.setPend c b (some .done))
  | p :: ps, asks, s =>
    let need := (putLines p.group (p :: ps)).length
    if asks = 0 && !s.requestsFree c need then .wait s
    else
      let a := if asks = 0 then need else asks
      match s.store (.hart c b) none p.va p.place p.n p.value with
      | .wait s' => .wait ((s.keepRequest s' (.hart c b)).setPend c b (some (.scatter (p :: ps) a)))
      | .done s' _ _ =>
        let more := if ps.any fun q => q.group == p.group then a else 0
        scatterGo c b ps more (s'.setPend c b (some (.scatter ps more)))

/-- R261: a scatter in progress; `g` is its G. -/
def scatterPoll (g force : Bool) (s : State) (c b : Nat) (p : Pend) : HRes :=
  match force, p with
  | true, .scatter left asks => if s.lowerPending c b g then .wait s else scatterGo c b left asks s
  | _, _ => .wait s

/-- The elements a gather loads: LDGFF's end before the first that failed, where `vl` is to end (R260). -/
def GForm.loads (f : GForm) (vl : Option Nat) (s : State) (c b : Nat) : List GElem :=
  let es := f.elems s c b (s.view c b f.g (f.cov s c b) (s.tag c b f.d) f.m)
  match vl with
  | some n => es.filter fun e => decide (e.i < n)
  | none => es

/-- A walk that an element waits for. -/
def firstWalk (es : List GElem) : Option Nat :=
  (es.filterMap fun e => match e.p with
    | .error (cause, detail) => if cause = walkWait then some detail else none
    | .ok _ => none).head?

/-- A gather goes on: requests while they are free, then commits, of group `g` if it is given. -/
def GForm.gatherPoll (f : GForm) (pick : Option Nat) (force : Bool) (s : State) (c b : Nat) (p : Pend) : HRes :=
  match force, p with
  | true, .gather left op =>
    let commit := fun (g : Nat) => HRes.work (s.gatherStep c b left op g)
    match pick.bind fun g => op.todo.find? fun x => x.g == g, left, op.todo with
    | some x, _, _ => commit x.g
    | none, g :: rest, todo => match f.request s c b (f.loads op.fin.vl s c b) g rest op, todo with
      | .wait s', [] => .wait s'
      | .wait s', x :: _ => match (s'.hart c b).pend with
        | some (.gather l o) => .work (s'.gatherStep c b l o x.g)
        | _ => commit x.g
      | r, _ => r
    | none, [], x :: _ => commit x.g
    | none, [], [] => .work (s.endLane c b op)
  | _, _ => .wait s

/-- R420, R422: what the ring and the trace note: of LDGFF, the elements that it loads (R260). -/
def GForm.note (f : GForm) (ff : Bool) (s : State) (c b : Nat) : Note :=
  let v := s.view c b f.g (f.cov s c b) (s.tag c b f.d) f.m
  let es := f.elems s c b v
  let loaded := match firstFault es with
    | .ok (l, _) => l
    | .error _ => []
  let vas := (if ff then loaded else es).map (·.va)
  { vl := (s.hart c b).vl.toNat, width := (tagBits (s.tag c b f.d)).log2, active := es.length
    lo := vas.foldl min (vas.headD 0), hi := match vas with | [] => 0 | _ => vas.foldl max 0 + f.size s c b - 1
    first := vas.head? }

/-- LDG, LDGFF and LDS: `ff` limits the elements. -/
def loadOp (i : Instr) (p : Bool) (f : GForm) (ff : Bool) : Op :=
  { instr := i, p := p, lock := f.g, touch := true, poll := f.gatherPoll none, note := f.note ff
    act := fun s0 s c b =>
      let word := i.word
      match firstRefused (f.checks s0 s c b) with
      | some (num, t) => .trap s 0x03 (tagDetail word num t) 0
      | none =>
        let v := s.view c b f.g (f.cov s c b) (s.tag c b f.d) f.m
        if f.indexed && f.d == f.b then .trap s 0x04 0 0
        else if v.out then .ok s .next
        else if (f.indexed && !s.canRead c b f.b) || !s.canWrite c b f.d then .wait s
        else
          let bad := if f.indexed then s.consumeFrom c b [] [f.b] v.egi else none
          match bad with
          | some (g, r, line, x) =>
            match s.consumed c b word r line g 0 x false with
            | .inl s' => .wait s'
            | .inr (s', cause, detail) => .trap s' cause detail g
          | none =>
            let es := f.elems s c b v
            match firstWalk es with
            | some detail => .trap s walkWait detail 0
            | none =>
            if f.waits s c b es then .wait s
            else if ff then
              match firstFault es with
              | .error (cause, detail) => .trap s cause detail 0
              | .ok (es', n) => f.issue s c b word v es' { vl := n }
            else f.issue s c b word v es {} }

/-- STS and STST. -/
def storeOp (i : Instr) (p : Bool) (f : GForm) : Op :=
  { instr := i, p := p, lock := f.g, touch := true, poll := scatterPoll f.g, note := f.note false
    act := fun s0 s c b =>
      let word := i.word
      match firstRefused (f.checks s0 s c b) with
      | some (num, t) => .trap s 0x03 (tagDetail word num t) 0
      | none =>
        let v := s.view c b f.g (f.cov s c b) (s.tag c b f.d) f.m
        if v.out then .ok s .next
        else if (f.indexed && !s.canRead c b f.b) || !s.canRead c b f.d then .wait s
        else
          match firstFailed (f.elems s c b v) with
          | some (_, cause, detail) => .trap s cause detail 0
          | none =>
            if f.waits s c b (f.elems s c b v) ||
                !s.requestsFree c (elemLines (f.mine s c b (f.elems s c b v) 0)).length then .wait s
            else match s.consumeFrom c b [f.d] (if f.indexed then [f.b] else []) 0 with
            | some (g, r, line, x) =>
              match s.consumed c b word r line g 0 x false with
              | .inl s' => .wait s'
              | .inr (s', cause, detail) => .trap s' cause detail 0
            | none => .work (s.setPend c b (some (.scatter (byLine (lastPuts (f.puts s c b (f.elems s c b v)))) 0))) }

/-- The form of a gather. -/
def gatherForm : Instr → Option GForm
  | .ldg o => some ⟨o.d.toNat, o.a.toNat, o.b.toNat, o.m.toNat, o.g, true, false⟩
  | .lds o => some ⟨o.d.toNat, o.a.toNat, o.b.toNat, o.m.toNat, o.g, false, false⟩
  | .ldgff o => some ⟨o.d.toNat, o.a.toNat, o.b.toNat, o.m.toNat, false, true, false⟩
  | _ => none

def gform (o : VC) (indexed store : Bool) : GForm :=
  ⟨o.d.toNat, o.a.toNat, o.b.toNat, o.m.toNat, o.g, indexed, store⟩

/-- R256 to R259. -/
def execLdg (o : VC) (s : State) : Res := (loadOp (.ldg o) o.p (gform o true false) false).exec s

/-- R260. -/
def execLdgff (o : VF) (s : State) : Res :=
  (loadOp (.ldgff o) o.p ⟨o.d.toNat, o.a.toNat, o.b.toNat, o.m.toNat, false, true, false⟩ true).exec s

/-- R261. -/
def execSts (o : VC) (s : State) : Res := (storeOp (.sts o) o.p (gform o true true)).exec s

/-- R256 to R259. -/
def execLds (o : VC) (s : State) : Res := (loadOp (.lds o) o.p (gform o false false) false).exec s

/-- R261. -/
def execStst (o : VC) (s : State) : Res := (storeOp (.stst o) o.p (gform o false true)).exec s

end Sys2Proof.Machine
end

