-- ==== Sys2Proof/Machine/Xfer.lean ====
section
/-! DEFINITION. Copies between modules (R262 to R265). -/

namespace Sys2Proof.Machine

/-! ## Lines of a copy -/

/-- A line to read: its data, the cause of its failure if it fails, and whether it is delivered POISON; or it waits. -/
inductive XRead
  | got (s : State) (bits : Nat) (fail : Option Nat) (poison : Bool)
  | wait (s : State)
deriving DecidableEq, Repr, Inhabited

/-- What a copy makes of a line's condition (R263): a line that fails its check in transit is its failure. -/
def xferFail (x : Option Cond) : Option Nat :=
  match x with
  | some .ue => some 0x40
  | some .e2eBad => some 0x41
  | _ => none

/-- What a load of a line gives a copy. -/
def XRead.of (a : Acc) : XRead :=
  match a with
  | .wait s => .wait s
  | .done s v x => .got s v (xferFail x) x.isSome

/-- R102, R263: a line of this module's memory that a copy touches is charged to FABRIC; `none` while its budget is spent
(R104). -/
def State.fabricFor (s : State) (pa : Nat) : Option State :=
  if s.affordsAt pa .fabric 1 then some (s.chargeAt pa .fabric 1) else none

/-- R90: the copy's request for a line of host memory may be sent. -/
def State.xferAllows (s : State) (c bus : Nat) (write : Bool) : Bool := s.dmaAllows (s.fnOf c) bus 64 write

/-- R263: reads a line of the source. A line of host memory is read by one request (R369), which a window must hold as it is sent
(R90); one that none holds fails as 0x23 (DEDUCED, log 28, unsafe). -/
def State.xferRead (s : State) (c b n : Nat) (p : Nat × Nat) : XRead :=
  let w : Waiter := .copy c b n
  let got := s.hostData w
  match got.find failKey with
  | some cause => .got (s.setHostData w []) 0 (some cause) true
  | none =>
    if p.1 = 65 then .of ((s.fabricFor p.2).elim (.wait s) fun t => t.readHere w 0 p.2 64)
    else if p.1 = 64 then
      if got = [] && (s.reqOf w).isNone && !s.xferAllows c p.2 false then .got s 0 (some 0x23) true
      else .of (s.load w 0 (.host p.2) 64)
    else .of (s.load w 0 (.remote p.1 p.2) 64)

/-- A whole line written with POISON as given, at this module (R417). -/
def State.putLine (s : State) (pa bits : Nat) (poison : Bool) : State :=
  let s1 := (s.dropShared (lineOf pa)).writeHere none pa 64 bits
  if poison then s1.setSide (lineOf pa) { s1.sideOf (lineOf pa) with poison := true } else s1

/-- R263, R385: writes a line of the destination, unless it waits. A line of another module is written once this module's MSC
owns it; a line goes to the host with the mark of a poisoned write where it is POISON (R66, R84), unless no window holds it (R90). -/
def State.xferWrite (s : State) (c b n : Nat) (p : Nat × Nat) (bits : Nat) (poison : Bool) : State × Bool :=
  let w : Waiter := .copy c b n
  if p.1 = 65 then
    if s.busHeld w || s.asleep p.2 || s.sensing p.2 || s.rowTested p.2 then ((s.accessWait w p.2).touchPage p.2, false)
    else match s.ownHere w 0 p.2 with
      | some s' => (s', false)
      | none => match s.fabricFor p.2 with
        | none => (s, false)
        | some s' => (s'.putLine p.2 bits poison, true)
  else if p.1 = 64 then
    (if s.xferAllows c p.2 true then (s.send (.hostWrite p.2 64 bits poison)).setPosted w true else s, true)
  else match s.store w none 0 (.remote p.1 p.2) 64 bits with
    | .wait s' => (s', false)
    | .done s' _ _ =>
      let key := rkey p.1 p.2
      (match s'.rlines.find key with
        | some l => { s' with rlines := s'.rlines.put key { l with poison := poison } }
        | none => s', true)

/-! ## The copy -/

def Hart.slot (h : Hart) (n : Nat) : XSlot := h.slots.get n {}
def State.slot (s : State) (c b n : Nat) : XSlot := (s.hart c b).slot n
def State.setSlot (s : State) (c b n : Nat) (x : XSlot) : State :=
  s.setHart c b { s.hart c b with slots := (s.hart c b).slots.put n x }

/-- A failure of the line at the slot's position is recorded, if it is the copy's first (R263, R264). -/
def XSlot.note (x : XSlot) (fail : Option Nat) : XSlot :=
  match fail with
  | some cause => if x.cause = 0 then { x with cause := BitVec.ofNat 8 cause, unit := BitVec.ofNat 8 (x.pos / 128) } else x
  | none => x

/-- R264, R390: the copy ends once its writes are performed at system scope: those to the host by a zero-length read. -/
def State.xferEnd (s : State) (c b n : Nat) : State :=
  let w : Waiter := .copy c b n
  let idle := fun (t : State) (y : XSlot) =>
    t.setSlot c b n { y with busy := false, src := [], dst := [], pos := 0, posted := false, asked := none, got := [] }
  let x := s.slot c b n
  match x.got.find failKey with
  | some cause => idle s ({ x with pos := x.pos - 1 }.note (some cause))
  | none => match s.hostSettled true w 0 with
    | .wait s' => s.keepRequest s' w
    | .done s' _ _ => idle s' (s'.slot c b n)

/-- R263: the line at the slot's position is copied, unless it waits. DEDUCED, log 28, unsafe. -/
def State.xferLine (s : State) (c b n : Nat) : State × Bool :=
  let x := s.slot c b n
  let off := x.pos % 128 * 64
  match x.src[x.pos / 128]?, x.dst[x.pos / 128]? with
  | some p, some q =>
    match s.xferRead c b n (p.1, p.2 + off) with
    | .wait s1 => (s.keepRequest s1 (.copy c b n), false)
    | .got s1 bits fail poison =>
      let refused := q.1 = 64 && !s1.xferAllows c (q.2 + off) true
      match s1.xferWrite c b n (q.1, q.2 + off) bits poison with
      | (s2, false) => (s.keepRequest s2 (.copy c b n), false)
      | (s2, true) =>
        let y := ((s2.slot c b n).note fail).note (if refused then some 0x23 else none)
        (s2.setSlot c b n { y with pos := x.pos + 1, asked := none }, true)
  | _, _ => (s.xferEnd c b n, false)

/-- The copy goes on for at most `fuel` lines. -/
def State.xferRun : Nat → Nat → Nat → Nat → State → State
  | 0, _, _, _, s => s
  | fuel + 1, c, b, n, s =>
    match s.xferLine c b n with
    | (s', true) => State.xferRun fuel c b n s'
    | (s', false) => s'

/-- A busy slot's copy goes on as far as it can. -/
def State.xferGo (s : State) (c b n : Nat) : State :=
  let x := s.slot c b n
  if x.busy then State.xferRun (x.src.length * 128 + 1) c b n s else s

/-- Every copy of the hart goes on as far as it can. -/
def State.xferAll (s : State) (c b : Nat) : State := [0, 1, 2, 3].foldl (fun t n => t.xferGo c b n) s

/-! ## The instructions -/

/-- R90, R263: a unit of a copy: of host memory, windows hold each of its lines. -/
def State.colUnit (s : State) (c va : Nat) (write : Bool) : Except Cause Place :=
  match s.translateOn c false va .col (!write) write with
  | .error e => .error e
  | .ok l =>
    match l.place s with
    | .host bus =>
      if (List.range 128).all fun n => s.xferAllows c (bus + 64 * n) write then .ok (.host bus)
      else .error (0x23, detail48 va .col 0 write)
    | p => .ok p

/-- R263: the units of a copy, or the first cause. -/
def State.xferUnits (s : State) (c va vb : Nat) : Nat → Except Cause (List (Nat × Nat) × List (Nat × Nat))
  | 0 => .ok ([], [])
  | n + 1 =>
    match s.colUnit c va false with
    | .error e => .error e
    | .ok p => match s.colUnit c vb true with
      | .error e => .error e
      | .ok q => match s.xferUnits c ((va + 8192) % 2 ^ 64) ((vb + 8192) % 2 ^ 64) n with
        | .error e => .error e
        | .ok (ps, qs) => .ok (p.code :: ps, q.code :: qs)

/-- R263. -/
def execXfer (o : XF) (s : State) : Res :=
  Op.exec
    { instr := .xfer o, p := o.p
      note := fun s c b =>
        let va := (s.greg c b o.a.toNat).toNat
        { vl := (s.hart c b).vl.toNat, lo := va, hi := va + 8192 * (o.n.toNat + 1) - 1, first := some va }
      act := fun _ s c b =>
        let va := (s.greg c b o.a.toNat).toNat
        let vb := (s.greg c b o.b.toNat).toNat
        let word := (Instr.xfer o).word
        if va % 8192 ≠ 0 then .trap s 0x07 (operandDetail va word) 0
        else if vb % 8192 ≠ 0 then .trap s 0x07 (operandDetail vb word) 0
        else match s.xferUnits c va vb (o.n.toNat + 1) with
          | .error (cause, detail) => .trap s cause detail 0
          | .ok (ps, qs) =>
            let n := o.s.toNat
            let x := s.slot c b n
            let held := fun (w : Bool) (u : Nat × Nat) => (s.hart c b).slots.any fun e =>
              e.2.busy && (e.2.dst.any (unitMeets u 8192) || (w && e.2.src.any (unitMeets u 8192)))
            if x.busy || ps.any (held false) || qs.any (held true) || s.tableFull c 2 then
              .wait (if s.stepwise then s else s.xferAll c b)
            else
              let s1 := s.setSlot c b n { x with busy := true, src := ps, dst := qs, pos := 0, posted := false, asked := none }
              .ok (if s.stepwise then s1 else s1.xferGo c b n) .next } s

/-- R264. -/
def execXwait (o : XW) (s : State) : Res :=
  Op.exec
    { instr := .xwait o, p := o.p
      act := fun _ s0 c b =>
        let n := o.s.toNat
        let s := if s0.stepwise then s0 else s0.xferGo c b n
        let x := s.slot c b n
        if x.busy then .wait s
        else
          let h := s.hart c b
          let v := BitVec.ofNat 64 (x.cause.toNat + (if x.cause = 0 then 0 else x.unit.toNat * 2 ^ 8))
          .ok (s.setHart c b ({ h with slots := h.slots.put n {} }.setG o.d.toNat v)) .next } s

/-- XFER_COMPLETE (R263, R265): a copy in progress goes on to its end, or to a line that waits. -/
def execXferComplete (core bank slot : Nat) (s : State) : Res := .next (s.xferGo core bank slot)

end Sys2Proof.Machine
end

