-- ==== Sys2Proof/Machine/Ternary.lean ====
section
/-! DEFINITION. Ternary dot products and the stuck-cell map (R266 to R269). -/

namespace Sys2Proof.Machine

/-- R267: the value of a ternary code; code 10 reads as 0 and sets INEXACT. -/
def ternary (code : Nat) : Int :=
  match code with
  | 1 => 1
  | 3 => -1
  | _ => 0

/-- R267: the exact dot product of 1024 weights from weight `1024 * j` of a latch with the elements of `wa` from
`1024 * k`, and whether a code 10 was read. -/
def ternaryDot (latch wa j k : Nat) : Int × Bool :=
  let ws := latch >>> (2048 * j) % 2 ^ 2048
  let xs := wa >>> (8192 * k) % 2 ^ 8192
  (List.range 1024).foldl (fun a i =>
    let code := ws >>> (2 * i) % 4
    (a.1 + ternary code * sval 8 (xs >>> (8 * i)), a.2 || code == 2)) (0, false)

/-- Element `j` of the destination (R267): the saturated sum and its flags. -/
def tdotElem (latches : List (Nat × Nat)) (wa wd j : Nat) : ElemRes :=
  let r := latches.foldl (fun a e => let d := ternaryDot e.2 wa j e.1; (a.1 + d.1, a.2 || d.2)) ((0 : Int), false)
  let (code, rd) := satInt 4 (sval 32 (elemAt wd 32 j) + r.1) { seed := 0 }
  { i := j, enc := some code, fl := (rd.inexactIf r.2).fl }

/-- The latches that a selector names, in ascending order. -/
def selected (v : Nat) : List Nat := (List.range 8).filter fun k => v.testBit k

/-- TDOT and TDOTM: the latches of `sel`, and the operand number of each. -/
def tdotWord (i : Instr) (p : Bool) (d a : Nat) (numA numV : Nat) (sel : State → Nat → Nat → Nat) : LaneWord :=
  { instr := i, p := p, g := false
    note := fun s c b => { vl := (s.hart c b).vl.toNat, width := 5, active := 32 }
    checks := fun _ s c b =>
      [(0, s.tag c b d, s.tag c b d == 4), (numA, s.tag c b a, s.tag c b a == 0)] ++
        (selected (sel s c b)).map fun k => (numV, s.tag c b k, s.tag c b k == 14)
    refuse := fun _ s c b =>
      let v := sel s c b
      if 2 ^ 8 ≤ v ∨ v % 2 ^ 8 = 0 then some (0x07, operandDetail v i.word) else overlapIf (d == a)
    plan := fun s0 s c b =>
      let ks := selected (sel s c b)
      let l : Lane := { word := i.word, d := some d, w := 32, same := [d], whole := ks ++ [a] }
      let rows := ks.map fun k => (k, (s.reg c b k).content k)
      { ready := l.ready s c b []
        late := if ks.any fun k => (s.reg c b k).latch == .closed || (s.reg c b k).row == none then some (0x21, 0)
          else none
        lane := l
        view := { s.view c b false 32 4 0 with n := 32, first := 0, mask := (s.bank c b).mask 0 }
        es := (List.range 32).map fun j => tdotElem rows ((s0.reg c b a).content a) ((s0.reg c b d).content d) j } }

/-- R267. -/
def execTdot (o : TD) (s : State) : Res :=
  (tdotWord (.tdot o) o.p (8 + o.d.toNat) (8 + o.a.toNat) 2 1 fun _ _ _ => 2 ^ o.k.toNat).exec s

/-- R267. -/
def execTdotm (o : TM) (s : State) : Res :=
  (tdotWord (.tdotm o) o.p (8 + o.d.toNat) (8 + o.a.toNat) 1 2 fun s c b => (s.greg c b o.s.toNat).toNat).exec s

/-- The number of a stuck cell: its row in the SAG and its bit in the row (R268). -/
def cellNo (row bitNo : Nat) : Nat := row * 65536 + bitNo

/-- R268: bit w is 1 where weight w of row `row` has a cell in the map. -/
def stuckBitmap (stuck : List Nat) (row : Nat) : Nat :=
  stuck.foldl (fun a n => if n / 65536 = row then a ||| 2 ^ (n % 65536 / 2) else a) 0

/-- The PA of the row that latch `k` is open on, if it is. -/
def State.openRow (s : State) (c b k : Nat) : Option Nat :=
  if (s.reg c b k).latch = .closed then none else (s.reg c b k).row

/-- R268: the number of weights of row `row` with a cell in the map. -/
def stuckCount (stuck : List Nat) (row : Nat) : Nat :=
  ((stuck.filter fun n => n / 65536 == row).map fun n => n % 65536 / 2).eraseDups.length

/-- R268. -/
def stuckWord (o : TS) : LaneWord :=
  let k := o.k.toNat
  let d := 8 + o.d.toNat
  { instr := .tstk o, p := o.p, g := false
    note := fun s c b => { vl := (s.hart c b).vl.toNat, width := 6, active := 1024 }
    checks := fun _ _ _ _ => []
    refuse := fun _ _ _ _ => none
    plan := fun _ s c b =>
      let l : Lane := { word := (Instr.tstk o).word, d := some d, w := 64, whole := [] }
      let stuck := ((s.bank c b).sag k).stuck
      let row := paRow ((s.openRow c b k).getD 0)
      { ready := l.ready s c b [] && s.canRead c b k
        late := if (s.openRow c b k).isNone then some (0x21, 0) else none
        retag := some d
        lane := l
        view := { s.view c b false 1024 15 0 with n := 1024 }
        es := (List.range 1024).map fun i => { i := i, enc := some (elemAt (stuckBitmap stuck row) 64 i) }
        fin := { gd := some (o.r.toNat, BitVec.ofNat 64 (stuckCount stuck row)) } } }

/-- R268. -/
def execTstk (o : TS) (s : State) : Res := (stuckWord o).exec s

end Sys2Proof.Machine
end

