-- ==== Sys2Proof/Machine/Matrix.lean ====
section
/-! DEFINITION. Matrix mode, tile claims and the words that command the matrix engine (R336 to R356). -/

namespace Sys2Proof.Machine

/-! ## Matrix mode (R337, R338) -/

/-- R338. -/
def execMmode (o : R1) (s : State) : Res :=
  Op.exec
    { instr := .mmode o, p := o.p
      act := fun _ s c b =>
        let h := s.hart c b
        let v := (h.greg o.r.toNat).toNat
        if v = 0 ∨ 256 < v then .trap s 0x07 (operandDetail v (Instr.mmode o).word) 0
        else .ok (s.setHart c b { h with mmode := true, ml := v }) .next } s

/-- R338. -/
def execMmodeOff (o : P0) (s : State) : Res :=
  Op.exec
    { instr := .mmodeOff o, p := o.p
      act := fun _ s c b =>
        if s.engineBusy c b then .wait s
        else .ok (s.setHart c b { s.hart c b with mmode := false, ml := 0 }) .next } s

/-- R338. -/
def execMmodeRd (o : R1) (s : State) : Res :=
  Op.exec
    { instr := .mmodeRd o, p := o.p
      act := fun _ s c b =>
        let h := s.hart c b
        .ok (s.setHart c b (h.setG o.r.toNat (BitVec.ofNat 64 h.ml))) .next } s

/-! ## Claims (R342, R343) -/

/-- R342: the detail of `0x0E TILE_CLAIM`. -/
def claimDetail (t : Tile) (word : Nat) : Nat := bnat t.owner.isSome * 2 ^ 37 + t.owner.getD 0 * 2 ^ 32 + word

/-- R342: a claim. -/
def execMtile (o : XQ) (s : State) : Res :=
  Op.exec
    { instr := .mtile o, p := o.p
      act := fun _ s c b =>
        let t := s.tile c o.q.toNat
        match t.owner with
        | none => .ok (s.setTile c o.q.toNat { t with owner := some b }) .next
        | some x => if x = b then .ok s .next else .trap s 0x0e (claimDetail t (Instr.mtile o).word) 0 } s

/-- R342: a release. -/
def execMtileRel (o : XQ) (s : State) : Res :=
  Op.exec
    { instr := .mtileRel o, p := o.p
      act := fun _ s c b =>
        let t := s.tile c o.q.toNat
        if t.owner ≠ some b then .trap s 0x0e (claimDetail t (Instr.mtileRel o).word) 0
        else if (s.core c).engine.any fun e => e.bank == b && engTile e.instr == o.q.toNat then .wait s
        else .ok (s.setTile c o.q.toNat { t with owner := none, failed := false }) .next } s

/-! ## Words of the engine -/

/-- How a word of the engine goes on. -/
def enginePoll (force : Bool) (s : State) (c b : Nat) (p : Pend) : HRes :=
  match force, p with
  | true, .engine => .work (s.engineWhole c)
  | true, .lane op => .work (s.laneCycle c b op true)
  | _, _ => .wait s

/-- R350: an operation enters the queue. -/
def State.enqueue (s : State) (c b : Nat) (i : Instr) : State :=
  let h := s.hart c b
  let op : EngOp := { bank := b, instr := i, ml := h.ml, rmode := h.rmode }
  (s.setCore c { s.core c with engine := (s.core c).engine ++ [op] }).setPend c b (some .engine)

/-- The conditions of R339 before a word's own: matrix mode, then the claim. -/
def State.engineCause (s : State) (c b q word : Nat) : Option Cause :=
  if !(s.hart c b).mmode then some (0x0f, word)
  else if (s.tile c q).owner ≠ some b then some (0x0e, claimDetail (s.tile c q) word)
  else none

/-- A word of the engine: its tag checks, its own conditions, whether its operands are ready, what it does as it enters the
queue, and the register of which the ring notes the element width. One that names no register touches no bank (R408). -/
def engineOp (i : Instr) (p : Bool) (checks : State → Nat → Nat → List TagCheck)
    (own : State → Nat → Nat → Option Cause) (ready : State → Nat → Nat → Bool)
    (late : State → Nat → Nat → Option Cause) (start : State → Nat → Nat → State) (r : Option Nat) : Op :=
  { instr := i, p := p, touch := r.isSome, poll := enginePoll
    note := fun s c b =>
      { vl := (s.hart c b).vl.toNat, width := (r.map fun x => (tagBits (s.tag c b x)).log2).getD 0 }
    act := fun _ s c b =>
      match firstRefused (checks s c b) with
      | some (num, t) => .trap s 0x03 (tagDetail i.word num t) 0
      | none =>
        match s.engineCause c b (engTile i) i.word with
        | some (cause, detail) => .trap s cause detail 0
        | none =>
          match own s c b with
          | some (cause, detail) => .trap s cause detail 0
          | none =>
            if !ready s c b then .wait s
            else match late s c b with
            | some (cause, detail) => .trap s cause detail 0
            | none => .work ((start s c b).enqueue c b i) }

def noCause (_ : State) (_ _ : Nat) : Option Cause := none

/-- The tag that stands for a tile's format (R344). -/
def Tile.fmtTag (t : Tile) : Nat := if t.si32 then 4 else 12

/-- R344: the tags of MOP and MOPS. DEDUCED, log 35, unsafe. -/
def mopChecks (q a b' : Nat) (s : State) (c b : Nat) : List TagCheck :=
  let ta := s.tag c b a
  match mopRow ta with
  | none => [(1, ta, false)]
  | some (tbs, fmt, _) =>
    let t := s.tile c q
    [(0, t.fmtTag, t.fmtTag == fmt), (1, ta, true), (2, s.tag c b b', tbs.contains (s.tag c b b'))] ++
      s.scaleCheck c b (ta == 13)

/-- R345, R347: the limits on K. -/
def kLimit (a b' : Nat) (n : Option Nat) (word : Nat) (s : State) (c b : Nat) : Option Cause :=
  let k := (s.hart c b).ml
  let ca := capOf (s.tag c b a)
  let cb := capOf (s.tag c b b')
  let bad := match n with
    | none => decide (min ca cb / 64 < k)
    | some n => k % 48 != 0 || decide (cb / 64 < k) || decide (ca / 64 < k / 48 * n)
  if bad then some (0x07, operandDetail k word) else none

/-- R347: the first group whose bitmap breaks its rule. -/
def badBitmap (x n groups : Nat) : Option Nat :=
  (List.range groups).find? fun p => decide (2 ^ 48 ≤ bitmapOf x p) || keptBefore (bitmapOf x p) 48 != n

/-- R344 to R346. -/
def execMop (o : X3) (s : State) : Res :=
  let i : Instr := .mop o
  let a := o.a.toNat
  let b' := o.b.toNat
  (engineOp i o.p (mopChecks o.q.toNat a b') (kLimit a b' none i.word)
    (fun s c b => ([a, b'] ++ if s.tag c b a = 13 then [15] else []).all fun r => s.canRead c b r)
    noCause (fun s _ _ => s) (some a)).exec s

/-- R347, R348. -/
def execMops (o : XS) (s : State) : Res :=
  let i : Instr := .mops o
  let a := o.a.toNat
  let b' := o.b.toNat
  let x := o.x.toNat
  let n := if o.n then 24 else 16
  (engineOp i o.p (mopChecks o.q.toNat a b') (kLimit a b' (some n) i.word)
    (fun s c b => ([a, b', x] ++ if s.tag c b a = 13 then [15] else []).all fun r => s.canRead c b r)
    (fun s c b => (badBitmap ((s.reg c b x).content x) n ((s.hart c b).ml / 48)).map fun p => (0x07, operandDetail p i.word))
    (fun s _ _ => s) (some a)).exec s

/-- R353. -/
def execMzero (o : XZ) (s : State) : Res :=
  (engineOp (.mzero o) o.p (fun _ _ _ => []) noCause (fun _ _ _ => true) noCause (fun s _ _ => s) none).exec s

/-- R354: the tags of MLDACC. -/
def loadTags (a : Nat) (s : State) (c b : Nat) : List TagCheck :=
  let t := s.tag c b a
  [(1, t, [8, 9, 10, 11, 0, 1, 2, 3].contains t)]

/-- R354. -/
def execMldacc (o : XL) (s : State) : Res :=
  let a := o.a.toNat
  (engineOp (.mldacc o) o.p (loadTags a) noCause (fun s c b => s.canRead c b a) noCause (fun s _ _ => s) (some a)).exec s

/-- R354, WIDE. -/
def execMldaccW (o : X3) (s : State) : Res :=
  let a := o.a.toNat
  let b' := o.b.toNat
  (engineOp (.mldaccW o) o.p
    (fun s c b => let t := s.tag c b a; [(1, t, t == 12 || t == 4), (2, s.tag c b b', s.tag c b b' == t)])
    noCause (fun s c b => s.canRead c b a && s.canRead c b b') noCause (fun s _ _ => s) (some a)).exec s

/-- R193, R355: the destinations of a drain are opened at its issue. -/
def State.openDrain (s : State) (c b : Nat) (ds : List Nat) : State :=
  ds.foldl (fun t d => t.beginWrite c b d (t.hart c b).egi.toNat) s

/-- R355. -/
def execMdrain (o : XD) (s : State) : Res :=
  let d := o.d.toNat
  (engineOp (.mdrain o) o.p
    (fun s c b => let t := s.tag c b d; [(1, t, [0, 1, 2, 3, 8, 9, 10, 11].contains t)])
    noCause (fun s c b => s.canWrite c b d) noCause (fun s c b => s.openDrain c b [d]) d).exec s

/-- R355, WIDE. -/
def execMdrainW (o : XDW) (s : State) : Res :=
  let d := o.d.toNat
  let e := o.e.toNat
  (engineOp (.mdrainW o) o.p
    (fun s c b => let t := s.tag c b d; [(1, t, t == 4 || t == 5 || t == 12), (2, s.tag c b e, s.tag c b e == t)])
    (fun _ _ _ => if d = e then some (0x04, 0) else none)
    (fun s c b => s.canWrite c b d && s.canWrite c b e) noCause (fun s c b => s.openDrain c b [d, e]) d).exec s

/-! ## Events of the engine -/

/-- ENGINE_TAKE_UP (R350). -/
def execEngineTakeUp (core : Nat) (s : State) : Res := .next (s.engineTake core)

/-- ENGINE_OP_COMPLETE (R202, R346): whether the sampled check agrees, and whether it agrees after a repeat. -/
def execEngineOpComplete (core : Nat) (agree again : Bool) (s : State) : Res := .next (s.engineEnd core agree again)

end Sys2Proof.Machine
end

