-- ==== Sys2Proof/Machine/Red.lean ====
section
/-! DEFINITION. RED: the combination of one value of each participant up the fixed tree (R361 to R366). -/

namespace Sys2Proof.Machine

/-! ## Values and nodes (R364, R365) -/

/-- A node's value: a 64-bit value, or an FP32 code; and s under SEXP. -/
abbrev RedVal := Nat × Nat

/-- TYPE of a descriptor: 0 SI64, 1 UI64, 2 FP32. -/
def redType (desc : Nat) : Nat := fld desc 40 2
def redChan (desc : Nat) : Nat := fld desc 32 8
def redBanks (desc : Nat) : Nat := fld desc 0 32

/-- The identities of R290. -/
def redIdentity (op ty : Nat) : RedVal :=
  let ninf := fmtFP32.signed true fmtFP32.infCode
  match op with
  | 0 => (if ty = 2 then fmtFP32.signed true 0 else 0, 0)
  | 1 => (if ty = 2 then ninf else if ty = 0 then 2 ^ 63 else 0, 0)
  | 2 => (if ty = 2 then fmtFP32.infCode else if ty = 0 then 2 ^ 63 - 1 else 2 ^ 64 - 1, 0)
  | 3 => (2 ^ 64 - 1, 0)
  | 6 => (ninf, 0)
  | _ => (0, 0)

/-- R365, R366: a node of FP32 values; NANP where a NaN arises from operands that are none. -/
def redFloat (f : XVal → XVal → XVal) (a b : RedVal) (r : Rd) : RedVal × Rd :=
  let x := fmtFP32.value a.1
  let y := fmtFP32.value b.1
  let (e, r1) := roundRne (f x y) r
  ((e, 0), r1.nanIf (nanCode 12 e) [x, y])

/-- R365: a node. -/
def redNode (op ty : Nat) (a b : RedVal) (r : Rd) : RedVal × Rd :=
  if op = 6 then
    let (p, r1) := sexpCombine a b r
    let v := fmtFP32.value
    (p, r1.nanIf (nanCode 12 p.1 || nanCode 12 p.2) [v a.1, v a.2, v b.1, v b.2])
  else if ty = 2 then
    match op with
    | 0 => redFloat (fun x y => x.add false y) a b r
    | 1 => redFloat XVal.max a b r
    | _ => redFloat XVal.min a b r
  else
    let less := fun (x y : Nat) => if ty = 0 then decide (sval 64 x < sval 64 y) else decide (x < y)
    let v := match op with
      | 0 => (a.1 + b.1) % 2 ^ 64
      | 1 => if less a.1 b.1 then b.1 else a.1
      | 2 => if less b.1 a.1 then b.1 else a.1
      | 3 => a.1 &&& b.1
      | 4 => a.1 ||| b.1
      | _ => a.1 ^^^ b.1
    ((v, 0), r)

/-! ## Instances (R363) -/

/-- The core set of the task that runs on a core. -/
def State.coreSet (s : State) (c : Nat) : List Nat :=
  match (s.core c).task with
  | none => [c]
  | some n => match s.sched.tasks.find? (fun (t : Task) => t.num == n) with
    | some t => t.cores
    | none => [c]

/-- The cores a scope covers: 2 is `stack`. -/
def State.redCores (s : State) (c scope : Nat) : List Nat :=
  if scope = 2 then (s.coreSet c).filter fun x => x / 128 == c / 128 else [c]

/-- The channel's place in a core's table: gangs, core channels and stack channels apart. -/
def redKey (scope chan gang : Nat) : Nat := if scope = 0 then 1024 + gang else if scope = 1 then chan else 256 + chan

/-- The parts that have joined an instance. -/
def State.redParts (s : State) (c scope key inst : Nat) : List RedPart :=
  (s.redCores c scope).flatMap fun x => ((s.core x).reds.get key []).filter fun p => p.inst == inst

/-- The participants: those of the lockstep word, or the union of the harts that the parts name. -/
def State.redMembers (s : State) (c scope key : Nat) (parts : List RedPart) : List (Nat × Nat) :=
  if scope = 0 then
    match s.running c (key - 1024) with
    | some r => r.parts.map fun b => (c, b)
    | none => []
  else
    let banks := parts.foldl (fun a p => a ||| redBanks p.desc.toNat) 0
    (s.redCores c scope).flatMap fun x => ((List.range 32).filter fun b => banks.testBit b).map fun b => (x, b)

/-- R364: the root of a core's five levels. -/
def coreRoot (op ty c : Nat) (parts : List RedPart) (r : Rd) : RedVal × Rd :=
  let leaf := fun (b : Nat) => match parts.find? (fun p => p.core == c && p.bank == b) with
    | some p => if ty = 2 then (p.m.toNat % 2 ^ 32, p.s.toNat % 2 ^ 32) else (p.m.toNat, 0)
    | none => redIdentity op ty
  treeRoot (redNode op ty) (redIdentity op ty) 5 ((List.range 32).map leaf) r

/-- R364: the root of an instance. A core of a layer and a layer of the stack stand in the order of their numbers. -/
def redRoot (op ty scope c : Nat) (parts : List RedPart) : RedVal × Rd :=
  if scope = 2 then
    let (roots, r) := (List.range 128).foldl (fun (a : List RedVal × Rd) j =>
      let x := c / 128 * 128 + j
      if parts.any (fun p => p.core == x) then
        let (v, r1) := coreRoot op ty x parts a.2
        (a.1 ++ [v], r1)
      else (a.1 ++ [redIdentity op ty], a.2)) ([], { seed := 0 })
    treeRoot (redNode op ty) (redIdentity op ty) 7 roots r
  else coreRoot op ty c parts { seed := 0 }

/-- A participant's result, or its trap. -/
def State.redGive (s : State) (key : Nat) (v : Option (RedVal × BitVec 4)) (p : RedPart) : State :=
  let h := s.hart p.core p.bank
  match h.pend with
  | some (.red d _ _ i) =>
    let h1 := { h with redN := h.redN.put key (h.redN.get key 0 + 1) }
    match v with
    | none => s.setHart p.core p.bank { h1 with pend := some (.trapped 0xa3 i.word 0) }
    | some (x, fl) =>
      let h2 := h1.setG d (BitVec.ofNat 64 x.1)
      let h3 := if p.op = 6 then h2.setG (d + 1) (BitVec.ofNat 64 x.2) else h2
      s.setHart p.core p.bank { h3 with flags := h3.flags ||| fl, pend := some .done }
  | _ => s

/-- An instance combines once every participant has issued. -/
def State.redCombine (s : State) (c scope key inst : Nat) : State :=
  let parts := s.redParts c scope key inst
  let members := s.redMembers c scope key parts
  match parts with
  | [] => s
  | p0 :: _ =>
    if !(members.all fun m => parts.any fun p => p.core == m.1 && p.bank == m.2) then s
    else
      let same := parts.all fun p => p.op == p0.op && p.desc == p0.desc
      let ty := redType p0.desc.toNat
      let v := if same then
          let (x, r) := redRoot p0.op ty scope c parts
          some (x, r.fl &&& 10#4)
        else none
      let s1 := parts.foldl (fun t p => t.redGive key v p) s
      { s1 with cores := s1.cores.mapVals fun x k =>
          if (s.redCores c scope).contains x then
            { k with reds := k.reds.put key ((k.reds.get key []).filter fun p => p.inst != inst) }
          else k }

/-- The instance that a hart's next RED joins: one word at gang scope, else the n-th of its channel. -/
def Hart.redInst (h : Hart) (scope key : Nat) : Nat := if scope = 0 then 0 else h.redN.get key 0

/-- The instance that the pending RED of a hart has joined. -/
def State.redTry (s : State) (c b chan scope : Nat) : State :=
  let key := redKey scope chan (((s.core c).gangOf b).getD 0)
  s.redCombine c scope key ((s.hart c b).redInst scope key)

def redPoll (force : Bool) (s : State) (c b : Nat) (p : Pend) : HRes :=
  match force, p with
  | true, .red _ chan scope _ =>
    let s' := s.redTry c b chan scope
    match (s'.hart c b).pend with
    | some (.red _ _ _ _) => .wait s'
    | _ => .work s'
  | _, _ => .wait s

/-- R362: a descriptor that is refused. -/
def redRefused (op scope desc bank : Nat) : Bool :=
  let ty := redType desc
  decide (2 ^ 42 ≤ desc) || ty == 3 || (ty == 2 && (op == 3 || op == 4 || op == 5)) || (ty != 2 && op == 6) ||
    (if scope = 0 then redChan desc != 0 || redBanks desc != 0 else !(redBanks desc).testBit bank)

/-- R361 to R366. -/
def execRed (o : RD) (s : State) : Res :=
  Op.exec
    { instr := .red o, lock := o.s == 0, poll := redPoll
      act := fun _ s c b =>
        let h := s.hart c b
        let desc := h.greg o.b.toNat
        if redRefused o.o.toNat o.s.toNat desc.toNat b then
          .trap s 0x07 (operandDetail desc.toNat (Instr.red o).word) 0
        else
          let chan := redChan desc.toNat
          let key := redKey o.s.toNat chan (((s.core c).gangOf b).getD 0)
          let part : RedPart :=
            { inst := h.redInst o.s.toNat key, core := c, bank := b, op := o.o.toNat, desc := desc, m := h.greg o.a.toNat
              s := h.greg (o.a.toNat + 1) }
          let k := s.core c
          let s1 := s.setCore c { k with reds := k.reds.put key (k.reds.get key [] ++ [part]) }
          .work (s1.setPend c b (some (.red o.d.toNat chan o.s.toNat (.red o)))) } s

/-- RED_COMBINE_COMPLETE (R363 to R366): at gang scope `chan` names the gang. -/
def execRedCombineComplete (core chan scope : Nat) (s : State) : Res :=
  let key := redKey scope chan chan
  let insts := (s.redCores core scope).flatMap fun x => ((s.core x).reds.get key []).map (·.inst)
  .next (insts.foldl (fun t n => t.redCombine core scope key n) s)

end Sys2Proof.Machine
end

