-- ==== Sys2Proof/Machine/Sync.lean ====
section
/-! DEFINITION. Counters, fences, loads, stores and atomic operations of harts (R371 to R380, R387, R388, R391 to
R396). -/

namespace Sys2Proof.Machine

/-! ## Counters (R391) -/

/-- A counter: of the hub, or of a core. -/
def State.ctr (s : State) (hub : Bool) (c n : Nat) : Ctr :=
  if hub then s.hctrs.get n {} else (s.core c).ctrs.get n {}

def State.setCtr (s : State) (hub : Bool) (c n : Nat) (x : Ctr) : State :=
  if hub then { s with hctrs := s.hctrs.put n x } else s.setCore c { s.core c with ctrs := (s.core c).ctrs.put n x }

/-- R391: the value that two of the three copies agree on. -/
def Ctr.vote (x : Ctr) : Option (BitVec 32) :=
  if x.failed then none
  else if x.c0 = x.c1 ∨ x.c0 = x.c2 then some x.c0
  else if x.c1 = x.c2 then some x.c1
  else none

/-- R391: a counter's number in the log. -/
def ctrNo (hub : Bool) (n : Nat) : Nat := bnat hub * 256 + n

/-- R391: an operation reads the copies: its value, with a copy that is outvoted rewritten and logged; or the counter
is marked failed. -/
def State.readCtr (s : State) (hub : Bool) (c n : Nat) : State × Option (BitVec 32) :=
  let x := s.ctr hub c n
  match x.vote with
  | none => (s.setCtr hub c n { x with failed := true }, none)
  | some v =>
    if x.c0 = v ∧ x.c1 = v ∧ x.c2 = v then (s, some v)
    else
      ((s.setCtr hub c n { x with c0 := v, c1 := v, c2 := v }).logEvent 0x47 0 (if hub then 0xffff else c) (ctrNo hub n) 0,
        some v)

/-- R391: all three copies written. -/
def State.writeCtr (s : State) (hub : Bool) (c n : Nat) (v : BitVec 32) : State :=
  let x := s.ctr hub c n
  s.setCtr hub c n { x with c0 := v, c1 := v, c2 := v, failed := false }

/-- R393: the new value under an arrival (no limit) or a post (limit). -/
def ctrAdd (v b : BitVec 32) : BitVec 32 := v + b
def ctrPost (v b : BitVec 32) : BitVec 32 := BitVec.ofNat 32 (min (v.toNat + b.toNat) (2 ^ 32 - 1))

/-- R392: the head of a counter's queue is granted, if the counter suffices: who it was and the old value. -/
def State.semGrant (s : State) (hub : Bool) (c n : Nat) : Option (State × CtrWait × BitVec 32) :=
  match s.readCtr hub c n with
  | (_, none) => none
  | (s1, some v) =>
    let x := s1.ctr hub c n
    match x.sems with
    | [] => none
    | w :: rest =>
      if w.amount ≤ v.toNat then
        some ((s1.setCtr hub c n { x with sems := rest }).writeCtr hub c n (v - BitVec.ofNat 32 w.amount), w, v)
      else none

/-- R392: the first barrier waiter whose threshold the counter meets leaves: who it was and the value. -/
def State.barMet (s : State) (hub : Bool) (c n : Nat) : Option (State × CtrWait × BitVec 32) :=
  match s.readCtr hub c n with
  | (_, none) => none
  | (s1, some v) =>
    let x := s1.ctr hub c n
    match x.bars.find? fun w => decide (w.amount ≤ v.toNat) with
    | none => none
    | some w => some (s1.setCtr hub c n { x with bars := x.bars.filter (· != w) }, w, v)

/-- What a wait that ends gives its waiter: a hart's destination register, or the control thread's, which acquires
(R382). -/
def State.ctrGive (s : State) (w : CtrWait) (v : BitVec 32) : State :=
  match w.bank with
  | some b =>
    let h := s.hart w.core b
    match h.pend with
    | some (.counter i) =>
      let d := match i with
        | .barwait o => o.d.toNat
        | .semwait o => o.d.toNat
        | _ => 0
      s.setHart w.core b { h.setG d (v.setWidth 64) with pend := some .done }
    | _ => s
  | none =>
    let t := s.ct w.core
    let s1 := s.setCt w.core { t with dcache := t.dcache.filter fun e => e.2.st != .clean }
    { s1 with actLen := 4 }.ctDone w.core w.rd (v.setWidth 64)

/-- SEM_GRANT (R392): the head semaphore waiter of a counter is granted if the counter suffices. -/
def execSemGrant (hub : Bool) (core ctr : Nat) (s : State) : Res :=
  .next (match s.semGrant hub core ctr with
    | some (s', w, v) => s'.ctrGive w v
    | none => s)

/-- COUNTER_WAIT_MET (R392): a barrier wait that the counter meets ends. -/
def execCounterWaitMet (hub : Bool) (core ctr : Nat) (s : State) : Res :=
  .next (match s.barMet hub core ctr with
    | some (s', w, v) => s'.ctrGive w v
    | none => s)

/-! ## Counter words (R393) -/

/-- R393: the detail of `0x42 COUNTER_UE` on a hart. -/
def ctrDetail (o : CN) (word : Nat) : Nat := ctrNo o.h o.i.toNat * 2 ^ 32 + word

/-- The checks of a counter word before it acts: its operand, and the counter's value. -/
def ctrWord (i : Instr) (o : CN) (s : State) (c b : Nat) (f : State → BitVec 32 → BitVec 32 → HRes) : HRes :=
  let v := (s.greg c b o.b.toNat).toNat
  if 2 ^ 32 ≤ v then .trap s 0x07 (operandDetail v i.word) 0
  else match s.readCtr o.h c o.i.toNat with
    | (s1, none) => .trap s1 0x42 (ctrDetail o i.word) 0
    | (s1, some x) => f s1 x (BitVec.ofNat 32 v)

/-- BARRIVE and SEMPOST: releases, which wait for the hart's copies. -/
def ctrChange (i : Instr) (o : CN) (new : BitVec 32 → BitVec 32 → BitVec 32) : Op :=
  { instr := i, p := o.p
    act := fun _ s c b =>
      ctrWord i o s c b fun s1 x y =>
        if !(s1.hart c b).quiet then .wait s1
        else
          let s2 := s1.writeCtr o.h c o.i.toNat (new x y)
          .ok (s2.setHart c b ((s2.hart c b).setG o.d.toNat (x.setWidth 64))) .next }

/-- R393. -/
def execBarrive (o : CN) (s : State) : Res := (ctrChange (.barrive o) o ctrAdd).exec s
/-- R393. -/
def execSempost (o : CN) (s : State) : Res := (ctrChange (.sempost o) o ctrPost).exec s

/-- R391, R392: a wait that has joined goes on: it ends once its condition holds, or by `0x42` on a failed counter.
DEDUCED, log 40, safe. -/
def waitPoll (i : Instr) (o : CN) (go : State → Nat → Nat → Option State) (force : Bool) (s : State) (c b : Nat)
    (p : Pend) : HRes :=
  match force, p with
  | true, .counter _ =>
    match s.readCtr o.h c o.i.toNat with
    | (s1, none) => .trap ((s1.withdraw c (some b)).setPend c b none) 0x42 (ctrDetail o i.word) 0
    | (s1, some _) => match go s1 c b with
      | some s2 => .work s2
      | none => .wait s1
  | _, _ => .wait s

/-- R392. -/
def execBarwait (o : CN) (s : State) : Res :=
  let i : Instr := .barwait o
  Op.exec
    { instr := i, p := o.p
      act := fun _ s c b =>
        ctrWord i o s c b fun s1 _ y =>
          let x := s1.ctr o.h c o.i.toNat
          let w : CtrWait := { core := c, bank := some b, amount := y.toNat }
          .work ((s1.setCtr o.h c o.i.toNat { x with bars := x.bars ++ [w] }).setPend c b (some (.counter i)))
      poll := waitPoll i o fun s c b =>
        match (s.ctr o.h c o.i.toNat).bars.find? fun w => w.core == c && w.bank == some b, (s.ctr o.h c o.i.toNat).vote with
        | some w, some v =>
          if w.amount ≤ v.toNat then
            let x := s.ctr o.h c o.i.toNat
            some ((s.setCtr o.h c o.i.toNat { x with bars := x.bars.filter (· != w) }).ctrGive w v)
          else none
        | _, _ => none } s

/-- R392. -/
def execSemwait (o : CN) (s : State) : Res :=
  let i : Instr := .semwait o
  Op.exec
    { instr := i, p := o.p
      act := fun _ s c b =>
        ctrWord i o s c b fun s1 _ y =>
          let x := s1.ctr o.h c o.i.toNat
          let w : CtrWait := { core := c, bank := some b, amount := y.toNat }
          .work ((s1.setCtr o.h c o.i.toNat { x with sems := x.sems ++ [w] }).setPend c b (some (.counter i)))
      poll := waitPoll i o fun s c b =>
        match (s.ctr o.h c o.i.toNat).sems with
        | w :: _ =>
          if w.core = c ∧ w.bank = some b then (s.semGrant o.h c o.i.toNat).map fun e => e.1.ctrGive e.2.1 e.2.2
          else none
        | [] => none } s

/-! ## Fences (R378, R394) -/

/-- R378, R394: FENCE.SV (k 0) waits for the stores handed over, the others for the copies too; FENCE.ALL (k 3) discards the bank block
cache. At system scope, the hart's writes to the host, of either class, are settled
(R390). -/
def execFence (o : FN) (s : State) : Res :=
  Op.exec
    { instr := .fence o, p := o.p
      act := fun _ s c b =>
        let h := s.hart c b
        if h.stores ≠ [] ∨ (o.k ≠ 0 ∧ !h.quiet) then .wait s
        else match s.hostSettled (o.s == 2) (.hart c b) 0 with
          | .wait s' => .wait (s.keepRequest s' (.hart c b))
          | .done s' _ _ => .ok (if o.k = 3 then s'.setHart c b { s'.hart c b with cache := [] } else s') .next } s

/-! ## Loads and stores (R395) -/

/-- R395: a column access of a hart at `va`: aligned, translated, not held by a copy of the hart, and with a request of the
gather unit free (R26). -/
def State.colWord (s : State) (c b va n : Nat) (reads writes : Bool) (f : Place → HRes) : HRes :=
  if va % n ≠ 0 then .trap s 0x2b (detail48 va .col 0 writes) 0
  else match s.colAt c false va n reads writes with
    | .error (cause, detail) => .trap s cause detail 0
    | .ok p => if s.held c b p n writes || !s.requestsFree c 1 then .wait s else f p

/-- R395: the address. -/
def ldAddr (ga : Word) (off : BitVec 14) : Nat := (ga + off.signExtend 64).toNat

/-- R395: `n` bytes extended to 64 bits. -/
def extendTo64 (n : Nat) (unsigned : Bool) (v : Nat) : Word :=
  if unsigned then BitVec.ofNat 64 v else BitVec.ofNat 64 (uval 64 (sval (8 * n) v))

def accessNote (va : State → Nat → Nat → Nat) (n : Nat) (s : State) (c b : Nat) : Note :=
  { vl := (s.hart c b).vl.toNat, lo := va s c b, hi := va s c b + n - 1, first := some (va s c b) }

/-- R395: an access in progress that another access answers: it ends, waits, or meets a data cause. -/
def answerAcc (s : State) (c b va : Nat) (write : Bool) (a : Acc) (f : State → Nat → State) : HRes :=
  match a with
  | .wait s' => .wait (s.keepRequest s' (.hart c b))
  | .done s' _ (some x) =>
    let (cause, detail) := condCause x va write
    .trap (s'.setPend c b none) cause detail 0
  | .done s' v none => .work ((f s' v).setPend c b (some .done))

/-- R395: the address of a load or store. -/
def loadVa (a : BitVec 4) (off : BitVec 14) (s : State) (c b : Nat) : Nat := ldAddr (s.greg c b a.toNat) off

/-- R395: an LD in progress. -/
def ldPoll (o : LDo) (force : Bool) (s : State) (c b : Nat) (p : Pend) : HRes :=
  let n := 2 ^ o.w.toNat
  let va := loadVa o.a o.o s c b
  match force, p with
  | true, .column _ =>
    match s.colAt c false va n true false with
    | .error (cause, detail) => .trap (s.setPend c b none) cause detail 0
    | .ok pl =>
      answerAcc s c b va false (s.load (.hart c b) va pl n) fun t v =>
        t.setHart c b ((t.hart c b).setG o.d.toNat (extendTo64 n o.u v))
  | _, _ => .wait s

/-- R395. -/
def execLd (o : LDo) (s : State) : Res :=
  let n := 2 ^ o.w.toNat
  Op.exec
    { instr := .ld o, note := accessNote (loadVa o.a o.o) n, poll := ldPoll o
      act := fun _ s c b =>
        s.colWord c b (loadVa o.a o.o s c b) n true false fun _ => .work (s.setPend c b (some (.column (.ld o)))) } s

/-- R375: the location has system scope: its page has S = 1. -/
def State.sharedPage (s : State) (c : Nat) (mach : Bool) (va : Nat) : Bool :=
  match s.translateOn c mach va .col false false with
  | .ok l => bit l.leaf 7
  | .error _ => false

/-- R395: the stores handed over are performed, in order, up to one that waits. -/
def State.storesGo (c b : Nat) : List Put → State → State
  | [], s => s
  | x :: xs, s =>
    match s.store (.stored c b) none x.va x.place x.n x.value with
    | .wait s' => s.keepRequest s' (.stored c b)
    | .done s' _ _ =>
      State.storesGo c b xs (s'.setHart c b { s'.hart c b with stores := xs, storeReq := none, storeGot := [] })

def State.storesRun (s : State) (c b : Nat) : State := State.storesGo c b (s.hart c b).stores s

/-- R395: a store that cannot be performed at once is handed over. -/
def State.handOver (s : State) (c b : Nat) (x : Put) : State :=
  (s.setHart c b { s.hart c b with stores := (s.hart c b).stores ++ [x] }).storesRun c b

/-- R395. A store of release order waits for the hart's copies and stores, and at system scope for its writes to the host (R390). It
retires when it has been handed over; what it waits for then raises no cause. -/
def execSt (o : STo) (s : State) : Res :=
  let n := 2 ^ o.w.toNat
  let va := loadVa o.a o.o
  Op.exec
    { instr := .st o, note := accessNote va n
      act := fun _ s c b =>
        s.colWord c b (va s c b) n false true fun p =>
          if o.q && !(s.hart c b).quiet then .wait s
          else match s.hostSettled (o.q && s.sharedPage c false (va s c b)) (.hart c b) (va s c b) with
            | .wait s' => .wait (s.keepRequest s' (.hart c b))
            | .done s1 _ _ =>
              match s1.store (.hart c b) none (va s c b) p n (s.greg c b o.d.toNat).toNat with
              | .wait _ => .ok (s1.handOver c b ⟨va s c b, p, n, (s.greg c b o.d.toNat).toNat, 0⟩) .next
              | .done s' _ _ => .ok s' .next } s

/-! ## Atomic operations (R388, R396) -/

/-- R388: the operation can be sent to the host as an AtomicOp. DESIGN CHOICE, log 25, unsafe. -/
def State.hostAtomic (s : State) (c op : Nat) : Bool := decide (op ≤ 2) && s.bar.atomicEn.contains (s.fnOf c)

/-- R396: bytes and address of an AMO. -/
def amoSize (o : AM) : Nat := if o.w then 4 else 8
def amoVa (o : AM) (s : State) (c b : Nat) : Nat := (s.greg c b o.a.toNat).toNat

/-- R396: an AMO in progress; `op` is its fn. -/
def amoPoll (o : AM) (op : Nat) (force : Bool) (s : State) (c b : Nat) (p : Pend) : HRes :=
  let n := amoSize o
  let va := amoVa o s c b
  match force, p with
  | true, .column _ =>
    match s.colAt c false va n true true with
    | .error (cause, detail) => .trap (s.setPend c b none) cause detail 0
    | .ok pl =>
      let y := (s.greg c b o.b.toNat).toNat % 2 ^ (8 * n)
      let x := (s.greg c b o.d.toNat).toNat % 2 ^ (8 * n)
      answerAcc s c b va true (s.atomic (.hart c b) none va pl n op y x (o.s == 2)) fun t v =>
        t.setHart c b ((t.hart c b).setG o.d.toNat (extendTo64 n false v))
  | _, _ => .wait s

/-- An AMO begins, a release once the hart's copies are done (R375) and, at system scope, its writes to the host (R390). -/
def amoStart (i : Instr) (o : AM) (s : State) (c b : Nat) : HRes :=
  if o.o.getLsbD 1 && !(s.hart c b).quiet then .wait s
  else match s.hostSettled (o.o.getLsbD 1 && o.s == 2) (.hart c b) (amoVa o s c b) with
    | .wait s' => .wait (s.keepRequest s' (.hart c b))
    | .done s' _ _ => .work (s'.setPend c b (some (.column i)))

/-- An AMO: `op` is its fn. -/
def amoOp (i : Instr) (o : AM) (op : Nat) : Op :=
  { instr := i, p := o.p, note := accessNote (amoVa o) (amoSize o), poll := amoPoll o op
    act := fun _ s c b =>
      s.colWord c b (amoVa o s c b) (amoSize o) true true fun p =>
        match p with
        | .host _ =>
          if !s.hostAtomic c op then .trap s 0xa2 (detail48 (amoVa o s c b) .col 0 true) 0 else amoStart i o s c b
        | _ => amoStart i o s c b }

/-- R396. -/
def execAmoadd (o : AM) (s : State) : Res := (amoOp (.amoadd o) o 0).exec s
/-- R396. -/
def execAmoswap (o : AM) (s : State) : Res := (amoOp (.amoswap o) o 1).exec s
/-- R396. -/
def execAmocas (o : AM) (s : State) : Res := (amoOp (.amocas o) o 2).exec s
/-- R396. -/
def execAmomin (o : AM) (s : State) : Res := (amoOp (.amomin o) o 3).exec s
/-- R396. -/
def execAmomax (o : AM) (s : State) : Res := (amoOp (.amomax o) o 4).exec s
/-- R396. -/
def execAmoand (o : AM) (s : State) : Res := (amoOp (.amoand o) o 5).exec s
/-- R396. -/
def execAmoor (o : AM) (s : State) : Res := (amoOp (.amoor o) o 6).exec s
/-- R396. -/
def execAmoxor (o : AM) (s : State) : Res := (amoOp (.amoxor o) o 7).exec s

end Sys2Proof.Machine
end

