-- ==== Sys2Proof/Machine/CtMem.lean ====
section
/-! DEFINITION. The control thread's memory: fetch through its instruction cache, its data cache, loads, stores, atomic
operations and fences (R123 to R126, R149, R380 to R383, R417). -/

namespace Sys2Proof.Machine

def State.mach (s : State) (c : Nat) : Bool := (s.ct c).mode == .machine

/-- The mode of the control thread's data accesses: that of MPP where MPRV is set in M mode (RISC-V privileged architecture). -/
def State.dataMach (s : State) (c : Nat) : Bool :=
  s.mach c && (!(s.ct c).mprv || (s.ct c).mpp == .machine)

/-- R26: a request of the gather unit is free for a miss of the control thread, or it holds one already. -/
def State.ctFree (s : State) (c : Nat) : Bool := (s.ct c).rreq.isSome || s.requestsFree c 1

/-- What an access of the control thread gives. -/
inductive CtAcc
  | done (s : State) (v : Nat)
  | wait (s : State)
  | trap (s : State) (code detail : Nat)
deriving DecidableEq, Repr, Inhabited

/-! ## Fetch (R124, R149, R417) -/

/-- The line that holds `va`, through the instruction cache, which gives up its first line where it is full (R20). The line is
kept by its VA. DESIGN CHOICE, log 19, unsafe. -/
def State.ctLine (s : State) (c va : Nat) : CtAcc :=
  match s.translateOn c (s.mach c) va .fetch false false with
  | .error (cause, detail) => .trap s cause detail
  | .ok l =>
    let key := va / 64
    match (s.ct c).icache.find key with
    | some v => .done s v
    | none =>
      if !s.ctFree c then .wait s
      else match s.readHere (.ct c) va (linePa (lineOf l.pa)) 64 with
      | .wait s' => .wait (s.keepRequest s' (.ct c))
      | .done s' _ (some x) => .trap s' x.cause (detail48 va .fetch 0 false)
      | .done s' v none =>
        let old := (s'.ct c).icache
        let room := if old.length < Config.icacheLines then old else old.drop 1
        .done (s'.setCt c { s'.ct c with icache := room.put key v, rreq := none }) v

/-- A 16-bit parcel of code. -/
def State.ctHalf (s : State) (c va : Nat) : CtAcc :=
  match s.ctLine c va with
  | .done s' v => .done s' (fld v (8 * (va % 64)) 16)
  | r => r

/-- The instruction at the pc: 16 bits, or 32 where its low bits are 11. -/
def State.ctFetch (s : State) (c va : Nat) : CtAcc :=
  match s.ctHalf c va with
  | .done s1 lo =>
    if lo % 4 ≠ 3 then .done s1 lo
    else match s1.ctHalf c ((va + 2) % 2 ^ 64) with
      | .done s2 hi => .done s2 (lo + hi * 2 ^ 16)
      | r => r
  | r => r

/-! ## The data cache (R381) -/

/-- The key of the word that holds a place, and the place of its line; host memory is not cached. -/
def Place.word (s : State) : Place → Option (Nat × Place)
  | .here pa => some (dkey s.flash.modId.toNat (pa / 8 * 8), .here (linePa (lineOf pa)))
  | .remote m pa => some (dkey m (pa / 8 * 8), .remote m (linePa (lineOf pa)))
  | .host _ => none

/-- Where a cached word's home line and PA are. -/
def State.keyPlace (s : State) (key : Nat) : Place :=
  if key / 2 ^ 40 = s.flash.modId.toNat then .here (key % 2 ^ 40) else .remote (key / 2 ^ 40) (key % 2 ^ 40)

/-- Bytes `o` to `o + n - 1` of a word as a mask. -/
def byteMask (o n : Nat) : BitVec 8 := BitVec.ofNat 8 ((2 ^ n - 1) * 2 ^ o)

/-- A word of a fill: it never overwrites a Dirty or Owned word, but gives a Dirty word the bytes it has not. -/
def fillWord (t : Tab DWord) (key : Nat) (v : Word) : Tab DWord :=
  match t.find key with
  | some x =>
    if x.st = .clean then t.put key ⟨.clean, v, 0, 0xff⟩
    else if x.has = 0xff then t
    else
      let data := (List.range 8).foldl (fun a b =>
        if x.has.getLsbD b then a else patch a b 1 (fld v.toNat (8 * b) 8)) x.data.toNat
      t.put key { x with data := BitVec.ofNat 64 data, has := 0xff }
  | none => t.put key ⟨.clean, v, 0, 0xff⟩

/-- A line enters the data cache. -/
def fillLine (t : Tab DWord) (line data : Nat) : Tab DWord :=
  (List.range 8).foldl (fun u k => fillWord u (line + 8 * k) (BitVec.ofNat 64 (fld data (64 * k) 64))) t

def State.setDcache (s : State) (c : Nat) (t : Tab DWord) : State := s.setCt c { s.ct c with dcache := t }

/-- Marked bytes of a word written at their MSC, one by one. -/
def State.mergeBytes (s : State) (c key : Nat) (x : DWord) : List Nat → State → Acc
  | [], t => .done t 0 none
  | o :: os, t =>
    if !x.mask.getLsbD o then State.mergeBytes s c key x os t
    else match t.store (.ct c) (some c) 0 (t.keyPlace (key + o)) 1 (fld x.data.toNat (8 * o) 8) with
      | .wait t' => .wait t'
      | .done t' _ _ => State.mergeBytes s c key x os t'

/-- The word of key `key` as its MSC holds it now, if it can be read. -/
def State.wordNow (s : State) (key : Nat) : Option Word :=
  match s.keyPlace key with
  | .here pa => if (s.sideOf (lineOf pa)).cond.isNone then some (BitVec.ofNat 64 (s.mem.read pa 8)) else none
  | .remote m pa => match s.rlines.find (rkey m pa) with
    | some l => if l.poison then none else some (BitVec.ofNat 64 (fld l.data (8 * (pa % 64)) 64))
    | none => none
  | .host _ => none

/-- An Owned word is current (R382): it holds the word as merged at the MSC, or its written bytes where the line is bad. -/
def DWord.owned (x : DWord) (now : Option Word) : DWord :=
  match now with
  | some v => ⟨.owned, v, 0, 0xff⟩
  | none => { x with st := .owned, has := x.mask, mask := 0 }

/-- R381: a Dirty word is written out and becomes Owned. -/
def State.writeOut (s : State) (c key : Nat) : Acc :=
  match (s.ct c).dcache.find key with
  | some x =>
    if x.st ≠ .dirty then .done s 0 none
    else match s.mergeBytes c key x (List.range 8) s with
      | .wait s' => .wait (s.keepRequest s' (.ct c))
      | .done s' _ _ =>
        .done (s'.setDcache c ((s'.ct c).dcache.put key (x.owned (s'.wordNow key)))) 0 none
  | none => .done s 0 none

/-- Every Dirty word of a list is written out. -/
def State.writeOutAll (c : Nat) : List Nat → State → Acc
  | [], s => .done s 0 none
  | k :: ks, s =>
    match s.writeOut c k with
    | .wait s' => .wait s'
    | .done s' _ _ => State.writeOutAll c ks s'

/-- R381: what a release of the thread does. -/
def State.ctRelease (s : State) (c : Nat) : Acc := State.writeOutAll c (s.ct c).dcache.keys s

/-- R382: what an acquire of the thread does. -/
def State.ctAcquire (s : State) (c : Nat) : State :=
  s.setDcache c ((s.ct c).dcache.filter fun e => e.2.st != .clean)

/-- The lines in the data cache, each once. -/
def Tab.lines (t : Tab DWord) : List Nat := (t.map fun e => e.1 / 64).eraseDups

/-- R20, R381: room for the line of key `key`: a full data cache evicts its first line, whose Dirty words are written out.
DESIGN CHOICE, log 19, unsafe. -/
def State.dcacheRoom (s : State) (c key : Nat) : Acc :=
  let l := Tab.lines (s.ct c).dcache
  if l.contains (key / 64) || decide (l.length < Config.dcacheLines) then .done s 0 none
  else
    let mine := fun (k : Nat) => k / 64 == l.headD 0
    match State.writeOutAll c ((s.ct c).dcache.keys.filter mine) s with
    | .wait s' => .wait s'
    | .done s' _ _ => .done (s'.setDcache c ((s'.ct c).dcache.filter fun e => !mine e.1)) 0 none

/-! ## Loads and stores (R124) -/

/-- A read of `n` bytes by the control thread. -/
def State.ctRead (s : State) (c va n : Nat) : CtAcc :=
  match s.colAt c (s.dataMach c) va n true false with
  | .error (cause, detail) => .trap s cause detail
  | .ok p =>
    let after := fun (a : Acc) (f : State → Nat → State × Nat) => match a with
      | .wait s' => CtAcc.wait (s.keepRequest s' (.ct c))
      | .done s' _ (some x) => .trap s' x.cause (detail48 va .col 0 false)
      | .done s' v none => let (t, r) := f s' v; .done t r
    match p.word s with
    | none => if !s.ctFree c then .wait s else after (s.load (.ct c) va p n) fun t v => (t, v)
    | some (key, line) =>
      let o := va % 8
      let hit := match (s.ct c).dcache.find key with
        | some x => if x.has &&& byteMask o n = byteMask o n then some (fld x.data.toNat (8 * o) (8 * n)) else none
        | none => none
      match hit with
      | some v => .done s v
      | none => if !s.ctFree c then .wait s else match s.dcacheRoom c key with
        | .wait s' => .wait s'
        | .done s0 _ _ => after (s0.load (.ct c) va line 64) fun t v =>
          let cache := fillLine (t.ct c).dcache (key / 64 * 64) v
          (t.setDcache c cache, match cache.find key with
            | some x => fld x.data.toNat (8 * o) (8 * n)
            | none => 0)

/-- A store of `n` bytes into the data cache, whose line is filled first; a line that fails its checks gives the cache
no bytes. -/
def State.ctPut (s : State) (c key o n v : Nat) : State :=
  let x : DWord := ((s.ct c).dcache.find key).getD ⟨.clean, 0, 0, 0⟩
  let y : DWord :=
    { st := .dirty, data := BitVec.ofNat 64 (patch x.data.toNat o n v)
      mask := (if x.st = .dirty then x.mask else 0) ||| byteMask o n
      has := x.has ||| byteMask o n }
  s.setDcache c ((s.ct c).dcache.put key y)

/-- A write of `n` bytes by the control thread. -/
def State.ctWrite (s : State) (c va n v : Nat) : CtAcc :=
  match s.colAt c (s.dataMach c) va n false true with
  | .error (cause, detail) => .trap s cause detail
  | .ok p =>
    match p.word s with
    | none =>
      if !s.ctFree c then .wait s
      else match s.store (.ct c) (some c) va p n v with
      | .wait s' => .wait (s.keepRequest s' (.ct c))
      | .done s' _ _ => .done s' 0
    | some (key, line) =>
      if ((s.ct c).dcache.find key).isSome then .done (s.ctPut c key (va % 8) n v) 0
      else if !s.ctFree c then .wait s
      else match s.dcacheRoom c key with
      | .wait s' => .wait s'
      | .done s0 _ _ => match s0.load (.ct c) va line 64 with
        | .wait s' => .wait (s.keepRequest s' (.ct c))
        | .done s' _ (some _) => .done (s'.ctPut c key (va % 8) n v) 0
        | .done s' d none =>
          .done ((s'.setDcache c (fillLine (s'.ct c).dcache (key / 64 * 64) d)).ctPut c key (va % 8) n v) 0

/-- What an access does to its instruction: rd and the pc, a wait, or the trap of R126. -/
def CtAcc.end (a : CtAcc) (c r : Nat) (f : Nat → Word) : Res :=
  .next (match a with
    | .done s v => s.ctDone c r (f v)
    | .wait s => s
    | .trap s code detail => s.ctCause c code detail)

/-- The address of a load or store. -/
def State.ctAddr (s : State) (c : Nat) (o : CtM) : Nat := ((s.ct c).xreg o.a.toNat + o.i.signExtend 64).toNat

/-- R124: a load; a misaligned one raises mcause 4. -/
def execCtLoad (o : CtM) (s : State) : Res :=
  let c := s.actCore
  let va := s.ctAddr c o
  let n := 2 ^ (o.f3.toNat % 4)
  if va % n ≠ 0 then .next (s.ctTrap c 4 va (s.ct c).pc)
  else (s.ctRead c va n).end c o.r.toNat (extendTo64 n (decide (4 ≤ o.f3.toNat)))

/-- R124: a store; a misaligned one raises mcause 6. -/
def execCtStore (o : CtM) (s : State) : Res :=
  let c := s.actCore
  let va := s.ctAddr c o
  let n := 2 ^ o.f3.toNat
  if va % n ≠ 0 then .next (s.ctTrap c 6 va (s.ct c).pc)
  else (s.ctWrite c va n ((s.ct c).xreg o.r.toNat).toNat).end c 0 fun _ => 0

/-! ## Atomic operations (R123, R381, R388) -/

/-- The order of R375: a release before the operation, which may wait. -/
def State.ctOrdered (s : State) (c key : Nat) (rl : Bool) : Acc := if rl then s.ctRelease c else s.writeOut c key

/-- R381: the thread's copy of a word is Invalid after an operation at the MSC. -/
def State.ctForget (s : State) (c key : Nat) : State := s.setDcache c ((s.ct c).dcache.drop key)

/-- The operation code of `State.atomic` for a RISC-V funct5. -/
def ctAmoFn (f5 : Nat) : Nat :=
  match f5 with
  | 0 => 0
  | 1 => 1
  | 4 => 7
  | 8 => 6
  | 12 => 5
  | 16 => 3
  | 20 => 4
  | 24 => 8
  | _ => 9

/-- What AMO, LR and SC share: alignment, translation, host memory, the write-out, the operation and the order bits. -/
def ctAtomic (o : CtA) (s : State) (reads writes : Bool) (hostOk : Bool)
    (f : State → Nat → Place → Nat → Nat → Acc) (g : Nat → Word) (fin : State → Nat → State) : Res :=
  let c := s.actCore
  let n := if o.d64 then 8 else 4
  let va := ((s.ct c).xreg o.a.toNat).toNat
  if va % n ≠ 0 then .next (s.ctTrap c (if writes then 6 else 4) va (s.ct c).pc)
  else match s.colAt c (s.dataMach c) va n reads writes with
  | .error (cause, detail) => .next (s.ctCause c cause detail)
  | .ok p =>
    match p, hostOk with
    | .host _, false => .next (s.ctCause c 0xa2 (detail48 va .col 0 writes))
    | p, _ =>
      let key := match p.word s with | some (k, _) => k | none => 0
      if !s.ctFree c then .next s
      else match s.ctOrdered c key o.rl with
      | .wait s' => .next s'
      | .done s0 _ _ =>
        match s0.hostSettled (o.rl && s.sharedPage c (s.dataMach c) va) (.ct c) va with
        | .wait s' => .next (s0.keepRequest s' (.ct c))
        | .done s1 _ _ =>
        match f s1 c p n va with
        | .wait s' => .next (s1.keepRequest s' (.ct c))
        | .done s' _ (some x) => .next (s'.ctCause c x.cause (detail48 va .col 0 writes))
        | .done s' v none =>
          let s2 := fin (s'.ctForget c key) (key / 64)
          .next ((if o.aq then s2.ctAcquire c else s2).ctDone c o.d.toNat (g v))

/-- R123: an AMO. AMOADD and AMOSWAP alone can reach host memory. -/
def execCtAmo (o : CtA) (s : State) : Res :=
  let op := ctAmoFn o.f5.toNat
  let n := if o.d64 then 8 else 4
  let b := ((s.ct s.actCore).xreg o.b.toNat).toNat % 2 ^ (8 * n)
  ctAtomic o s true true (op < 2 && s.hostAtomic s.actCore op)
    (fun t c p n va => t.atomic (.ct c) (some c) va p n op b 0 true) (extendTo64 n false) fun t _ => t

/-- R381: LR reserves the line of the word. Another module's line is read, and reserved, at its home (operation 10), for the
thread of this core.
DEDUCED, log 38, unsafe. -/
def execCtLr (o : CtA) (s : State) : Res :=
  let n := if o.d64 then 8 else 4
  ctAtomic o s true false false
    (fun t c p n va => match p with
      | .remote _ _ => t.atomic (.ct c) (some c) va p n 10 0 c true
      | p => t.load (.ct c) va p n)
    (extendTo64 n false) fun t line => t.setCt t.actCore { t.ct t.actCore with resv := some line }

/-- R381: the operation that the thread has sent to another module's home, or to the host, is under way there, or its answer has come. -/
def Ct.away (t : Ct) : Bool := (t.rreq.map Req.effect).getD (t.hostGot != [])

/-- R381: SC succeeds, with 0 in rd, only while the reservation stands. At another module's home it is operation 11, which the home
judges once it has been sent. -/
def execCtSc (o : CtA) (s : State) : Res :=
  let v := ((s.ct s.actCore).xreg o.b.toNat).toNat
  ctAtomic o s false true false
    (fun t c p n va =>
      let key := match p.word t with | some (k, _) => k | none => 0
      let sent := match p with
        | .remote _ _ => (t.ct c).away
        | _ => false
      if (t.ct c).resv ≠ some (key / 64) ∧ !sent then .done t 1 none
      else match p with
        | .remote _ _ => t.atomic (.ct c) (some c) va p n 11 (v % 2 ^ (8 * n)) c true
        | p => match t.store (.ct c) (some c) va p n v with
          | .wait t' => .wait t'
          | .done t' _ _ => .done t' 0 none)
    (fun r => BitVec.ofNat 64 r) fun t _ => t.setCt t.actCore { t.ct t.actCore with resv := none }

/-! ## Fences (R125) -/

/-- R125: the fence has system scope: I or O in pred, or I in succ. -/
def fenceSystem (o : CtF) : Bool := o.pred.getLsbD 3 || o.pred.getLsbD 2 || o.succ.getLsbD 3

/-- R125, R390: every FENCE writes the Dirty words out, and later loads read memory again. DEDUCED, log 37, unsafe. -/
def execCtFence (o : CtF) (s : State) : Res :=
  let c := s.actCore
  .next (match s.ctRelease c with
    | .wait s' => s'
    | .done s1 _ _ =>
      match s1.hostSettled (fenceSystem o) (.ct c) 0 with
      | .wait s' => s1.keepRequest s' (.ct c)
      | .done s' _ _ => (s'.ctAcquire c).ctDone c 0 0)

/-- R125: FENCE.I discards the instruction cache after the thread's earlier stores are performed. -/
def execCtFenceI (s : State) : Res :=
  let c := s.actCore
  .next (match s.ctRelease c with
    | .wait s' => s'
    | .done s' _ _ => (s'.setCt c { s'.ct c with icache := [] }).ctDone c 0 0)

/-- DCACHE_EVICTION (R381): the word of key `word` leaves the data cache; a Dirty one is written out first.
DESIGN CHOICE, log 19, unsafe. -/
def execDcacheEviction (core word : Nat) (s : State) : Res :=
  .next (match s.writeOut core word with
    | .wait s' => s'
    | .done s' _ _ => s'.ctForget core word)

end Sys2Proof.Machine
end

