-- ==== Sys2Proof/Machine/RvBase.lean ====
section
/-! DEFINITION. The instructions of the control thread's base that have no row of the opcode table: RV64I but for its
loads, stores and system instructions, M, C, Zba and Zbb (R123). Their encodings and effects are those of the RISC-V
unprivileged architecture, which R123 names (log 10). -/

namespace Sys2Proof.Machine

/-! ## Arithmetic -/

def sext32 (x : Nat) : Word := BitVec.ofNat 64 (uval 64 (sval 32 x))

/-- Bits counted from the top and from the bottom, of `w` bits. -/
def clzN (w x : Nat) : Nat := if x % 2 ^ w = 0 then w else w - 1 - (x % 2 ^ w).log2
def ctzN (w x : Nat) : Nat := ((List.range w).takeWhile fun i => !x.testBit i).length
def popN (w x : Nat) : Nat := ((List.range w).filter x.testBit).length

/-- Rotation left of `w` bits. -/
def rolN (w x s : Nat) : Nat :=
  let y := x % 2 ^ w
  (y * 2 ^ (s % w) + y / 2 ^ (w - s % w)) % 2 ^ w

/-- Division as RISC-V defines it, on `w` bits. -/
def rvDiv (w : Nat) (signed rem : Bool) (x y : Nat) : Nat :=
  if signed then
    let a := sval w x
    let b := sval w y
    if b = 0 then (if rem then x else 2 ^ w - 1) else uval w (if rem then a.tmod b else a.tdiv b)
  else
    let a := x % 2 ^ w
    let b := y % 2 ^ w
    if b = 0 then (if rem then a else 2 ^ w - 1) else if rem then a % b else a / b

/-- The M extension on 64 bits. -/
def rvMul (f3 x y : Nat) : Nat :=
  match f3 with
  | 0 => x * y % 2 ^ 64
  | 1 => uval 64 (sval 64 x * sval 64 y / (2 ^ 64 : Nat))
  | 2 => uval 64 (sval 64 x * (y : Int) / (2 ^ 64 : Nat))
  | 3 => x * y / 2 ^ 64
  | 4 => rvDiv 64 true false x y
  | 5 => rvDiv 64 false false x y
  | 6 => rvDiv 64 true true x y
  | _ => rvDiv 64 false true x y

/-- OP of funct7 0 and 0x20: RV64I. -/
def rvAlu (f3 : Nat) (alt : Bool) (x y : Nat) : Nat :=
  match f3 with
  | 0 => if alt then uval 64 ((x : Int) - y) else (x + y) % 2 ^ 64
  | 1 => x * 2 ^ (y % 64) % 2 ^ 64
  | 2 => bnat (decide (sval 64 x < sval 64 y))
  | 3 => bnat (decide (x < y))
  | 4 => x ^^^ y
  | 5 => if alt then uval 64 (sval 64 x / (2 ^ (y % 64) : Nat)) else x / 2 ^ (y % 64)
  | 6 => x ||| y
  | _ => x &&& y

def notN (x : Nat) : Nat := 2 ^ 64 - 1 - x % 2 ^ 64

/-- OP (0x33). -/
def rvOp (f7 f3 x y : Nat) : Option Nat :=
  match f7, f3 with
  | 0x00, f => some (rvAlu f false x y)
  | 0x20, 0 => some (rvAlu 0 true x y)
  | 0x20, 5 => some (rvAlu 5 true x y)
  | 0x20, 7 => some (x &&& notN y)
  | 0x20, 6 => some (x ||| notN y)
  | 0x20, 4 => some (notN (x ^^^ y))
  | 0x01, f => some (rvMul f x y)
  | 0x10, 2 => some ((2 * x + y) % 2 ^ 64)
  | 0x10, 4 => some ((4 * x + y) % 2 ^ 64)
  | 0x10, 6 => some ((8 * x + y) % 2 ^ 64)
  | 0x05, 4 => some (if sval 64 x < sval 64 y then x else y)
  | 0x05, 5 => some (min x y)
  | 0x05, 6 => some (if sval 64 x < sval 64 y then y else x)
  | 0x05, 7 => some (max x y)
  | 0x30, 1 => some (rolN 64 x y)
  | 0x30, 5 => some (rolN 64 x (64 - y % 64))
  | _, _ => none

/-- OP-32 (0x3b). -/
def rvOp32 (f7 f3 rs2 x y : Nat) : Option Nat :=
  let lo := x % 2 ^ 32
  match f7, f3 with
  | 0x00, 0 => some (sext32 (x + y)).toNat
  | 0x20, 0 => some (sext32 (uval 32 ((x : Int) - y))).toNat
  | 0x00, 1 => some (sext32 (lo * 2 ^ (y % 32))).toNat
  | 0x00, 5 => some (sext32 (lo / 2 ^ (y % 32))).toNat
  | 0x20, 5 => some (sext32 (uval 32 (sval 32 lo / (2 ^ (y % 32) : Nat)))).toNat
  | 0x01, 0 => some (sext32 (x * y)).toNat
  | 0x01, 4 => some (sext32 (rvDiv 32 true false x y)).toNat
  | 0x01, 5 => some (sext32 (rvDiv 32 false false x y)).toNat
  | 0x01, 6 => some (sext32 (rvDiv 32 true true x y)).toNat
  | 0x01, 7 => some (sext32 (rvDiv 32 false true x y)).toNat
  | 0x04, 0 => some ((lo + y) % 2 ^ 64)
  | 0x04, 4 => if rs2 = 0 then some (x % 2 ^ 16) else none
  | 0x10, 2 => some ((2 * lo + y) % 2 ^ 64)
  | 0x10, 4 => some ((4 * lo + y) % 2 ^ 64)
  | 0x10, 6 => some ((8 * lo + y) % 2 ^ 64)
  | 0x30, 1 => some (sext32 (rolN 32 x y)).toNat
  | 0x30, 5 => some (sext32 (rolN 32 x (32 - y % 32))).toNat
  | _, _ => none

/-- The bytes of a word, lowest first. -/
def bytesOf (x : Nat) : List Nat := (List.range 8).map fun i => fld x (8 * i) 8
def ofBytes (l : List Nat) : Nat := l.foldr (fun b a => b + 256 * a) 0

/-- OP-IMM (0x13), with the 12 bits of the immediate as they stand. -/
def rvOpImm (f3 imm x : Nat) : Option Nat :=
  let y := uval 64 (sval 12 imm)
  match f3 with
  | 1 =>
    if imm / 64 = 0 then some (rvAlu 1 false x imm)
    else match imm with
      | 0x600 => some (clzN 64 x)
      | 0x601 => some (ctzN 64 x)
      | 0x602 => some (popN 64 x)
      | 0x604 => some (uval 64 (sval 8 x))
      | 0x605 => some (uval 64 (sval 16 x))
      | _ => none
  | 5 =>
    if imm / 64 = 0 then some (rvAlu 5 false x imm)
    else if imm / 64 = 0x10 then some (rvAlu 5 true x imm)
    else if imm / 64 = 0x18 then some (rolN 64 x (64 - imm % 64))
    else if imm = 0x6b8 then some (ofBytes (bytesOf x).reverse)
    else if imm = 0x287 then some (ofBytes ((bytesOf x).map fun b => if b = 0 then 0 else 255))
    else none
  | f => some (rvAlu f false x y)

/-- OP-IMM-32 (0x1b). -/
def rvOpImm32 (f3 imm x : Nat) : Option Nat :=
  let lo := x % 2 ^ 32
  match f3 with
  | 0 => some (sext32 (uval 32 ((x : Int) + sval 12 imm))).toNat
  | 1 =>
    if imm / 32 = 0 then some (sext32 (lo * 2 ^ (imm % 32))).toNat
    else if imm / 64 = 2 then some (lo * 2 ^ (imm % 64) % 2 ^ 64)
    else match imm with
      | 0x600 => some (clzN 32 x)
      | 0x601 => some (ctzN 32 x)
      | 0x602 => some (popN 32 x)
      | _ => none
  | 5 =>
    if imm / 32 = 0 then some (sext32 (lo / 2 ^ (imm % 32))).toNat
    else if imm / 32 = 0x20 then some (sext32 (uval 32 (sval 32 lo / (2 ^ (imm % 32) : Nat)))).toNat
    else if imm / 32 = 0x30 then some (sext32 (rolN 32 x (32 - imm % 32))).toNat
    else none
  | _ => none

/-! ## Compressed instructions -/

/-- Encoders of the 32-bit forms that a compressed instruction stands for. -/
def encI (op f3 rd rs1 : Nat) (imm : Nat) : Nat := op + rd * 2 ^ 7 + f3 * 2 ^ 12 + rs1 * 2 ^ 15 + imm % 2 ^ 12 * 2 ^ 20
def encR (op f3 f7 rd rs1 rs2 : Nat) : Nat :=
  op + rd * 2 ^ 7 + f3 * 2 ^ 12 + rs1 * 2 ^ 15 + rs2 * 2 ^ 20 + f7 * 2 ^ 25
def encS (op f3 rs1 rs2 imm : Nat) : Nat :=
  op + imm % 32 * 2 ^ 7 + f3 * 2 ^ 12 + rs1 * 2 ^ 15 + rs2 * 2 ^ 20 + imm / 32 % 2 ^ 7 * 2 ^ 25
def encJ (rd imm : Nat) : Nat :=
  0x6f + rd * 2 ^ 7 + fld imm 12 8 * 2 ^ 12 + fld imm 11 1 * 2 ^ 20 + fld imm 1 10 * 2 ^ 21 + fld imm 20 1 * 2 ^ 31
def encB (f3 rs1 rs2 imm : Nat) : Nat :=
  0x63 + fld imm 11 1 * 2 ^ 7 + fld imm 1 4 * 2 ^ 8 + f3 * 2 ^ 12 + rs1 * 2 ^ 15 + rs2 * 2 ^ 20 + fld imm 5 6 * 2 ^ 25 +
    fld imm 12 1 * 2 ^ 31

/-- A compressed instruction of quadrant 0. -/
def expand0 (h : Nat) : Option Nat :=
  let rd := 8 + fld h 2 3
  let rs := 8 + fld h 7 3
  let w4 := fld h 10 3 * 8 + fld h 6 1 * 4 + fld h 5 1 * 64
  let w8 := fld h 10 3 * 8 + fld h 5 2 * 64
  match fld h 13 3 with
  | 0 =>
    let imm := fld h 11 2 * 16 + fld h 7 4 * 64 + fld h 6 1 * 4 + fld h 5 1 * 8
    if imm = 0 then none else some (encI 0x13 0 rd 2 imm)
  | 2 => some (encI 0x03 2 rd rs w4)
  | 3 => some (encI 0x03 3 rd rs w8)
  | 6 => some (encS 0x23 2 rs rd w4)
  | 7 => some (encS 0x23 3 rs rd w8)
  | _ => none

/-- A compressed instruction of quadrant 1. -/
def expand1 (h : Nat) : Option Nat :=
  let rd := fld h 7 5
  let imm6 := fld h 2 5 + fld h 12 1 * 32
  let simm := uval 12 (sval 6 imm6)
  let rs := 8 + fld h 7 3
  let rs2 := 8 + fld h 2 3
  match fld h 13 3 with
  | 0 => some (encI 0x13 0 rd rd simm)
  | 1 => if rd = 0 then none else some (encI 0x1b 0 rd rd simm)
  | 2 => some (encI 0x13 0 rd 0 simm)
  | 3 =>
    if rd = 2 then
      let imm := fld h 12 1 * 512 + fld h 6 1 * 16 + fld h 5 1 * 64 + fld h 3 2 * 128 + fld h 2 1 * 32
      if imm = 0 then none else some (encI 0x13 0 2 2 (uval 12 (sval 10 imm)))
    else if imm6 = 0 then none else some (0x37 + rd * 2 ^ 7 + uval 20 (sval 6 imm6) * 2 ^ 12)
  | 4 =>
    match fld h 10 2, fld h 12 1, fld h 5 2 with
    | 0, _, _ => some (encI 0x13 5 rs rs imm6)
    | 1, _, _ => some (encI 0x13 5 rs rs (imm6 + 0x400))
    | 2, _, _ => some (encI 0x13 7 rs rs simm)
    | _, 0, 0 => some (encR 0x33 0 0x20 rs rs rs2)
    | _, 0, 1 => some (encR 0x33 4 0 rs rs rs2)
    | _, 0, 2 => some (encR 0x33 6 0 rs rs rs2)
    | _, 0, _ => some (encR 0x33 7 0 rs rs rs2)
    | _, _, 0 => some (encR 0x3b 0 0x20 rs rs rs2)
    | _, _, 1 => some (encR 0x3b 0 0 rs rs rs2)
    | _, _, _ => none
  | 5 =>
    let imm := fld h 12 1 * 2048 + fld h 11 1 * 16 + fld h 9 2 * 256 + fld h 8 1 * 1024 + fld h 7 1 * 64 +
      fld h 6 1 * 128 + fld h 3 3 * 2 + fld h 2 1 * 32
    some (encJ 0 (uval 21 (sval 12 imm)))
  | f =>
    let imm := fld h 12 1 * 256 + fld h 10 2 * 8 + fld h 5 2 * 64 + fld h 3 2 * 2 + fld h 2 1 * 32
    some (encB (f - 6) rs 0 (uval 13 (sval 9 imm)))

/-- A compressed instruction of quadrant 2. -/
def expand2 (h : Nat) : Option Nat :=
  let rd := fld h 7 5
  let rs2 := fld h 2 5
  match fld h 13 3 with
  | 0 => some (encI 0x13 1 rd rd (rs2 + fld h 12 1 * 32))
  | 2 => if rd = 0 then none else some (encI 0x03 2 rd 2 (fld h 12 1 * 32 + fld h 4 3 * 4 + fld h 2 2 * 64))
  | 3 => if rd = 0 then none else some (encI 0x03 3 rd 2 (fld h 12 1 * 32 + fld h 5 2 * 8 + fld h 2 3 * 64))
  | 4 =>
    if fld h 12 1 = 0 then
      if rs2 = 0 then (if rd = 0 then none else some (encI 0x67 0 0 rd 0)) else some (encR 0x33 0 0 rd 0 rs2)
    else if rs2 = 0 then (if rd = 0 then some 0x00100073 else some (encI 0x67 0 1 rd 0))
    else some (encR 0x33 0 0 rd rd rs2)
  | 6 => some (encS 0x23 2 2 rs2 (fld h 9 4 * 4 + fld h 7 2 * 64))
  | 7 => some (encS 0x23 3 2 rs2 (fld h 10 3 * 8 + fld h 7 3 * 64))
  | _ => none

/-- The 32-bit instruction that a 16-bit one stands for. -/
def expandC (h : Nat) : Option Nat :=
  match h % 4 with
  | 0 => expand0 h
  | 1 => expand1 h
  | _ => expand2 h

/-! ## Execution -/

/-- R123: illegal instruction, with the instruction word in mtval. -/
def State.ctIllegal (s : State) (c raw : Nat) : State := s.ctTrap c 2 raw (s.ct c).pc

/-- A jump or branch of the control thread. -/
def State.ctJump (s : State) (c r : Nat) (target : Word) : State :=
  let t := s.ct c
  let s1 := s.setCt c { t.setX r (t.pc + BitVec.ofNat 64 s.actLen) with pc := target }
  s1.setCore c { s1.core c with instret := (s1.core c).instret + 1 }

/-- A base instruction of 32 bits (`raw` is what was fetched). -/
def State.ctBase (s : State) (c w raw : Nat) : State :=
  let t := s.ct c
  let rd := fld w 7 5
  let f3 := fld w 12 3
  let x := (t.xreg (fld w 15 5)).toNat
  let y := (t.xreg (fld w 20 5)).toNat
  let put := fun (v : Option Nat) => match v with
    | some v => s.ctDone c rd (BitVec.ofNat 64 v)
    | none => s.ctIllegal c raw
  match fld w 0 7 with
  | 0x33 => put (rvOp (fld w 25 7) f3 x y)
  | 0x3b => put (rvOp32 (fld w 25 7) f3 (fld w 20 5) x y)
  | 0x13 => put (rvOpImm f3 (fld w 20 12) x)
  | 0x1b => put (rvOpImm32 f3 (fld w 20 12) x)
  | 0x37 => put (some (sext32 (w / 2 ^ 12 * 2 ^ 12)).toNat)
  | 0x17 => put (some (t.pc + sext32 (w / 2 ^ 12 * 2 ^ 12)).toNat)
  | 0x6f =>
    let imm := fld w 21 10 * 2 + fld w 20 1 * 2 ^ 11 + fld w 12 8 * 2 ^ 12 + fld w 31 1 * 2 ^ 20
    s.ctJump c rd (t.pc + BitVec.ofNat 64 (uval 64 (sval 21 imm)))
  | 0x67 =>
    if f3 ≠ 0 then s.ctIllegal c raw
    else s.ctJump c rd (BitVec.ofNat 64 (uval 64 ((x : Int) + sval 12 (fld w 20 12)) / 2 * 2))
  | 0x63 =>
    let imm := fld w 8 4 * 2 + fld w 25 6 * 2 ^ 5 + fld w 7 1 * 2 ^ 11 + fld w 31 1 * 2 ^ 12
    let taken := match f3 with
      | 0 => some (decide (x = y))
      | 1 => some (decide (x ≠ y))
      | 4 => some (decide (sval 64 x < sval 64 y))
      | 5 => some (decide (sval 64 y ≤ sval 64 x))
      | 6 => some (decide (x < y))
      | 7 => some (decide (y ≤ x))
      | _ => none
    match taken with
    | none => s.ctIllegal c raw
    | some true => s.ctJump c 0 (t.pc + BitVec.ofNat 64 (uval 64 (sval 13 imm)))
    | some false => s.ctDone c 0 0
  | _ => s.ctIllegal c raw

end Sys2Proof.Machine
end

