-- ==== Sys2Proof/Machine/Gangs.lean ====
section
/-! DEFINITION. Blocks, gangs and their sequencers, and stopping harts (R129 to R141, R155, R201, R407). -/

namespace Sys2Proof.Machine

/-- R129: a header that keeps its format. -/
def headerGood (w : Nat) : Bool :=
  fld w 26 6 == 0x3f && headerLen w != 0 && fld w 16 5 == 0 && (bit w 21 || fld w 0 16 == 0)

/-- The 16 words of a block. -/
def blockWords (v : Nat) : List Nat := (List.range 16).map fun i => fld v (32 * i) 32

/-! ## The sequencer (R135 to R137) -/

/-- R135: the gang may start its next queued block. -/
def State.canStart (s : State) (c g : Nat) : Bool :=
  let k := s.core c
  let x := k.gang g
  let ready := x.banks.any fun b => (k.hart b).st == .member || (k.hart b).st == .parked
  let held := x.hold && x.banks.any fun b => (k.hart b).st == .split || (k.hart b).st == .faulted
  x.run.isNone && x.queue != [] && ready && !held

/-- R135, R137: the gang starts its next queued block. -/
def State.blockStart (s : State) (c g : Nat) : State :=
  if !s.canStart c g then s
  else
    let x := s.gang c g
    match x.queue with
    | [] => s
    | q :: rest =>
      let s1 := x.banks.foldl (fun t b =>
        if (t.hart c b).st = .parked then t.setHart c b { t.hart c b with st := .member } else t) s
      let parts := x.banks.filter fun b => (s1.hart c b).st == .member
      let run : Running := { words := q.words, va := q.va, seq := q.seq, pos := 1, parts := parts }
      (s1.setGang c g { x with queue := rest, run := some run }).alignPcs c g

/-- R136: the block in progress retires. Retirement is a release of each participant (R375). -/
def State.blockRetire (s : State) (c g : Nat) : State :=
  match (s.gang c g).run with
  | some r =>
    if headerLen (r.words.headD 0) < r.pos && r.parts.all fun b => (s.hart c b).quiet then
      s.setGang c g { s.gang c g with run := none, last := BitVec.ofNat 32 r.seq }
    else s
  | none => s

/-- BLOCK_START (R135). -/
def execBlockStart (core gang : Nat) (s : State) : Res := .next (s.blockStart core gang)
/-- BLOCK_RETIRE (R136). -/
def execBlockRetire (core gang : Nat) (s : State) : Res := .next (s.blockRetire core gang)

/-- R150, mode 1: the gang is idle. -/
def State.gangIdle (s : State) (c g : Nat) : Bool :=
  let x := s.gang c g
  x.queue == [] && x.run.isNone && x.banks.all fun b => (s.hart c b).st != .split

/-! ## Stopping harts (R155, R201, R407) -/

/-- The hart is a participant of the block in progress of its gang. -/
def State.inBlock (s : State) (c b : Nat) : Bool :=
  match (s.hart c b).st, (s.core c).gangOf b with
  | .member, some g => match (s.gang c g).run with
    | some r => r.parts.contains b
    | none => false
  | _, _ => false

/-- A word whose work is done retires, or ends by its own cause. -/
def State.finishWord (s : State) (c b : Nat) : State :=
  match (s.hart c b).pend with
  | some .done =>
    let s1 := s.setPend c b none
    let w := s.wordAt c b
    if s.inBlock c b then
      let g := ((s.core c).gangOf b).getD 0
      s1.gangRetire c g b w true .next
    else s1.retire c b w true .next
  | some (.trapped cause detail egi) => (s.setPend c b none).hartFault c b cause detail egi
  | _ => s

/-- R201: finished words of a stopped hart retire, up to the first that has groups left: `hpc` names it and `egi` its lowest
group not committed. -/
def State.finishWords : Nat → Nat → Nat → State → State
  | 0, _, _, s => s
  | n + 1, c, b, s =>
    match (s.hart c b).pend with
    | some (.lane op) =>
      let s1 := s.endDests c b op
      s1.setHart c b { s1.hart c b with egi := BitVec.ofNat 5 op.next, pend := none }
    | some _ => State.finishWords n c b (s.finishWord c b)
    | none => s

/-- R201, R463: a member that has retired the gang's word goes on in its place at `pc`: past the words behind it that have
ended, up to the first that has not. -/
def State.takeYoung : Nat → Nat → Nat → BitVec 48 → State → State
  | 0, _, _, _, s => s
  | n + 1, c, b, pc, s =>
    let h := s.hart c b
    match h.young with
    | [] => s.setHart c b { h with hpc := pc, egi := 0 }
    | y :: ys =>
      let s1 := s.setHart c b { h with hpc := pc, egi := 0, note := y.note, young := ys }
      match y.op with
      | none =>
        if y.work = some .done then
          let words := ((s.gang c (((s.core c).gangOf b).getD 0)).run.map (·.words)).getD []
          State.takeYoung n c b (pc + 4) (s1.retireNotes c b (words.getD (pc.toNat % 64 / 4) 0) true .next)
        else s1
      | some op =>
        if op.ended then State.takeYoung n c b (pc + 4) (s1.retireNotes c b op.word true .next)
        else s1.setHart c b { s1.hart c b with egi := BitVec.ofNat 5 op.next }

/-- What is left of a stopped hart's block (`Hart.after`), and its place: at a word it has still to retire (0), after the
word (1), or nothing (2). -/
def State.placeLeft (s : State) (c b : Nat) : BitVec 48 × Nat :=
  let h := s.hart c b
  if s.inBlock c b then
    match (s.gang c (((s.core c).gangOf b).getD 0)).run with
    | some r =>
      if r.done.contains b then
        if r.pos < headerLen (r.words.headD 0) then (h.hpc + 4, 0) else (h.hpc, 1)
      else (h.hpc, 0)
    | none => (h.hpc, 0)
  else match h.st with
    | .member => (h.hpc, 2)
    | .parked => (h.hpc, 2)
    | _ => (h.hpc, h.after)

/-- A hart that has been stopped becomes FAULTED with `0x86 HART_KILLED`. -/
def State.killed (s : State) (c b egi : Nat) : State :=
  let (pc, left) := s.placeLeft c b
  let s0 := if pc = (s.hart c b).hpc then s.setHart c b { s.hart c b with egi := BitVec.ofNat 5 egi }
    else (s.keepYoung c b).takeYoung 16 c b pc
  let s1 := s0.hartFault c b 0x86 0 (s0.hart c b).egi.toNat
  s1.setHart c b { s1.hart c b with after := left }

/-- An atomic operation of the hart is at another module or at the host, or its answer has come (R388, R396), or its REF has rows
left to start (R187, R405): a stop waits for it to retire. -/
def Hart.midway (h : Hart) : Bool :=
  match h.pend with
  | some (.column _) => (h.req.map Req.effect).getD false || ((h.hostGot != []) && h.req.isNone)
  | some (.refresh _ _) => true
  | _ => false

/-- R201, R255: the work of a hart that must stop is brought to its boundary; a matched Serge transfer finishes first. -/
def State.stopHart (s : State) (c b : Nat) : State × Option Nat := ((s.sergeTry [] c b).getD s).stopWork c b

/-- R155: the hart is stopped with `0x86 HART_KILLED`; a cause of its own stands (R400). DEDUCED, log 39, unsafe. -/
def State.killHart (s : State) (c b : Nat) : State :=
  match (s.hart c b).st with
  | .free => s
  | .faulted => s
  | _ =>
    match s.stopHart c b with
    | (s1, some e) => s1.killed c b e
    | (s1, none) =>
      let s2 := s1.finishWords 17 c b
      if (s2.hart c b).st = .faulted then s2 else s2.killed c b (s2.hart c b).egi.toNat

/-- R155: the harts of a bitmap. -/
def State.killHarts (s : State) (c : Nat) (bs : List Nat) : State := bs.foldl (fun t b => t.killHart c b) s

/-- R155: harts named by an HKILL that are midway through a word stop at its end, before their next one. -/
def State.markDying (s : State) (c : Nat) (bs : List Nat) : State :=
  bs.foldl (fun t b => t.setHart c b { t.hart c b with dying := true }) s

/-- R155: those of the harts `bs` that HKILL has named stop, once they are midway no more. -/
def State.stopDying (s : State) (c : Nat) (bs : List Nat) : State :=
  s.killHarts c (bs.filter fun b => (s.hart c b).dying && !(s.hart c b).midway)

/-- R201, R407: the hart stops at a boundary, and keeps its state. -/
def State.pauseHart (s : State) (c b : Nat) : State :=
  if (s.hart c b).midway then s
  else match (s.noFirst (.hart c b)).stopHart c b with
  | (s1, some e) => s1.setHart c b { s1.hart c b with egi := BitVec.ofNat 5 e, pend := none, req := none, hostGot := [] }
  | (s1, none) => s1.finishWords 17 c b

def State.pauseHarts (s : State) (c : Nat) : State := (List.range 32).foldl (fun t b => t.pauseHart c b) s

end Sys2Proof.Machine
end

