-- ==== Sys2Proof/Machine/Xhlm.lean ====
section
/-! DEFINITION. The Xhlm instructions that act on the core: gangs, blocks, harts, events and counters (R146 to R156,
R161, R225). -/

namespace Sys2Proof.Machine

/-- What an Xhlm instruction does: it completes with rd, waits, or raises a cause with its detail. -/
inductive XRes
  | done (s : State) (v : Word)
  | wait (s : State)
  | trap (s : State) (code detail : Nat)
deriving DecidableEq, Repr, Inhabited

/-- The end of an Xhlm instruction of the acting core. -/
def XRes.end (r : XRes) (d : BitVec 5) : Res :=
  .next (match r with
    | .done s v => s.ctDone s.actCore d.toNat v
    | .wait s => s
    | .trap s code detail => s.ctCause s.actCore code detail)

/-- The values of rs1 and rs2. -/
def State.rs1 (s : State) (o : XH) : Nat := ((s.ct s.actCore).xreg o.a.toNat).toNat
def State.rs2 (s : State) (o : XH) : Nat := ((s.ct s.actCore).xreg o.b.toNat).toNat

/-- R146: `0xE0 XHLM_OPERAND`. -/
def xhlmOperand (s : State) (i : Instr) : XRes := .trap s 0xe0 i.word

/-! ## GDEF (R148) -/

/-- R143: every link queue of a hart is emptied. -/
def Hart.noLinks (h : Hart) : Hart := { h with fromW := [], fromE := [], fromCT := [], toCT := [] }

/-- R148. -/
def State.gdef (s : State) (c g new : Nat) (hold : Bool) : XRes :=
  let k := s.core c
  let x := k.gang g
  let taken := (List.range 32).find? fun b =>
    new.testBit b && match k.gangOf b with | some q => q != g | none => false
  if x.queue ≠ [] ∨ x.run.isSome ∨ (x.banks.any fun b => (k.hart b).st == .split) then .trap s 0xe1 g
  else match taken with
    | some b => .trap s 0xe2 b
    | none =>
      let old := x.members.toNat
      let s1 := (List.range 32).foldl (fun t b =>
        let h := t.hart c b
        let h1 := if old.testBit b || new.testBit b then h.noLinks else h
        let h2 := if old.testBit b && !new.testBit b then { h1 with st := .free, after := 0 }
          else if new.testBit b && !old.testBit b then { h1 with st := .member, after := 0 } else h1
        if h2 = h then t else t.setHart c b h2) s
      .done (s1.setGang c g { x with members := BitVec.ofNat 32 new, hold := hold }) (BitVec.ofNat 64 old)

/-- R148. -/
def execGdef (o : XH) (s : State) : Res :=
  (if 2 ^ 32 ≤ s.rs1 o ∨ 2 ≤ s.rs2 o then xhlmOperand s (.gdef o)
   else s.gdef s.actCore o.g.toNat (s.rs1 o) (s.rs2 o == 1)).end o.d

/-! ## BCAST and BCASTN (R149) -/

/-- The blocks at `va`, through the instruction cache. -/
def State.fetchBlocks (c : Nat) : Nat → Nat → State → List (List Nat × Nat) → XRes ⊕ (State × List (List Nat × Nat))
  | 0, _, s, acc => .inr (s, acc.reverse)
  | n + 1, va, s, acc =>
    match s.ctLine c va with
    | .trap s' code detail => .inl (.trap s' code detail)
    | .wait s' => .inl (.wait s')
    | .done s' v =>
      let ws := blockWords v
      if !headerGood (ws.headD 0) then .inl (.trap s' 0x0b va)
      else State.fetchBlocks c n ((va + 64) % 2 ^ 64) s' ((ws, va) :: acc)

/-- R149: `n` blocks join the gang's queue. -/
def State.bcast (s : State) (c g va n : Nat) : XRes :=
  if (s.gang c g).members = 0 then .trap s 0xe3 g
  else match State.fetchBlocks c n va s [] with
    | .inl r => r
    | .inr (s1, blks) =>
      let x := s1.gang c g
      if Config.gangQueueSize < x.queue.length + n then .wait s1
      else
        let q := blks.zipIdx.map fun e => ({ words := e.1.1, va := e.1.2, seq := (x.nextSeq.toNat + e.2) % 2 ^ 32 } : Queued)
        .done (s1.setGang c g { x with queue := x.queue ++ q, nextSeq := x.nextSeq + BitVec.ofNat 32 n })
          (x.nextSeq.setWidth 64)

/-- R149. -/
def execBcast (o : XH) (s : State) : Res :=
  (if s.rs1 o % 64 ≠ 0 then xhlmOperand s (.bcast o) else s.bcast s.actCore o.g.toNat (s.rs1 o) 1).end o.d

/-- R149. -/
def execBcastn (o : XH) (s : State) : Res :=
  (if s.rs1 o % 64 ≠ 0 ∨ s.rs2 o = 0 ∨ 8 < s.rs2 o then xhlmOperand s (.bcastn o)
   else s.bcast s.actCore o.g.toNat (s.rs1 o) (s.rs2 o)).end o.d

/-! ## GWAIT (R150) -/

/-- R150: sequence number `n` counts as retired. -/
def seqRetired (last : BitVec 32) (n : Nat) : Bool := decide ((last - BitVec.ofNat 32 n).toNat < 2 ^ 31)

/-- R150. -/
def execGwait (o : XH) (s : State) : Res :=
  let c := s.actCore
  let x := s.gang c o.g.toNat
  let faulted := x.banks.filter fun b => (s.hart c b).st == .faulted
  let met := if s.rs2 o = 0 then seqRetired x.last (s.rs1 o) else s.gangIdle c o.g.toNat
  (if 1 < s.rs2 o then xhlmOperand s (.gwait o)
   else if !met && faulted == [] then .wait s
   else .done (if met then s.ctAcquire c else s)
     (BitVec.ofNat 64 (bnat met * 2 ^ 32 + faulted.foldl (fun a b => a + 2 ^ b) 0))).end o.d

/-! ## GSET and HGET (R151, R152, R225) -/

/-- R151: the fields of a selector: space, index, bank; or refused. -/
def selector (v : Nat) : Option (Nat × Nat × Nat) :=
  let space := fld v 12 2
  let idx := fld v 8 4
  if 2 ^ 14 ≤ v ∨ fld v 5 3 ≠ 0 ∨ space = 3 ∨ (space = 1 ∧ 11 ≤ idx) ∨ (space = 2 ∧ idx ≠ 0) then none
  else some (space, idx, fld v 0 5)

/-- R152: SPACE 0 and 1 act on the hart now. -/
def State.mayAct (s : State) (c b : Nat) : Bool :=
  match (s.hart c b).st with
  | .split => false
  | .member => match (s.core c).gangOf b with
    | some g => (s.gang c g).queue == [] && (s.gang c g).run.isNone
    | none => true
  | _ => true

/-- R225: a GSET of `hpc` or `egi` that takes effect. -/
def Hart.gsetPlace (h : Hart) (isPc : Bool) (v : Nat) : Hart :=
  let h1 := { h with hcause := 0, after := 0, aheadRecv := none, aheadSent := false, reSensed := [], drawn := [], young := []
                     far := none }
  if !isPc then { h1 with egi := BitVec.ofNat 5 v }
  else
    let same := v / 64 * 64 == h.faultVa
    { h1 with
      hpc := BitVec.ofNat 48 (v / 4 * 4)
      repact := h.repact && same
      repi := if same then h.repi else 0 }

/-- R225: the write of special register `n`; `none` is refused. -/
def Hart.gsetSreg (h : Hart) (n : Nat) (v : Word) : Option Hart :=
  let open_ := h.st == .faulted || h.st == .free
  if n = 2 then
    if !open_ then some h else if 32 ≤ v.toNat then none else some (h.gsetPlace false v.toNat)
  else if n = 3 then
    if !open_ then some h
    else if 2 ^ 48 ≤ v.toNat ∨ fld v.toNat 2 4 = 0 then none else some (h.gsetPlace true v.toNat)
  else if sregRefused n v then none
  else some (h.setSreg n v)

/-- R152. -/
def execGset (o : XH) (s : State) : Res :=
  let c := s.actCore
  let v := (s.ct c).xreg o.b.toNat
  (match selector (s.rs1 o) with
    | none => xhlmOperand s (.gset o)
    | some (space, n, b) =>
      let h := s.hart c b
      if space = 2 then
        if Config.linkQueueSize ≤ h.fromCT.length then .wait s
        else .done (s.setHart c b { h with fromCT := h.fromCT ++ [v] }) 0
      else if !s.mayAct c b then .wait s
      else if space = 0 then .done (s.setHart c b (h.setG n v)) 0
      else match h.gsetSreg n v with
        | none => xhlmOperand s (.gset o)
        | some h1 => .done (s.setHart c b h1) 0).end o.d

/-- R152. -/
def execHget (o : XH) (s : State) : Res :=
  let c := s.actCore
  (match selector (s.rs1 o) with
    | none => xhlmOperand s (.hget o)
    | some (space, n, b) =>
      let h := s.hart c b
      if space = 2 then
        match h.toCT with
        | [] => .wait s
        | v :: q => .done (s.setHart c b { h with toCT := q }) v
      else if !s.mayAct c b then .wait s
      else .done s (if space = 0 then h.greg n else s.sreg c b n)).end o.d

/-! ## HSTAT, HRESUME, HKILL (R153 to R155) -/

/-- R153. -/
def State.hartStatus (s : State) (c b : Nat) : Word :=
  let h := s.hart c b
  let g := (s.core c).gangOf b
  let f := h.st == .faulted
  BitVec.ofNat 64 (h.st.code + g.getD 0 * 2 ^ 4 + bnat g.isSome * 2 ^ 7 + h.fromE.length * 2 ^ 8 +
    h.fromW.length * 2 ^ 12 + h.toCT.length * 2 ^ 16 + h.fromCT.length * 2 ^ 20 +
    (if f then h.hcause.toNat * 2 ^ 24 + h.repi.toNat * 2 ^ 32 else 0))

/-- R153. -/
def execHstat (o : XH) (s : State) : Res :=
  (if 32 ≤ s.rs1 o then xhlmOperand s (.hstat o) else .done s (s.hartStatus s.actCore (s.rs1 o))).end o.d

/-- R139, R154, R222, R419: a FAULTED hart goes on in SPLIT state from its saved place; after TRAPI and BRK, after the
word. -/
def Hart.resume (h : Hart) : Hart :=
  let skip := h.hcause = 0x08 ∨ h.hcause = 0xc1
  let after := if h.after ≠ 0 then h.after else if skip then 1 else 0
  if after = 2 then { h with st := .parked, after := 0 }
  else { h with st := .split, blk := [], after := after, bpSkip := h.hcause == 0xc2,
                bcastKind := h.bcastKind && h.faultVa == h.blockVa,
                sigOff := decide (1 < h.wordIdx) || after == 1 }

/-- R154. -/
def execHresume (o : XH) (s : State) : Res :=
  let c := s.actCore
  let b := s.rs1 o
  (if 32 ≤ b then xhlmOperand s (.hresume o)
   else if (s.hart c b).st ≠ .faulted then .trap s 0xe4 (s.hart c b).st.code
   else .done (s.setHart c b (s.hart c b).resume) 0).end o.d

/-- R155. A hart midway through a word is marked, and stops before its next one; HKILL completes then. -/
def execHkill (o : XH) (s : State) : Res :=
  let v := s.rs1 o
  (if 2 ^ 32 ≤ v then xhlmOperand s (.hkill o)
   else
     let named := (List.range 32).filter fun b => v.testBit b
     let late := named.filter fun b => (s.hart s.actCore b).midway
     let s1 := s.killHarts s.actCore (named.filter fun b => !(s.hart s.actCore b).midway)
     if late ≠ [] then .wait (s1.markDying s.actCore late) else .done s1 0).end o.d

/-! ## EVWAIT and EVPOLL (R145, R156) -/

/-- R145: the 64 bytes of a record. -/
def EvRec.bits (r : EvRec) : Nat :=
  r.cause.toNat + r.src.toNat * 2 ^ 8 + r.bank.toNat * 2 ^ 16 + r.gang.toNat * 2 ^ 24 + r.detail.toNat * 2 ^ 64 +
    r.time * 2 ^ 128 + r.hpc.toNat * 2 ^ 192 + r.body.toNat * 2 ^ 256

/-- The words of a record in the data cache. -/
def State.storeWords (c va v : Nat) : List Nat → State → CtAcc
  | [], s => .done s 0
  | k :: ks, s =>
    match s.ctWrite c (va + 8 * k) 8 (fld v (64 * k) 64) with
    | .done s' _ => State.storeWords c va v ks s'
    | r => r

/-- R156: the one 64-byte store of a record: one write to host memory, or the eight words of a line of the data cache, which
its first word brings in. -/
def State.storeRecord (s : State) (c va v : Nat) : CtAcc :=
  match s.colAt c (s.dataMach c) va 64 false true with
  | .error (cause, detail) => .trap s cause detail
  | .ok (.host bus) => match s.store (.ct c) (some c) va (.host bus) 64 v with
    | .wait s' => .wait (s.keepRequest s' (.ct c))
    | .done s' _ _ => .done s' 0
  | .ok _ => State.storeWords c va v (List.range 8) s

/-- R156: the oldest record is taken. -/
def State.takeEvent (s : State) (c va : Nat) (i : Instr) (wait : Bool) : XRes :=
  if va % 64 ≠ 0 then xhlmOperand s i
  else match (s.core c).evq with
    | [] => if wait then .wait s else .done s 0
    | r :: rest =>
      match s.storeRecord c va r.bits with
      | .wait s' => .wait (s.keepRequest s' (.ct c))
      | .trap _ code detail => .trap s code detail
      | .done s1 _ =>
        .done ((State.drainEvents Config.eventQueueSize c (s1.setCore c { s1.core c with evq := rest })).ctAcquire c)
          (r.cause.setWidth 64)

/-- R156. -/
def execEvwait (o : XH) (s : State) : Res := (s.takeEvent s.actCore (s.rs1 o) (.evwait o) true).end o.d
/-- R156. -/
def execEvpoll (o : XH) (s : State) : Res := (s.takeEvent s.actCore (s.rs1 o) (.evpoll o) false).end o.d

/-- EVENT_RECORD_ENTER (R144): records that wait for space enter the core's queue. -/
def execEventRecordEnter (core : Nat) (s : State) : Res := .next (State.drainEvents Config.eventQueueSize core s)

/-! ## CTBAR (R161) -/

/-- R161: the counter of rs1, and the operand of rs2; or refused. -/
def ctbarArgs (x y : Nat) : Option (Bool × Nat × BitVec 32) :=
  let hub := bit x 8
  if 2 ^ 9 ≤ x ∨ (!hub ∧ 64 ≤ fld x 0 8) ∨ 2 ^ 32 ≤ y then none else some (hub, fld x 0 8, BitVec.ofNat 32 y)

/-- A CTBAR operation on a counter that can be read. -/
def State.ctbar (s : State) (i : Instr) (o : XH) (f : State → Bool → Nat → BitVec 32 → BitVec 32 → XRes) : XRes :=
  match ctbarArgs (s.rs1 o) (s.rs2 o) with
  | none => xhlmOperand s i
  | some (hub, n, y) =>
    match s.readCtr hub s.actCore n with
    | (s1, none) => .trap (s1.withdraw s.actCore none) 0x42 (ctrNo hub n * 2 ^ 32 + i.word)
    | (s1, some x) => f s1 hub n x y

/-- A change of a counter: a release of the thread first. -/
def State.ctbarChange (s : State) (hub : Bool) (n : Nat) (x new : BitVec 32) : XRes :=
  match s.ctRelease s.actCore with
  | .wait s' => .wait s'
  | .done s' _ _ => .done (s'.writeCtr hub s.actCore n new) (x.setWidth 64)

/-- R161. -/
def execCtbarArrive (o : XH) (s : State) : Res :=
  (s.ctbar (.ctbarArrive o) o fun s hub n x y => s.ctbarChange hub n x (ctrAdd x y)).end o.d

/-- R161. -/
def execCtbarSempost (o : XH) (s : State) : Res :=
  (s.ctbar (.ctbarSempost o) o fun s hub n x y => s.ctbarChange hub n x (ctrPost x y)).end o.d

/-- R161, R391: CTBAR.SET writes all three copies of a failed counter too; its old value is then copy 0. -/
def execCtbarSet (o : XH) (s : State) : Res :=
  (match ctbarArgs (s.rs1 o) (s.rs2 o) with
    | none => xhlmOperand s (.ctbarSet o)
    | some (hub, n, y) =>
      match s.readCtr hub s.actCore n with
      | (s1, x) => s1.ctbarChange hub n (x.getD (s.ctr hub s.actCore n).c0) y).end o.d

/-- The control thread's place among the waiters of a counter. -/
def ctWaits (c : Nat) (l : List CtrWait) : Bool := l.any fun w => w.core == c && w.bank == none

/-- R161, R392. -/
def execCtbarWait (o : XH) (s : State) : Res :=
  (s.ctbar (.ctbarWait o) o fun s hub n x y =>
    let c := s.actCore
    if y.toNat ≤ x.toNat then .done ((s.withdraw c none).ctAcquire c) (x.setWidth 64)
    else
      let k := s.ctr hub c n
      if ctWaits c k.bars then .wait s
      else .wait (s.setCtr hub c n { k with bars := k.bars ++ [⟨c, none, y.toNat, o.d.toNat⟩] })).end o.d

/-- R161, R392. -/
def execCtbarSemwait (o : XH) (s : State) : Res :=
  (s.ctbar (.ctbarSemwait o) o fun s hub n _ y =>
    let c := s.actCore
    let k := s.ctr hub c n
    let s1 := if ctWaits c k.sems then s
      else s.setCtr hub c n { k with sems := k.sems ++ [⟨c, none, y.toNat, o.d.toNat⟩] }
    match (s1.ctr hub c n).sems with
    | w :: _ =>
      if w.core = c ∧ w.bank = none then
        match s1.semGrant hub c n with
        | some (s2, _, v) => .done (s2.ctAcquire c) (v.setWidth 64)
        | none => .wait s1
      else .wait s1
    | [] => .wait s1).end o.d

end Sys2Proof.Machine
end

