-- ==== Sys2Proof/Machine/Tasks.lean ====
section
/-! DEFINITION. How a task ends on a core and as a whole: disposal, completion records, SIGNAL, MSI-X (R70, R77 to R79,
R160, R403, R404, R423, R424, R452). -/

namespace Sys2Proof.Machine

/-! ## Queue events (R69, R70) -/

/-- ERRVEC: the vector of any QSTAT or GSTAT.E2EEV event (R69). -/
def State.errVector (s : State) : State := if s.bar.errEn then s.send (.msix 0 s.bar.errVec.toNat) else s

/-- A QSTAT bit is set (R70): 0 DBERR, 1 CFGERR, 2 CQWERR, 3 CQHELD, 4 NOCQ, 5 VECERR. -/
def State.qevent (s : State) (q n : Nat) : State :=
  let x := s.qblock q
  (s.setQ q { x with qstat := x.qstat ||| BitVec.ofNat 6 (2 ^ n) }).errVector

/-- R83 to R85: a check-value event at entry or exit. -/
def State.e2eEvent (s : State) : State := { s with bar := { s.bar with e2eev := true } }.errVector

/-! ## Completion records (R77 to R79) -/

/-- R77: the record with PHASE 0. SOURCE 64 stands for LAUNCH. A count of more than 32 bits is written as 2^32 - 1: no rule says
what UNCHECKED holds then. DESIGN CHOICE, log 80, unsafe. -/
def completion (usertag kind code source module detail time unchecked gen : Nat) : BitVec 256 :=
  BitVec.ofNat 256 (usertag + (code % 256 + kind * 2 ^ 8) * 2 ^ 64 + (if source < 64 then source else 0xff) * 2 ^ 80 +
    module * 2 ^ 88 + detail % 2 ^ 32 * 2 ^ 96 + time % 2 ^ 64 * 2 ^ 128 + min unchecked (2 ^ 32 - 1) * 2 ^ 192 +
    gen * 2 ^ 224)

/-- The queue that a record's CQ field names, and its other fields (R61). -/
def cqQueue (cq : Word) : Nat := fld cq.toNat 0 6
def cqEnabled (cq : Word) : Bool := cq.getLsbD 6
def cqIrq (cq : Word) : Bool := cq.getLsbD 7
def cqVector (cq : Word) : Nat := fld cq.toNat 8 11

/-- R78, step 3: SIGNAL; one aimed at a failed counter is discarded and logged (R391). -/
def State.signal (s : State) (w : Word) : State :=
  if !w.getLsbD 8 then s
  else
    let n := fld w.toNat 0 8
    match s.readCtr true 0 n with
    | (s1, none) => s1.logHub 0x42 (ctrNo true n)
    | (s1, some v) => s1.writeCtr true 0 n (ctrPost v (BitVec.ofNat 32 (fld w.toNat 32 32)))

/-- R78, step 4: the message of a record written, or discarded under CQWERR. -/
def State.message (s : State) (fn q : Nat) (cq : Word) : State :=
  if !cqEnabled cq || !cqIrq cq then s
  else if fn = 0 ∨ cqVector cq < 64 then s.send (.msix fn (cqVector cq))
  else s.qevent q 5

/-- R78: a record is written at the tail of its ring, and steps 2 to 4 follow. -/
def State.putRecord (s : State) (h : Held) : State :=
  let x := s.qblock h.q
  let a := x.cqBase.toNat * 4096 + 32 * x.cqTail.toNat
  let s1 := if s.dmaAllows h.fn a 32 true then
      s.send (.recordWrite a (if x.cqPasidEn then some x.cqPasid.toNat else none)
        (h.record.toNat + bnat x.cqPhase * 2 ^ 79))
    else s.qevent h.q 2
  let tail := (x.cqTail.toNat + 1) % 2 ^ x.cqLog.toNat
  let y := s1.qblock h.q
  let s2 := s1.setQ h.q { y with cqTail := BitVec.ofNat 16 tail, cqPhase := if tail = 0 then !y.cqPhase else y.cqPhase }
  (s2.signal h.signal).message h.fn h.q h.cq

/-- R79: the completion ring is full. -/
def State.ringFull (s : State) (q : Nat) : Bool :=
  let x := s.qblock q
  (x.cqTail.toNat + 1) % 2 ^ x.cqLog.toNat == x.cqHead.toNat

/-- R70, R79: CQHELD is set. -/
def State.markHeld (s : State) (q : Nat) : State := if (s.qblock q).qstat.getLsbD 3 then s else s.qevent q 3

/-- R78, R79: a record goes to its ring, or behind those held for it; `false` where the hold is full. -/
def State.deliver (s : State) (h : Held) : State × Bool :=
  if !s.ringFull h.q && !s.sched.held.any (fun x => x.q == h.q) then (s.putRecord h, true)
  else
    let s1 := s.markHeld h.q
    if s1.sched.held.length < Config.holdLimit then
      ({ s1 with sched := { s1.sched with held := s1.sched.held ++ [h] } }, true)
    else (s1, false)

/-- R70, R73: no record can be written for function `fn`. -/
def State.noQueue (s : State) (fn q : Nat) : Bool :=
  let x := s.qblock q
  !x.cqEn || x.cqOwner.toNat != fn

/-- HELD_RECORD_WRITE (R79): the oldest record held for a queue is written once its ring has room. Where the queue has been
disabled or enabled again meanwhile, it is written all the same, at the tail that the queue then has.
DESIGN CHOICE, log 81, unsafe. -/
def State.writeHeld (s : State) (q : Nat) : State :=
  match s.sched.held.find? fun h => h.q == q with
  | some h =>
    if s.ringFull q then s
    else { s with sched := { s.sched with held := s.sched.held.erase h } }.putRecord h
  | none => s

/-- R79. -/
def execHeldRecordWrite (q : Nat) (s : State) : Res := .next (s.writeHeld q)

/-! ## Disposal of a core (R423, R424) -/

/-- The control thread stops; what belongs to the runtime, the fields of hmsave among it, stays. DEDUCED, log 42, unsafe. -/
def Ct.stopped (t : Ct) : Ct :=
  { mtvec := t.mtvec, mscratch := t.mscratch, meie := t.meie, logv := t.logv, err := t.err
    sctx := t.sctx, slot := t.slot, sbank := t.sbank, op := t.op }

/-- What is left of a hart: its copies in progress run to their ends (R265), and its retired stores are performed (R395). -/
def Hart.ended (h : Hart) (b : Nat) : Hart :=
  { Hart.init b with
    slots := h.slots.filter (fun e => e.2.busy), stores := h.stores, storeReq := h.storeReq, storeGot := h.storeGot }

/-- R423, step 1: a bank of the context. -/
def Bank.dispose (x : Bank) (ctx : Nat) : Bank :=
  if x.owner = ctx ∧ ctx ≠ 0 then { x with owner := 0, regs := [], masks := [] } else x

/-- The save rows of a slot hold no context (R409). -/
def Bank.freeRows (x : Bank) (slot : Nat) : Bank :=
  { x with sags := x.sags.mapVals fun _ g =>
      { g with saveRows := (g.saveRows.drop (2 * slot)).drop (2 * slot + 1) } }

/-- R403, R423: the bank state of context `ctx` is disposed of, what is saved of it is discarded, and the save rows of its slot
are free. -/
def Core.dropCtx (k : Core) (ctx : Nat) : Core :=
  let slot := (k.saved.find ctx).bind (·.slot)
  { k with
    banks := k.banks.mapVals fun _ x => match slot with
      | some n => (x.dispose ctx).freeRows n
      | none => x.dispose ctx
    saved := k.saved.drop ctx }

/-- R423: what the task leaves on its core. -/
def Core.endWork (k : Core) : Core :=
  { k.dropCtx k.ctx.toNat with
    st := .ended, ct := k.ct.stopped, gangs := [], harts := k.harts.mapVals fun b h => h.ended b
    evq := [], ctrs := [], tiles := [], engine := [], stage := none, ringq := [], ringReq := none, ringGot := [] }

/-- R366: the core's harts leave every RED instance. -/
def State.coreLeavesReds (s : State) (c : Nat) : State :=
  { s with cores := s.cores.mapVals fun _ k =>
      { k with reds := k.reds.mapVals fun _ ps => ps.filter fun p => p.core != c } }

/-- R392: the waits of a core leave the queues of the hub's counters. -/
def State.coreLeavesCtrs (s : State) (c : Nat) : State :=
  { s with hctrs := s.hctrs.mapVals fun _ x =>
      { x with sems := x.sems.filter (fun w => w.core != c), bars := x.bars.filter (fun w => w.core != c) } }

/-- The acceptance unit's request and what it has been answered are gone. -/
def State.forget (s : State) (w : Waiter) : State := (s.setHostData w []).setReq w none

/-- The record in service is one of LAUNCH. -/
def Serving.launch : Serving → Bool
  | .reading q _ _ _ => q == 64
  | .record q _ _ _ => q == 64
  | .packet _ _ => false

/-- The LAUNCH of a core's control thread leaves the acceptance unit, which serves the oldest. -/
def State.dropLaunch (s : State) (c : Nat) : State :=
  let rest := s.sched.launches.filter fun l => l.core != c
  let first := (s.sched.launches.head?.map fun l => l.core == c).getD false
  if first && (s.sched.serving.map Serving.launch).getD false then
    { s with sched := { s.sched with launches := rest, serving := none } }.forget .hub
  else { s with sched := { s.sched with launches := rest } }

/-- R423: the task's work ends on core `c`. -/
def State.endWork (s : State) (c : Nat) : State :=
  let s1 := ((s.setCore c (s.core c).endWork).coreLeavesReds c).coreLeavesCtrs c
  { s1 with fen := { s1.fen with waiting := s1.fen.waiting.filter fun e => e.1 != c } }.dropLaunch c

/-- R403, step 2: a saved context of a task is discarded on core `c`. -/
def State.dropSaved (s : State) (num c : Nat) : State :=
  let k := s.core c
  let mine := k.saved.filter fun e => e.2.task == num
  s.setCore c (mine.foldl (fun q e => q.dropCtx e.1) k)

/-! ## The end of a task (R77 to R79, R403, R404, R452) -/

def State.task (s : State) (n : Nat) : Option Task := s.sched.tasks.find? fun t => t.num == n

def State.mapTask (s : State) (n : Nat) (f : Task → Task) : State :=
  { s with sched := { s.sched with tasks := s.sched.tasks.map fun t => if t.num = n then f t else t } }

/-- The task is on its cores. -/
def Task.live (t : Task) : Bool := t.stage == .running || t.stage == .ending

/-- R94, R423: core `c` is assigned to task `n`. -/
def State.holds (s : State) (c n : Nat) : Bool := (s.core c).task == some n

/-- R452: the hub's command that brings a cluster back to ON. DEDUCED, log 54, unsafe. -/
def State.clusterBack (s : State) (n : Nat) : State :=
  let x := s.clusterAt n
  if x.state = 0 ∧ x.busy.isNone then s
  else s.setCluster n { x with busy := some (match x.busy with
      | some k => 8 + k
      | none => if x.state = 3 then 5 else 4) }

/-- R94: the core is assigned to no task. -/
def Core.release (k : Core) : Core := { k with task := none, ctx := 0, st := .free, asid := 0, gen := 0, flags := 0 }

/-- R79, R452: the cores of a task that has ended. -/
def State.freeCores (s : State) (t : Task) : State :=
  let s1 := t.cores.foldl (fun u c =>
    if u.holds c t.num then
      u.setCore c (u.core c).release
    else u) s
  ((t.cores.map fun c => c / 4).eraseDups).foldl (fun u n => u.clusterBack n) s1

/-- R79: the task is gone. -/
def State.dropTask (s : State) (t : Task) : State :=
  let s1 := s.freeCores t
  { s1 with sched := { s1.sched with tasks := s1.sched.tasks.filter fun x => x.num != t.num } }

/-- R77: a task's completion record. -/
def State.taskRecord (s : State) (t : Task) (e : TaskEnd) : Held :=
  { q := cqQueue t.recd.cq, fn := t.fn, signal := t.recd.signal, cq := t.recd.cq
    record := completion t.recd.usertag.toNat e.kind.toNat e.code.toNat t.source s.flash.modId.toNat e.detail.toNat s.now
      t.unchecked t.recd.gen.toNat }

/-- R265, R395: a copy in progress, or a retired store not yet performed, on a core of the task. -/
def State.copying (s : State) (t : Task) : Bool :=
  t.cores.any fun c => s.holds c t.num && (s.core c).harts.any fun e => e.2.stores != [] || e.2.slots.any fun x => x.2.busy

/-- R78, R79: the task's record, SIGNAL and message; the task ends unless the hold is full. -/
def State.finishTask (s : State) (t : Task) (e : TaskEnd) : State × Bool :=
  if s.copying t then (s, false)
  else if !cqEnabled t.recd.cq then ((s.signal t.recd.signal).dropTask t, true)
  else if s.noQueue t.fn (cqQueue t.recd.cq) then
    (((s.qevent (cqQueue t.recd.cq) 4).signal t.recd.signal).dropTask t, true)
  else match s.deliver (s.taskRecord t e) with
    | (s1, true) => (s1.dropTask t, true)
    | (s1, false) => (s1, false)

/-- R96: a save of the task is in progress. -/
def State.saving (s : State) (t : Task) : Bool :=
  t.cores.any fun c => s.holds c t.num && (s.core c).st == .saving

/-- R155, R403: harts stop as by HKILL: at once, or at the end of the word that they are midway through. -/
def State.stopHarts (s : State) (c : Nat) (bs : List Nat) : State :=
  (s.killHarts c (bs.filter fun b => !(s.hart c b).midway)).markDying c (bs.filter fun b => (s.hart c b).midway)

/-- Some of the harts are midway through a word. -/
def State.anyMidway (s : State) (c : Nat) (bs : List Nat) : Bool := bs.any fun b => (s.hart c b).midway

/-- The cores on which a task has work. -/
def State.workCores (s : State) (t : Task) : List Nat := t.cores.filter fun c => s.holds c t.num && (s.core c).st != .ended

/-- R403, step 1: on every core of a task that ends, its harts stop as by HKILL and its control thread stops. -/
def State.stopTask (s : State) (t : Task) : State :=
  (s.workCores t).foldl (fun u c => (u.setCt c { u.ct c with running := false }).stopHarts c (u.core c).harts.keys) s

/-- R403: a hart of a task that ends has still to stop. -/
def State.stopping (s : State) (t : Task) : Bool := (s.workCores t).any fun c => s.anyMidway c (s.core c).harts.keys

/-- R403: on every core of a task that ends, its work ends and its saved contexts are discarded. -/
def State.disposeTask (s : State) (t : Task) : State :=
  t.cores.foldl (fun u c =>
    let u1 := u.dropSaved t.num c
    if u1.holds c t.num && (u1.core c).st != .ended then u1.endWork c else u1) s

/-- The agenda's next turn falls in the hub clk of this one, as another agent's does. -/
def State.sameClk (s : State) : Bool :=
  match s.agenda with
  | [] => false
  | .tick n :: _ => n == 0
  | _ => true

/-- A task whose end has been decided goes on to its record, once the events of the hub clk of its end have all arisen (R403), no save
is in progress (R96) and its harts have stopped. -/
def State.goEnd (s : State) (n : Nat) : State :=
  match s.task n with
  | none => s
  | some t => match t.ends with
    | none => s
    | some e =>
      if s.saving t || (t.endAt == s.now && s.sameClk) then s
      else
        let s1 := if t.stage = .ending then s else s.stopTask t
        if s1.stopping t then s1
        else
          let s2 := if t.stage = .ending then s1 else (s1.disposeTask t).mapTask n fun x => { x with stage := .ending }
          match s2.task n with
          | some t1 => (s2.finishTask t1 e).1
          | none => s2

/-- R403: which of the ends that fall in one hub clk is written: KIND 0, then KIND 2 with the lowest core, then KIND 3. Where an abort of
a span (R80) stands among them is not stated: DEDUCED, log 90, unsafe. -/
def TaskEnd.rank (e : TaskEnd) : Nat := if e.kind = 0 then 0 else if e.kind = 2 then 1 + e.detail.toNat else 2 ^ 33

/-- R403: an end that is not written is logged only: a cause, with its logical core. -/
def State.logEnd (s : State) (e : TaskEnd) : State :=
  if e.kind = 2 then s.logEvent e.code.toNat 0 e.detail.toNat e.detail.toNat 0 else s

/-- R403: a task ends by `e`. Of two ends, one is written: the first in hub time, or of one hub clk that of the lower rank. -/
def State.endTask (s : State) (n : Nat) (e : TaskEnd) : State :=
  match s.task n with
  | none => s
  | some t => match t.ends with
    | none => (s.mapTask n fun x => { x with ends := some e, endAt := s.now }).goEnd n
    | some e0 =>
      if t.endAt = s.now ∧ e.rank < e0.rank then ((s.logEnd e0).mapTask n fun x => { x with ends := some e }).goEnd n
      else s.logEnd e

/-- R403: KIND 2 with a cause and the logical core. -/
def State.faultTask (s : State) (n core code : Nat) : State :=
  s.endTask n ⟨2, BitVec.ofNat 8 code, BitVec.ofNat 32 core⟩

/-- R402: the cause by which the runtime ends the task for the trap that its control thread has taken from U mode: none for
`0x80 LATCH_OWNED` and for an interrupt. -/
def Ct.disposition (t : Ct) : Option Nat :=
  let code := t.mtval.toNat / 2 ^ 56
  if !t.running || t.mode != .machine || t.mpp != .user || decide (2 ^ 63 ≤ t.mcause.toNat) then none
  else if t.mcause = 24 then (if code = 0x80 then none else some code)
  else some 0xe5

/-- R402, R441: what the runtime logs of a trap before it ends the task: code, WHAT and value of mcause, mepc and mtval. -/
def Ct.trapEntries (t : Ct) (code : Nat) : List (BitVec 8 × Word × Word) :=
  [t.mcause, t.mepc, t.mtval].mapIdx fun i v => (BitVec.ofNat 8 code, BitVec.ofNat 64 i, v)

/-- R402: those entries are the last that the runtime has appended for the core, or are appended now. -/
def State.logTrap (s : State) (c code : Nat) : State :=
  let mine := (s.flash.log.filter fun e => e.src == 1 && e.core == c).reverse.take 3
  if (mine.reverse.map fun e => (e.code, e.detail, e.value)) = (s.ct c).trapEntries code then s
  else ((s.ct c).trapEntries code).foldl (fun t e => t.logEvent e.1.toNat 1 c e.2.1.toNat e.2.2.toNat) s

/-- TASK_FAULT_END (R402, R403): the runtime of a core ends the task by the cause of its control thread's trap. It is no event of a core
that has taken none. DEDUCED, log 52, unsafe. -/
def execTaskFaultEnd (num core code : Nat) (s : State) : Res :=
  .next (if s.holds core num && (s.ct core).disposition == some code then (s.logTrap core code).faultTask num core code else s)

/-! ## Running time (R404) -/

/-- R404: a task's running time, in ns, at the last boundary of 1 µs of hub time. -/
def State.runTime (s : State) (t : Task) : Nat :=
  let edge := s.now / 1000 * 1000
  if edge < t.stoppedAt then t.boundaryRan
  else t.ranFor + match t.runFrom with | some a => edge - a | none => 0

/-- R404: running time stops. -/
def State.stopClock (s : State) (n : Nat) : State :=
  s.mapTask n fun t => match t.runFrom with
    | some a => { t with ranFor := t.ranFor + (s.now - a), runFrom := none, stoppedAt := s.now, boundaryRan := s.runTime t }
    | none => t

/-- A core of the task is stopped, or is being stopped or resumed. -/
def State.stopped (s : State) (t : Task) : Bool :=
  t.cores.any fun c => s.holds c t.num &&
    ((s.core c).st == .saving || (s.core c).st == .loading || (s.core c).st == .paused || (s.core c).st == .held ||
      (s.ct c).req != 0)

/-- R404: running time goes on once no core of the task is stopped. -/
def State.startClock (s : State) (n : Nat) : State :=
  match s.task n with
  | some t => if t.stage = .running ∧ t.runFrom.isNone ∧ !s.stopped t then
      s.mapTask n fun t => { t with runFrom := some s.now } else s
  | none => s

/-- R91: the task re-enters the ready set once every core it was on is free. -/
def State.preempted (s : State) (n : Nat) : State :=
  match s.task n with
  | some t =>
    if t.stage = .running ∧ !(t.cores.any fun c => s.holds c n) then
      s.mapTask n fun t => { t with stage := .preempted, readyAt := s.now }
    else s
  | none => s

/-- R404: WATCHDOG limits the running time, of a pre-empted task too; the hub compares at each boundary of 1 µs. -/
def State.watchdog (s : State) (n : Nat) : State :=
  match s.task n with
  | some t =>
    if t.recd.watchdog ≠ 0 ∧ (t.live || t.stage == .preempted) ∧ t.recd.watchdog.toNat * 1000 ≤ s.runTime t then
      s.endTask n ⟨3, 0, 0⟩
    else s
  | none => s

/-- WATCHDOG_EXPIRY (R404). -/
def execWatchdogExpiry (num : Nat) (s : State) : Res := .next (s.watchdog num)

/-! ## TASKEND (R160) -/

/-- R160: blocks not started are discarded. -/
def State.dropBlocks (s : State) (c : Nat) : State :=
  s.setCore c { s.core c with gangs := (s.core c).gangs.mapVals fun _ g => { g with queue := [] } }

/-- R160: a block is in progress on the core. -/
def State.blocksRun (s : State) (c : Nat) : Bool := (s.core c).gangs.any fun e => e.2.run.isSome

/-- The harts in SPLIT state. -/
def State.splitHarts (s : State) (c : Nat) : List Nat := (List.range 32).filter fun b => (s.hart c b).st == .split

/-- Every copy of the core's harts is done, so that a release of the core covers their accesses (R375). -/
def State.coreQuiet (s : State) (c : Nat) : Bool := (s.core c).harts.all fun e => e.2.quiet

/-- R91, R404: the work of a core whose task goes on elsewhere has ended while the hub had asked for a save (`req`), which there is
nothing of: of a pre-emption, the core is free; of a pause, the task's running time goes on. DEDUCED, log 53, unsafe. -/
def State.endAsked (s : State) (c n req : Nat) : State :=
  if req = 1 then (s.setCore c (s.core c).release).preempted n
  else if req = 2 then s.startClock n
  else s

/-- The core's work for its task has ended; the task ends when it was the last (R160). -/
def State.coreDone (s : State) (c n : Nat) : State :=
  let s1 := (s.endWork c).mapTask n fun t => { t with done := t.done ++ [c] }
  match s1.task n with
  | some t => if t.cores.all t.done.contains then s1.endTask n ⟨0, 0, 0⟩ else s1.endAsked c n (s.ct c).req.toNat
  | none => s1

/-- R79: the record of the task's last core would find the hold full. -/
def State.endBlocked (s : State) (c n : Nat) : Bool :=
  match s.task n with
  | some t => (t.cores.all fun x => x == c || t.done.contains x) && cqEnabled t.recd.cq &&
      !s.noQueue t.fn (cqQueue t.recd.cq) && !(s.deliver (s.taskRecord t ⟨0, 0, 0⟩)).2
  | none => false

/-- The completion queue that a task names. -/
def State.queueOf (s : State) (n : Nat) : Nat := ((s.task n).map fun t => cqQueue t.recd.cq).getD 0

/-- R160, R147: TASKEND. Its wait for the blocks in progress can be interrupted, and then begins again; from the stop of the harts on
it completes. DEDUCED, log 53, unsafe. -/
def State.taskend (s : State) (c : Nat) : State :=
  let s1 := s.dropBlocks c
  if s1.blocksRun c then s1
  else
    let s2 := (s1.setCt c { s1.ct c with ending := true }).stopHarts c (s1.splitHarts c)
    if s2.anyMidway c (s1.splitHarts c) then s2
    else match s2.ctRelease c with
    | .wait s3 => s3
    | .done s3 _ _ =>
      if !s3.coreQuiet c then s3
      else match (s3.core c).task with
        | none => s3.endWork c
        | some n => if s3.endBlocked c n then s3.markHeld (s3.queueOf n) else s3.coreDone c n

/-- R160. -/
def execTaskend (s : State) : Res := .next (s.taskend s.actCore)

end Sys2Proof.Machine
end

