-- ==== Sys2Proof/Machine/Accept.lean ====
section
/-! DEFINITION. The acceptance unit: task records, their checks, LAUNCH, spans, wait conditions and the range flush (R58
to R65, R72 to R76, R80, R81, R97, R100, R106, R107, R157). -/

namespace Sys2Proof.Machine

/-! ## The record (R58 to R61) -/

/-- The fields of 256 bytes. -/
def record (v : Nat) : Record :=
  let f := fun (off n : Nat) => fld v (8 * off) (8 * n)
  let w := fun (off : Nat) => BitVec.ofNat 64 (f off 8)
  let cs := f 0x10 8
  let waits := [0x58, 0x60, 0x68, 0x70].map w
  { version := BitVec.ofNat 8 (f 0 1), prio := BitVec.ofNat 8 (f 1 1), flags := BitVec.ofNat 16 (f 2 2),
    asid := BitVec.ofNat 16 (f 4 2), gen := BitVec.ofNat 16 (f 6 2), modmask := w 8, coreset := w 0x10,
    entry := w 0x18, arg0 := w 0x20, arg1 := w 0x28, arg2 := w 0x30, arg3 := w 0x38, sp := w 0x40, ranges := w 0x48,
    nranges := BitVec.ofNat 32 (f 0x50 4), watchdog := BitVec.ofNat 32 (f 0x54 4), waits := waits, signal := w 0x78,
    cq := w 0x80, usertag := w 0x88, savebase := w 0x90, work := w 0x98, deadline := BitVec.ofNat 32 (f 0xa0 4),
    rsvZero := f 0xa4 92 == 0 && fld (f 1 1) 3 5 == 0 && fld (f 2 2) 7 9 == 0 && fld (f 4 2) 12 4 == 0 &&
      fld cs 48 15 == 0 && (bit cs 63 || (fld cs 27 21 == 0 && fld cs 10 6 == 0)) &&
      waits.all (fun x => fld x.toNat 17 15 == 0 && fld x.toNat 8 8 == 0) && fld (f 0x78 8) 9 23 == 0 &&
      fld (f 0x80 8) 19 45 == 0 && fld (f 0x98 8) 40 24 == 0 }

/-- FLAGS (R59). -/
def Record.bounded (r : Record) : Bool := r.flags.getLsbD 0
def Record.preempt (r : Record) : Bool := r.flags.getLsbD 1
def Record.notify (r : Record) : Bool := r.flags.getLsbD 3
def Record.nanTrap (r : Record) : Bool := r.flags.getLsbD 5

/-! ## Reading memory for the acceptance unit -/

/-- `n` bytes inside one line, at a place. What has come from outside is kept until all that is needed has come. A failed
request (R386, R387) or a bad line gives a condition. -/
def State.unitRead (s : State) (w : Waiter) (va : Nat) (p : Place) (n : Nat) : Acc :=
  if (s.hostData w).any fun e => failKey ≤ e.1 then .done s 0 (some .ue) else s.load w va p n

/-- A place `k` bytes on. -/
def Place.plus (p : Place) (k : Nat) : Place :=
  match p with
  | .here pa => .here (pa + k)
  | .remote m pa => .remote m (pa + k)
  | .host bus => .host (bus + k)

/-- What reading several lines gives. -/
inductive Lines
  | got (s : State) (v : Nat)
  | bad (s : State) (c : Cond)
  | wait (s : State)
deriving DecidableEq, Repr, Inhabited

/-- `n` lines from a place, the first line lowest. -/
def State.lines (w : Waiter) (va : Nat) (p : Place) : Nat → State → Lines
  | 0, s => .got s 0
  | n + 1, s =>
    match s.unitRead w va p 64 with
    | .wait s' => .wait s'
    | .done s' _ (some c) => .bad s' c
    | .done s' v none =>
      match State.lines w va (p.plus 64) n s' with
      | .got t r => .got t (v + r * 2 ^ 512)
      | x => x

/-- What a step of the checks finds. -/
inductive Found (α : Type)
  | ok (s : State) (x : α)
  | no (s : State)
  | wait (s : State)

/-- A refusal that a cause gives, unless it is that a walk waits for the owner of a table's line (R47, R385). -/
def State.refusedOr {α : Type} (s : State) (e : Cause) : Found α :=
  if e.1 = walkWait then .wait (s.walkRequest .hub e.2) else .no s

/-- A column address of a task (R47, R90): as `colAt`, in address space `asid`, for function `fn`. -/
def State.placeAt (s : State) (asid fn va n : Nat) : Except Cause Place :=
  match s.translate asid false va .col true false with
  | .error e => .error e
  | .ok l =>
    match l.place s with
    | .host bus => if s.dmaAllows fn bus n false then .ok (.host bus) else .error (0x23, detail48 va .col 0 false)
    | p => .ok p

/-! ## Core sets (R60, R100) -/

/-- R62, check 4: the core set. -/
def State.coresOf (s : State) (fn : Nat) (r : Record) : Found (List Nat) :=
  let cs := r.coreset.toNat
  let judge := fun (s : State) (l : List Nat) => if l = [] ∨ l.any s.removed then Found.no s else .ok s l
  if !bit cs 63 then
    let first := fld cs 0 10
    let n := fld cs 16 11
    if n = 0 ∨ 1024 < first + n then .no s else judge s ((List.range n).map fun i => first + i)
  else
    let va := fld cs 0 48
    if va % 128 ≠ 0 then .no s
    else match s.placeAt r.asid.toNat fn va 128 with
    | .error e => s.refusedOr e
    | .ok p => match State.lines .hub va p 2 s with
      | .wait s' => .wait (s.keepRequest s' .hub)
      | .bad s' _ => .no (s'.forget .hub)
      | .got s' v => judge s' ((List.range 1024).filter fun c => v.testBit c)

/-! ## Operand ranges (R63) -/

/-- Whether `n` pages of 2 MiB from the one of `va` translate with kind COL: the first cause against it. -/
def State.pagesBad (s : State) (asid : Nat) (writes : Bool) : Nat → Nat → Option Cause
  | 0, _ => none
  | n + 1, va =>
    match s.translate asid false va .col (!writes) writes with
    | .ok _ => s.pagesBad asid writes n (va / 2 ^ 21 * 2 ^ 21 + 2 ^ 21)
    | .error e => some e

/-- The pages that `len` bytes from `va` touch. -/
def pageCount (va len : Nat) : Nat := if len = 0 then 0 else (va % 2 ^ 21 + len - 1) / 2 ^ 21 + 1

/-- R63: an entry as VA, length and CODE, unless it is malformed. -/
def State.rangeEntry (s : State) (asid v : Nat) : Found (Nat × Nat × Bool) :=
  let va := fld v 0 48
  let len := fld v 64 40
  if fld v 106 22 ≠ 0 ∨ fld v 48 16 ≠ 0 ∨ va % 64 ≠ 0 ∨ len % 64 ≠ 0 then .no s
  else match s.pagesBad asid false (pageCount va len) va with
    | some e => s.refusedOr e
    | none => .ok s (va, len, bit v 105)

/-- The entries of a list of `n` from `va`. -/
def State.rangeList (asid fn : Nat) : Nat → Nat → State → List (Nat × Nat × Bool) → Found (List (Nat × Nat × Bool))
  | 0, _, s, acc => .ok s acc.reverse
  | n + 1, va, s, acc =>
    match s.placeAt asid fn va 16 with
    | .error e => s.refusedOr e
    | .ok p => match s.unitRead .hub va p 16 with
      | .wait s' => .wait s'
      | .done s' _ (some _) => .no s'
      | .done s' v none => match s'.rangeEntry asid v with
        | .no t => .no t
        | .wait t => .wait t
        | .ok t e => State.rangeList asid fn n (va + 16) t (e :: acc)

/-- R62, check 6. -/
def State.rangesOf (s : State) (fn : Nat) (r : Record) : Found (List (Nat × Nat × Bool)) :=
  let n := r.nranges.toNat
  if 4096 < n then .no s
  else if n = 0 then .ok s []
  else if r.ranges.toNat % 16 ≠ 0 then .no s
  else match State.rangeList r.asid.toNat fn n r.ranges.toNat s [] with
    | .wait s' => .wait (s.keepRequest s' .hub)
    | x => x

/-! ## The checks of R62 -/

/-- What the checks of a record find: the task's core set and ranges, a refusal code, or a wait for a list that lies in
another module or the host. -/
inductive Judged
  | accept (s : State) (cores : List Nat) (ranges : List (Nat × Nat × Bool))
  | refuse (s : State) (code : Nat)
  | wait (s : State)
deriving DecidableEq, Repr, Inhabited

/-- R72: the ASID is one that the function may use. -/
def State.asidGranted (s : State) (fn asid : Nat) : Bool :=
  if fn = 0 then true
  else match s.bar.vfasid.find fn with
    | some (count, first) => decide (first.toNat ≤ asid) && decide (asid < first.toNat + count.toNat)
    | none => false

/-- R62, checks 7 and 8. -/
def State.judgeSave (s : State) (r : Record) (cores : List Nat) (ranges : List (Nat × Nat × Bool)) : Judged :=
  let va := r.savebase.toNat
  let last := if r.bounded ∧ r.work = 0 then Judged.refuse s 0x08 else .accept s cores ranges
  if !r.preempt then last
  else if va = 0 ∨ va % 2 ^ 21 ≠ 0 then .refuse s 0x07
  else match s.pagesBad r.asid.toNat true (4 * cores.length) va with
    | some e => if e.1 = walkWait then .wait (s.walkRequest .hub e.2) else .refuse s 0x07
    | none => last

/-- R62, for a record of function `fn`. -/
def State.judge (s : State) (fn : Nat) (r : Record) : Judged :=
  let asid := r.asid.toNat
  if r.version ≠ 1 ∨ !r.rsvZero then .refuse s 0x01
  else if (s.tableBytes (s.spaceAddr asid) 16).isNone then
    .wait (s.walkRequest .hub (walkDetail (s.spaceAddr asid) 0))
  else if (s.spaceRoot asid).isNone ∨ !s.asidGranted fn asid then .refuse s 0x02
  else if r.modmask ≠ 0 ∧ !r.modmask.getLsbD s.flash.modId.toNat then .refuse s 0x03
  else match s.coresOf fn r with
    | .wait s' => .wait s'
    | .no s' => .refuse s' 0x04
    | .ok s1 cores =>
      if r.entry.getLsbD 0 then .refuse s1 0x05
      else match s1.translate asid false r.entry.toNat .fetch false false with
      | .error e => if e.1 = walkWait then .wait (s.keepRequest (s1.walkRequest .hub e.2) .hub) else .refuse s1 0x05
      | .ok _ => match s1.rangesOf fn r with
        | .wait s' => .wait (s.keepRequest s' .hub)
        | .no s' => .refuse s' 0x06
        | .ok s2 ranges => match s2.judgeSave r cores ranges with
          | .wait s' => .wait (s.keepRequest s' .hub)
          | x => x

/-! ## Acceptance (R72, R74, R80, R97) -/

/-- R107: the bound, in ns, with the shares in force. -/
def boundOf (x : Shares) (work : Nat) : Nat :=
  let q := (400 - (x.refreshH + x.scrub + x.test + x.hostDma + x.recalls + x.fabric + x.mgmt)) * 150000 / 400
  ((work + q - 1) / q + 1) * 100000

/-- R97: the latest start of a task accepted now; one that lies before acceptance has passed at once. -/
def State.latestStart (s : State) (r : Record) : Option Nat :=
  if r.bounded ∧ r.deadline ≠ 0 then
    some (s.now + r.deadline.toNat * 1000 - boundOf s.fen.shares (fld r.work.toNat 0 40))
  else none

/-- A module's number is a bit of a mask. -/
def maskList (m : Word) : List Nat := (List.range 64).filter m.getLsbD

/-- R49: the translations of an address space leave a core's TLBs. -/
def Core.dropSpace (k : Core) (asid : Nat) : Core :=
  { k with
    rowTlb := k.rowTlb.filter fun e => e.1 / 2 ^ 27 != asid
    colTlb := k.colTlb.filter fun e => e.1 / 2 ^ 27 != asid }

/-- R72, R80: a record that has passed R62 becomes a task; the origin of a span sends it to the other members and opens
its start barrier. -/
def State.enterTask (s : State) (source fn : Nat) (v : BitVec 2048) (r : Record) (cores : List Nat)
    (ranges : List (Nat × Nat × Bool)) (origin : Option Nat) : State :=
  let n := s.sched.nextNum
  let t : Task :=
    { num := n, source := source, fn := fn, recd := r, cores := cores, ranges := ranges, acceptedAt := s.now,
      latestStart := s.latestStart r, origin := origin }
  let s1 := { s with
    cores := s.cores.mapVals fun c k => if cores.contains c then k.dropSpace r.asid.toNat else k
    sched := { s.sched with tasks := s.sched.tasks ++ [t], nextNum := n + 1 } }
  if r.modmask = 0 ∨ origin.isSome then s1
  else
    let others := (maskList r.modmask).filter fun m => m != s.flash.modId.toNat
    State.sendAll
      { s1 with sched := { s1.sched with barriers := s1.sched.barriers ++ [⟨r.gen.toNat, n, maskList r.modmask⟩] } }
      (others.map fun m => Out.packet m v)

/-- R73: the record of kind REFUSED for queue `q`, as the record that holds the acceptance unit. -/
def State.refusedRecord (s : State) (q fn : Nat) (r : Record) (code : Nat) : Held :=
  { q := q, fn := fn, signal := 0, cq := 0
    record := completion r.usertag.toNat 1 code q s.flash.modId.toNat 0 s.now 0 r.gen.toNat }

/-- R73, R79: the acceptance unit's refused record enters a ring or the hold, or goes nowhere. -/
def State.reportRefused (s : State) : State :=
  match s.sched.refused with
  | none => s
  | some h =>
    let s1 := { s with sched := { s.sched with refused := none } }
    if s1.noQueue h.fn h.q then s1.qevent h.q 4
    else match s1.deliver h with
      | (s2, true) => s2
      | (_, false) => (s.deliver h).1

/-- R71, R72: a requester of the acceptance unit: a queue with records, or LAUNCH (64). -/
def State.requests (s : State) (q : Nat) : Bool :=
  if q = 64 then s.sched.launches != [] else (s.qblock q).sqEn && (s.qblock q).sqHead != (s.qblock q).sqTail

/-- R72: the requester whose turn it is. -/
def State.nextRequester (s : State) : Option Nat :=
  ((List.range 65).map fun i => (s.sched.lastAccepted + 1 + i) % 65).find? s.requests

def State.served (s : State) (q : Nat) : State := { s with sched := { s.sched with lastAccepted := q } }

/-- What the acceptance unit has in service. -/
def State.serve (s : State) (x : Option Serving) : State := { s with sched := { s.sched with serving := x } }

/-- The unit has finished with a record. -/
def State.finished (s : State) : State := (s.serve none).forget .hub

/-- A LAUNCH ends with rd, or by a cause. -/
def State.launchEnd (s : State) (l : LaunchReq) (code : Nat) : State :=
  let s1 := s.forget (.ct l.core)
  { s1 with sched := { s1.sched with launches := s1.sched.launches.filter fun x => x.core != l.core }, actLen := 4 }.ctDone
    l.core l.rd (BitVec.ofNat 64 code)

def State.launchTrap (s : State) (l : LaunchReq) (code detail : Nat) : State :=
  ((s.dropLaunch l.core).forget (.ct l.core)).ctCause l.core code detail

/-- R62, R73, R157: a record of requester `q` that has been read is checked; while a list lies outside the module it stays in
service. -/
def State.judgeRecord (s : State) (q fn : Nat) (v : BitVec 2048) (epoch : Nat) : State :=
  let r := record v.toNat
  match s.judge fn r with
  | .wait s' => s'.serve (some (.record q fn v epoch))
  | .refuse s' code =>
    let t := s'.finished
    if q < 64 then
      { t with sched := { t.sched with refused := some (t.refusedRecord q fn r code) } }.reportRefused
    else match t.sched.launches with
      | [] => t
      | l :: _ => t.launchEnd l code
  | .accept s' cores ranges =>
    let t := s'.finished.enterTask q fn v r cores ranges none
    if q < 64 then t
    else match t.sched.launches with
      | [] => t
      | l :: _ => t.launchEnd l 0

/-- R58: the record of a ring is read, in lines, as a column read finds them. DEDUCED, log 43, unsafe. -/
def State.recordLines (w : Waiter) (pa : Nat) : Nat → State → Lines
  | 0, s => .got s 0
  | n + 1, s =>
    match s.readHere w 0 pa 64 with
    | .wait s' => .wait s'
    | .done s' v _ =>
      match State.recordLines w (pa + 64) n s' with
      | .got t r => .got t (v + r * 2 ^ 512)
      | x => x

/-- R71: the PA of the next record of a queue. -/
def QBlock.entry (x : QBlock) : Nat := x.sqBase.toNat * 4096 + 256 * x.sqHead.toNat

/-- A new record is begun: what owners have supplied of tables is no longer used (R49). -/
def State.begin_ (s : State) (q : Nat) : State :=
  { s with walkData := [] }.serve
    (some (.reading q (s.qblock q).sqOwner.toNat (s.qblock q).entry (s.qblock q).sqEpoch))

/-- R71: HEAD advances past the entry accepted, of a queue that has not been enabled again since its read began. -/
def QBlock.pass (x : QBlock) (epoch : Nat) : QBlock :=
  if x.sqEpoch = epoch then { x with sqHead := BitVec.ofNat 16 ((x.sqHead.toNat + 1) % 2 ^ x.sqLog.toNat) } else x

/-- R72, R73: the record of queue `q` at `pa` is read; HEAD advances when it has been. An entry whose queue is disabled meanwhile
is finished (R70). -/
def State.acceptRing (s : State) (q fn pa epoch : Nat) : State :=
  match State.recordLines .hub pa 4 s with
  | .wait s' => s.keepRequest s' .hub
  | .bad s' _ => s'
  | .got s' v =>
    (((s'.setQ q ((s'.qblock q).pass epoch)).forget .hub).served q).judgeRecord q fn (BitVec.ofNat 2048 v) epoch

/-- R157, steps 4 and 5: the oldest LAUNCH. -/
def State.acceptLaunch (s0 : State) (l : LaunchReq) : State :=
  let s := { s0 with sched := { s0.sched with
    lastAccepted := 64
    launches := s0.sched.launches.map fun (x : LaunchReq) => if x.core = l.core then { x with started := true } else x } }
  match s.colAt l.core (s.mach l.core) l.va 256 true false with
  | .error (cause, detail) =>
    if cause = walkWait then s.walkRequest (.ct l.core) detail else s.launchTrap l cause detail
  | .ok p =>
    match State.lines (.ct l.core) l.va p 4 s with
    | .wait s' => s.keepRequest s' (.ct l.core)
    | .bad s' c => s'.launchTrap l c.cause (detail48 l.va .col 0 false)
    | .got s1 v => (s1.forget (.ct l.core)).judgeRecord 64 (s.fnOf l.core) (BitVec.ofNat 2048 v) 0

/-- The unit goes on with what it has in service. -/
def State.serveOn (s : State) (x : Serving) : State :=
  match x with
  | .reading q fn pa epoch =>
    if q < 64 then s.acceptRing q fn pa epoch
    else match s.sched.launches with
      | [] => s.finished
      | l :: _ => s.acceptLaunch l
  | .record q fn v epoch => s.judgeRecord q fn v epoch
  | .packet _ _ => s

/-- ACCEPT_RECORD (R72): the acceptance unit goes on with the record in service, or serves its next requester, unless a refused
record or 4096 tasks hold it. -/
def State.accept (s0 : State) : State :=
  let s := s0.reportRefused
  if s.sched.refused.isSome ∨ Config.taskLimit ≤ s.sched.tasks.length then s
  else match s.sched.serving with
    | some x => s.serveOn x
    | none => match s.nextRequester with
      | none => s
      | some q =>
        (s.begin_ q).serveOn (.reading q (s.qblock q).sqOwner.toNat (s.qblock q).entry (s.qblock q).sqEpoch)

/-- R72. -/
def execAcceptRecord (s : State) : Res := .next s.accept

/-- R157: LAUNCH, after its release, joins the requesters of the acceptance unit, which serves it at its turn. -/
def State.launch (s : State) (c va rd : Nat) : State :=
  match s.ctRelease c with
  | .wait s' => s'
  | .done s1 _ _ =>
    let l : LaunchReq := ⟨c, va, rd, false⟩
    let s2 := if s1.sched.launches.any (fun x => x.core == c) then s1
      else { s1 with sched := { s1.sched with launches := s1.sched.launches ++ [l] } }
    let mine := (s2.sched.launches.head?.map (·.core)) == some c
    match s2.sched.serving with
    | some x => if x.launch && mine then s2.accept else s2
    | none => if s2.nextRequester = some 64 ∧ mine then s2.accept else s2

/-- R157. -/
def execLaunch (o : XH) (s : State) : Res :=
  if s.rs1 o % 256 ≠ 0 then (xhlmOperand s (.launch o)).end o.d else .next (s.launch s.actCore (s.rs1 o) o.d.toNat)

/-! ## Spans (R80, R81) -/

/-- R80: a barrier of this identifier is open on this member. -/
def State.barrierOpen (s : State) (origin gen : Nat) : Bool :=
  s.sched.tasks.any fun t =>
    t.origin == some origin && t.recd.gen.toNat == gen &&
      (t.stage == .queued || t.stage == .toFlush || t.stage == .flushing || t.stage == .barrier)

/-- R72, R80: the unit that checks records is free for a packet, or has it in service. A refused record that waits for room in the hold
(R79) keeps only records of this module from it, since a packet's refusal needs no room: DESIGN CHOICE, log 92, unsafe. -/
def State.freeFor (s : State) (origin : Nat) (v : BitVec 2048) : Bool :=
  s.sched.serving == none || s.sched.serving == some (.packet origin v)

/-- R80: a member applies R62 to a packet, and reports a refusal. A packet waits while its barrier is open and while the
module holds 4096 tasks; it stays in service while a list that it names lies outside the module. The answer says whether it has
been dealt with. DEDUCED, log 44, unsafe. -/
def State.tryPacket (s : State) (origin : Nat) (v : BitVec 2048) : State × Bool :=
  let r := record v.toNat
  if s.barrierOpen origin r.gen.toNat ∨ Config.taskLimit ≤ s.sched.tasks.length ∨ !s.freeFor origin v then (s, false)
  else
    let s0 := if s.sched.serving.isSome then s else { s with walkData := [] }
    match s0.judge 0 r with
    | .wait s' => (s'.serve (some (.packet origin v)), false)
    | .refuse s' code => (s'.finished.send (.fabric origin msgRefused r.gen.toNat code), true)
    | .accept s' cores ranges => (s'.finished.enterTask 64 0 v r cores ranges (some origin), true)

/-- Held packets that can go on do, in the order of their arrival. -/
def State.packetsGo : List (Nat × BitVec 2048) → State → State
  | [], s => s
  | p :: ps, s =>
    match s.tryPacket p.1 p.2 with
    | (s', false) => State.packetsGo ps { s' with sched := { s'.sched with packets := s'.sched.packets ++ [p] } }
    | (s', true) => State.packetsGo ps s'

def State.retryPackets (s : State) : State :=
  State.packetsGo s.sched.packets { s with sched := { s.sched with packets := [] } }

/-- LAUNCH_PACKET_RECEIVE (R80). -/
def execLaunchPacketReceive (origin : Nat) (packet : BitVec 2048) (s : State) : Res :=
  .next { s with sched := { s.sched with packets := s.sched.packets ++ [(origin, packet)] } }.retryPackets

/-- R91: the task enters the ready set. -/
def Task.toReady (t : Task) (now : Nat) : Task := { t with stage := .ready, readyAt := now }

/-- R80: a member has arrived at a barrier; when the last has, the origin sends START and its own task is ready. -/
def State.arriveAt (s : State) (b : Barrier) (member : Nat) : State :=
    let left := b.missing.filter (· != member)
    if left ≠ [] then
      { s with sched := { s.sched with
        barriers := s.sched.barriers.map fun x => if x.num = b.num then { x with missing := left } else x } }
    else
      let others := match s.task b.num with
        | some t => (maskList t.recd.modmask).filter fun m => m != s.flash.modId.toNat
        | none => []
      let s1 := State.sendAll { s with sched := { s.sched with barriers := s.sched.barriers.filter fun x => x.num != b.num } }
        (others.map fun m => Out.fabric m msgStart b.gen 0)
      s1.mapTask b.num fun t => t.toReady s.now

/-- R80: a member reports its arrival at the barrier of a GEN: of two such spans, at the older that it has not arrived at, since
it takes up the younger only when the older's barrier has closed. -/
def State.arrive (s : State) (gen member : Nat) : State :=
  match s.sched.barriers.find? fun b => b.gen == gen && b.missing.contains member with
  | none => s
  | some b => s.arriveAt b member

/-- R80: the origin's own task arrives. -/
def State.arriveSelf (s : State) (num : Nat) : State :=
  match s.sched.barriers.find? fun b => b.num == num with
  | none => s
  | some b => s.arriveAt b s.flash.modId.toNat

/-- SPAN_ARRIVAL (R80). -/
def execSpanArrival (gen member : Nat) (s : State) : Res := .next (s.arrive gen member)

/-- START_RECEIVE (R80): the member's task at this barrier is ready, and the barrier closes. -/
def execStartReceive (origin gen : Nat) (s : State) : Res :=
  let f := fun (t : Task) =>
    if t.origin = some origin ∧ t.recd.gen.toNat = gen ∧ t.stage = .barrier then t.toReady s.now else t
  .next { s with sched := { s.sched with tasks := s.sched.tasks.map f } }.retryPackets

/-- R81: the origin aborts the oldest span of a GEN that `of` picks: its members discard their copies and one record is written.
DEDUCED, log 45, unsafe. -/
def State.abortSpan (s : State) (gen code peer : Nat) (of : Barrier → Bool) : State :=
  match s.sched.barriers.find? fun b => b.gen == gen && of b with
  | none => s
  | some b =>
    let others := match s.task b.num with
      | some t => (maskList t.recd.modmask).filter fun m => m != s.flash.modId.toNat && m != peer
      | none => []
    let s1 := State.sendAll { s with sched := { s.sched with barriers := s.sched.barriers.filter fun x => x.num != b.num } }
      (others.map fun m => Out.fabric m msgAbort gen 0)
    match s1.task b.num with
    | none => s1
    | some t =>
      (s1.mapTask t.num fun x =>
        { x with ends := some ⟨4, BitVec.ofNat 8 code, BitVec.ofNat 32 peer⟩, endAt := s.now
                 recd := { x.recd with signal := 0 }, stage := .ending }).goEnd t.num

/-- SPAN_REFUSAL_REPORT (R81): of a span that the member has not arrived at. -/
def execSpanRefusalReport (gen member code : Nat) (s : State) : Res :=
  .next (s.abortSpan gen code member fun b => b.missing.contains member)

/-- A module is a member of a span. -/
def State.inSpan (s : State) (peer : Nat) (b : Barrier) : Bool :=
  match s.task b.num with
  | some t => t.recd.modmask.getLsbD peer
  | none => false

/-- A member's copy of the span of an origin and GEN whose barrier is open (R80). -/
def Task.copyOf (t : Task) (origin gen : Nat) : Bool :=
  t.origin == some origin && t.recd.gen.toNat == gen &&
    (t.stage == .queued || t.stage == .toFlush || t.stage == .flushing || t.stage == .barrier)

/-- A launch packet that a member holds, of a span of an origin and GEN. -/
def packetOf (origin gen : Nat) (p : Nat × BitVec 2048) : Bool := p.1 == origin && (record p.2.toNat).gen.toNat == gen

/-- R81: a member discards its copy of a span: the task whose barrier is open, or else the oldest packet, which leaves the unit that
checks it. A second span of the same GEN, whose packet is held behind, stays. `none` where it has no copy. DEDUCED, log 45,
unsafe. -/
def State.discardCopy (s : State) (origin gen : Nat) : Option State :=
  match s.sched.tasks.find? fun t => t.copyOf origin gen with
  | some t => some { s with sched := { s.sched with tasks := s.sched.tasks.filter fun x => x.num != t.num } }
  | none => (s.sched.packets.find? (packetOf origin gen)).map fun p =>
    let s1 := { s with sched := { s.sched with packets := s.sched.packets.erase p } }
    if s.sched.serving = some (.packet p.1 p.2) then s1.finished else s1

/-- SPAN_LINK_LOSS (R81): at the origin, `peer` cannot be reached and the span is aborted; at a member, its copy is
discarded, and the loss is logged where it is the origin that was lost. -/
def execSpanLinkLoss (origin gen peer : Nat) (s : State) : Res :=
  .next (if origin = s.flash.modId.toNat then s.abortSpan gen 0xff peer (s.inSpan peer)
    else match s.discardCopy origin gen with
      | none => s.retryPackets
      | some s1 => (if peer = origin then s1.logHub 0x8c (origin * 2 ^ 16 + gen) else s1).retryPackets)

/-! ## Wait conditions (R74) -/

/-- The conditions of a record, in turn: whether all are met, and the counters marked failed. -/
def State.waits : List Word → State → State × Bool × List Nat
  | [], s => (s, true, [])
  | w :: ws, s =>
    if !w.getLsbD 16 then State.waits ws s
    else
      let n := fld w.toNat 0 8
      match s.readCtr true 0 n with
      | (s1, v) =>
        match State.waits ws s1 with
        | (s2, ok, bad) => match v with
          | some x => (s2, ok && decide (fld w.toNat 32 32 ≤ x.toNat), bad)
          | none => (s2, false, n :: bad)

/-- R75: a task reaches stage 2. -/
def State.toStage2 (s : State) (num : Nat) : State :=
  let s1 := s.mapTask num fun x => { x with stage := .toFlush }
  { s1 with sched := { s1.sched with flushq := s1.sched.flushq ++ [num] } }

/-- R74, stage 1. The event of a counter that is found failed is logged once for a task. -/
def State.tryWaits (s : State) (num : Nat) : State :=
  match s.task num with
  | some t =>
    if t.stage ≠ .queued then s
    else match State.waits t.recd.waits s with
      | (s1, true, _) => s1.toStage2 num
      | (s1, false, bad) =>
        let new := (bad.filter fun n => !t.waitLogged.contains n).eraseDups
        (new.foldl (fun u n => u.logHub 0x42 n) s1).mapTask num fun x => { x with waitLogged := x.waitLogged ++ new }
  | none => s

/-- WAIT_CONDITIONS_MET (R74). -/
def execWaitConditionsMet (num : Nat) (s : State) : Res := .next (s.tryWaits num)

/-! ## The range flush (R65, R74 to R76) -/

/-- The tasks at stage 2, in the order in which they reached it; one that has ended meanwhile is not there any more. -/
def State.flushOrder (s : State) : List Nat :=
  s.sched.flushq.filter fun n => s.sched.tasks.any fun t => t.num == n && (t.stage == .toFlush || t.stage == .flushing)

/-- RANGE_FLUSH_START (R75): the engine serves one task at a time, in the order in which tasks reach stage 2. -/
def State.startFlush (s : State) : State :=
  if s.sched.tasks.any (fun t => t.stage == .flushing) then s
  else match s.flushOrder.head?.bind s.task with
    | some t =>
      let s1 := s.mapTask t.num fun x => { x with stage := .flushing }
      { s1 with
        walkData := []
        sched := { s1.sched with
          flushq := s.flushOrder, flushLeft := (t.ranges.map fun e => (e.1, e.2.1)).filter fun e => e.2 != 0 } }
    | none => s

/-- R75. -/
def execRangeFlushStart (s : State) : Res := .next s.startFlush

/-- The engine handles a line at a place: it is written back if dirty, or goes home (R384), and leaves the MSC, at no core's cost.
A write-back waits for its cluster, its bus and its port (R112, R451), and while its row is being sensed (R237); any line waits
for its slice. `none` while it waits. DEDUCED, log 82, unsafe. -/
def State.flushAt (s : State) (p : Place) : Option State :=
  match p with
  | .here pa =>
    let key := s.flash.modId.toNat * 2 ^ 34 + lineOf pa
    match s.msc.find (lineOf pa) with
    | none => some s
    | some x =>
      if (x.isSome && s.asleep pa) || s.sliceHeld pa || !s.mayEvict key then none else some (s.mscEvict key)
  | .remote m pa => if s.sliceHeld pa || !s.mayEvict (rkey m pa) then none else some (s.mscEvict (rkey m pa))
  | .host _ => some s

/-- What the engine has still to handle after the first line. -/
def nextLine : List (Nat × Nat) → List (Nat × Nat)
  | [] => []
  | (va, len) :: rest => if len ≤ 64 then rest else (va + 64, len - 64) :: rest

def State.flushPassed (s : State) : State :=
  { s with sched := { s.sched with flushLeft := nextLine s.sched.flushLeft } }

/-- R75: the next line of the ranges in list order, each from ascending address; one whose VA no longer translates is passed
over. -/
def State.flushLine (s : State) : State :=
  match s.sched.tasks.find? fun t => t.stage == .flushing, s.sched.flushLeft with
  | some t, (va, _) :: _ =>
    match s.translate t.recd.asid.toNat false va .col true false with
    | .ok l => match s.flushAt (l.place s), l.place s with
      | some s', _ => s'.flushPassed
      | none, .here pa => s.accessWait .flush pa
      | none, _ => s
    | .error e => if e.1 = walkWait then s.walkRequest .flush e.2 else s.flushPassed
  | _, _ => s

/-- `n` lines of the flush. -/
def State.flushLines : Nat → State → State
  | 0, s => s
  | n + 1, s => if s.sched.flushLeft = [] then s else State.flushLines n s.flushLine

/-- R65: lines of a code range leave the caches of the cores of the set. -/
def State.dropCode (s : State) (cores : List Nat) (va len : Nat) : State :=
  let hit := fun (a : Nat) => decide (va ≤ a * 64) && decide (a * 64 < va + len)
  cores.foldl (fun u c =>
    let k := u.core c
    u.setCore c { k with
      ct := { k.ct with icache := k.ct.icache.filter fun e => !hit e.1 }
      harts := k.harts.mapVals fun _ h => { h with cache := h.cache.filter fun e => !hit (e.1 / 64) } }) s

/-- R74, R75: when every line has been handled, the code discards follow, and the task goes on: a span's member goes to the
barrier and reports. -/
def State.endFlush (s : State) : State :=
  match s.sched.tasks.find? fun t => t.stage == .flushing with
  | none => s
  | some t =>
    if s.sched.flushLeft ≠ [] then s
    else
      let s1 := t.ranges.foldl (fun u e => if e.2.2 then u.dropCode t.cores e.1 e.2.1 else u) s
      let s2 := ({ s1 with sched := { s1.sched with flushq := s1.sched.flushq.erase t.num } }).forget .flush
      if t.recd.modmask = 0 then s2.mapTask t.num fun x => x.toReady s.now
      else
        let s3 := s2.mapTask t.num fun x => { x with stage := .barrier }
        match t.origin with
        | some o => s3.send (.fabric o msgArrived t.recd.gen.toNat 0)
        | none => s3.arriveSelf t.num

/-- The lines that the engine has still to handle. -/
def State.linesLeft (s : State) : Nat := s.sched.flushLeft.foldl (fun n e => n + (e.2 + 63) / 64) 0

/-- RANGE_FLUSH_COMPLETE (R75): the engine handles the lines that are left, and the task leaves stage 2 unless one waits. -/
def execRangeFlushComplete (s : State) : Res := .next (State.flushLines s.linesLeft s).endFlush

end Sys2Proof.Machine
end

