-- ==== Sys2Proof/Machine/Save.lean ====
section
/-! DEFINITION. Pre-emption and pause: the hub's interrupt, the operations of hmsave and the lazy save of banks (R95,
R111, R201, R401, R404, R407 to R416). -/

namespace Sys2Proof.Machine

/-! ## Requests (R95, R111, R404, R407) -/

/-- R407: hmreq.REQ is set: 1 for a pre-emption, 2 for a lease pause. A pre-emption that has been asked for leaves the core free (R96). -/
def State.ask (s : State) (c req : Nat) : State :=
  let s1 := s.setCt c { s.ct c with req := if (s.ct c).req = 1 then 1 else BitVec.ofNat 2 req }
  match (s.core c).task with
  | some n => s1.stopClock n
  | none => s1

/-! ## The interrupt and `0x80 LATCH_OWNED` (R401, R408) -/

/-- R147: a wait of the control thread ends with no effect. -/
def State.endCtWait (s : State) (c : Nat) : State :=
  (((s.withdraw c none).setReq (.ct c) none).setHostData (.ct c) []).dropLaunch c

/-- An atomic operation of the control thread is at another module or at the host, or its answer has come (R388). -/
def Ct.midway (t : Ct) : Bool := (t.rreq.map Req.effect).getD false || t.hostGot != []

/-- R147: the acceptance unit has started to read the record of the core's LAUNCH. -/
def State.launching (s : State) (c : Nat) : Bool := s.sched.launches.any fun l => l.core == c && l.started

/-- R147: an instruction of the control thread whose effect has begun is in progress: TASKEND past its wait for blocks, an HKILL that
has harts still to stop, a LAUNCH whose record is being read, or an operation at another module or at the host. -/
def State.ctBegun (s : State) (c : Nat) : Bool :=
  (s.ct c).ending || s.launching c || (s.ct c).midway || (s.core c).harts.any fun e => e.2.dying

/-- R401, R147: the interrupt is taken: a request is pending and enabled, and no instruction whose effect has begun is in
progress. -/
def State.interruptible (s : State) (c : Nat) : Bool :=
  let t := s.ct c
  t.running && t.req != 0 && t.meie && (t.mode == .user || t.mie) && !s.ctBegun c &&
    (s.core c).harts.all fun e => !e.2.midway

/-- R407, step 1, R401: the harts stop at a boundary, and the control thread takes the machine external interrupt; the runtime keeps its
registers. DEDUCED, log 53, unsafe. -/
def State.interrupt (s : State) (c : Nat) : State :=
  if !s.interruptible c then s
  else
    let s1 := (s.pauseHarts c).endCtWait c
    let k := s1.core c
    (s1.setCore c { k with st := .saving, ct := { k.ct with stash := some k.ct.x } }).ctTrap c (2 ^ 63 + 11) 0 (s.ct c).pc

/-- R401. -/
def execMachineExternalInterrupt (core : Nat) (s : State) : Res := .next (s.interrupt core)

/-- R408: `0x80 LATCH_OWNED` for the word of bank `b` that waits for its bank, while it is not the context's. -/
def State.latchOwnedTrap (s : State) (c b : Nat) : State :=
  let t := s.ct c
  if (s.hart c b).latchOwned && (s.ownBank c b).isNone && t.running && (t.mode == .user || t.mie) && !s.ctBegun c then
    let owner := ((s.core c).bank b).owner
    (s.endCtWait c).ctCause c 0x80 (b * 2 ^ 48 + owner * 2 ^ 32 + s.wordAt c b)
  else s

/-- R401, R408. -/
def execLatchOwnedTrap (core bank : Nat) (s : State) : Res := .next (s.latchOwnedTrap core bank)

/-! ## The save area (R413, R414) -/

/-- A core's part of the save area of a task. -/
def Task.area (t : Task) (c : Nat) : Nat := t.recd.savebase.toNat + (t.cores.filter fun x => x < c).length * 2 ^ 23

/-- What a core's saves and restores reach of the save area of task `n`: its address space, its function and the VA of `off`. -/
def State.areaAt (s : State) (c : Nat) (n : Option Nat) (off : Nat) : Option (Nat × Nat × Nat) :=
  (n.bind s.task).map fun t => (t.recd.asid.toNat, t.fn, t.area c + off)

/-- The place of `n` bytes of a save area: translated as a write or as a read (R413, R47) and, in host memory, inside a DMA
window (R90). -/
def State.areaPlace (s : State) (asid fn va n : Nat) (write : Bool) : Except Cause Place :=
  match s.translate asid false va .col (!write) write with
  | .error e => .error e
  | .ok l =>
    match l.place s with
    | .host bus => if s.dmaAllows fn bus n write then .ok (.host bus) else .error (0x23, detail48 va .col 0 write)
    | p => .ok p

/-- R409: a line that has just been stored is stored with POISON. -/
def State.poisonAt (s : State) (p : Place) : State :=
  match p with
  | .here pa => s.setSide (lineOf pa) { s.sideOf (lineOf pa) with poison := true }
  | .remote m pa => match s.rlines.find (rkey m pa) with
    | some l => { s with rlines := s.rlines.put (rkey m pa) { l with poison := true } }
    | none => s
  | .host _ => { s with out := s.out.dropLast ++ s.out.getLast?.toList.map fun m => match m with
      | .hostWrite a n v _ => .hostWrite a n v true
      | m => m }

/-- What a save has still to write on a core. -/
def State.setLeft (s : State) (c : Nat) (l : List AreaPut) : State := s.setCore c { s.core c with saveLeft := l }

/-- What is left of a piece after its first line of `m` bytes. -/
def AreaPut.rest (x : AreaPut) (m : Nat) : List AreaPut :=
  if x.n ≤ m then [] else [{ x with va := x.va + m, n := x.n - m, v := x.v / 2 ^ (8 * m) }]

/-- R413: what a save has still to write is written, line by line, as far as no line waits: for its cluster, its bus, its slice or its row
(R112 to R114, R451), or for another module. A piece that does not translate is not written (DESIGN CHOICE, log 17, unsafe). -/
def State.saveGo (c : Nat) : Nat → List AreaPut → State → State
  | 0, l, s => s.setLeft c l
  | _ + 1, [], s => s.setLeft c []
  | f + 1, x :: xs, s =>
    let m := min 64 x.n
    match s.areaPlace x.asid x.fn x.va m true with
    | .error (cause, detail) =>
      if cause = walkWait then (s.setLeft c (x :: xs)).walkRequest (.save c) detail else State.saveGo c f xs s
    | .ok p =>
      match s.store (.save c) none x.va p m (x.v % 2 ^ (8 * m)) with
      | .wait s' => (s.keepRequest s' (.save c)).setLeft c (x :: xs)
      | .done s' _ _ =>
        State.saveGo c f (x.rest m ++ xs) ((if x.poison then s'.poisonAt p else s').forget (.save c))

/-- A save goes on with what it has still to write. -/
def State.saveRun (s : State) (c : Nat) : State :=
  if (s.core c).saveLeft = [] then s else State.saveGo c (((s.core c).saveLeft.map fun x => x.n / 64 + 1).sum + 1) (s.core c).saveLeft s

/-- R413: what the device stores in a piece of a region, of `n` bytes at `off`, is a layout of its own: free bytes (DESIGN CHOICE, log 17,
unsafe), the same for all pieces of one save. -/
def areaBytes (draw off n : Nat) : Nat := Config.saveArea (draw * 2 ^ 23 + off) % 2 ^ (8 * n)

/-- The pieces of a save by the device. -/
def State.areaPuts (s : State) (c : Nat) (n : Option Nat) (pieces : List (Nat × Nat)) (bad : List Nat) : List AreaPut :=
  pieces.filterMap fun e => (s.areaAt c n e.1).map fun (asid, fn, va) =>
    ⟨asid, fn, va, e.2, areaBytes s.draws e.1 e.2, bad.contains e.1⟩

/-- The pieces that a save has written, with the free bytes that it took. -/
def markAreas (areas : Tab Nat) (pieces : List (Nat × Nat)) (draw : Nat) : Tab Nat :=
  pieces.foldl (fun t e => t.put e.1 draw) areas

/-- R413: what the runtime stores of the control thread, as doublewords: offset and value. -/
def Ct.saveWords (t : Ct) : List (Nat × Nat) :=
  (0, t.pc.toNat) :: ((List.range 31).map fun i => (8 * (i + 1), (t.xreg (i + 1)).toNat)) ++
    ((List.range 4).map fun i => (0x100 + 8 * i, (t.bpa.get i 0).toNat)) ++
    ((List.range 4).map fun i => (0x120 + 8 * i, (t.bpm.get i 0).toNat)) ++
    [(0x140, t.ring.toNat), (0x148, t.ringpos.toNat), (0x150, t.psel.toNat)]

/-- R407, step 2: the runtime's stores of the control thread's state. -/
def State.threadPuts (s : State) (c : Nat) (n : Option Nat) (t : Ct) : List AreaPut :=
  t.saveWords.filterMap fun e => (s.areaAt c n e.1).map fun (asid, fn, va) => ⟨asid, fn, va, 8, e.2, false⟩

/-- What reading a piece of the save area answers. -/
inductive AreaRead
  | good (s : State)
  | bad (s : State)
  | wait (s : State)
deriving DecidableEq, Repr, Inhabited

/-- R414: `n` lines of a piece from a place, of which the device has written `v`, if it has: bad where a line is POISON or fails its check,
but for one that was stored so (`stored`, by its offset: R409), or where its bytes are not those that the device wrote. Its layout
is its own: bytes that software has changed are a value that no state can take (DESIGN CHOICE, log 17, unsafe). -/
def State.readPiece (c va : Nat) (stored : List Nat) : Nat → Nat → Place → Option Nat → State → AreaRead
  | 0, _, _, _, s => .good s
  | n + 1, off, p, v, s =>
    match s.unitRead (.save c) va p 64 with
    | .wait s' => .wait (s.keepRequest s' (.save c))
    | .done s' d cond =>
      if (cond.isSome && !stored.contains off) || (v.map fun x => x % 2 ^ 512 != d) == some true then .bad s'
      else State.readPiece c (va + 64) stored n (off + 64) (p.plus 64) (v.map (· / 2 ^ 512)) s'

/-- The context whose pieces of the save area a restore reads: that of a task on the core. -/
def Core.savedOf (k : Core) (n : Option Nat) : Saved :=
  ((k.saved.find? fun e => some e.2.task == n).map (·.2)).getD
    { task := 0, ct := {}, harts := [], gangs := [], ctrs := [], evq := [], tiles := [] }

/-- R414: a restore reads pieces of the save area. One that does not translate is passed over (log 17). -/
def State.areaRead (c : Nat) (n : Option Nat) : List (Nat × Nat) → State → AreaRead
  | [], s => .good s
  | (off, len) :: rest, s =>
    match s.areaAt c n off with
    | none => .good s
    | some (asid, fn, va) =>
      match s.areaPlace asid fn va len false with
      | .error (cause, detail) =>
        if cause = walkWait then .wait (s.walkRequest (.save c) detail) else State.areaRead c n rest s
      | .ok p =>
        let v := (s.core c).savedOf n
        match State.readPiece c va v.poisoned (len / 64) off p ((v.areas.find off).map fun d => areaBytes d off len) s with
        | .good s' => State.areaRead c n rest s'
        | x => x

/-- The clk of the vertical bus that `len` bytes of a save or restore take: 256 bytes a clk, as R411 has it for the overflow
region. DEDUCED, log 58, unsafe. -/
def busClk (len : Nat) : Nat := (len + 255) / 256

/-- R413: where the device keeps the scalar state, as offsets and lengths: event queue, gangs, counters, harts, tiles. -/
def scalarRegions : List (Nat × Nat) := [(0x400, 0x1000), (0x2000, 0x1000), (0x3000, 0x100), (0x4000, 0x4000), (0x8000, 0x14000)]
def scalarBytes : Nat := (scalarRegions.map (·.2)).sum

/-- R413: where bank `b`'s masks and metadata stand. -/
def maskRegion (b : Nat) : Nat × Nat := (0x20000 + b * 0x2000, 0x2000)

/-- R413: where a register of bank `b` overflows to. -/
def overflowRegion (b r : Nat) : Nat × Nat := (0x400000 + b * 0x20000 + r * 0x2000, 0x2000)

/-! ## UNLOAD and LOAD (R407, R415, R416) -/

/-- The control thread as the runtime has stored it: at the instruction the interrupt found, with the registers it then had. -/
def Ct.stored (t : Ct) : Ct :=
  let u := { t with x := t.stash.getD t.x, stash := none }
  if t.mode = .machine then { u with pc := t.mepc, mode := t.mpp, mie := t.mpie, mpie := true, mpp := .user } else u

/-- The notices that wait in the hub for a core. -/
def State.waitingFor (s : State) (c : Nat) : List EvRec := s.fen.waiting.filterMap fun e => if e.1 = c then some e.2 else none

def State.dropWaiting (s : State) (c : Nat) : State :=
  { s with fen := { s.fen with waiting := s.fen.waiting.filter fun e => e.1 != c } }

/-- UNLOAD's effect (R407): the core's scalar state leaves the core, and its writes of the save area begin. The banks keep theirs. -/
def State.unload (s : State) (c : Nat) : State :=
  let k := s.core c
  let old := k.saved.find k.ctx.toNat
  let v : Saved :=
    { task := k.task.getD 0, ct := k.ct.stored, harts := k.harts, gangs := k.gangs, ctrs := k.ctrs, evq := k.evq,
      tiles := k.tiles, banks := (old.map (·.banks)).getD [], slot := old.bind (·.slot), unloadedAt := s.now
      waiting := s.waitingFor c
      areas := markAreas ((old.map (·.areas)).getD []) scalarRegions s.draws, poisoned := (old.map (·.poisoned)).getD [] }
  let puts := s.threadPuts c k.task v.ct ++ s.areaPuts c k.task scalarRegions []
  let s1 := s.setCore c { k with
    saved := k.saved.put k.ctx.toNat v, harts := [], gangs := [], ctrs := [], evq := [], tiles := [], stage := none
    saveLeft := k.saveLeft ++ puts }
  (({ s1 with draws := s.draws + 1 }.dropWaiting c).saveRun c).chargeMgmt c (busClk scalarBytes)

/-- R407, step 4: UNLOAD is complete: REQ becomes 0, and the core is free, or paused. Notices that have come since its effect wait for the
context (R415). -/
def State.unloaded (s : State) (c : Nat) : State :=
  let k := s.core c
  let key := k.ctx.toNat
  let saved := match k.saved.find key with
    | some v => k.saved.put key { v with unloadedAt := s.now, waiting := v.waiting ++ s.waitingFor c }
    | none => k.saved
  let k1 := { k with saved := saved, ct := k.ct.stopped }
  if k.ct.req = 1 then
    let s1 := (s.dropWaiting c).setCore c k1.release
    match k.task with
    | some n => s1.preempted n
    | none => s1
  else (s.dropWaiting c).setCore c { k1 with st := .paused }

/-- R412, R414: the operation ends with `0x45 SAVE_CORRUPT`, and the task with it. -/
def State.corrupt (s : State) (c : Nat) : State :=
  let t := { s.ct c with busy := false, opDone := false, err := 0x45 }
  match (s.core c).task with
  | some n => (s.setCore c { s.core c with st := .running, ct := t }).faultTask n c 0x45
  | none => s.setCt c t

/-- LOAD's effect (R407): the state that UNLOAD saved returns. -/
def State.reload (s0 : State) (c : Nat) : State :=
  let s := s0.chargeMgmt c (busClk scalarBytes)
  let k := s.core c
  match k.saved.find k.ctx.toNat with
  | none => s
  | some v => s.setCore c { k with
      harts := v.harts, gangs := v.gangs, ctrs := v.ctrs, evq := v.evq, tiles := v.tiles,
      ct := { v.ct with op := k.ct.op, busy := k.ct.busy, opDone := k.ct.opDone, req := k.ct.req, err := k.ct.err,
                        sctx := k.ct.sctx, slot := k.ct.slot, sbank := k.ct.sbank, logv := k.ct.logv,
                        mtvec := k.ct.mtvec, mscratch := k.ct.mscratch, running := false } }

/-- R416: the record of a context resumed. -/
def resumedRecord (at_ now : Nat) : EvRec :=
  { cause := 0x84, src := 1, bank := 0, gang := 0, detail := BitVec.ofNat 64 at_, time := now, hpc := 0, body := 0 }

/-- The core goes on with its context, and its notices follow the record (R415, R416). -/
def State.goOn (s : State) (c stoppedAt : Nat) (waiting : List EvRec) : State :=
  let s1 := (s.dropWaiting c).setCore c { s.core c with st := .running, ct := { s.ct c with running := true } }
  let s2 := (waiting ++ s.waitingFor c).foldl (fun t r => t.hubRecord c r) (s1.hubRecord c (resumedRecord stoppedAt s.now))
  match (s.core c).task with
  | some n => s2.startClock n
  | none => s2

/-- R416: LOAD is complete. The saved banks stay saved. -/
def State.loaded (s : State) (c : Nat) : State :=
  let k := s.core c
  let key := k.ctx.toNat
  match k.saved.find key with
  | none => s
  | some v =>
    let rest : Saved := { task := v.task, ct := {}, harts := [], gangs := [], ctrs := [], evq := [], tiles := [],
                          banks := v.banks, slot := v.slot, poisoned := v.poisoned
                          areas := v.areas.filter fun e => !(scalarRegions.map (·.1)).contains e.1 }
    let s1 := s.setCore c { k with saved := if v.banks = [] then k.saved.drop key else k.saved.put key rest }
    s1.goOn c v.unloadedAt v.waiting

/-! ## BANKSAVE and BANKRESTORE (R409, R410) -/

/-- R409: a line whose condition is UE is stored with POISON. -/
def storedConds (t : Tab LineCond) : Tab LineCond :=
  t.mapVals fun _ x => { x with cond := if x.cond = .ue then .poison else x.cond }

/-- The contents of a register that a save keeps: an OPEN latch's, a valid lane-file register's. -/
def VReg.kept (r : Nat) (x : VReg) : Bool := if r < 8 then x.latch == .opened else x.valid

/-- R409: a bank's registers as saved: metadata, and contents only where they go to the overflow region. -/
def savedReg (overflow : Bool) (r : Nat) (x : VReg) : VReg :=
  { x with bits := if x.kept r && overflow then x.bits else 0, conds := storedConds x.conds }

/-- The save row of register `r` in a slot. -/
def saveRow (slot r : Nat) : Nat := 2 * slot + r / 8

/-- R409: the save-row writes of a bank. -/
def Bank.toRows (x : Bank) (slot : Nat) : Bank :=
  x.regs.foldl (fun y e =>
    if e.2.kept e.1 then
      y.setSag (e.1 % 8) { y.sag (e.1 % 8) with
        saveRows := (y.sag (e.1 % 8)).saveRows.put (saveRow slot e.1) e.2.bits }
    else y) x

/-- R411: what moving a bank's registers costs: an array operation for each save row, or the bus for each register of the
overflow region, and the bus for the masks and metadata. -/
def moveClk (regs : Tab VReg) (slot : Nat) : Nat :=
  let n := (regs.filter fun e => e.2.kept e.1).length
  (if slot = 4 then n * busClk 8192 else n) + busClk 8192

/-- The lines of a bank's registers that have a condition, by their offsets in its overflow region (R409). -/
def poisonedLines (b : Nat) (regs : Tab VReg) : List Nat :=
  (regs.filter fun e => e.2.kept e.1).flatMap fun e => e.2.conds.map fun x => (overflowRegion b e.1).1 + 64 * x.1

/-- R409, R413: the pieces of the save area that a bank's state stands in: its masks and metadata and, with slot 4, its registers, those
that have lines in bad condition line by line. -/
def bankPieces (slot b : Nat) (regs : Tab VReg) : List (Nat × Nat) :=
  maskRegion b :: if slot ≠ 4 then [] else
    (regs.filter fun e => e.2.kept e.1).flatMap fun e =>
      let r := overflowRegion b e.1
      if e.2.conds = [] then [r] else (List.range 128).map fun i => (r.1 + 64 * i, 64)

/-- R187, R191, R411: the save rows of the registers that a save or a restore moves may be reached: their SAGs are idle. -/
def State.rowsReady (s : State) (c b slot : Nat) (regs : Tab VReg) : Bool :=
  slot == 4 || (regs.filter fun e => e.2.kept e.1).all fun e => s.sagIdle c b (e.1 % 8)

/-- BANKSAVE's effect (R409): the bank of context `ctx` is saved, and OWNER is none. -/
def State.bankSave (s : State) (c ctx slot b : Nat) : State :=
  let k := s.core c
  let x := k.bank b
  match k.saved.find ctx with
  | none => s
  | some v =>
    if x.owner ≠ ctx ∨ ctx = 0 then s
    else
      let y := if slot < 4 then x.toRows slot else x
      let kept : Bank := { owner := ctx, regs := x.regs.mapVals (savedReg (slot == 4)), masks := x.masks }
      let pieces := bankPieces slot b x.regs
      let bad := if slot = 4 then poisonedLines b x.regs else []
      let v1 := { v with
        banks := v.banks.put b kept, slot := some slot, areas := markAreas v.areas pieces s.draws, poisoned := v.poisoned ++ bad }
      let s1 := s.setCore c { k.setBank b { y with owner := 0, regs := [], masks := [] } with
        saved := k.saved.put ctx v1, saveLeft := k.saveLeft ++ s.areaPuts c (some v.task) pieces bad }
      let s2 := ({ s1 with draws := s.draws + 1 }).saveRun c
      let s3 := if slot = 4 then s2
        else (x.regs.filter fun e => e.2.kept e.1).foldl (fun t e => t.useSag c b (e.1 % 8)) s2
      s3.chargeMgmt c (moveClk x.regs slot)

/-- A register as restored. DESIGN CHOICE, log 6, unsafe. -/
def restoredReg (x : Bank) (slot r : Nat) (v : VReg) : VReg :=
  if slot < 4 ∧ v.kept r then { v with bits := (x.sag (r % 8)).saveRows.get (saveRow slot r) 0 } else v

/-- BANKRESTORE's effect (R410), once what it reads of the save area is good: the bank's state returns, and OWNER is the context; the
slot is free once every bank saved into it has returned. -/
def State.bankRestore (s : State) (c ctx b : Nat) : State :=
  let k := s.core c
  match k.saved.find ctx with
  | none => s
  | some v => match v.banks.find b with
    | none => s
    | some m =>
      let x := k.bank b
      let slot := v.slot.getD 4
      if x.owner ≠ 0 then s
      else
        let y := { x with owner := ctx, masks := m.masks, regs := m.regs.mapVals (restoredReg x slot) }
        let banks := v.banks.drop b
        let pieces := (bankPieces slot b m.regs).map (·.1)
        let v1 := { v with
          banks := banks, slot := if banks = [] then none else v.slot
          areas := v.areas.filter fun e => !pieces.contains e.1, poisoned := v.poisoned.filter fun n => !pieces.contains n }
        let keep := banks != [] || ctx != k.ctx.toNat
        let k1 := k.setBank b (if slot < 4 then y.freeRows slot else y)
        let s1 := s.setCore c { k1 with saved := if keep then k.saved.put ctx v1 else k.saved.drop ctx }
        let s2 := if slot = 4 then s1
          else (m.regs.filter fun e => e.2.kept e.1).foldl (fun t e => t.useSag c b (e.1 % 8)) s1
        s2.chargeMgmt c (moveClk m.regs slot)

/-! ## hmsave (R412) -/

/-- R412: a write of hmsave. -/
def State.writeHmsave (s : State) (c v : Nat) : State :=
  let t := s.ct c
  if t.busy then s
  else if 4 < fld v 0 4 ∨ 4 < fld v 9 3 then s.setCt c { t with err := 0x02 }
  else
    let op := fld v 0 4
    s.setCt c { t with
      sctx := BitVec.ofNat 16 (fld v 32 16), slot := BitVec.ofNat 3 (fld v 9 3), sbank := BitVec.ofNat 5 (fld v 4 5),
      op := BitVec.ofNat 4 op, busy := op != 0, opDone := false }

/-- R415, R265: UNLOAD begins once no copy of the core's harts is in progress. LOAD needs the context that the core's
task left. BANKSAVE and BANKRESTORE wait for the SAGs of their save rows (R187). -/
def State.opReady (s : State) (c : Nat) : Bool :=
  match (s.ct c).op.toNat with
  | 1 => (s.core c).st == .saving && s.coreQuiet c
  | 2 => (s.core c).st == .loading
  | 3 =>
    let t := s.ct c
    s.rowsReady c t.sbank.toNat t.slot.toNat (s.bank c t.sbank.toNat).regs
  | 4 =>
    let t := s.ct c
    match (s.core c).saved.find t.sctx.toNat with
    | some v => s.rowsReady c t.sbank.toNat (v.slot.getD 4) ((v.banks.get t.sbank.toNat {}).regs)
    | none => true
  | _ => true

/-- R414: the task of a restore and the pieces of its save area that it reads: those of a LOAD, or of a BANKRESTORE that will take
effect. -/
def State.restorePieces (s : State) (c : Nat) : Option Nat × List (Nat × Nat) :=
  let k := s.core c
  match k.ct.op.toNat, (k.saved.find k.ct.sctx.toNat).bind fun v => (v.banks.find k.ct.sbank.toNat).map fun m => (v, m) with
  | 2, _ => (k.task, scalarRegions)
  | 4, some (v, m) =>
    (some v.task, if (k.bank k.ct.sbank.toNat).owner ≠ 0 then [] else bankPieces (v.slot.getD 4) k.ct.sbank.toNat m.regs)
  | _, _ => (none, [])

/-- The operation in progress has taken effect. -/
def State.opActs (s : State) (c : Nat) : State := s.setCt c { s.ct c with opDone := true }

/-- The effect of the operation in progress, once. A restore that reads a bad line ends with `0x45` (R414). -/
def State.doOp (s : State) (c : Nat) : State :=
  let t := s.ct c
  if !t.busy || t.opDone || !s.opReady c then s
  else match t.op.toNat with
    | 1 => (s.opActs c).unload c
    | 3 => (s.opActs c).bankSave c t.sctx.toNat t.slot.toNat t.sbank.toNat
    | n => match State.areaRead c (s.restorePieces c).1 (s.restorePieces c).2 s with
      | .wait s' => s'
      | .bad s' => ((s'.forget (.save c)).opActs c).corrupt c
      | .good s' =>
        let s1 := (s'.forget (.save c)).opActs c
        if n = 2 then s1.reload c else if n = 4 then s1.bankRestore c t.sctx.toNat t.sbank.toNat else s1

/-- The runtime issues operation `op` for the core, unless one is in progress. -/
def State.issueOp (s : State) (c op : Nat) : State :=
  let t := s.ct c
  if t.busy then s else s.setCt c { t with op := BitVec.ofNat 4 op, busy := true, opDone := false }

/-- UNLOAD, LOAD, BANKSAVE and BANKRESTORE (R407, R409, R410): the runtime has written, or now writes, hmsave, and the
operation acts. -/
def State.saveOp (s : State) (c op : Nat) : State :=
  let s1 := s.issueOp c op
  if (s1.ct c).op.toNat = op then s1.doOp c else s1

/-- R407. -/
def execUnload (core : Nat) (s : State) : Res := .next (s.saveOp core 1)
/-- R407. -/
def execLoad (core : Nat) (s : State) : Res := .next (s.saveOp core 2)
/-- R409. -/
def execBanksave (core : Nat) (s : State) : Res := .next (s.saveOp core 3)
/-- R410. -/
def execBankrestore (core : Nat) (s : State) : Res := .next (s.saveOp core 4)

/-- HMSAVE_OP_COMPLETE (R412): the operation ends once all of its writes are performed; BUSY is clear and ERR 0. -/
def State.endOp (s : State) (c : Nat) : State :=
  let s0 := s.saveRun c
  let s1 := if (s0.ct c).opDone then s0 else s0.doOp c
  let t := s1.ct c
  if !t.busy || !t.opDone || (s1.core c).saveLeft != [] then s1
  else
    let s2 := s1.setCt c { t with busy := false, opDone := false, err := 0 }
    match t.op.toNat with
    | 1 => s2.unloaded c
    | 2 => s2.loaded c
    | _ => s2

/-- R412. -/
def execHmsaveOpComplete (core : Nat) (s : State) : Res := .next (s.endOp core)

/-! ## Holding a core in place (R433) -/

/-- R433, step 2: a context without a save area is held in its core. -/
def State.holdCore (s : State) (c : Nat) : State :=
  let s1 := s.pauseHarts c
  let s2 := s1.setCore c { s1.core c with st := .held, ct := { s1.ct c with running := false } }
  match (s.core c).task with
  | some n => s2.stopClock n
  | none => s2

/-! ## LOG_APPEND (R441) -/

/-- R441: a write of hmlogc appends an entry with source 1. -/
def State.logAppend (s : State) (c v : Nat) : State :=
  if fld v 54 2 = 3 then s else s.logEvent (fld v 56 8) 1 c (fld v 54 2) (s.ct c).logv.toNat

/-- R441. -/
def execLogAppend (core : Nat) (v : Word) (s : State) : Res := .next (s.logAppend core v.toNat)

end Sys2Proof.Machine
end

