-- ==== Sys2Proof/Machine/Sched.lean ====
section
/-! DEFINITION. The hub's scheduler: the ready set, its order, starting and pre-empting tasks (R31, R34, R91 to R100,
R128, R407). -/

namespace Sys2Proof.Machine

/-! ## Effective priority (R92, R97) -/

/-- The base priority. -/
def Task.base (t : Task) : Nat := t.recd.prio.toNat % 8

/-- R92, R97: the effective priority at hub time `now` under an age limit of `a` ms. -/
def Task.effAt (t : Task) (now a : Nat) : Nat :=
  let e := t.base + (now - t.readyAt) / (a * 1000000)
  let e1 := if 6 < e then max t.base 6 else e
  match t.latestStart with
  | some l => if l ≤ now then max e1 6 else e1
  | none => e1

/-- The task is in the ready set (R91). -/
def Task.waits (t : Task) : Bool := (t.stage == .ready || t.stage == .preempted) && t.ends.isNone

/-- A waiting task's effective priority as time has made it. -/
def State.refreshEff (s : State) (n : Nat) : State :=
  s.mapTask n fun t => if t.waits then { t with eff := t.effAt s.now s.fen.shares.ageLimit } else t

/-- AGE_LIMIT_EXPIRY (R92). -/
def execAgeLimitExpiry (num : Nat) (s : State) : Res := .next (s.refreshEff num)
/-- LATEST_START_EXPIRY (R97). -/
def execLatestStartExpiry (num : Nat) (s : State) : Res := .next (s.refreshEff num)

/-! ## The order (R93) -/

/-- R93: the key by which tasks rank, lowest first. -/
def State.rankKey (s : State) (t : Task) : Nat :=
  let last := s.sched.lastStarted.get t.eff 64
  (7 - t.eff) * 2 ^ 80 + (t.source + 65 - (last + 1)) % 65 * 2 ^ 70 + t.num

def insertTask (s : State) (t : Task) : List Task → List Task
  | [] => [t]
  | x :: xs => if s.rankKey t ≤ s.rankKey x then t :: x :: xs else x :: insertTask s t xs

/-- The ready tasks in the order of R93. -/
def State.ranked (s : State) : List Task := (s.sched.tasks.filter Task.waits).foldr (insertTask s) []

/-! ## Free cores (R94, R100) -/

/-- R94, R431, R433, R452. -/
def State.coreFree (s : State) (c : Nat) : Bool :=
  let k := s.core c
  let l := s.layer (c / 8)
  let p := s.clusterAt (c / 4)
  k.task.isNone && k.st == .free && (s.fen.leases.find c).isNone && !s.removed c && p.state == 0 && p.busy.isNone &&
    (l.remap.map (·.1)) != some (c % 8) && l.shrink == []

/-! ## Starting a task (R31, R34, R94, R128) -/

/-- R407: a context id, never 0, that no saved context of the core has. DEDUCED, log 46, unsafe. -/
def freshCtx (used : Tab Saved) : Nat → BitVec 16 → BitVec 16
  | 0, n => n
  | f + 1, n => if n = 0 ∨ (used.find n.toNat).isSome then freshCtx used f (n + 1) else n

/-- R31, R224: the harts at task start. -/
def startHarts (nanTrap : Bool) : Tab Hart :=
  if nanTrap then (List.range 32).map fun b => (b, { Hart.init b with rmode := 0x10 }) else []

/-- R34, R58, R94: the control thread at task start. -/
def Ct.start (t : Ct) (r : Record) : Ct :=
  { t.stopped with
    running := true, mode := .user, pc := r.entry
    x := [(2, r.sp), (10, r.arg0), (11, r.arg1), (12, r.arg2), (13, r.arg3)] }

/-- A core on which a task starts. DEDUCED, log 20, unsafe. -/
def Core.start (k : Core) (t : Task) : Core :=
  let ctx := freshCtx k.saved (k.saved.length + 2) k.nextCtx
  { k with
    st := .running, task := some t.num, ctx := ctx, nextCtx := ctx + 1, asid := t.recd.asid.setWidth 12,
    gen := t.recd.gen, flags := t.recd.flags, ct := k.ct.start t.recd, gangs := [], harts := startHarts t.recd.nanTrap,
    evq := [], ctrs := [], tiles := [], engine := [], stage := none }

/-- A core on which a pre-empted task goes on, once the runtime has issued LOAD (R407); a core whose work has ended is
assigned to it again. -/
def Core.resume (k : Core) (t : Task) (c : Nat) : Core :=
  let k1 := { k with task := some t.num, asid := t.recd.asid.setWidth 12, gen := t.recd.gen, flags := t.recd.flags }
  if t.done.contains c then { k1 with st := .ended }
  else match k.saved.find? fun e => e.2.task == t.num with
    | some e => { k1 with st := .loading, ctx := BitVec.ofNat 16 e.1, ct := k.ct.stopped }
    | none => { k1 with st := .ended }

/-- R93, R94: the task starts, or goes on, on every core of its set. -/
def State.startTask (s : State) (t : Task) : State :=
  let s1 := t.cores.foldl (fun u c =>
    u.setCore c (if t.stage = .preempted then (u.core c).resume t c else (u.core c).start t)) s
  let s2 := s1.mapTask t.num fun x =>
    { x with stage := .running, runFrom := if t.stage = .preempted then none else some s.now }
  { s2 with sched := { s2.sched with lastStarted := s2.sched.lastStarted.put t.eff t.source } }

/-! ## Pre-emption (R95, R96) -/

/-- The running tasks that hold cores of `y` that are not free, if these are the only reason that it cannot start. -/
def State.holders (s : State) (y : Task) : Option (List Task) :=
  let busy := y.cores.filter fun c => !s.coreFree c
  let able := fun (c : Nat) =>
    let k := s.core c
    (k.st == .running || k.st == .loading || k.st == .ended) && k.ct.req == 0 && (s.fen.leases.find c).isNone && !s.removed c &&
      (s.clusterAt (c / 4)).state == 0 && (s.clusterAt (c / 4)).busy.isNone &&
      (s.layer (c / 8)).remap.isNone && (s.layer (c / 8)).shrink == []
  let nums := (busy.filterMap fun c => (s.core c).task).eraseDups
  if busy = [] ∨ !busy.all able then none
  else
    let ts := nums.filterMap s.task
    if ts.length = nums.length ∧ ts.all (fun t => t.stage == .running && t.ends.isNone) then some ts else none

/-- R95: the task may be pre-empted for a task of effective priority `eff`. -/
def Task.yields (x : Task) (eff : Nat) : Bool := x.recd.preempt && decide (x.base < eff)

/-- R95, R96, R407: every core of the task is asked for; a save in progress goes on and then leaves the core free, and a LOAD is
followed by a save. A core that is already saved, or whose work has ended, is free. -/
def State.preemptTask (s : State) (x : Task) : State :=
  let s1 := x.cores.foldl (fun u c =>
    if !u.holds c x.num then u
    else if (u.core c).st = .running ∨ (u.core c).st = .saving ∨ (u.core c).st = .loading then u.ask c 1
    else u.setCore c (u.core c).release) s
  (s1.stopClock x.num).preempted x.num

/-- R95: the first task that cannot start may cause pre-emption. -/
def State.preemptFor (s : State) (y : Task) : State :=
  match s.holders y with
  | some xs => if xs.all (fun x => x.yields y.eff) then xs.foldl (fun u x => u.preemptTask x) s else s
  | none => s

/-! ## The decision (R93) -/

/-- R93, R95: the walk; `blocked` are the cores that earlier waiting tasks need. -/
def State.walk : List Task → List Nat → Bool → State → State
  | [], _, _, s => s
  | t :: ts, blocked, first, s =>
    if t.cores.all (fun c => s.coreFree c && !blocked.contains c) then State.walk ts blocked first (s.startTask t)
    else State.walk ts (blocked ++ t.cores) false (if first then s.preemptFor t else s)

/-- R93, R98: limits that have expired act first. In recovery no core runs (R69, R89). -/
def State.decide_ (s : State) : State :=
  if s.bar.recovery then s
  else
    let s1 := s.sched.tasks.foldl (fun u t => u.refreshEff t.num) s
    State.walk s1.ranked [] true s1

/-- SCHEDULER_DECISION (R93). -/
def execSchedulerDecision (s : State) : Res := .next s.decide_

end Sys2Proof.Machine
end

