-- ==== Sys2Proof/Machine/Fen.lean ====
section
/-! DEFINITION. Fen: notices, core leases, test steps, suspicion scores, retirement and capacity (R109 to R122, R158,
R159, R425 to R437, R439). -/

namespace Sys2Proof.Machine

/-! ## Notices (R119, R120) -/

/-- R119: the 32 bytes of a notice. -/
def Notice.body (n : Notice) : BitVec 256 :=
  BitVec.ofNat 256 (n.kind + n.flags * 2 ^ 8 + n.utype * 2 ^ 16 + n.unit * 2 ^ 32 + n.seq * 2 ^ 64 + n.grace * 2 ^ 96 +
    n.effTime * 2 ^ 128)

/-- The cores that a notice to the task on core `c` goes to: those whose work for it has not ended. -/
def State.recipients (s : State) (c : Nat) : List Nat :=
  match (s.core c).task.bind s.task with
  | some t => t.cores.filter fun x => s.holds x t.num && (s.core x).st != .ended
  | none => []

/-- R119: one notice, to each of its cores; with no recipient none is sent. -/
def State.notice (s : State) (kind flags utype unit grace effTime : Nat) (sentTo : List Nat) : State :=
  if sentTo = [] then s
  else
    let n : Notice := ⟨s.fen.nextSeq, kind, flags, utype, unit, grace, effTime, sentTo, (s.core (sentTo.headD 0)).task⟩
    let r : EvRec := { cause := 0x81, src := 1, bank := 0, gang := 0, detail := 0, time := s.now, hpc := 0, body := n.body }
    let latest := if utype = 1 then s.fen.latest.put unit n.seq else s.fen.latest
    let s1 := { s with fen := { s.fen with nextSeq := n.seq + 1, notices := s.fen.notices ++ [n], latest := latest } }
    sentTo.foldl (fun t c => t.hubRecord c r) s1

/-! ## The replacement request and the retirement region (R427, R428, R436) -/

/-- R436. -/
def State.requestReplacement (s : State) : State :=
  if s.bar.replreq then s
  else (({ s with bar := { s.bar with replreq := true } }.errVector).send (.mgmt 0x80 [])).logHub 0x8f 0

/-- R428: the UNIT field. -/
def unitField (core region bank sag row lane idx : Nat) : Nat :=
  core / 128 * 2 ^ 45 + core % 128 / 8 * 2 ^ 41 + region * 2 ^ 37 + bank * 2 ^ 32 + sag * 2 ^ 29 + row * 2 ^ 19 +
    lane * 2 ^ 13 + idx

/-- The region that serves a logical core (R430). -/
def State.regionOf (s : State) (c : Nat) : Nat := fld (s.layer (c / 8)).map.toNat (4 * (c % 8)) 4

/-- R427: a record is appended, or logged where the region is full; R436. What a test of Fen has found is logged with Fen as its
source (R440). DEDUCED, log 89, unsafe. -/
def State.retire_ (s : State) (utype action reason unit logical key : Nat) : State :=
  let r : Retired :=
    { utype := utype, action := action, reason := reason, unit := unit, time := s.now, boots := s.flash.boots,
      logical := logical, history := (s.fen.scores.get key {}).history }
  if s.flash.records.length < Config.retireSize then
    let s1 := { s with flash := { s.flash with records := s.flash.records ++ [r] } }
    if Config.retireSize * 3 / 4 < s1.flash.records.length then s1.requestReplacement else s1
  else
    ({ s with flash := { s.flash with recordsLost := s.flash.recordsLost + 1 } }.logEvent 0x8e (if reason = 1 then 2 else 0)
      (logical % 2 ^ 16) unit 0).requestReplacement

/-- R455: the slot of firmware in use: of those that verify, one of the highest version, the first listed of two that have it
(DESIGN CHOICE, log 98, unsafe). -/
def bestSlot (l : List Slot) : Option Slot :=
  l.foldl (fun b x => if !x.ok then b else match b with
    | none => some x
    | some y => if y.seq < x.seq then some x else some y) none

/-- R106: the limits of a record of TYPE 4. -/
def Shares.good (x : Shares) : Bool :=
  decide (4 ≤ x.refreshC) && decide (8 ≤ x.refreshH) && decide (4 ≤ x.test) && decide (1 ≤ x.mgmt) &&
    decide (1 ≤ x.ageLimit) && decide (x.ageLimit ≤ 1000) && decide (100 ≤ x.grace) && decide (x.grace ≤ 10000) &&
    decide (x.refreshC ≤ x.refreshH) &&
    decide (x.refreshH + x.scrub + x.test + x.hostDma + x.recalls + x.fabric + x.mgmt ≤ 41)

/-- R430: a LAYER field names no region twice, and none from 9 to 14 or retired; its zero field is zero. -/
def layerGood (v : Word) : Bool :=
  let used := ((List.range 8).map fun c => fld v.toNat (4 * c) 4).filter (· != 15)
  fld v.toNat 41 23 == 0 && used.all (fun x => decide (x ≤ 8) && !v.getLsbD (32 + x)) && used.eraseDups == used

/-- R430: the LAYER field of a layer. -/
def Layer.word (l : Layer) : Word := BitVec.ofNat 64 (l.map.toNat + l.retired.toNat * 2 ^ 32)

/-- R430: what a LAYER field gives. -/
def Layer.ofWord (v : Word) : Layer := { retired := BitVec.ofNat 9 (fld v.toNat 32 9), map := BitVec.ofNat 32 (fld v.toNat 0 32) }

/-- R86, R106, R430: the BODY of a record of a type. -/
def Body.good (ty : Nat) : Body → Bool
  | .cores domain modId zero layers => ty == 1 && decide (modId.toNat < 64) && domain.getLsbD modId.toNat && zero == 0 &&
      layers.all fun e => layerGood e.2
  | .repairs _ => ty == 2
  | .identity _ => ty == 3
  | .budgets x zero => ty == 4 && x.good && zero == 0

/-- R86, R87: the record in a slot for a type passes verification, under the vendor's key or the module's. -/
def ConfigSlot.verifies (ty : Nat) (x : ConfigSlot) : Bool :=
  x.signed == x.record && x.key != .other && x.record.type == ty && x.record.version == 1 && x.record.length == x.record.body.length &&
    x.record.body.good ty

/-- R87: of the records of a type that pass, the one with the higher SEQ. -/
def bestConfig (ty : Nat) (l : List ConfigSlot) : Option ConfigRec :=
  l.foldl (fun b x => if !x.verifies ty then b else match b with
    | none => some x.record
    | some y => if y.seq < x.record.seq then some x.record else some y) none

def State.config (s : State) (ty : Nat) : Option ConfigRec := bestConfig ty (s.flash.configs.get ty [])

/-- The repair maps in force. -/
def State.repairs (s : State) : Repairs :=
  let banks := s.cores.flatMap fun e => e.2.banks.map fun b => (e.1, b.1, b.2)
  { lanes := (banks.filter fun x => x.2.2.spareLanes != 0).map fun x => (x.1 * 32 + x.2.1, x.2.2.spareLanes)
    rows := banks.flatMap fun x => (x.2.2.sags.filter fun g => g.2.spareRows != 0).map fun g =>
      (sagUnit x.1 x.2.1 g.1, g.2.spareRows)
    signals := s.flash.busSpares, buses := s.flash.retiredBuses, ports := s.flash.offPorts, slices := s.flash.offSlices }

/-- The BODY of a new record of a type: the state in force, or for TYPES 3 and 4 what the last one has. -/
def State.bodyOf (s : State) (ty : Nat) : Body :=
  match ty with
  | 1 => .cores s.flash.domain (s.flash.modId.setWidth 8) 0 (s.flash.layers.map fun e => (e.1, e.2.word))
  | 2 => .repairs s.repairs
  | 3 => ((s.config 3).map (·.body)).getD (.identity 0)
  | _ => .budgets s.fen.shares 0

/-- R87: a new record of a type, signed with the identity key, in the slot not in use; the previous one stays. -/
def State.writeConfig (s : State) (ty : Nat) : State :=
  let b := s.bodyOf ty
  let seq := ((s.config ty).map (·.seq)).getD 0 + 1
  let new := ConfigSlot.sign .identity { type := ty, length := b.length, seq := seq, body := b }
  let kept := (s.flash.configs.get ty []).filter fun x => x.verifies ty && some x.record.seq == (s.config ty).map (·.seq)
  { s with flash := { s.flash with configs := s.flash.configs.put ty (kept.take 1 ++ [new]) } }

/-! ## Cores that fail (R425, R431 to R435) -/

/-- R430: the layer's spare region. -/
def Layer.spare (l : Layer) : Option Nat :=
  (List.range 9).find? fun x => !l.retired.getLsbD x &&
    (List.range 8).all (fun c => fld l.map.toNat (4 * c) 4 != x) && (l.remap.map (·.2)) != some x

/-- R431, step 1; R432: the core fails and its layer has a spare. A task that holds the core outside a lease in force
is paused, or ends. -/
def State.remapStart (s : State) (c spare reason : Nat) : State :=
  let l := s.layer (c / 8)
  let leased := ((s.fen.leases.find c).map (·.inForce)).getD false
  let s1 := s.retire_ 1 4 reason (unitField c (s.regionOf c) 0 0 0 0 0) c (unitKey 1 c)
  let s2 := (s1.notice 2 0 1 c 0 s.now (s1.recipients c)).setLayer (c / 8) { l with remap := some (c % 8, spare) }
  match (s2.core c).task.bind s2.task with
  | none => s2
  | some t =>
    if leased ∨ ((s2.core c).st ≠ .running ∧ (s2.core c).st ≠ .loading) then s2
    else if t.recd.preempt then s2.ask c 2
    else s2.faultTask t.num c 0x85

/-- R100, R435: tasks whose set has a removed core end, but for one that runs and has acknowledged its withdrawal. -/
def State.removeTasks (s : State) (c : Nat) : State :=
  s.sched.tasks.foldl (fun u t =>
    if !t.cores.contains c || t.ends.isSome || (t.live && t.acked.contains c) then u else u.faultTask t.num c 0x85) s

/-- R433, step 2: a running context of the layer is paused, or held where its task has no save area. One that is being stopped or is
paused already stays so. -/
def State.shrinkStop (s : State) (layer i : Nat) : State :=
  let c := layer * 8 + i
  let k := s.core c
  match k.task.bind s.task with
  | none => s
  | some t =>
    let live := k.st == .running || k.st == .loading
    if (!live && k.st != .saving && k.st != .paused) || ((s.layer layer).stopped.find i).isSome then s
    else
      let s1 := if !live || k.ct.req != 0 then s else if t.recd.savebase = 0 then s.holdCore c else s.ask c 2
      let l := s1.layer layer
      s1.setLayer layer { l with stopped := l.stopped.put i s.now }

/-- R433: the core fails and its layer has no spare. -/
def State.shrinkStart (s : State) (c reason : Nat) : State :=
  let s1 := s.retire_ 1 5 reason (unitField c (s.regionOf c) 0 0 0 0 0) c (unitKey 1 c)
  let s2 := (s1.notice 3 0 1 c 0 s.now (s1.recipients c)).removeTasks c
  let l := s2.layer (c / 8)
  let s3 := s2.setLayer (c / 8) { l with shrink := l.shrink ++ [c % 8] }
  (List.range 8).foldl (fun t i => if i = c % 8 then t else t.shrinkStop (c / 8) i) s3

/-- R425: a core fails: its layer's spare takes its place, or its logical id is removed. -/
def State.coreFails (s : State) (c reason : Nat) : State :=
  let l := s.layer (c / 8)
  if s.removed c ∨ l.shrink.contains (c % 8) ∨ (l.remap.map (·.1)) = some (c % 8) then s
  else match l.spare with
    | some x => if l.remap.isNone then s.remapStart c x reason else s.shrinkStart c reason
    | none => s.shrinkStart c reason

/-- R431, R426: a line that fails its checks is copied with POISON. -/
def Side.copied (x : Side) : Side :=
  if x.cond.isSome then { x with poison := true, e2eDiff := 0, badSymbols := 0, rsv := 0 } else x

/-- R431, R426: the lines from `lo` up to `hi` are copied in DRAM: one that an MSC holds dirty has its DRAM part in the MSC's
entry. -/
def State.copyLines (s : State) (lo hi : Nat) : State :=
  let within := fun n => decide (lo ≤ n ∧ n < hi)
  { s with
    side := s.side.map fun e => if within e.1 && ((s.msc.find e.1).getD none).isNone then (e.1, e.2.copied) else e
    msc := s.msc.map fun e => if within e.1 then (e.1, e.2.map fun d => (d.1, d.2.copied)) else e }

/-- A paused core that no lease, copy or shrink holds goes on to LOAD (R111). -/
def State.wakePaused (s : State) (c : Nat) : State :=
  let l := s.layer (c / 8)
  let k := s.core c
  if k.st = .paused ∧ (s.fen.leases.find c).isNone ∧ l.shrink = [] ∧ (l.remap.map (·.1)) ≠ some (c % 8) then
    s.setCore c { k with st := .loading }
  else s

/-- The banks of a core that a region without repairs serves from now on. -/
def Core.fresh (k : Core) : Core :=
  { k with banks := k.banks.mapVals fun _ b =>
      { b with spareLanes := 0, sags := b.sags.mapVals fun _ g => { g with spareRows := 0 } } }

/-- REMAP_COPY_COMPLETE (R431, steps 3 to 5): the logical id is served by the spare. The new region has no score and no
lane or row in repair. DEDUCED, log 50, unsafe. -/
def State.remapEnd (s : State) (layer : Nat) : State :=
  let l := s.layer layer
  match l.remap with
  | none => s
  | some (i, x) =>
    let c := layer * 8 + i
    let k := s.core c
    if k.st = .saving ∨ k.st = .running ∨ k.st = .loading ∨ k.ct.req ≠ 0 then s
    else
      let old := fld l.map.toNat (4 * i) 4
      let l1 := { l with
        map := BitVec.ofNat 32 (l.map.toNat - old * 2 ^ (4 * i) + x * 2 ^ (4 * i))
        retired := l.retired ||| BitVec.ofNat 9 (2 ^ old), remap := none }
      let s1 := ((s.setLayer layer l1).setCore c k.fresh).setScore 1 c {}
      (((s1.copyLines (c * 2 ^ 24) ((c + 1) * 2 ^ 24)).writeConfig 1).writeConfig 2).wakePaused c

/-- R431. -/
def execRemapCopyComplete (layer : Nat) (s : State) : Res := .next (s.remapEnd layer)

/-- A core that was stopped for a shrink goes on. -/
def State.shrinkResume (s : State) (layer : Nat) (e : Nat × Nat) : State :=
  let c := layer * 8 + e.1
  if (s.core c).st = .held then s.goOn c e.2 [] else s.wakePaused c

/-- SHRINK_COMPLETE (R433, steps 3 to 5): nibble 0xF is written, tasks accepted meanwhile that name a removed id end (R100), and
the stopped contexts go on. -/
def State.shrinkEnd (s : State) (layer : Nat) : State :=
  let l := s.layer layer
  let busy := (List.range 8).any fun i =>
    let k := s.core (layer * 8 + i)
    k.st == .running || k.st == .loading || k.st == .saving || k.ct.req != 0
  if l.shrink = [] ∨ busy then s
  else
    let l1 := l.shrink.foldl (fun (q : Layer) i =>
      let old := fld q.map.toNat (4 * i) 4
      { q with map := q.map ||| BitVec.ofNat 32 (15 * 2 ^ (4 * i)), retired := q.retired ||| BitVec.ofNat 9 (2 ^ old) }) l
    let s1 := ((s.setLayer layer { l1 with shrink := [], stopped := [] }).writeConfig 1).requestReplacement
    let s2 := l.shrink.foldl (fun u i =>
      { u with fen := { u.fen with leases := u.fen.leases.drop (layer * 8 + i) } }.removeTasks (layer * 8 + i)) s1
    l.stopped.foldl (fun u e => u.shrinkResume layer e) s2

/-- R433. -/
def execShrinkComplete (layer : Nat) (s : State) : Res := .next (s.shrinkEnd layer)

/-! ## Core leases (R109 to R111, R115, R117, R120 to R122) -/

def State.setLease (s : State) (c : Nat) (x : Lease) : State :=
  { s with fen := { s.fen with leases := s.fen.leases.put c x } }

/-- The core is idle, or has ended its work for the task it is assigned to (R110). -/
def State.leaseIdle (s : State) (c : Nat) : Bool :=
  let k := s.core c
  (k.task.isNone && k.st == .free) || k.st == .ended

/-- R121: the withdrawal of a leased core whose task has not acknowledged. -/
def State.leaseStrike (s : State) (c : Nat) (x : Lease) : State :=
  let s1 := s.setLease c { x with inForce := true }
  if s1.leaseIdle c then s1
  else match (s1.core c).task.bind s1.task with
    | some t => if t.recd.preempt then s1.ask c 2 else s1.faultTask t.num c 0x82
    | none => s1

/-- The flags of a lease's notices (R119). -/
def Lease.flags (x : Lease) : Nat := x.kind

/-- R110, R117, R120: a lease on a core starts, or is announced, or stays pending. -/
def State.leaseTry (s : State) (c : Nat) : State :=
  match s.fen.leases.find c with
  | none => s
  | some x =>
    if x.inForce ∨ x.seq ≠ 0 then s
    else if s.leaseIdle c then s.setLease c { x with inForce := true, effTime := s.now }
    else match (s.core c).task.bind s.task with
      | none => s
      | some t =>
        let steady := (s.core c).st == .running && (s.ct c).req == 0 && t.ends.isNone
        if !steady ∨ (x.kind = 0 ∧ (t.recd.notify ∨ !t.recd.preempt ∨ t.recd.bounded)) then s
        else
          let grace := if x.kind = 1 then s.fen.shares.grace else 0
          let y := { x with seq := s.fen.nextSeq, effTime := s.now + grace * 1000 }
          let s1 := (s.notice 0 x.flags 1 c grace y.effTime (s.recipients c)).setLease c y
          if x.kind = 1 then s1 else s1.leaseStrike c y

/-- R110, R117: whether Fen may make a lease of this kind. DEDUCED, log 48, safe. -/
def State.leaseAllowed (s : State) (c kind : Nat) : Bool :=
  (s.clusterAt (c / 4)).state == 0 && !s.removed c && (s.layer (c / 8)).shrink == [] && (s.layer (c / 8)).remap.isNone &&
    (match kind with
      | 0 => match s.fen.lastLease.find c with
        | some e => decide (e + 200000000 ≤ s.now)
        | none => true
      | 1 => s.urgentDue 1 c
      | _ => s.immediateDue 1 c)

/-- CORE_LEASE_START (R110, R115, R117): a pending ordinary lease may become urgent or immediate.
DEDUCED, log 49, unsafe. -/
def State.leaseStart (s : State) (c kind : Nat) : State :=
  if !s.leaseAllowed c kind then s
  else match s.fen.leases.find c with
    | none => (s.setLease c { kind := min kind 2 }).leaseTry c
    | some x => if x.seq = 0 ∧ !x.inForce then (s.setLease c { kind := max x.kind (min kind 2) }).leaseTry c else s

/-- R110. -/
def execCoreLeaseStart (core kind : Nat) (s : State) : Res := .next (s.leaseStart core kind)

/-- LEASE_EFFTIME (R121): a core that has not been acknowledged is withdrawn at EFFTIME. -/
def State.leaseDue (s : State) (c : Nat) : State :=
  match s.fen.leases.find c with
  | some x => if !x.inForce ∧ x.seq ≠ 0 ∧ x.effTime ≤ s.now then s.leaseStrike c x else s
  | none => s

/-- R121. -/
def execLeaseEfftime (core : Nat) (s : State) : Res := .next (s.leaseDue core)

/-- R117: the score of a unit that has passed a test: of kind 0 ordinary, 1 urgent, 2 immediate. -/
def State.passed (s : State) (utype n kind : Nat) : State :=
  let x := s.score utype n
  if kind = 2 then s.setScore utype n { x.change 512 with probation := true }
  else if kind = 1 then s.setScore utype n (x.change 128)
  else s

/-- R122: the cores that the lease's start was sent to and that still run the task that received it. -/
def State.leaseHeard (s : State) (seq : Nat) : List Nat :=
  match s.fen.notices.find? fun n => n.seq == seq with
  | some n => n.sentTo.filter fun c => (s.core c).task.isSome && (s.core c).task == n.task && (s.core c).st != .ended
  | none => []

/-- LEASE_END (R117, R122): the core has passed, and goes on; or it fails (R425). -/
def State.leaseEnd (s : State) (c : Nat) (ok : Bool) : State :=
  match s.fen.leases.find c with
  | none => s
  | some x =>
    let k := s.core c
    if !x.inForce ∨ k.st = .saving ∨ k.ct.req ≠ 0 then s
    else
      let s1 := if ok then s.passed 1 c x.kind else s.coreFails c 1
      let s2 := { s1 with fen := { s1.fen with
        leases := s1.fen.leases.drop c, lastLease := s1.fen.lastLease.put c s.now } }
      (if x.seq = 0 then s2 else s2.notice 1 x.flags 1 c 0 s.now (s2.leaseHeard x.seq)).wakePaused c

/-- R122. -/
def execLeaseEnd (core : Nat) (passed : Bool) (s : State) : Res := .next (s.leaseEnd core passed)

/-! ## Test steps (R109, R112 to R114, R117, R425, R426, R439) -/

/-- The kind and number of a unit (R119). -/
def unitOf : FenUnit → Nat × Nat
  | .sag c b k => (2, sagUnit c b k)
  | .bus k i => (3, k * 32 + i)
  | .port i => (4, i)
  | .slice k i => (5, k * 16 + i)

/-- R112: the cores that a step charges. -/
def stepCores : FenUnit → List Nat
  | .sag c _ _ => [c]
  | .bus k i => (List.range 4).map fun j => (k * 32 + i) * 4 + j
  | .port _ => []
  | .slice k _ => (List.range 128).map fun j => k * 128 + j

/-- R117: the kind of test that a unit's score asks for. -/
def State.testKind (s : State) (u : FenUnit) : Nat :=
  let (utype, n) := unitOf u
  if s.immediateDue utype n then 2 else if s.urgentDue utype n then 1 else 0

/-- A unit that is tested in steps, by its key. -/
def stepUnit (key : Nat) : Option FenUnit :=
  let n := key % 2 ^ 24
  match key / 2 ^ 24 with
  | 2 => some (.sag (n / 256) (n % 256 / 8) (n % 8))
  | 3 => some (.bus (n / 32) (n % 32))
  | 4 => some (.port n)
  | 5 => some (.slice (n / 16) (n % 16))
  | _ => none

/-- R112, R114, R451: a step can be made on the unit now. -/
def State.stepFree (s : State) (u : FenUnit) : Bool :=
  let key := unitKey (unitOf u).1 (unitOf u).2
  let rested := match s.fen.stepEnded.find key with
    | some e => decide (e + 1000 ≤ s.now)
    | none => true
  let idle := match u with
    | .sag c b k => s.sagIdle c b k && !s.wantsSag c b k
    | .bus k i => !s.flash.retiredBuses.contains (k * 32 + i)
    | .port i => !s.flash.offPorts.contains i
    | .slice k i => !s.flash.offSlices.contains (k * 16 + i)
  let on := match u with
    | .slice _ _ => true
    | _ => (stepCores u).all fun c => (s.clusterAt (c / 4)).state == 0
  !s.fen.steps.contains u && rested && idle && on && (stepCores u).all fun c => s.affords c .test (100 * s.clockOf c)

/-- R36, R112, R114, R117, R451: a step may start on the unit: none of a more pressing test can be made. -/
def State.stepReady (s : State) (u : FenUnit) : Bool :=
  s.stepFree u && (s.fen.scores.keys.filterMap stepUnit).all fun v =>
    decide (s.testKind v ≤ s.testKind u) || !s.stepFree v

/-- R113: destructive patterns may be written to a physical row of a SAG: an addressable row of an untouched granule, a repair row
that is not in use (rows 512 to 519, in the order in which they are taken), or a save row without a saved context (rows 520 to
527). The numbers of the rows without a PA: DESIGN CHOICE, log 85, unsafe. -/
def State.mayPattern (s : State) (c b k row : Nat) : Bool :=
  let x := (s.bank c b).sag k
  if row < 512 then !s.touched.contains (rowPa c b k row / 2 ^ 21)
  else if row < 520 then decide (512 + x.spareRows ≤ row)
  else decide (row < 528) && (x.saveRows.find (row - 520)).isNone

/-- FEN_STEP_START (R112): a step on a SAG writes patterns to `rows`, if it is a destructive one (R113). -/
def State.stepStart (s : State) (u : FenUnit) (rows : List Nat) : State :=
  let may := match u with
    | .sag c b k => rows.all (s.mayPattern c b k)
    | _ => true
  if !s.stepReady u || !may then s
  else
    let key := unitKey (unitOf u).1 (unitOf u).2
    let s1 := (stepCores u).foldl (fun t c => t.charge c .test (100 * s.clockOf c)) s
    let s2 := { s1 with fen := { s1.fen with
      steps := s1.fen.steps ++ [u], stepKinds := s1.fen.stepKinds.put key (s.testKind u) } }
    match u with
    | .sag c b k =>
      s2.setBank c b ((s2.bank c b).setSag k { (s2.bank c b).sag k with step := true, testing := rows })
    | _ => s2

/-- R112. -/
def execFenStepStart (x : TestStep) (s : State) : Res := .next (s.stepStart x.unit x.rows)

/-- R426: a row is copied into the next repair row of its SAG, in two array operations of TEST; the lines of a row that has PAs are
copied. -/
def State.substitute (s : State) (x : RowSub) : State :=
  let g := (s.bank x.core x.bank).sag x.sag
  let s1 := s.setBank x.core x.bank ((s.bank x.core x.bank).setSag x.sag { g with spareRows := g.spareRows + 1, busy := true })
  let line := lineOf (rowPa x.core x.bank x.sag x.row)
  let s2 := (if x.row < 512 then s1.copyLines line (line + 128) else s1).charge x.core .test 2
  (s2.writeConfig 2).notice 2 0 2 (sagUnit x.core x.bank x.sag) 0 s.now (s2.recipients x.core)

/-- R104, R187, R426: a row that is to be substituted is, once its SAG is idle and TEST has budget. -/
def State.trySub (s : State) (x : RowSub) : State :=
  if s.sagIdle x.core x.bank x.sag && s.affords x.core .test 2 then
    { s with fen := { s.fen with subs := s.fen.subs.erase x } }.substitute x
  else s

/-- The rows of a SAG that are still to be substituted. -/
def State.subsOf (s : State) (c b k : Nat) : Nat := (s.fen.subs.filter fun x => x.core == c && x.bank == b && x.sag == k).length

/-- R425, R426: a failing row of a SAG goes to a repair row, or the core fails. The stuck cells found in the row stay listed, and
TSTK still reports them: no rule takes them out of the map (DESIGN CHOICE, log 86, unsafe). -/
def State.rowFails (s : State) (c b k row reason : Nat) : State :=
  if s.fen.subs.contains ⟨c, b, k, row⟩ then s
  else if 8 ≤ ((s.bank c b).sag k).spareRows + s.subsOf c b k then s.coreFails c 3
  else
    let s1 := s.retire_ 7 2 reason (unitField c (s.regionOf c) b k row 0 0) c (unitKey 2 (sagUnit c b k))
    State.trySub { s1 with fen := { s1.fen with subs := s1.fen.subs ++ [⟨c, b, k, row⟩] } } ⟨c, b, k, row⟩

/-- R22, R425: a failing lane of a bank's lane group goes to a spare lane, or the core fails. -/
def State.laneFails (s : State) (c b lane reason : Nat) : State :=
  let x := s.bank c b
  if 2 ≤ x.spareLanes then s.coreFails c 3
  else
    let s1 := s.retire_ 6 1 reason (unitField c (s.regionOf c) b 0 0 lane 0) c (unitKey 1 c)
    (s1.setBank c b { x with spareLanes := x.spareLanes + 1 }).writeConfig 2

/-- R425, R437: a bus refuses all traffic, and the cores of its cluster are removed. -/
def State.busRetires (s : State) (n reason : Nat) : State :=
  let s1 := s.retire_ 3 8 reason (unitField (4 * n) 0 0 0 0 0 (n % 32)) 0xffffffff (unitKey 3 n)
  let s2 := { s1 with flash := { s1.flash with retiredBuses := s1.flash.retiredBuses ++ [n] } }.requestReplacement
  (List.range 4).foldl (fun t j => if t.removed (4 * n + j) then t else t.shrinkStart (4 * n + j) 3) s2

/-- R428: how the index of a record of ACTION 3 names a signal: its number, its direction in bit 11 and, in bit 12, which of its layer's
two buses it belongs to. DEDUCED, log 51, unsafe. -/
def signalIndex (n dir sig : Nat) : Nat := sig % 2 ^ 11 + dir * 2 ^ 11 + n % 2 * 2 ^ 12

/-- R425, R437: a failing signal of a bus goes to a spare, or the bus is retired and its cores fail. -/
def State.busFails (s : State) (n dir sig reason : Nat) : State :=
  let key := 2 * n + dir
  let used := s.flash.busSpares.get key 0
  if used < 16 then
    ({ s with flash := { s.flash with
        busSpares := s.flash.busSpares.put key (used + 1), softRepair := s.flash.softRepair.put key (used + 1) } }.retire_ 8 3 reason
      (unitField (4 * n) 0 0 0 0 0 (signalIndex n dir sig)) 0xffffffff (unitKey 3 n)).writeConfig 2
  else s.busRetires n reason

/-- R439: a failed port accepts no traffic. -/
def State.portFails (s : State) (i reason : Nat) : State :=
  let s1 := s.retire_ 4 6 reason (unitField 0 0 0 0 0 0 i) 0xffffffff (unitKey 4 i)
  let s2 := { s1 with flash := { s1.flash with offPorts := s1.flash.offPorts ++ [i] } }.requestReplacement
  s2.sched.tasks.foldl (fun t x =>
    if x.live ∧ x.recd.modmask ≠ 0 then
      t.notice 2 0 4 i 0 s.now (x.cores.filter fun c => s2.holds c x.num && (s2.core c).st != .ended) else t) s2

/-- The dirty and the remote lines of a slice leave the MSC (R439, R384). -/
def State.emptySlice (s : State) (stack i : Nat) : State :=
  ((s.stackKeys stack).filter fun n => n % 16 == i).foldl (fun t n => t.mscEvict n) s

/-- R439: a failed MSC slice is bypassed. -/
def State.sliceFails (s : State) (stack i reason : Nat) : State :=
  let n := stack * 16 + i
  let s1 := s.retire_ 5 7 reason (unitField (stack * 128) 0 0 0 0 0 i) 0xffffffff (unitKey 5 n)
  let s2 := { s1 with flash := { s1.flash with offSlices := s1.flash.offSlices ++ [n] } }.requestReplacement
  let s3 := s2.emptySlice stack i
  s3.sched.tasks.foldl (fun t x =>
    if x.live ∧ x.cores.any (fun c => c / 128 == stack) then
      t.notice 2 0 5 n 0 s.now (x.cores.filter fun c => s3.holds c x.num && (s3.core c).st != .ended) else t) s3

/-- R113, R268: cells found stuck enter the map of their SAG. -/
def State.markStuck (s : State) (c b k : Nat) (cells : List Nat) : State :=
  let x := (s.bank c b).sag k
  let new := (cells.filter fun n => !x.stuck.contains n).eraseDups
  if new = [] then s else s.setBank c b ((s.bank c b).setSag k { x with stuck := x.stuck ++ new })

/-- R425: the unit whose test (`reason` 1) or boot self-test (2) has failed is repaired by the next rung. For a SAG, `cells` are the
stuck cells found; with none, or where the first one's row number is 528 plus a lane's, the failure is in that lane of its bank
(lane 0 for none). For a bus, the first entry's parity is the direction, and its half the signal. DEDUCED, log 51, unsafe. -/
def State.unitFails (s : State) (u : FenUnit) (cells : List Nat) (reason : Nat) : State :=
  match u with
  | .sag c b k =>
    let row := cells.headD (528 * 65536) / 65536
    if row < 528 then s.rowFails c b k row reason else s.laneFails c b (row - 528) reason
  | .bus k i => s.busFails (k * 32 + i) (cells.headD 0 % 2) (cells.headD 0 / 2) reason
  | .port i => s.portFails i reason
  | .slice k i => s.sliceFails k i reason

/-- R113: a row that a destructive step has tested is written back with zero data and the reset sideband. -/
def State.zeroRow (s : State) (pa : Nat) : State :=
  { s with
    mem := s.mem.place pa 13 0
    side := s.side.filter fun e => !inRow pa e.1
    msc := s.msc.filter fun e => !inRow pa e.1 }.touchPage pa

/-- R113, R114: a SAG leaves its step. -/
def State.sagReturns (s : State) (c b k : Nat) (cells : List Nat) : State :=
  let x := (s.bank c b).sag k
  let s1 := s.setBank c b ((s.bank c b).setSag k { x with step := false, testing := [] })
  ((x.testing.filter (· < 512)).foldl (fun t row => t.zeroRow (rowPa c b k row)) s1).markStuck c b k cells

/-- FEN_STEP_END (R114, R117, R425): the unit is returned, or retired. -/
def State.stepEnd (s : State) (u : FenUnit) (ok : Bool) (cells : List Nat) : State :=
  if !s.fen.steps.contains u then s
  else
    let key := unitKey (unitOf u).1 (unitOf u).2
    let s1 := { s with fen := { s.fen with
      steps := s.fen.steps.erase u, stepKinds := s.fen.stepKinds.drop key, stepEnded := s.fen.stepEnded.put key s.now } }
    let s2 := match u with
      | .sag c b k => s1.sagReturns c b k (cells.filter (· < 528 * 65536))
      | _ => s1
    if ok then s2.passed (unitOf u).1 (unitOf u).2 (s.fen.stepKinds.get key 0) else s2.unitFails u cells 1

/-- R114. -/
def execFenStepEnd (u : FenUnit) (passed : Bool) (stuck : List Nat) (s : State) : Res := .next (s.stepEnd u passed stuck)

/-- SCORE_DECAY (R116). -/
def execScoreDecay (s : State) : Res :=
  .next { s with fen := { s.fen with scores := s.fen.scores.mapVals fun _ x => x.change (x.value / 2) } }

/-! ## CAPQ and CAPACK (R158, R159) -/

/-- R158: the state of a core of the task. -/
def State.capState (s : State) (c : Nat) : Nat :=
  let k := s.core c
  match k.st with
  | .paused => 3
  | .held => 3
  | .loading => 3
  | .ended => 2
  | _ => if k.ct.req = 2 then 3 else match s.fen.leases.find c with
    | some x => if x.seq ≠ 0 ∧ !x.inForce then 1 else 0
    | none => 0

/-- R158. DEDUCED, log 47, unsafe. -/
def execCapq (o : XH) (s : State) : Res :=
  let c := s.rs1 o
  let cores := match (s.core s.actCore).task.bind s.task with
    | some t => t.cores
    | none => []
  (if 1024 ≤ c ∨ !cores.contains c then xhlmOperand s (.capq o)
   else .done s (BitVec.ofNat 64 (s.fen.latest.get c 0 * 2 ^ 32 + s.capState c))).end o.d

/-- R121, R159: the acknowledgement takes effect: the core is withdrawn, and its control thread stops with it. -/
def State.withdrawCore (s : State) (c : Nat) (x : Lease) : State :=
  let s1 := s.setLease c { x with inForce := true }
  match (s1.core c).task with
  | some n => (s1.mapTask n fun t => { t with acked := t.acked ++ [c] }).coreDone c n
  | none => s1

/-- R159: what CAPACK waits for on the leased core. -/
def State.capackReady (s : State) (c : Nat) : Bool :=
  (s.core c).gangs.all (fun e => e.2.queue == [] && e.2.run.isNone) && s.splitHarts c == [] && s.coreQuiet c

/-- R159. -/
def State.capack (s : State) (c seq : Nat) : XRes :=
  match s.fen.notices.find? fun n => n.seq == seq && n.sentTo.contains c with
  | none => .done s 0
  | some n =>
    if n.utype = 1 ∧ n.kind = 0 ∧ n.unit = c then
      match s.fen.leases.find c with
      | some x =>
        if x.seq ≠ seq ∨ x.inForce then .done s 0
        else if !s.capackReady c ∨ x.effTime ≤ s.now then .wait s
        else match s.ctRelease c with
          | .wait s' => .wait s'
          | .done s' _ _ => .wait (s'.withdrawCore c x)
      | none => .done s 0
    else if s.fen.acks.contains (c, seq) then .done s 0
    else .done { s with fen := { s.fen with acks := s.fen.acks ++ [(c, seq)] } } 1

/-- R159. -/
def execCapack (o : XH) (s : State) : Res :=
  (if 2 ^ 32 ≤ s.rs1 o then xhlmOperand s (.capack o) else s.capack s.actCore (s.rs1 o)).end o.d

end Sys2Proof.Machine
end

