-- ==== Sys2Proof/Machine/Cluster.lean ====
section
/-! DEFINITION. Cluster power (R448 to R453). -/

namespace Sys2Proof.Machine

/-- R450, reason 0x05: Fen, a remap, a shrink or relay service involves the cluster. -/
def State.involved (s : State) (n : Nat) : Bool :=
  let l := s.layer (n / 2)
  let steps := s.fen.steps.any fun u => match u with
    | .sag c _ _ => c / 4 == n
    | .bus k i => k * 32 + i == n
    | _ => false
  let relay := (List.range 8).any fun i =>
    s.removed (n / 2 * 8 + i) && (s.relays (n / 2 * 8 + i)).any fun c => c / 4 == n
  (clusterCores n).any (fun c => (s.fen.leases.find c).isSome) || steps || l.shrink != [] ||
    (l.remap.map fun r => (n / 2 * 8 + r.1) / 4) == some n || relay

/-- The states a command is valid from (R449). Commands: 1 QUIESCE, 2 RETAIN, 3 GATE, 4 RELEASE, 5 WAKE. -/
def cmdFrom (cmd state : Nat) : Bool :=
  match cmd with
  | 1 => state == 0
  | 2 => state == 1
  | 3 => state == 2
  | 4 => state == 1 || state == 2
  | _ => state == 3

/-- R450: the first reason that refuses a command of core `c` to cluster `n`. -/
def State.refuseCmd (s : State) (c n cmd : Nat) : Option Nat :=
  let x := s.clusterAt n
  let cores := match (s.core c).task.bind s.task with
    | some t => t.cores
    | none => []
  if x.busy.isSome ∨ !cmdFrom cmd x.state.toNat then some 0x01
  else if (clusterCores n).any (fun y => !cores.contains y || y == c) then some 0x02
  else if cmd = 1 ∧ (clusterCores n).any (fun y => (s.core y).st != .ended) then some 0x03
  else if cmd = 1 ∧ (clusterCores n).any (fun y => (s.core y).banks.any fun e => e.2.owner != 0) then some 0x04
  else if s.involved n then some 0x05
  else none

/-- R449: a command of core `c` to the cluster it has selected. -/
def State.clusterCmd (s : State) (c cmd : Nat) : State :=
  let n := (s.ct c).psel.toNat
  let x := s.clusterAt n
  match s.refuseCmd c n cmd with
  | some r => s.setCluster n { x with refuse := BitVec.ofNat 8 r }
  | none => s.setCluster n { x with refuse := 0, busy := some cmd }

/-- R450: a CMD of 5 to 7. -/
def State.badCmd (s : State) (c : Nat) : State :=
  let n := (s.ct c).psel.toNat
  s.setCluster n { s.clusterAt n with refuse := 0x07 }

/-- QUIESCE (R449): the write of hmpctl by the core. -/
def execQuiesce (core : Nat) (s : State) : Res := .next (s.clusterCmd core 1)
/-- RETAIN (R449). -/
def execRetain (core : Nat) (s : State) : Res := .next (s.clusterCmd core 2)
/-- GATE (R449). -/
def execGate (core : Nat) (s : State) : Res := .next (s.clusterCmd core 3)
/-- RELEASE (R449). -/
def execRelease (core : Nat) (s : State) : Res := .next (s.clusterCmd core 4)
/-- WAKE (R449): the write of hmpwake by the core. -/
def execWake (core : Nat) (s : State) : Res := .next (s.clusterCmd core 5)

/-! ## Completion (R449, R452) -/

/-- Where the retention registers hold a SAG, and a bank's spare lanes. -/
def sagKey (c b k : Nat) : Nat := sagUnit c b k
def laneKey (c b : Nat) : Nat := 2 ^ 24 + c * 32 + b

/-- R449: what RETAIN writes to the retention registers: OWED and the pointer of each SAG, and the spare lanes. -/
def State.retained (s : State) (n : Nat) : Tab Nat :=
  (clusterCores n).foldl (fun t c => (s.core c).banks.foldl (fun u e =>
    let v := e.2.sags.foldl (fun w g =>
      if g.2.owed = 0 ∧ g.2.ptr = 0 then w else Tab.put w (sagKey c e.1 g.1) (g.2.owed + g.2.ptr * 128)) u
    if e.2.spareLanes = 0 then v else Tab.put v (laneKey c e.1) e.2.spareLanes) t) []

/-- R449: the logic of the cluster's cores changed, SAG by SAG and bank by bank. -/
def State.mapLogic (s : State) (n : Nat) (f : Nat → Nat → Nat → Sag → Sag) (g : Nat → Nat → Nat → Nat) : State :=
  (clusterCores n).foldl (fun t c =>
    let k := t.core c
    if k.banks = [] then t
    else t.setCore c { k with banks := k.banks.mapVals fun b x =>
      { x with sags := x.sags.mapVals (f c b), spareLanes := g c b x.spareLanes } }) s

/-- R437: the soft-repair registers of a bus, in both directions, are lost, or reloaded from the retention registers. -/
def State.setSoft (s : State) (n : Nat) (on : Bool) : State :=
  let f := s.flash
  let t := (f.softRepair.drop (2 * n)).drop (2 * n + 1)
  let back := f.busSpares.filter fun e => e.1 / 2 == n
  { s with flash := { f with softRepair := if on then back.foldl (fun u e => Tab.put u e.1 e.2) t else t } }

/-- R449: GATE loses what the logic held. -/
def State.gateOff (s : State) (n : Nat) : State :=
  (s.setSoft n false).mapLogic n (fun _ _ _ x => { x with owed := 0, ptr := 0, busy := false, forced := false }) fun _ _ _ => 0

/-- R449: WAKE reloads the retention state and the soft repair of the bus, with every OWED at 0. -/
def State.wakeUp (s : State) (n : Nat) : State :=
  let kept := (s.clusterAt n).kept
  (s.setSoft n true).mapLogic n (fun c b k x => { x with owed := 0, ptr := kept.get (sagKey c b k) 0 / 128 })
    fun c b _ => kept.get (laneKey c b) 0

/-- R452, R453: every cluster comes up ON, a gated one with what the retention registers hold, which stay. -/
def State.clustersUp (s : State) : State :=
  let up := s.power.clusters.foldl (fun t e => if e.2.state = 3 then t.wakeUp e.1 else t) s
  { up with power := { up.power with clusters := up.power.clusters.mapVals fun _ x => { kept := x.kept } } }

/-- R452: the cores of a cluster that have failed their self-test at WAKE fail under R425, in ascending order, with the REASON of the boot
self-test. DEDUCED, log 54, unsafe. -/
def State.wakeFails (s : State) (n : Nat) (failed : BitVec 4) : State :=
  ((clusterCores n).filter fun c => failed.getLsbD (c % 4)).foldl (fun t c => t.coreFails c 2) s

/-- What a command does when it completes. -/
def State.doCmd (s : State) (n cmd : Nat) (failed : BitVec 4) : State :=
  let set := fun (u : State) (st : BitVec 2) (kept : Tab Nat) =>
    u.setCluster n { u.clusterAt n with state := st, busy := none, kept := kept }
  match cmd with
  | 1 => set s 1 []
  | 2 => set s 2 (s.retained n)
  | 3 => set (s.gateOff n) 3 (s.clusterAt n).kept
  | 4 => set s 0 []
  | _ => (set (s.wakeUp n) 0 []).wakeFails n failed

/-- CLUSTER_CMD_COMPLETE (R449): STATE is set and BUSY clears; `failed` are the cores of the cluster that have failed their
self-test at WAKE (R452). A task that ended meanwhile has the cluster brought back to ON. -/
def State.cmdDone (s : State) (n : Nat) (failed : BitVec 4) : State :=
  match (s.clusterAt n).busy with
  | none => s
  | some k => if k < 8 then s.doCmd n k failed else (s.doCmd n (k - 8) failed).clusterBack n

/-- R449. -/
def execClusterCmdComplete (cluster : Nat) (failed : BitVec 4) (s : State) : Res := .next (s.cmdDone cluster failed)

end Sys2Proof.Machine
end

