-- ==== Sys2Proof/Machine/CtSys.lean ====
section
/-! DEFINITION. The control thread's CSRs and system instructions (R8, R123, R127, R401, R412, R418, R420, R441, R448;
the RISC-V privileged architecture). -/

namespace Sys2Proof.Machine

/-- R8, R448: the selected cluster's state. -/
def State.hmpstat (s : State) (c : Nat) : Nat :=
  let x := s.clusterAt (s.ct c).psel.toNat
  x.state.toNat + bnat x.busy.isSome * 2 ^ 7 + x.refuse.toNat * 2 ^ 8

/-- mstatus: MIE, MPIE, MPP, MPRV and UXL (RISC-V privileged architecture). -/
def Ct.mstatus (t : Ct) : Nat :=
  bnat t.mie * 8 + bnat t.mpie * 128 + (if t.mpp = .machine then 3 * 2 ^ 11 else 0) + bnat t.mprv * 2 ^ 17 + 2 * 2 ^ 32

/-- The value of a CSR; `none` for a number that names none. -/
def State.csr (s : State) (c n : Nat) : Option Nat :=
  let k := s.core c
  let t := k.ct
  match n with
  | 0xc00 => some k.clk
  | 0xc01 => some s.now
  | 0xc02 => some k.instret
  | 0xcc0 => some (c + s.flash.modId.toNat * 2 ^ 10)
  | 0xcc1 => some (k.flags.toNat * 2 ^ 16 + k.asid.toNat * 2 ^ 32 + k.gen.toNat * 2 ^ 48)
  | 0xcc2 => some k.evq.length
  | 0xcc3 => some ((k.gang 0).queue.length + (k.gang 1).queue.length * 2 ^ 4 + (k.gang 2).queue.length * 2 ^ 8 +
      (k.gang 3).queue.length * 2 ^ 12)
  | 0x8c0 | 0x8c1 | 0x8c2 | 0x8c3 => some (t.bpa.get (n - 0x8c0) 0).toNat
  | 0x8c4 | 0x8c5 | 0x8c6 | 0x8c7 => some (t.bpm.get (n - 0x8c4) 0).toNat
  | 0x8c8 => some t.ring.toNat
  | 0x8c9 => some t.ringpos.toNat
  | 0x8d0 => some t.psel.toNat
  | 0x8d1 => some 0
  | 0x8d2 => some (s.hmpstat c)
  | 0x8d3 => some 0
  | 0x7c0 => some t.req.toNat
  | 0x7c1 => some (t.op.toNat + t.sbank.toNat * 2 ^ 4 + t.slot.toNat * 2 ^ 9 + t.sctx.toNat * 2 ^ 32 +
      t.err.toNat * 2 ^ 48 + bnat t.busy * 2 ^ 63)
  | 0x7c2 => some t.logv.toNat
  | 0x7c3 => some 0
  | 0x300 => some t.mstatus
  | 0x301 => some (2 * 2 ^ 62 + 2 ^ 23 + 2 ^ 12 + 2 ^ 8 + 2 ^ 2 + 2 ^ 0)
  | 0x304 => some (bnat t.meie * 2 ^ 11)
  | 0x305 => some t.mtvec.toNat
  | 0x340 => some t.mscratch.toNat
  | 0x341 => some t.mepc.toNat
  | 0x342 => some t.mcause.toNat
  | 0x343 => some t.mtval.toNat
  | 0x344 => some (bnat (t.req != 0) * 2 ^ 11)
  | 0xb00 => some k.clk
  | 0xb02 => some k.instret
  | 0xf11 | 0xf12 | 0xf13 | 0xf15 => some 0
  | 0xf14 => some c
  | _ => none

/-- What a write of CSR `n` does; reserved and read-only bits do not change (R8). -/
def State.setCsr (s : State) (c n v : Nat) : State :=
  let k := s.core c
  let t := k.ct
  let w := BitVec.ofNat 64 v
  match n with
  | 0x8c0 | 0x8c1 | 0x8c2 | 0x8c3 => s.setCt c { t with bpa := t.bpa.put (n - 0x8c0) (w &&& 0x8000ffffffffffff) }
  | 0x8c4 | 0x8c5 | 0x8c6 | 0x8c7 => s.setCt c { t with bpm := t.bpm.put (n - 0x8c4) w }
  | 0x8c8 => s.setCt c { t with ring := w &&& 0x800ffffffffff800 }
  | 0x8c9 => s.setCt c { t with ringpos := w }
  | 0x8d0 => s.setCt c { t with psel := w.setWidth 8 }
  | 0x8d1 => if v % 8 = 0 then s else if 5 ≤ v % 8 then s.badCmd c else s.clusterCmd c (v % 8)
  | 0x8d3 => if v % 2 = 1 then s.clusterCmd c 5 else s
  | 0x7c1 => s.writeHmsave c v
  | 0x7c2 => s.setCt c { t with logv := w }
  | 0x7c3 => s.logAppend c v
  | 0x300 =>
    let mpp := if fld v 11 2 = 3 then Mode.machine else if fld v 11 2 = 0 then .user else t.mpp
    s.setCt c { t with mie := bit v 3, mpie := bit v 7, mpp := mpp, mprv := bit v 17 }
  | 0x304 => s.setCt c { t with meie := bit v 11 }
  | 0x305 => if 2 ≤ v % 4 then s else s.setCt c { t with mtvec := w }
  | 0x340 => s.setCt c { t with mscratch := w }
  | 0x341 => s.setCt c { t with mepc := BitVec.ofNat 64 (v / 2 * 2) }
  | 0x342 => s.setCt c { t with mcause := w }
  | 0x343 => s.setCt c { t with mtval := w }
  | 0xb00 => s.setCore c { k with clk := v }
  | 0xb02 => s.setCore c { k with instret := v }
  | _ => s

/-- The privileged architecture: bits [9:8] of a CSR's number are the lowest mode, and [11:10] = 3 is read-only. -/
def csrAllowed (n : Nat) (machine writes : Bool) : Bool :=
  (machine || fld n 8 2 == 0) && !(writes && fld n 10 2 == 3)

/-- R123: a write of minstret takes the place of the instruction's own count (RISC-V unprivileged architecture, Zicsr). -/
def State.recount (s : State) (c n v : Nat) : State :=
  if n = 0xb02 then s.setCore c { s.core c with instret := v } else s

/-- R123, R127: a CSR instruction. funct3 1 writes, 2 sets and 3 clears; bit 2 takes the immediate. -/
def State.csrAccess (s : State) (c : Nat) (o : CtC) : State :=
  let t := s.ct c
  let n := o.csr.toNat
  let kind := o.f3.toNat % 4
  let arg := if 4 ≤ o.f3.toNat then o.a.toNat else (t.xreg o.a.toNat).toNat
  let writes := kind == 1 || o.a != 0
  match s.csr c n with
  | none => s.ctIllegal c (Instr.ctCsrAccess o).word
  | some old =>
    if !csrAllowed n (s.mach c) writes then s.ctIllegal c (Instr.ctCsrAccess o).word
    else
      let new := match kind with
        | 1 => arg
        | 2 => old % 2 ^ 64 ||| arg
        | _ => old % 2 ^ 64 &&& (arg ^^^ (2 ^ 64 - 1))
      if writes then ((s.setCsr c n new).ctDone c o.d.toNat (BitVec.ofNat 64 old)).recount c n new
      else s.ctDone c o.d.toNat (BitVec.ofNat 64 old)

/-- R127. -/
def execCtCsrAccess (o : CtC) (s : State) : Res := .next (s.csrAccess s.actCore o)

/-- R123, R402: ECALL traps with mcause 8 from U mode, 11 from M mode. -/
def execCtEcall (s : State) : Res :=
  .next (s.ctTrap s.actCore (if s.mach s.actCore then 11 else 8) 0 (s.ct s.actCore).pc)

/-- R123: EBREAK traps with mcause 3. -/
def execCtEbreak (s : State) : Res :=
  .next (s.ctTrap s.actCore 3 (s.ct s.actCore).pc.toNat (s.ct s.actCore).pc)

/-- R123: WFI is a NOP. -/
def execCtWfi (s : State) : Res := .next (s.ctDone s.actCore 0 0)

/-- R401: MRET, which only M mode has. -/
def execCtMret (s : State) : Res :=
  .next (if s.mach s.actCore then
    let s1 := s.ctReturn s.actCore
    s1.setCore s.actCore { s1.core s.actCore with instret := (s1.core s.actCore).instret + 1 }
  else s.ctIllegal s.actCore (Instr.ctMret).word)

end Sys2Proof.Machine
end

