-- ==== Sys2Proof/Machine/HostIf.lean ====
section
/-! DEFINITION. The host's accesses: the management BAR, doorbells, the memory window and the protected-write aperture
(R67 to R71, R79, R83 to R85, R89, R386, R389, R451). -/

namespace Sys2Proof.Machine

/-! ## Registers (R8, R68 to R70) -/

/-- R89: the management BAR takes writes: not where no firmware runs. -/
def State.barOpen (s : State) : Bool := s.bar.rcause != 2

/-- R70: the queue block and the register in it that an offset names, in a function's view. -/
def blockOf (fn off : Nat) : Option (Nat × Nat) :=
  if fn = 0 then
    if 0x10000 ≤ off ∧ off < 0x11000 then some ((off - 0x10000) / 64, off % 64) else none
  else if off < 0x1000 then some (off / 64, off % 64) else none

/-- R70: function `fn` has the SQ, or the CQ, registers of block `q` in its view. -/
def State.ownsSq (s : State) (fn q : Nat) : Bool := fn == 0 || (s.qblock q).sqOwner.toNat == fn
def State.ownsCq (s : State) (fn q : Nat) : Bool := fn == 0 || (s.qblock q).cqOwner.toNat == fn

/-- R70: function `fn` has QSTAT of block `q` in its view: it belongs to both halves of the block. DESIGN CHOICE, log 84,
unsafe. -/
def State.ownsStat (s : State) (fn q : Nat) : Bool := s.ownsSq fn q || s.ownsCq fn q

/-- R79: records are held for a queue, or a refused record waits to be. -/
def State.holding (s : State) (q : Nat) : Bool :=
  s.sched.held.any (fun h => h.q == q) || (s.sched.refused.map fun h => h.q == q).getD false

/-- R70, R79: the QSTAT bits that a write leaves: CQHELD stays while records are held. -/
def State.clearStat (s : State) (q : Nat) (v : Word) : BitVec 6 :=
  (s.qblock q).qstat &&& ~~~(v.setWidth 6 &&& (if s.holding q then 0x37 else 0x3f))

/-- R70: CQBASE and QSTAT, the registers of a block without a row of their own. -/
def State.writeBlockReg (s : State) (fn q reg : Nat) (v : Word) : State :=
  let x := s.qblock q
  if reg = 0x18 then
    if fn ≠ 0 ∨ x.cqEn then s else s.setQ q { x with cqBase := BitVec.ofNat 52 (v.toNat / 4096) }
  else if reg = 0x38 then
    if s.ownsStat fn q then s.setQ q { x with qstat := s.clearStat q v } else s
  else s

/-- R69: GSTAT. -/
def Bar.gstat (b : Bar) : Nat :=
  bnat b.ready + bnat b.e2eev * 2 + bnat b.recovery * 4 + bnat b.replreq * 8 + b.rcause.toNat * 16

/-- R69: half `hi` of DMAWIN `i`. -/
def DmaWin.write (w : DmaWin) (hi : Bool) (v : Nat) : DmaWin :=
  if hi then { w with limit := BitVec.ofNat 52 (v / 4096) }
  else { w with base := BitVec.ofNat 52 (v / 4096), en := bit v 7, wr := bit v 6, rd := bit v 5, fn := BitVec.ofNat 5 v }

/-- R68, R69: a write of a register of the PF that has no row of its own. -/
def State.writePfReg (s : State) (off : Nat) (v : Word) : State :=
  let n := v.toNat
  let b := s.bar
  if off = 0 then { s with bar := { b with e2eev := b.e2eev && !bit n 1 } }
  else if off = 8 then { s with bar := { b with asidBase := BitVec.ofNat 24 (n / 65536) } }
  else if off = 0x10 then { s with bar := { b with memwin := BitVec.ofNat 10 n } }
  else if off = 0x18 then { s with bar := { b with errEn := bit n 15, errVec := BitVec.ofNat 11 n } }
  else if 0x100 ≤ off ∧ off < 0x180 ∧ off % 8 = 0 then
    { s with bar := { b with
      vfasid := b.vfasid.put ((off - 0x100) / 8 + 1) (BitVec.ofNat 13 (n / 4096), BitVec.ofNat 12 n) } }
  else if 0x1000 ≤ off ∧ off < 0x1800 ∧ off % 8 = 0 then
    let i := (off - 0x1000) / 16
    { s with bar := { b with dmawin := b.dmawin.put i ((b.dmawin.get i {}).write (off % 16 == 8) n) } }
  else s

/-- REGISTER_WRITE (R8): registers without behaviour of their own; others, and unlisted offsets, do not change. -/
def State.registerWrite (s : State) (fn off : Nat) (v : Word) : State :=
  if !s.barOpen then s
  else match blockOf fn off with
    | some (q, reg) => s.writeBlockReg fn q reg v
    | none => if fn = 0 then s.writePfReg off v else s

/-- R8. -/
def execRegisterWrite (fn off : Nat) (v : Word) (s : State) : Res := .next (s.registerWrite fn off v)

/-- R8, R70: a register of a block as a host reads it; those of a half that the function does not own read 0. -/
def State.readBlockReg (s : State) (fn q reg : Nat) : Nat :=
  let x := s.qblock q
  let sq := fun (v : Nat) => if s.ownsSq fn q then v else 0
  let cq := fun (v : Nat) => if s.ownsCq fn q then v else 0
  match reg with
  | 0x00 => sq (x.sqBase.toNat * 2 ^ 12 + x.sqOwner.toNat * 2 ^ 47 + x.sqLog.toNat * 2 ^ 52 + bnat x.sqEn * 2 ^ 63)
  | 0x08 => sq x.sqTail.toNat
  | 0x10 => sq x.sqHead.toNat
  | 0x18 => cq (x.cqBase.toNat * 2 ^ 12)
  | 0x20 => cq (x.cqPasid.toNat + bnat x.cqPasidEn * 2 ^ 20 + x.cqOwner.toNat * 2 ^ 47 + x.cqLog.toNat * 2 ^ 52 +
      bnat x.cqEn * 2 ^ 63)
  | 0x28 => cq x.cqHead.toNat
  | 0x30 => cq (x.cqTail.toNat + bnat x.cqPhase * 2 ^ 16)
  | 0x38 => if s.ownsStat fn q then x.qstat.toNat else 0
  | _ => 0

/-- R69: a half of a DMAWIN register. -/
def DmaWin.read (w : DmaWin) (hi : Bool) : Nat :=
  if hi then w.limit.toNat * 2 ^ 12
  else w.fn.toNat + bnat w.rd * 2 ^ 5 + bnat w.wr * 2 ^ 6 + bnat w.en * 2 ^ 7 + w.base.toNat * 2 ^ 12

/-- R8, R68, R69: a register of the PF as a host reads it: reserved fields, unlisted offsets and the protected-write aperture
(R85) read 0. -/
def State.readPfReg (s : State) (off : Nat) : Nat :=
  let b := s.bar
  if off = 0 then b.gstat
  else if off = 8 then b.asidBase.toNat * 2 ^ 16
  else if off = 0x10 then b.memwin.toNat
  else if off = 0x18 then b.errVec.toNat + bnat b.errEn * 2 ^ 15
  else if 0x100 ≤ off ∧ off < 0x180 ∧ off % 8 = 0 then
    match b.vfasid.find ((off - 0x100) / 8 + 1) with
    | some (count, first) => first.toNat + count.toNat * 2 ^ 12
    | none => 0
  else if 0x1000 ≤ off ∧ off < 0x1800 ∧ off % 8 = 0 then (b.dmawin.get ((off - 0x1000) / 16) {}).read (off % 16 == 8)
  else 0

/-- R68 to R70, R85, R89: a host read of a management BAR. Where no firmware runs, it answers reads of GSTAT with its value, and
others with 0 (DESIGN CHOICE, log 78, unsafe). -/
def State.barValue (s : State) (fn off : Nat) : Nat :=
  if !s.barOpen && (fn != 0 || off != 0) then 0
  else match blockOf fn off with
    | some (q, reg) => s.readBlockReg fn q reg
    | none => if fn = 0 then s.readPfReg off else 0

/-- A doorbell as the device observes it (R70, R71, R89). -/
def State.doorbell (s : State) (fn q : Nat) (v : Word) : State :=
  let x := s.qblock q
  let tail := v.toNat % 65536
  if !s.ownsSq fn q then s
  else if s.bar.recovery ∨ 2 ^ x.sqLog.toNat ≤ tail then s.qevent q 0
  else s.setQ q { x with sqTail := BitVec.ofNat 16 tail }

/-- R70: LOG2SIZE is 4 to 16. -/
def logGood (n : Nat) : Bool := decide (4 ≤ n) && decide (n ≤ 16)

/-- SQCFG_WRITE (R70): only the PF writes it, and only EN while it is enabled. -/
def State.writeSqcfg (s : State) (fn q : Nat) (v : Word) : State :=
  let x := s.qblock q
  let n := v.toNat
  let en := bit n 63
  if fn ≠ 0 ∨ !s.barOpen then s
  else if x.sqEn then s.setQ q { x with sqEn := en }
  else
    let y := { x with sqLog := BitVec.ofNat 5 (n / 2 ^ 52), sqOwner := BitVec.ofNat 5 (n / 2 ^ 47),
                      sqBase := BitVec.ofNat 28 (n / 4096) }
    if !en then s.setQ q y
    else if logGood y.sqLog.toNat then s.setQ q { y with sqEn := true, sqHead := 0, sqTail := 0, sqEpoch := x.sqEpoch + 1 }
    else (s.setQ q y).qevent q 1

/-- R70. -/
def execSqcfgWrite (fn q : Nat) (v : Word) (s : State) : Res := .next (s.writeSqcfg fn q v)

/-- CQCFG_WRITE (R70). -/
def State.writeCqcfg (s : State) (fn q : Nat) (v : Word) : State :=
  let x := s.qblock q
  let n := v.toNat
  let en := bit n 63
  if fn ≠ 0 ∨ !s.barOpen then s
  else if x.cqEn then s.setQ q { x with cqEn := en }
  else
    let y := { x with cqLog := BitVec.ofNat 5 (n / 2 ^ 52), cqOwner := BitVec.ofNat 5 (n / 2 ^ 47), cqPasidEn := bit n 20,
                      cqPasid := BitVec.ofNat 20 n }
    if !en then s.setQ q y
    else if logGood y.cqLog.toNat then
      s.setQ q { y with cqEn := true, cqHead := 0, cqTail := 0, cqPhase := true }
    else (s.setQ q y).qevent q 1

/-- R70. -/
def execCqcfgWrite (fn q : Nat) (v : Word) (s : State) : Res := .next (s.writeCqcfg fn q v)

/-- CQHEAD_WRITE (R70, R79). -/
def State.writeCqhead (s : State) (fn q : Nat) (v : Word) : State :=
  if s.ownsCq fn q && s.barOpen then s.setQ q { s.qblock q with cqHead := v.setWidth 16 } else s

/-- R79. -/
def execCqheadWrite (fn q : Nat) (v : Word) (s : State) : Res := .next (s.writeCqhead fn q v)

/-! ## The memory window (R67, R83, R84, R389) -/

/-- R67: the PA of byte `off` of the window. -/
def State.windowPa (s : State) (off : Nat) : Nat :=
  (s.bar.memwin.toNat * 2 ^ 30 / 2 ^ s.bar.winLog * 2 ^ s.bar.winLog + off % 2 ^ s.bar.winLog) % 2 ^ 40

/-- Bytes as a little-endian number. -/
def bytesNum : List Byte → Nat
  | [] => 0
  | b :: bs => b.toNat + 256 * bytesNum bs

/-- The pieces of an access, one a line: address and length. `n` bounds the pieces. -/
def linePieces : Nat → Nat → Nat → List (Nat × Nat)
  | 0, _, _ => []
  | n + 1, pa, len =>
    if len = 0 then []
    else
      let here := min len (64 - pa % 64)
      (pa, here) :: linePieces n (pa + here) (len - here)

/-- R103, R104: the access finds budget of HOSTDMA on the core of its line. -/
def State.hostFits (s : State) (pa : Nat) : Bool := s.affordsAt pa .hostDma 1

/-- A line of this module that bad data have entered is POISON. -/
def State.poisonHere (s : State) (pa : Nat) : State := s.setSide (lineOf pa) { s.sideOf (lineOf pa) with poison := true }

/-- A window write inside one line, unless it waits. A poisoned one leaves its line POISON (R66: DESIGN CHOICE, log 83,
unsafe). -/
def State.windowWrite (s : State) (pa n v : Nat) (poisoned : Bool) : State × Bool :=
  if !s.hostFits pa then (s, false)
  else match s.store .host none 0 (.here pa) n v with
    | .wait s' => (s.keepRequest s' .host, false)
    | .done s' _ _ =>
      let s1 := s'.chargeAt pa .hostDma 1
      let s2 := if poisoned && !s.unserved pa then s1.poisonHere pa else s1
      (if s.mergesBad pa n then s2.e2eEvent else s2, true)

/-- R84: a window read inside one line, unless it waits; R451: a cluster that is not ON aborts it. -/
def State.windowRead (s : State) (pa n : Nat) : State × Bool :=
  if s.clusterOff pa then ((s.send (.hostAnswer 0 false true)).logHub 0x48 pa, true)
  else if !s.hostFits pa then (s, false)
  else match s.readHere .host 0 pa n with
    | .wait s' => (s.keepRequest s' .host, false)
    | .done s' v c =>
      let s1 := s'.chargeAt pa .hostDma 1
      match c with
      | none => (s1.send (.hostAnswer v false false), true)
      | some x =>
        let s2 := if x = .poison then s1 else s1.poisonHere pa
        ((s2.send (.hostAnswer v true false)).e2eEvent, true)

/-- The new value of a host AtomicOp (1 FetchAdd, 2 Swap, 3 CAS) of `bits` bits; `none` writes nothing. -/
def hostOpNew (op bits old x y : Nat) : Option Nat :=
  match op with
  | 1 => some ((old + x) % 2 ^ bits)
  | 2 => some (x % 2 ^ bits)
  | _ => if old = x % 2 ^ bits then some (y % 2 ^ bits) else none

/-- R66: the AtomicOps the module completes. -/
def hostOpGood (pa n op : Nat) : Bool :=
  pa % n == 0 && (n == 4 || n == 8 || (n == 16 && op == 3)) && decide (1 ≤ op) && decide (op ≤ 3)

/-- R83: what an AtomicOp leaves of its line: a new value, or of a line that fails its checks the old one, which becomes POISON. A
failed E2E has been logged by the read where that found it (`c`). -/
def State.atomicLine (s : State) (pa n old : Nat) (new : Option Nat) (c : Option Cond) : State :=
  let bad := (s.sideOf (lineOf pa)).fails
  match new, bad with
  | none, false => s
  | _, _ =>
    let s1 := (s.dropShared (lineOf pa)).revokeWords none (dkey s.flash.modId.toNat pa) n
    if s.unserved pa then s1.logHub 0x49 pa
    else (if bad && c != some .e2eBad then s1.logHub 0x41 (linePa (lineOf pa)) else s1).mergeData pa n (new.getD old)

/-- R83, R389: a host AtomicOp, unless it waits. One that arrives poisoned leaves its line POISON, as a write does (R66: DESIGN CHOICE,
log 83, unsafe). -/
def State.windowAtomic (s : State) (pa n op x y : Nat) (poisoned : Bool) : State × Bool :=
  if s.clusterOff pa then ((s.send (.hostAnswer 0 false true)).logHub 0x48 pa, true)
  else if !s.hostFits pa ∨ s.sensing pa then (s, false)
  else match s.ownHere .host 0 pa with
    | some s' => (s.keepRequest s' .host, false)
    | none => match s.readHere .host 0 pa n with
      | .wait s' => (s.keepRequest s' .host, false)
      | .done s1 old c =>
        let s2 := (s1.chargeAt pa .hostDma 1).atomicLine pa n old (hostOpNew op (8 * n) old x y) c
        let s3 := if poisoned && !s.unserved pa then s2.poisonHere pa else s2
        ((if (s.sideOf (lineOf pa)).fails then s3.e2eEvent else s3).send (.hostAnswer old c.isSome false), true)

/-- One host access. -/
def State.hostOne (s : State) (o : HostOp) : State × Bool :=
  match o with
  | .write pa n v poisoned => s.windowWrite pa n v poisoned
  | .read pa n => s.windowRead pa n
  | .atomic pa n op x y poisoned => s.windowAtomic pa n op x y poisoned
  | .doorbell fn q v => (s.doorbell fn q v, true)

/-- R451: an access that is aborted at once, though one before it waits: a read, or an AtomicOp, of memory whose cluster is not ON. -/
def State.abortsNow (s : State) : HostOp → Bool
  | .read pa _ => s.clusterOff pa
  | .atomic pa _ _ _ _ _ => s.clusterOff pa
  | _ => false

/-- The accesses behind one that waits: those that are aborted at once are answered, and the others stay. -/
def State.abortBehind (s : State) (l : List HostOp) : State :=
  let s1 := (l.filter s.abortsNow).foldl (fun t o => (t.hostOne o).1) s
  { s1 with hostq := l.filter fun o => !s.abortsNow o }

/-- R451: host accesses, in order, until one waits. -/
def State.hostRun : List HostOp → State → State
  | [], s => { s with hostq := [] }
  | o :: os, s =>
    match s.hostOne o with
    | (s1, true) => State.hostRun os { s1 with hostReq := none, hostGot := [] }
    | (s1, false) => s1.abortBehind (o :: os)

def State.hostGo (s : State) : State := State.hostRun s.hostq s

/-- Accesses of the host reach the device. What becomes of them while GSTAT.READY is 0 the spec does not say (R69): they are served as
ever. DESIGN CHOICE, log 91, unsafe. -/
def State.hostPush (s : State) (l : List HostOp) : State := { s with hostq := s.hostq ++ l }.hostGo

/-- SQ_DOORBELL (R70, R71): the device observes it after the host's writes that came before it. -/
def execSqDoorbell (fn q : Nat) (v : Word) (s : State) : Res := .next (s.hostPush [.doorbell fn q v])

/-- HOST_WINDOW_WRITE (R67, R83). -/
def State.hostWrite (s : State) (off : Nat) (data : List Byte) (poisoned : Bool) : State :=
  let pa := s.windowPa off
  let v := bytesNum data
  let pieces := linePieces (data.length / 64 + 2) pa data.length
  s.hostPush (pieces.map fun e => .write e.1 e.2 (v / 2 ^ (8 * (e.1 - pa)) % 2 ^ (8 * e.2)) poisoned)

/-- R83. -/
def execHostWindowWrite (off : Nat) (data : Written) (s : State) : Res :=
  .next (s.hostWrite off data.bytes data.poisoned)

/-- R84. -/
def execHostWindowRead (off len : Nat) (s : State) : Res :=
  .next (s.hostPush ((linePieces (len / 64 + 2) (s.windowPa off) len).map fun e => .read e.1 e.2))

/-- HOST_ATOMICOP (R66, R389); one that R66 does not list is not performed. -/
def execHostAtomicop (off size op : Nat) (x : Operand) (y : BitVec 128) (s : State) : Res :=
  .next (if hostOpGood (s.windowPa off) size op then
      s.hostPush [.atomic (s.windowPa off) size op x.value.toNat y.toNat x.poisoned]
    else s.send (.hostAnswer 0 false true))

/-! ## Protected writes (R85) -/

/-- R85: a unit that may be written. -/
def unitGood (u : Nat) : Bool :=
  fld u 512 16 == e2e (fld u 0 512) && fld u 528 48 == 0 && fld u 576 6 == 0 && fld u 616 408 == 0

/-- PROTECTED_WRITE (R85). A good unit that arrives poisoned leaves its line POISON (R66: DESIGN CHOICE, log 83, unsafe). -/
def State.protectedWrite (s : State) (u : Nat) (how : UnitIn) : State :=
  if how.whole && unitGood u then s.hostPush [.write (fld u 576 40) 64 (fld u 0 512) how.poisoned]
  else (s.logHub 0x41 (fld u 576 40 / 64 * 64)).e2eEvent

/-- R85. -/
def execProtectedWrite (unit : BitVec 1024) (how : UnitIn) (s : State) : Res :=
  .next (s.protectedWrite unit.toNat how)

end Sys2Proof.Machine
end

