-- ==== Sys2Proof/Machine/Refresh.lean ====
section
/-! DEFINITION. Refresh and scrubbing (R113, R186, R187, R232 to R234, R268, R415, R451). -/

namespace Sys2Proof.Machine

def State.sag (s : State) (c b k : Nat) : Sag := (s.bank c b).sag k
def State.setSag (s : State) (c b k : Nat) (x : Sag) : State := s.setBank c b ((s.bank c b).setSag k x)

/-- R449, R451: the core's cluster is ON. -/
def State.clusterOn (s : State) (c : Nat) : Bool := (s.clusterAt (c / 4)).state == 0

/-- R59, R234: the core runs a task whose program refreshes. -/
def State.programRefresh (s : State) (c : Nat) : Bool :=
  let k := s.core c
  k.task.isSome && k.st == .running && !k.flags.getLsbD 4

/-- R232: how many hub times that are multiples of 16 ms / 528 have been by time `t`, after time 0; and the first ns at or after
the one of number `i`. -/
def riseCount (t : Nat) : Nat := t * 33 / 1000000
def riseTime (i : Nat) : Nat := (i * 1000000 + 32) / 33

/-- R101, R232: the hot REFRESH share is in force for a core. -/
def State.hotCore (s : State) (c : Nat) : Bool := s.fen.hotCols.contains (s.columnOf c)

/-- R234: the record of a deadline, at the moment of rise `i`. -/
def State.deadlineRecord (s : State) (c b k i : Nat) : EvRec :=
  { cause := 0x83, src := 0, bank := BitVec.ofNat 8 b, gang := (s.core c).gangByte b,
    detail := BitVec.ofNat 64 (k + 64 * 2 ^ 8), time := riseTime i, hpc := 0, body := 0 }

/-- R232, R234, R451: hub time `i` of those that `riseCount` counts is a multiple of W / 528 for every `i` while W is 16 ms, and
for an even `i` while it is 32 ms: OWED rises by 1. -/
def State.owedStep (s : State) (c b k i : Nat) : State :=
  let x := s.sag c b k
  if !s.clusterOn c || (!s.hotCore c && i % 2 == 1) then s.setSag c b k { x with risen := i }
  else
    let n := min 96 (x.owed + 1)
    let s1 := s.setSag c b k { x with risen := i, owed := n, forced := x.forced || n == 96 }
    if x.owed = 63 ∧ s.programRefresh c then s1.hubRecord c (s.deadlineRecord c b k i) else s1

/-- The next `n` such hub times of a SAG. -/
def State.owedSteps (c b k : Nat) : Nat → State → State
  | 0, s => s
  | n + 1, s => State.owedSteps c b k n (s.owedStep c b k ((s.sag c b k).risen + 1))

/-- OWED_INCREMENT (R232): the rises of a SAG that hub time has come to. -/
def State.owedUp (s : State) (c b k : Nat) : State :=
  State.owedSteps c b k (riseCount s.now - (s.sag c b k).risen) s

/-- R232. -/
def execOwedIncrement (core bank k : Nat) (s : State) : Res := .next (s.owedUp core bank k)

/-- R232: the rises of every SAG of the module, where hub time has come to one. -/
def State.owedTime (s : State) : State :=
  if riseCount s.now ≤ s.fen.risen then s
  else
    let s1 := (List.range (1024 * 256)).foldl (fun t j => t.owedUp (j / 256) (j % 256 / 8) (j % 8)) s
    { s1 with fen := { s1.fen with risen := riseCount s.now } }

/-- R233: hardware refreshes the core's SAGs unasked. -/
def State.hwRefreshes (s : State) (c : Nat) : Bool :=
  let k := s.core c
  k.task.isNone || k.st == .ended || k.flags.getLsbD 4

/-- HW_REFRESH_ROW (R233): after a hart's array operation that is ready for the SAG (R36). -/
def State.hwRefresh (s : State) (c b k : Nat) : State :=
  let x := s.sag c b k
  if s.clusterOn c && s.hwRefreshes c && x.owed != 0 && s.sagIdle c b k && !s.wantsSag c b k && s.affords c .refresh 1 then
    (s.setSag c b k { x.refresh with busy := true }).charge c .refresh 1
  else s

/-- R233. -/
def execHwRefreshRow (core bank k : Nat) (s : State) : Res := .next (s.hwRefresh core bank k)

/-- FORCED_REFRESH_ROW (R105, R234): ahead of every operation that waits for the SAG, until OWED is 64. -/
def State.forcedRefresh (s : State) (c b k : Nat) : State :=
  let x := s.sag c b k
  if s.clusterOn c && x.forced && !x.busy && !x.step then
    let y := x.refresh
    (s.setSag c b k { y with busy := true, forced := decide (64 < y.owed) }).charge c .refresh 1
  else s

/-- R234. -/
def execForcedRefreshRow (core bank k : Nat) (s : State) : Res := .next (s.forcedRefresh core bank k)

/-- SAG_BUSY_END (R187): the floor of the SAG's operation has run. -/
def execSagBusyEnd (core bank k : Nat) (s : State) : Res := .next (s.setSagBusy core bank k false)

/-- R113: a corrective write leaves a line as it was, with its symbols right. -/
def scrubSide (lo hi : Nat) (t : Tab Side) : Tab Side :=
  (t.map fun e => if lo ≤ e.1 ∧ e.1 < hi ∧ e.2.badSymbols ≤ 2 then (e.1, { e.2 with badSymbols := 0 }) else e).filter
    fun e => e.2 != {}

/-- R113, R186: the array operations of a scrub: the row's read and, where a line needs it, a corrective write. -/
def State.scrubClk (s : State) (line row : Nat) : Nat :=
  if row < 512 && s.side.any (fun e => decide (line ≤ e.1) && decide (e.1 < line + 128) && e.2.badSymbols != 0 &&
    decide (e.2.badSymbols ≤ 2)) then 2 else 1

/-- SCRUB_ROW (R113, R268): a row is read and checked, and correctable lines are written back; cells found stuck enter
the map. -/
def State.scrub (s : State) (c b k row : Nat) (stuck : List Nat) : State :=
  let line := lineOf (rowPa c b k row)
  let n := s.scrubClk line row
  if s.clusterOn c && s.sagIdle c b k && !s.wantsSag c b k && s.affords c .scrub n then
    let s1 := if row < 512 then { s with side := scrubSide line (line + 128) s.side } else s
    let s2 := (s1.markStuck c b k (stuck.filter fun n => n / 65536 == row)).charge c .scrub n
    s2.setSagBusy c b k true
  else s

/-- R113. -/
def execScrubRow (core bank k row : Nat) (stuck : List Nat) (s : State) : Res := .next (s.scrub core bank k row stuck)

end Sys2Proof.Machine
end

