-- ==== Sys2Proof/Machine/Power.lean ====
section
/-! DEFINITION. Periods, the power governor, the deterministic mode, trips and temperature (R101, R106, R185, R188,
R232, R443 to R447). -/

namespace Sys2Proof.Machine

def State.setPower (s : State) (p : Power) : State := { s with power := p }

/-! ## Temperature (R447) -/

/-- The number of a sensor of a column. -/
def sensorNo (stack col i : Nat) : Nat := stack * 64 + col * 4 + i

def State.sensor (s : State) (n : Nat) : Sensor := s.power.sensors.get n {}

/-- The neighbours of a sensor. -/
def neighbours (stack col i : Nat) : List Nat :=
  (if 0 < col then [sensorNo stack (col - 1) i] else []) ++ (if col < 8 then [sensorNo stack (col + 1) i] else []) ++
    (if 0 < i then [sensorNo stack col (i - 1)] else []) ++ (if i < 3 then [sensorNo stack col (i + 1)] else [])

def State.workingReadings (s : State) (l : List Nat) : List Nat :=
  (l.filter fun n => !(s.sensor n).failed).map fun n => (s.sensor n).reading

def insertNat (x : Nat) : List Nat → List Nat
  | [] => [x]
  | y :: ys => if x ≤ y then x :: y :: ys else y :: insertNat x ys

/-- Twice the median of a list. -/
def median2 (l : List Nat) : Nat :=
  let t := l.foldr insertNat []
  t.getD ((t.length - 1) / 2) 0 + t.getD (t.length / 2) 0

/-- R447, step 1. -/
def State.sensorBad (s : State) (stack col i : Nat) : Bool :=
  let w := s.workingReadings (neighbours stack col i)
  let r := 2 * (s.sensor (sensorNo stack col i)).reading
  w != [] && decide (12 < r - median2 w ∨ 12 < median2 w - r)

def maxOf (l : List Nat) : Nat := l.foldl max 0

/-- The sensors of a stack as (column, index). -/
def stackSensors : List (Nat × Nat) := (List.range 36).map fun j => (j / 4, j % 4)

/-- R447, step 2: the effective reading. -/
def State.effective (s : State) (stack col i : Nat) : Nat :=
  let x := s.sensor (sensorNo stack col i)
  if !x.failed then x.reading
  else
    let w := s.workingReadings (neighbours stack col i)
    if 2 ≤ w.length then maxOf w + 5
    else maxOf (s.workingReadings (stackSensors.map fun e => sensorNo stack e.1 e.2)) + 5

def State.columnHottest (s : State) (stack col : Nat) : Nat :=
  maxOf ([0, 1, 2, 3].map fun i => s.effective stack col i)

def State.stackHottest (s : State) (stack : Nat) : Nat :=
  maxOf ((List.range 9).map fun col => s.columnHottest stack col)

/-- R446: the thermal trip of a stack begins or ends. -/
def State.thermal (s : State) (stack : Nat) : State :=
  let hot := s.stackHottest stack
  let p := s.power
  if p.thermalTrips.contains stack then
    if hot ≤ 95 then
      (s.setPower { p with thermalTrips := p.thermalTrips.filter (· != stack) }).logHub 0x8a stack
    else s
  else if 105 ≤ hot then (s.setPower { p with thermalTrips := p.thermalTrips ++ [stack] }).logHub 0x8a (256 + stack)
  else s

/-- R447: the readings of every sensor, by stack, column and sensor; one not given keeps its reading. -/
def State.setReadings (s : State) (l : List Nat) : State :=
  let f := fun (t : Tab Sensor) (e : Nat × Nat) =>
    let n := sensorNo (e.2 / 36) (e.2 % 36 / 4) (e.2 % 4)
    if (t.get n {}).reading = e.1 then t else t.put n { t.get n {} with reading := e.1 }
  s.setPower { s.power with sensors := (l.zipIdx).foldl f s.power.sensors }

/-- R447, step 1, over the module: marks are judged on the sensors that worked before. -/
def State.markSensors (s : State) : State :=
  let bad := (List.range 288).filter fun j =>
    let n := sensorNo (j / 36) (j % 36 / 4) (j % 4)
    !(s.sensor n).failed && s.sensorBad (j / 36) (j % 36 / 4) (j % 4)
  bad.foldl (fun t j =>
    let n := sensorNo (j / 36) (j % 36 / 4) (j % 4)
    (t.setPower { t.power with sensors := t.power.sensors.put n { t.sensor n with failed := true } }).logHub 0x8b n) s

/-- SENSOR_READ (R446, R447). -/
def execSensorRead (readings : List Nat) (s : State) : Res :=
  let s1 := (s.setReadings readings).markSensors
  .next ((List.range 8).foldl (fun t k => t.thermal k) s1)

/-! ## The governor, the deterministic mode and the power trip (R444 to R446) -/

/-- GOVERNOR_CHECK (R444, R446): every 10 µs. -/
def execGovernorCheck (watts : Nat) (s : State) : Res :=
  let p := s.power
  .next (s.setPower { p with
    watts := watts
    hold := !p.det && decide (p.plimit < watts)
    belowAllPeriod := p.belowAllPeriod && decide (watts * 100 < p.plimit * 95)
    overFor := if 3200 < watts then p.overFor + 10 else 0 })

/-- POWER_TRIP_START (R446): power above 3200 W for 20 µs. -/
def execPowerTripStart (s : State) : Res :=
  .next (if 20 ≤ s.power.overFor ∧ s.power.powerTrip.isNone then
    (s.setPower { s.power with powerTrip := some (s.now / 100000) }).logHub 0x89 1 else s)

/-- POWER_TRIP_END (R446): at the end of the period that follows the one in which it began. -/
def execPowerTripEnd (s : State) : Res :=
  .next (match s.power.powerTrip with
    | some p => if (p + 2) * 100000 ≤ s.now then (s.setPower { s.power with powerTrip := none }).logHub 0x89 0 else s
    | none => s)

/-- The hottest stack. -/
def State.hottest (s : State) : Nat :=
  ((List.range 8).foldl (fun (b : Nat × Nat) k =>
    if b.2 < s.stackHottest k then (k, s.stackHottest k) else b) (0, 0)).1

/-- R443 to R445: the clocks of the next period. DEDUCED, log 55, unsafe. -/
def State.nextClocks (s : State) : State :=
  let p := s.power
  if p.detWanted then
    s.setPower { p with det := true, hold := false, clocks := (List.range 8).map fun k => (k, 15) }
  else if p.plimit < p.watts then
    let k := s.hottest
    s.setPower { p with clocks := p.clocks.put k (max 12 (p.clocks.get k 18 - 1)) }
  else if p.belowAllPeriod then
    s.setPower { p with clocks := (List.range 8).map fun k => (k, min 18 (p.clocks.get k 18 + 1)) }
  else s

/-- PERIOD_BOUNDARY (R101, R443): at each multiple of 100 µs a period starts, with fresh shares. -/
def State.period (s : State) : State :=
  if s.now % 100000 ≠ 0 then s
  else
    let s1 := s.owedTime.nextClocks
    let hot := ((List.range 72).filter fun j => decide (85 < s1.columnHottest (j / 9) (j % 9)))
    { s1 with
      power := { s1.power with belowAllPeriod := true }
      fen := { s1.fen with
        spent := []
        heldTo := []
        hotCols := hot
        periods := (List.range 8).map fun k => (k, 10000 * s1.stackClock k) } }

/-- R101. -/
def execPeriodBoundary (s : State) : Res := .next s.period

end Sys2Proof.Machine
end

