-- ==== Sys2Proof/Machine/Boot.lean ====
section
/-! DEFINITION. Cold and warm reset, and boot (R57, R87, R89, R106, R116, R232, R268, R429, R436 to R438, R452, R453,
R455). -/

namespace Sys2Proof.Machine

/-! ## Retirement replayed (R429) -/

/-- R429: a record that verifies. The action of a core's record is applied again where its layer does not reflect it. -/
def Layer.reflect (l : Layer) (r : Retired) : Layer :=
  let i := r.logical % 8
  let region := fld r.unit 37 4
  if l.retired.getLsbD region then l
  else
    let l1 := { l with retired := l.retired ||| BitVec.ofNat 9 (2 ^ region) }
    let old := fld l.map.toNat (4 * i) 4
    if r.action = 5 then { l1 with map := l.map ||| BitVec.ofNat 32 (15 * 2 ^ (4 * i)) }
    else match l.spare with
      | some x => { l1 with map := BitVec.ofNat 32 (l.map.toNat - old * 2 ^ (4 * i) + x * 2 ^ (4 * i)) }
      | none => { l1 with map := l.map ||| BitVec.ofNat 32 (15 * 2 ^ (4 * i)) }

/-- The core of a record of a bank or a SAG. -/
def Retired.core (r : Retired) : Nat := r.logical

/-- How many valid records of an action name the same unit field, but for the low bits given. -/
def countRecords (l : List Retired) (action unit low : Nat) : Nat :=
  (l.filter fun r => r.sigOk && r.action == action && r.unit / 2 ^ low == unit / 2 ^ low).length

/-- R429: one valid record: ports, slices, buses and cores; and the counts of rows, lanes and signals in use, of rows and lanes those of
the region that serves the core. -/
def State.replayOne (s : State) (r : Retired) : State :=
  let f := s.flash
  match r.action with
  | 1 =>
    let b := fld r.unit 32 5
    let n := countRecords f.records 1 r.unit 19
    let x := s.bank r.core b
    if fld r.unit 37 4 = s.regionOf r.core ∧ x.spareLanes < n then (s.setBank r.core b { x with spareLanes := n }).writeConfig 2 else s
  | 2 =>
    let b := fld r.unit 32 5
    let k := fld r.unit 29 3
    let n := countRecords f.records 2 r.unit 29
    let x := s.sag r.core b k
    if fld r.unit 37 4 = s.regionOf r.core ∧ x.spareRows < n then (s.setSag r.core b k { x with spareRows := n }).writeConfig 2 else s
  | 3 =>
    let key := 2 * (fld r.unit 45 3 * 32 + fld r.unit 41 4 * 2 + fld r.unit 12 1) + fld r.unit 11 1
    let n := countRecords f.records 3 r.unit 11
    if f.softRepair.get key 0 < n then
      { s with flash := { f with busSpares := f.busSpares.put key n, softRepair := f.softRepair.put key n } }.writeConfig 2
    else s
  | 4 | 5 =>
    let n := r.logical / 8
    let l := (s.layer n).reflect r
    if l = s.layer n then s else ((s.setLayer n l).setCore r.core (s.core r.core).fresh).writeConfig 1
  | 6 =>
    let i := fld r.unit 0 13
    if f.offPorts.contains i then s else { s with flash := { f with offPorts := f.offPorts ++ [i] } }.writeConfig 2
  | 7 =>
    let n := fld r.unit 45 3 * 16 + fld r.unit 0 13
    if f.offSlices.contains n then s else { s with flash := { f with offSlices := f.offSlices ++ [n] } }.writeConfig 2
  | 8 =>
    let n := fld r.unit 45 3 * 32 + fld r.unit 0 13
    if f.retiredBuses.contains n then s
    else { s with flash := { f with retiredBuses := f.retiredBuses ++ [n] } }.writeConfig 2
  | _ => s

/-- A record of a core that a spare replaces, or that is removed. -/
def Retired.ofCore (r : Retired) : Bool := r.action == 4 || r.action == 5

/-- R429: a record whose signature fails is ignored and logged. Those of cores come first: they tell which regions serve. -/
def State.replay (s : State) : State :=
  let s1 := (s.flash.records.zipIdx).foldl (fun t e =>
    if !e.1.sigOk then t.logHub 0x8d (0xffff + (e.2 + 1) % 2 ^ 32 * 2 ^ 16)
    else if e.1.ofCore then t.replayOne e.1 else t) s
  (s.flash.records.filter fun r => r.sigOk && !r.ofCore).foldl State.replayOne s1

/-- R436: boot sets the replacement request again. -/
def State.replreqAgain (s : State) : State :=
  let bad := s.flash.records.any fun r => r.sigOk && decide (5 ≤ r.action)
  if bad ∨ Config.retireSize * 3 / 4 < s.flash.records.length ∨ s.flash.recordsLost ≠ 0 then s.requestReplacement else s

/-! ## Boot (R87, R89, R106, R430, R437, R455) -/

/-- Firmware slots that fail verification are logged. -/
def State.logSlots (s : State) (l : List Slot) : State :=
  l.foldl (fun t x => if x.ok then t else t.logHub 0x8d (0xfffe + x.seq % 2 ^ 32 * 2 ^ 16)) s

/-- R87: slots of a type whose record fails verification are logged. -/
def State.logConfigs (s : State) (ty : Nat) : State :=
  (s.flash.configs.get ty []).foldl (fun t x =>
    if x.verifies ty then t else t.logHub 0x8d (ty + x.record.seq % 2 ^ 32 * 2 ^ 16)) s

/-- R430: the core map and the domain that the record of TYPE 1 in use gives. -/
def State.loadCores (s : State) : State :=
  match (s.config 1).map (fun (r : ConfigRec) => r.body) with
  | some (Body.cores domain modId _ layers) =>
    { s with flash := { s.flash with
      domain := domain, modId := modId.setWidth 6
      layers := layers.map fun e => (e.1, Layer.ofWord e.2) } }
  | _ => s

/-- The repairs of one bank. -/
def Bank.repair (x : Bank) (r : Repairs) (c b : Nat) : Bank :=
  { x with
    spareLanes := r.lanes.get (c * 32 + b) 0
    sags := x.sags.mapVals fun k g => { g with spareRows := r.rows.get (sagUnit c b k) 0 } }

/-- R425, R437: the repair maps that the record of TYPE 2 in use gives. After a warm reset the soft-repair registers of the buses are
loaded from the retention registers. -/
def State.loadRepairs (s : State) (cold : Bool) : State :=
  match (s.config 2).map (fun (r : ConfigRec) => r.body) with
  | some (Body.repairs r) =>
    let signals := if cold then r.signals else s.flash.busSpares
    let s1 := { s with
      cores := s.cores.mapVals fun c k => { k with banks := k.banks.mapVals fun b x => x.repair r c b }
      flash := { s.flash with
        busSpares := signals, softRepair := signals, retiredBuses := r.buses, offPorts := r.ports, offSlices := r.slices } }
    let s2 := r.lanes.foldl (fun t e =>
      t.setBank (e.1 / 32) (e.1 % 32) { t.bank (e.1 / 32) (e.1 % 32) with spareLanes := e.2 }) s1
    r.rows.foldl (fun t e =>
      t.setSag (e.1 / 256) (e.1 % 256 / 8) (e.1 % 8)
        { t.sag (e.1 / 256) (e.1 % 256 / 8) (e.1 % 8) with spareRows := e.2 }) s2
  | _ => s

/-- R106: the shares of the record of TYPE 4 in use, or the defaults. -/
def State.loadShares (s : State) : State :=
  match (s.config 4).map (fun (r : ConfigRec) => r.body) with
  | some (Body.budgets x _) => { s with fen := { s.fen with shares := x } }
  | _ => { s with fen := { s.fen with shares := {} } }

/-- R425, R437, R455: what self-test has found takes effect before GSTAT.READY is set. -/
def State.selfTests (s : State) : State :=
  s.finds.foldl (fun t x => match x with
    | .unit u stuck => t.unitFails u stuck 2
    | .core c => t.coreFails c 2
    | .bus n => t.busRetires n 2) { s with finds := [] }

/-- R455, R87, R89, R106, R425, R429: firmware runs and brings the module up; or the module is in recovery. -/
def State.boot (s : State) (cold : Bool) : State :=
  let s1 := s.logSlots s.flash.firmware
  match bestSlot s1.flash.firmware with
  | none => { s1 with bar := { s1.bar with recovery := true, rcause := 2, ready := false },
                      flash := { s1.flash with running := none } }
  | some fw =>
    let s2 := { s1 with flash := { s1.flash with running := some fw.hash } }
    let s3 := [1, 2, 3, 4].foldl (fun t ty => t.logConfigs ty) s2
    if [1, 2, 3].any fun ty => (s3.config ty).isNone then
      { s3 with bar := { s3.bar with recovery := true, rcause := 1, ready := false } }
    else
      let s4 := ((((s3.loadCores).loadRepairs cold).loadShares).replay.selfTests).replreqAgain
      { s4 with bar := { s4.bar with ready := true } }

/-! ## Resets -/

/-- What the module's hardware keeps of a bank: what R438 lists if `dram`; R268: the map of stuck cells outlives a warm reset, and
a cold one empties it (the spec says no more: DESIGN CHOICE, log 87, unsafe). -/
def Bank.kept (x : Bank) (warm dram : Bool) : Bank :=
  { spareLanes := x.spareLanes
    sags := x.sags.mapVals fun _ g =>
      { spareRows := g.spareRows, stuck := if warm then g.stuck else [], owed := if dram then g.owed else 0,
        ptr := if dram then g.ptr else 0, risen := if warm then g.risen else 0 } }

/-- What is left of a core. -/
def Core.kept (k : Core) (warm dram : Bool) : Core := { banks := k.banks.mapVals fun _ x => x.kept warm dram }

/-- R438: dirty lines of an MSC are lost, and what DRAM holds beneath them, bytes and sideband, is what remains. -/
def State.loseMsc (s : State) : State :=
  s.msc.foldl (fun t e => match e.2 with
    | some (data, x) => { t.setSide e.1 x with mem := t.mem.write (linePa e.1) 64 data }
    | none => t) s

/-- COLD_RESET (R57, R455): every line is filled, hub time starts at 0, and firmware boots. Flash is what outlasts it. -/
def State.coldReset (s : State) : State :=
  { agenda := s.agenda, rr := s.rr, draws := s.draws, out := s.out, finds := s.finds
    cores := s.cores.mapVals fun _ k => k.kept false false
    flash := { s.flash with boots := s.flash.boots + 1, log := [], lost := 0, softRepair := [],
                            layers := s.flash.layers.mapVals fun _ l => { l with remap := none, shrink := [], stopped := [] } }
    bar := { winLog := s.bar.winLog, atomicEn := s.bar.atomicEn } : State }.boot true

/-- R57. -/
def execColdReset (s : State) : Res := .next s.coldReset

/-- WARM_RESET (R391, R437, R438, R452, R453): with retention armed, DRAM, what R438 lists and the cluster retention registers stay; else
every line is filled. Hub time, hub counters, scores, the log, REPLREQ, retention and sensor marks stay; the soft-repair registers are clear. -/
def State.warmReset (s0 : State) : State :=
  let keep := s0.power.retention
  let s := if keep then s0.clustersUp else s0
  { agenda := s.agenda, rr := s.rr, draws := s.draws, out := s.out, now := s.now, finds := s.finds
    hctrs := s.hctrs.mapVals fun _ x => { x with sems := [], bars := [] }
    mem := if keep then s.loseMsc.mem else []
    side := if keep then s.loseMsc.side else []
    rown := if keep then s.rown else []
    rshr := if keep then s.rshr else []
    touched := s.touched
    cores := s.cores.mapVals fun _ k => k.kept true keep
    fen := { scores := s.fen.scores, lastLease := s.fen.lastLease, risen := s.fen.risen }
    flash := { s.flash with
      softRepair := []
      layers := s.flash.layers.mapVals fun _ l => { l with remap := none, shrink := [], stopped := [] } }
    power := { sensors := s.power.sensors, retention := keep, clusters := if keep then s.power.clusters else [] }
    bar := { winLog := s.bar.winLog, atomicEn := s.bar.atomicEn, replreq := s.bar.replreq } : State }.boot false

/-- R438. -/
def execWarmReset (s : State) : Res := .next s.warmReset

end Sys2Proof.Machine
end

