-- ==== Sys2Proof/Machine/Mgmt.lean ====
section
/-! DEFINITION. The management commands (R88, R422, R444, R445, R453 to R457). -/

namespace Sys2Proof.Machine

/-- R454, R455: without verified firmware only STATUS (1) and FW_UPDATE (9) are answered. -/
def State.answers (s : State) (code : Nat) : Bool := s.bar.rcause != 2 || code == 1 || code == 9

/-- STATUS (R454): GSTAT, the clocks of the stacks, PLIMIT, the mode and the effective readings. -/
def execStatus (s : State) : Res :=
  .next (s.send (.mgmt 1 ([s.bar.gstat] ++ (List.range 8).map s.stackClock ++ [s.power.plimit, bnat s.power.det] ++
    (List.range 288).map fun j => s.effective (j / 36) (j % 36 / 4) (j % 4))))

/-- R440: the 32 bytes of an entry. -/
def LogEntry.bits (e : LogEntry) : Nat :=
  e.time % 2 ^ 64 + e.code.toNat * 2 ^ 64 + e.src * 2 ^ 72 + e.core * 2 ^ 80 + e.detail.toNat * 2 ^ 96 +
    e.value.toNat * 2 ^ 160

/-- READ_LOG (R440, R454): LOST, then the entries. -/
def execReadLog (s : State) : Res :=
  .next (if s.answers 2 then s.send (.mgmt 2 (s.flash.lost.toNat :: s.flash.log.map LogEntry.bits)) else s)

/-- R428: a record, by its place, with the identity key's signature over its first 64 bytes. -/
def Retired.bits (r : Retired) (i : Nat) : Nat :=
  let v := i + 1 + r.utype * 2 ^ 32 + r.action * 2 ^ 40 + r.reason * 2 ^ 48 + r.unit * 2 ^ 64 + r.time % 2 ^ 64 * 2 ^ 128 +
    r.boots % 2 ^ 32 * 2 ^ 192 + r.logical * 2 ^ 224 +
    (r.history.zipIdx.foldl (fun a e => a + e.1 * 2 ^ (16 * e.2)) 0) * 2 ^ 256
  v + (Config.signature v).toNat * 2 ^ 512

/-- READ_RETIRE (R428, R454). -/
def execReadRetire (s : State) : Res :=
  .next (if s.answers 3 then s.send (.mgmt 3 (s.flash.records.zipIdx.map fun e => e.1.bits e.2)) else s)

/-- SET_PLIMIT (R444): from 1000 W to 3200 W. -/
def execSetPlimit (watts : Nat) (s : State) : Res :=
  .next (if s.answers 4 ∧ 1000 ≤ watts ∧ watts ≤ 3200 then
    (s.setPower { s.power with plimit := watts }).send (.mgmt 4 []) else s)

/-- SET_MODE (R445): on from the next period boundary; off at once, with the clocks as they stand. -/
def execSetMode (on : Bool) (s : State) : Res :=
  .next (if s.answers 5 then
    (s.setPower { s.power with detWanted := on, det := s.power.det && on }).send (.mgmt 5 []) else s)

/-- ARM_RETENTION (R453). -/
def execArmRetention (on : Bool) (s : State) : Res :=
  .next (if s.answers 6 then (s.setPower { s.power with retention := on }).send (.mgmt 6 []) else s)

/-- R457: an attestation report. -/
def State.report (s : State) (nonce : BitVec 256) : Nat :=
  let seq := fun ty => ((s.config ty).map (·.seq)).getD 0
  let v := nonce.toNat + (s.flash.running.getD 0).toNat * 2 ^ 256 + seq 1 * 2 ^ 512 + seq 2 * 2 ^ 576 + seq 3 * 2 ^ 640 +
    seq 4 * 2 ^ 704 + s.flash.records.length * 2 ^ 768 + s.flash.boots % 2 ^ 32 * 2 ^ 800
  v + (Config.signature v).toNat * 2 ^ 832

/-- ATTEST (R457). -/
def execAttest (nonce : BitVec 256) (s : State) : Res :=
  .next (if s.answers 7 then s.send (.mgmt 7 [s.report nonce]) else s)

/-- An entry of the event trace as numbers (R422). -/
def Trace.nums (e : Trace) : List Nat := [e.time, e.bank, e.kind, e.value]

/-- R422: the operations of DEBUG: 0 stops a core's trace, 1 arms it afresh, 2 sets its trigger (`arg` holds the number
of entries after it in [11:0], the kind in [13:12] and the value above), 3 reads it, 4 and 5 enter and leave test mode
(R456). DESIGN CHOICE, log 56, unsafe. -/
def State.debugOp (s : State) (c op arg : Nat) : State :=
  let k := s.core c
  match op with
  | 0 => s.setCore c { k with traceOn := false }
  | 1 => s.setCore c { k with traceOn := true, trace := [], traceLeft := none, traceTrigger := none }
  | 2 => s.setCore c { k with traceTrigger := some (arg % 2 ^ 14, arg / 2 ^ 14), traceLeft := none }
  | 3 => s.send (.mgmt 8 (k.trace.flatMap Trace.nums))
  | 4 => s.setPower { s.power with testMode := true }
  | 5 => s.setPower { s.power with testMode := false }
  | _ => s

/-- DEBUG (R88, R422, R454): only under a vendor-signed token, whose use is logged. -/
def execDebugCmd (tokenOk : Bool) (core op arg : Nat) (s : State) : Res :=
  .next (if tokenOk && s.answers 8 then (s.logHub 0xc4 8).debugOp core op arg else s)

/-- FW_UPDATE (R454): the firmware slot that does not hold the running image is written; with none running, the first (DESIGN CHOICE,
log 98, unsafe). -/
def execFwUpdate (version : Nat) (sigOk : Bool) (hash : BitVec 256) (s : State) : Res :=
  let keep : List Slot := match s.flash.running with
    | some h => s.flash.firmware.filter fun (x : Slot) => x.ok && x.hash == h
    | none => s.flash.firmware.drop 1
  let fresh : Slot := ⟨version, sigOk, hash⟩
  .next ({ s with flash := { s.flash with firmware := keep.take 1 ++ [fresh] } }.send (.mgmt 9 []))

end Sys2Proof.Machine
end

