-- ==== Sys2Proof/Machine/Coher.lean ====
section
/-! DEFINITION. Ownership between modules: this module as the home of its lines and as a holder of others' lines, and
the answers of other modules and of the host (R84, R236 to R240, R384 to R389, R396). -/

namespace Sys2Proof.Machine

/-! ## Answers on the fabric -/

/-- What an answer carries: the 512 data bits, then POISON, whether the line was held in O or M, whether it is granted in
E, that the request failed, and the E2E as what differs from the right one (R84). -/
def answerData (data : Nat) (poison owned excl failed : Bool) (diff : BitVec 16 := 0) : Nat :=
  data % 2 ^ 512 + bnat poison * 2 ^ 512 + bnat owned * 2 ^ 513 + bnat excl * 2 ^ 514 + bnat failed * 2 ^ 515 +
    diff.toNat * 2 ^ 516

def State.answer (s : State) (dst line data : Nat) (poison owned excl failed : Bool) (diff : BitVec 16 := 0) : State :=
  s.send (.fabric dst msgAnswer line (answerData data poison owned excl failed diff))

/-! ## Failures of requests (R238, R386, R387) -/

/-- The request is made for a write (R48): an AtomicOp, or ownership, a recall, an invalidation or an operation at the home. -/
def Req.writes (r : Req) : Bool :=
  if r.host then decide (17 ≤ r.kind)
  else r.kind == msgOwn || r.kind == msgRecall || r.kind == msgInvalidate || r.kind == msgAmo

/-- The detail of a request that fails: of R238 and R386 for an expired recall, of R48 otherwise. -/
def failDetail (cause : Nat) (r : Req) : Nat :=
  if cause = 0xa1 then r.va % 2 ^ 48 + r.module * 2 ^ 58 else detail48 r.va .col 0 r.writes

/-- A word whose elements fail one by one (R259). -/
def gathers (w : Nat) : Bool :=
  match decodeHart w with
  | .ok (.ldg _) => true
  | .ok (.ldgff _) => true
  | .ok (.lds _) => true
  | _ => false

/-- A word that writes a row: what it waits for in other modules raises no cause (R239, R397). -/
def writesRow (w : Nat) : Bool :=
  match decodeHart w with
  | .ok (.wb _) => true
  | .ok (.wbp _) => true
  | .ok (.sst _) => true
  | _ => false

/-- A hart's request fails: the word in progress ends by the cause, a gather at the group of the element. What WB, WBP and SST wait
for is asked for again, and so is what a scatter waits for, whose first writes may have been performed (R261). A release whose
zero-length read fails has waited for it (R397). DEDUCED, log 61, unsafe. -/
def State.hartFails (s0 : State) (c b cause : Nat) (r : Req) : State :=
  let detail := failDetail cause r
  let s := { s0 with recalls := s0.recalls.filter (· != rowStart r.addr) }
  match (s.hart c b).pend with
  | some (.column _) => s.setPend c b (some (.trapped cause detail 0))
  | some (.scatter _ _) => s
  | _ =>
    if r.host && r.addr == readMark then
      s.setHostData (.hart c b) ((s.hostData (.hart c b)).put readMark 0)
    else if writesRow (s.wordAt c b) then s
    else if gathers (s.wordAt c b) then
      s.setHostData (.hart c b) ((s.hostData (.hart c b)).put failKey (cause + detail * 2 ^ 8 + r.va * 2 ^ 72))
    else s.hartFault c b cause detail (s.hart c b).egi.toNat

/-- A copy's request fails (R263): the line it was to read is delivered POISON; a line it was to write is passed over. -/
def State.copyFails (s : State) (c b n cause : Nat) (r : Req) : State :=
  if r.kind = msgRecall ∨ r.kind = msgOwn ∨ r.kind = msgInvalidate then
    let x := (s.slot c b n).note (some cause)
    s.setSlot c b n { x with pos := x.pos + 1, got := [] }
  else s.setHostData (.copy c b n) ((s.hostData (.copy c b n)).put failKey cause)

/-- R386: a host access aborts, and is logged; a posted write has no completion. -/
def State.hostFails (s : State) : State :=
  match s.hostq with
  | [] => s
  | o :: os =>
    let s1 := { s with hostq := os, hostGot := [] }
    match o with
    | .write pa _ _ _ => s1.logHub 0x48 pa
    | .doorbell _ _ _ => s1
    | .read pa _ => (s1.send (.hostAnswer 0 false true)).logHub 0x48 pa
    | .atomic pa _ _ _ _ _ => (s1.send (.hostAnswer 0 false true)).logHub 0x48 pa

/-- The request that `w` waits for fails with `cause`. What a retired store (R395) or the writes of a save (R413) wait for is asked for
again. DEDUCED, log 61, unsafe. -/
def State.failRequest (s : State) (w : Waiter) (cause : Nat) : State :=
  match s.reqOf w with
  | none => s
  | some r =>
    let s1 := s.setReq w none
    match w with
    | .hart c b => s1.hartFails c b cause r
    | .stored _ _ => s1
    | .save c => if (s.ct c).busy && !(s.ct c).opDone then
        s1.setHostData (.save c) ((s1.hostData (.save c)).put failKey cause) else s1
    | .copy c b n => s1.copyFails c b n cause r
    | .ct c => (s1.dropLaunch c).ctCause c cause (failDetail cause r)
    | .ring c => s1.ringLost c
    | .hub => s1.setHostData .hub ((s1.hostData .hub).put failKey cause)
    | .flush => s1.setHostData .flush ((s1.hostData .flush).put failKey cause)
    | .host => s1.hostFails
    | .peer src line =>
      { s1 with remoteQ := s1.remoteQ.eraseP fun e => e.is src line }.answer src line 0 false false false true

/-! ## Requests of other modules (R385, R396) -/

/-- R236: ROWN is clear once no line of the row is held in E, O or M. -/
def State.fixRown (s : State) (pa : Nat) : State :=
  if s.remoteLines (rowStart pa) = [] then { s with rown := s.rown.filter (· != rowStart pa) } else s

def addOnce (l : List Nat) (x : Nat) : List Nat := if l.contains x then l else l ++ [x]

/-- R384: the line is held in E, O or M by module `src`. -/
def Side.heldBy (x : Side) (src : Nat) : Bool := x.away && x.owner == some (BitVec.ofNat 6 src)

/-- R381: the place of a reservation at the home: the module and the core of its thread. -/
def resvKey (src core : Nat) : Nat := src * 1024 + core

/-- R381: a grant of ownership to a module ends the reservations of the line, but for those of its own threads: it ends them
itself where another of its agents writes. -/
def State.endResv (s : State) (src line : Nat) : State :=
  { s with remoteResv := s.remoteResv.filter fun e =>
      e.1 / 1024 == src || e.2 != dkey s.flash.modId.toNat (linePa line) / 64 }

/-- R381: module `src` has written a line: the reservations of it end, but for those of its own threads. -/
def State.otherWrote (s : State) (src line : Nat) : State :=
  ({ s.revokeWords none (dkey s.flash.modId.toNat (linePa line)) 64 with remoteResv := s.remoteResv }).endResv src line

/-- R84: what the E2E of a line that is to leave differs by: of data that a holder has supplied, as they came. -/
def State.lineDiff (s : State) (w : Waiter) (line : Nat) : BitVec 16 :=
  match (s.hostData w).find (fwdKey line) with
  | some v => BitVec.ofNat 16 (v / 2 ^ 513)
  | none => (s.sideOf line).e2eDiff

/-- R385, R240: a line is granted in S. -/
def State.grantShared (s : State) (src pa data : Nat) (poison : Bool) (diff : BitVec 16 := 0) : State :=
  let line := lineOf pa
  let x := s.sideOf line
  let s1 := if x.state = 3 then s else s.setSide line { x with state := 1, owner := none }
  { s1 with rshr := addOnce s1.rshr (rowStart pa) }.answer src line data poison false false false diff

/-- R385: a line is granted in E; the control threads' owned words of it become Invalid, since the MSC gives it up (R381).
Reservations of it stand until the module is seen to have written it. -/
def State.grantExclusive (s : State) (src pa data : Nat) (poison : Bool) (diff : BitVec 16 := 0) : State :=
  let line := lineOf pa
  let s1 := (s.dropShared line).disownLine (dkey s.flash.modId.toNat (linePa line))
  let s2 := s1.setSide line { s1.sideOf line with state := 2, owner := some (BitVec.ofNat 6 src) }
  { s2 with rown := addOnce s2.rown (rowStart pa) }.answer src line data poison false true false diff

/-- R84, R385: a line's data come back from the module that held it, with the POISON and the E2E that they bring. -/
def State.takeBack (s : State) (line data : Nat) (poison : Bool) (diff : BitVec 16) : State :=
  let t := s.mergeHere (linePa line) 64 data
  t.setSide line { t.sideOf line with poison := poison, e2eDiff := diff }

/-- R385: a written-back line; data that fail their check are written with POISON (R84). A line that was held in E had been written
since (R381). -/
def State.writtenBack (s : State) (src pa data : Nat) (poison modified : Bool) (diff : BitVec 16 := 0) : State :=
  let line := lineOf pa
  let x := s.sideOf line
  if x.heldBy src then
    let s0 := if x.state = 3 then s else s.otherWrote src line
    let s1 := s0.setSide line { x with state := if modified then 0 else 1, owner := none }
    (s1.takeBack line data poison diff).fixRown pa
  else s

/-- R396: an atomic operation of system scope at its home. Operations 10 and 11 are LR and SC (R381), and carry the core of
their thread. -/
def State.atomicHome (s : State) (e : RemoteOp) : Acc :=
  let w : Waiter := .peer e.src (lineOf e.pa)
  let key := dkey s.flash.modId.toNat e.pa / 64
  if e.op = 10 then
    match s.readHere w 0 e.pa e.n with
    | .done s' v none => .done { s' with remoteResv := s'.remoteResv.put (resvKey e.src e.y) key } v none
    | r => r
  else if e.op = 11 then
    if s.remoteResv.find (resvKey e.src e.y) ≠ some key then
      .done { s with remoteResv := s.remoteResv.drop (resvKey e.src e.y) } 1 none
    else match s.store w none 0 (.here e.pa) e.n e.x with
      | .done s' _ _ => .done { s' with remoteResv := s'.remoteResv.drop (resvKey e.src e.y) } 0 none
      | r => r
  else s.atomic w none 0 (.here e.pa) e.n e.op e.x e.y true

/-- The agent still has the access to perform for which it asked another module. -/
def State.wants (s : State) (w : Waiter) : Bool :=
  match w with
  | .hart c b => (s.core c).st == .running && ((s.hart c b).st == .split || (s.hart c b).st == .member)
  | .stored c b => (s.hart c b).stores != []
  | .copy c b n => ((s.hart c b).slots.get n {}).busy
  | .ct c => (s.ct c).running
  | .ring c => (s.core c).ringq != []
  | .save c => (s.ct c).busy || (s.core c).saveLeft != []
  | .hub => s.sched.serving.isSome
  | .flush => s.sched.flushLeft != []
  | .host => s.hostq != []
  | .peer _ _ => false

/-- R385: an agent of this module, whose request came before, has the line first. -/
def State.lineTaken (s : State) (line : Nat) : Bool := s.firsts.any fun e => e.1 == line && s.wants e.2

/-- R112, R113, R240, R385, R451: a request waits before it is looked at: for its cluster, bus, slice or port, for a row that is being
written, for FABRIC budget, for an agent of this module that comes first, and, unless it writes, for invalidations under way. -/
def State.serveHeld (s : State) (e : RemoteOp) : Bool :=
  s.asleep e.pa || s.portHeld e.src || s.rowWriting e.pa || !s.affordsAt e.pa .fabric 1 || s.lineTaken (lineOf e.pa) ||
    ((e.kind == msgRead || e.kind == msgWriteBack) && s.unacked (lineOf e.pa) != [] &&
      (s.reqOf (.peer e.src (lineOf e.pa))).isNone)

/-- R385: one request is served, unless it waits. -/
def State.serveOne (s : State) (e : RemoteOp) : State × Bool :=
  let line := lineOf e.pa
  let w : Waiter := .peer e.src line
  let diff := s.lineDiff w line
  if s.serveHeld e then (s.accessWait w e.pa, false)
  else if e.kind = msgRead then
    match s.readHere w 0 (linePa line) 64 with
    | .wait s' => (s.keepRequest s' w, false)
    | .done s' v x => ((s'.grantShared e.src e.pa v x.isSome diff).chargeAt e.pa .fabric 1, true)
  else if e.kind = msgOwn then
    if s.rowHeld e.pa || s.sensing e.pa then (s, false)
    else match s.ownHere w 0 e.pa with
    | some s' => (s.keepRequest s' w, false)
    | none => match s.readHere w 0 (linePa line) 64 with
      | .wait s' => (s.keepRequest s' w, false)
      | .done s' v x => ((s'.grantExclusive e.src e.pa v x.isSome diff).chargeAt e.pa .fabric 1, true)
  else if e.kind = msgWriteBack then
    if s.rowTested e.pa then (s.touchPage e.pa, false)
    else if s.sensing e.pa then (s, false)
    else ((s.writtenBack e.src e.pa e.x e.poison (e.op == 1) e.e2eDiff).chargeAt e.pa .fabric 1, true)
  else match s.atomicHome e with
    | .wait s' => (s.keepRequest s' w, false)
    | .done s' v x => ((s'.answer e.src e.pa v x.isSome false false false).chargeAt e.pa .fabric 1, true)

/-- R385: requests are served in the order of arrival; one that waits holds back those to its line. -/
def State.serveFrom : List RemoteOp → List Nat → State → State
  | [], _, s => s
  | e :: es, held, s =>
    let line := lineOf e.pa
    if held.contains line then State.serveFrom es held s
    else match s.serveOne e with
      | (s1, true) => State.serveFrom es held { s1 with remoteQ := s1.remoteQ.eraseP fun x => x.is e.src line }
      | (s1, false) => State.serveFrom es (line :: held) s1

def State.serveRemote (s : State) : State := State.serveFrom s.remoteQ [] s

def State.remotePush (s : State) (e : RemoteOp) : State := { s with remoteQ := s.remoteQ ++ [e] }.serveRemote

/-- REMOTE_READ_REQUEST (R385, R240). -/
def execRemoteReadRequest (src line : Nat) (s : State) : Res :=
  .next (s.remotePush { kind := msgRead, src := src, pa := linePa line })

/-- REMOTE_OWNERSHIP_REQUEST (R385, R240). -/
def execRemoteOwnershipRequest (src line : Nat) (s : State) : Res :=
  .next (s.remotePush { kind := msgOwn, src := src, pa := linePa line })

/-- R84, R116: data that fail their check as they arrive from module `src`: the Yowald port they came by scores, and they are logged
unless a hart's instruction carried them; at a module-interconnect port or in the hub they are logged only. DEDUCED, log 57,
unsafe. -/
def State.arrivalEvent (s : State) (cond : Arrival) (src line : Nat) (logged : Bool) : State :=
  match cond with
  | .bad _ =>
    let s1 := s.addScore 4 (s.portTo src) 32
    if logged then s1.logHub 0x41 (linePa line) else s1
  | .hub _ => s.logHub 0x41 (linePa line)
  | _ => s

/-- REMOTE_WRITE_BACK (R385): from M (`modified`) or from O. -/
def execRemoteWriteBack (src line : Nat) (data : BitVec 512) (cond : Arrival) (modified : Bool) (s : State) : Res :=
  .next ((s.arrivalEvent cond src line true).remotePush
    { kind := msgWriteBack, src := src, pa := linePa line, op := bnat modified, x := data.toNat
      poison := cond.poisoned, e2eDiff := cond.diff })

/-- REMOTE_AMO_REQUEST (R396): operation, width, operand and the value that AMOCAS compares with. -/
def execRemoteAmoRequest (src addr op : Nat) (w32 : Bool) (x y : Word) (s : State) : Res :=
  let n := if w32 then 4 else 8
  .next (s.remotePush
    { kind := msgAmo, src := src, pa := addr, op := op, n := n, x := x.toNat % 2 ^ (8 * n), y := y.toNat % 2 ^ (8 * n) })

/-! ## Lines of other modules held here (R384, R385) -/

/-- `n` lines of another module leave this one (R385), and the owned words of its control threads in them become Invalid
(R381). -/
def State.giveUp (s : State) (home line n : Nat) : State :=
  let key := home * 2 ^ 34 + line
  { s.disownLines (dkey home (linePa line)) n with
    rlines := s.rlines.filter fun e => !(decide (key ≤ e.1) && decide (e.1 < key + n)) }

/-- RECALL_REQUEST (R237, R239, R385): the home takes a line, or a row, that this module holds, and is answered. -/
def State.recalled (s : State) (home line : Nat) (what : Taken) : State :=
  match what with
  | .row => (s.giveUp home line 128).answer home line 0 false false false false
  | .line => (s.giveUp home line 1).answer home line 0 false false false false
  | .recall => match s.rlines.find (home * 2 ^ 34 + line) with
    | some l => (s.giveUp home line 1).answer home line l.data l.poison (l.st == .o || l.st == .m) false false l.e2eDiff
    | none => (s.giveUp home line 1).answer home line 0 false false false false

/-- R385. -/
def execRecallRequest (home line : Nat) (what : Taken) (s : State) : Res := .next (s.recalled home line what)

/-- REMOTE_FORWARD_REQUEST (R385): this module supplies a line, and keeps O from O or M and S from E. -/
def State.forwarded (s : State) (home line : Nat) : State :=
  let key := home * 2 ^ 34 + line
  match s.rlines.find key with
  | none => s.answer home line 0 false false false false
  | some l =>
    let owned := l.st == .o || l.st == .m
    { s with rlines := s.rlines.put key { l with st := if owned then .o else .s } }.answer home line l.data l.poison owned
      false false l.e2eDiff

/-- R385. -/
def execRemoteForwardRequest (home line : Nat) (s : State) : Res := .next (s.forwarded home line)

/-- MSC_EVICTION (R384): the MSC gives up the line of key `line` (module and line number). -/
def execMscEviction (line : Nat) (s : State) : Res := .next (s.mscEvict line)

/-! ## Answers (R237, R385, R386) -/

/-- Everything that waits for an answer which `f` accepts. -/
def State.waiters (s : State) (f : Req → Bool) : List Waiter :=
  let has := fun (r : Option Req) => (r.map f).getD false
  let mine := fun (c : Nat) (e : Nat × Hart) =>
    (if has e.2.req then [Waiter.hart c e.1] else []) ++ (if has e.2.storeReq then [Waiter.stored c e.1] else []) ++
      (e.2.slots.filter fun x => has x.2.asked).map fun x => Waiter.copy c e.1 x.1
  (s.cores.flatMap fun e => (if has e.2.ct.rreq then [Waiter.ct e.1] else []) ++
      (if has e.2.ringReq then [Waiter.ring e.1] else []) ++ (if has e.2.saveReq then [Waiter.save e.1] else []) ++ e.2.harts.flatMap (mine e.1)) ++
    (if has s.sched.req then [.hub] else []) ++ (if has s.sched.flushReq then [.flush] else []) ++ (if has s.hostReq then [.host] else []) ++
    (s.remoteQ.filter fun e => has e.asked).map fun e => .peer e.src (lineOf e.pa)

/-- An answer reaches a waiter: with data under a key, or only that it may try again. -/
def State.answered (s : State) (w : Waiter) (got : Option (Nat × Nat)) : State :=
  let s1 := s.setReq w none
  match got with
  | some (k, v) => s1.setHostData w ((s1.hostData w).put k v)
  | none => s1

/-- A hart, or a copy of one. -/
def ofHart (w : Waiter) : Bool :=
  match w with
  | .hart _ _ => true
  | .copy _ _ _ => true
  | _ => false

/-- R385: the owner has supplied a line of this module: it keeps O, or S. A line that was held in E, and that it now owns, it has
written (R381). -/
def State.supplied (s : State) (src line : Nat) (owned : Bool) : State :=
  let x := s.sideOf line
  if x.heldBy src then
    if owned then (if x.state = 3 then s else s.otherWrote src line).setSide line { x with state := 3 }
    else
      let s1 := s.setSide line { x with state := 1, owner := none }
      { s1 with rshr := addOnce s1.rshr (rowStart (linePa line)) }.fixRown (linePa line)
  else s

/-- R237, R385: the owner has given up a line of this module, whose STATE is I: O and M data enter the MSC dirty. From O, copies are
invalidated in every other module, and writes wait for that. DEDUCED, log 59, unsafe. -/
def State.returned (s : State) (src line data : Nat) (poison owned : Bool) (diff : BitVec 16 := 0) : State :=
  let x := s.sideOf line
  if x.heldBy src then
    let s0 := if owned && x.state != 3 then s.otherWrote src line else s
    let s1 := s0.setSide line { x with state := 0, owner := none }
    let s2 := if owned then s1.takeBack line data poison diff else s1
    (if x.state = 3 then s2.sendInvals msgInvalidate line (s2.others.filter (· != src)) else s2).fixRown (linePa line)
  else s

/-- An answer's line is applied: to the home's record of a line of this module (kinds 2 and 3), or as a copy of another
module's line (kinds 0 and 1). -/
def State.applyAnswer (s : State) (src kind line data : Nat) (poison owned : Bool) (diff : BitVec 16 := 0) : State :=
  let s1 := s.mscRoom (src * 2 ^ 34 + line)
  if kind = msgRead then { s1 with rlines := s1.rlines.put (src * 2 ^ 34 + line) ⟨.s, data, poison, diff⟩ }
  else if kind = msgOwn then { s1 with rlines := s1.rlines.put (src * 2 ^ 34 + line) ⟨.e, data, poison, diff⟩ }
  else if kind = msgForward then s.supplied src line owned
  else if kind = msgRecall then s.returned src line data poison owned diff
  else s

/-- What a waiter is given: a forwarded line, or an atomic operation's old value. Data of a line that its holder had
clean, or no longer, are the home's own. -/
def answerGot (src kind line data : Nat) (poison owned : Bool) (diff : BitVec 16 := 0) : Option (Nat × Nat) :=
  if kind = msgForward ∧ owned then some (fwdKey line, fwdLine data poison diff)
  else if kind = msgAmo then some (dkey src line, data % 2 ^ 64)
  else none

/-- What an answer does to one waiter: an atomic operation that met a bad line, and a hart that carried a line which fails
its check (R84), meet its cause. -/
def State.answerOne (s : State) (w : Waiter) (kind : Nat) (cond : Arrival) (got : Option (Nat × Nat)) : State :=
  match cond with
  | .good => s.answered w got
  | .poison _ => if kind = msgAmo then s.failRequest w 0x40 else s.answered w got
  | _ => if kind = msgAmo ∨ ofHart w then s.failRequest w 0x41 else s.answered w got

/-- R385: agents of this module that have waited for a line of it have it before later requests of other modules. -/
def State.comeFirst (s : State) (line : Nat) (ws : List Waiter) : State :=
  let mine := ws.filter fun w => match w with
    | .peer _ _ => false
    | _ => true
  { s with firsts := s.firsts ++ mine.map fun w => (line, w) }

/-- R239, R385: module `src` has invalidated its copies of a line, or of a row; after the last acknowledgement no module holds
one, and RSHR of a row is clear. -/
def State.inval (s : State) (src kind line : Nat) : State :=
  let key := if kind = msgInvalRow then rowMark + line else line
  let s1 := { s with invals := s.invals.filter fun e => e != (key, src) }
  if s.unacked key = [] ∨ s1.unacked key ≠ [] then s1
  else
    let s2 := if kind = msgInvalRow then { s1 with rshr := s1.rshr.filter (· != linePa line) }
      else if (s1.sideOf line).away then
        ((s1.logHub 0x46 (linePa line)).setSide line { s1.sideOf line with state := 0, owner := none }).fixRown (linePa line)
      else s1.dropShared line
    let ws := s2.waiters fun r => r.invals && r.invalKey == key
    ws.foldl (fun t w => t.setReq w none) (s2.comeFirst line ws)

/-- R385: the line of a table that its owner has supplied to a walk. -/
def State.keepWalk (s : State) (line data : Nat) (ws : List Waiter) (owned : Bool) : State :=
  let s1 := if owned && ws != [] then { s with walkData := s.walkData.put line (data % 2 ^ 512) } else s
  ws.foldl (fun t w => t.setReq w none) s1

/-- R237, R385: an answer of module `src` takes effect. -/
def State.takeAnswer (s0 : State) (src kind line data : Nat) (cond : Arrival) (owned : Bool) : State :=
  let walks := s0.waiters fun r => !r.host && kind == msgForward && r.kind == msgWalk && r.module == src &&
    r.addr == linePa line
  let s := s0.keepWalk line data walks owned
  let addr := if kind = msgAmo then amoMark + line else linePa line
  let ws := s.waiters fun r => !r.host && r.module == src && r.addr == addr && r.kind == kind
  let s1 := s.arrivalEvent cond src line (!ws.any ofHart)
  let s2 := s1.applyAnswer src kind line data cond.poisoned owned cond.diff
  let got := answerGot src kind line data cond.poisoned owned cond.diff
  let s3 := if kind = msgForward ∨ kind = msgRecall then s2.comeFirst line ws else s2
  ws.foldl (fun t w => t.answerOne w kind cond got) s3

/-- R113: recalled data for a row that a destructive step is on wait for its end, and mark the granule at once. -/
def State.tooEarly (s : State) (kind line : Nat) (owned : Bool) : Bool :=
  kind == msgRecall && owned && s.rowTested (linePa line)

/-- R113: the returned data whose rows are under a step no more. -/
def State.lateGo (s : State) : State :=
  s.late.foldl (fun t e =>
    if t.tooEarly msgRecall e.line true then { t with late := t.late ++ [e] }
    else t.takeAnswer e.src msgRecall e.line e.data e.cond e.owned) { s with late := [] }

/-- REMOTE_ANSWER (R237, R385): module `src` answers a request of kind `kind` for a line (for an atomic operation `line`
is its address), or acknowledges an invalidation. An answer that comes after the wait has ended is still applied (R386). -/
def State.remoteAnswer (s : State) (src kind line data : Nat) (cond : Arrival) (owned : Bool) : State :=
  (if kind = msgInvalidate ∨ kind = msgInvalRow then s.inval src kind line
    else if s.tooEarly kind line owned then
      { s.touchPage (linePa line) with late := s.late ++ [⟨src, line, data, cond, owned⟩] }
    else s.takeAnswer src kind line data cond owned).serveRemote.hostGo

/-- R385. -/
def execRemoteAnswer (src kind line : Nat) (data : BitVec 512) (cond : Arrival) (owned : Bool) (s : State) : Res :=
  .next (s.remoteAnswer src kind line data.toNat cond owned)

/-- R386: the module that did not answer; of several that have not acknowledged an invalidation, the first asked.
DESIGN CHOICE, log 66, unsafe. -/
def State.silent (s : State) (r : Req) : Nat := if r.invals then (s.unacked r.invalKey).headD r.module else r.module

/-- RECALL_TIMEOUT (R238, R386): no answer has come in 20 µs. The sideband stays as it was.
DESIGN CHOICE, log 66, unsafe. -/
def State.recallTimeout (s : State) (w : Waiter) : State :=
  match s.reqOf w with
  | some r => if r.host then s else (s.setReq w (some { r with module := s.silent r })).failRequest w 0xa1
  | none => s

/-- R386. -/
def execRecallTimeout (w : Waiter) (s : State) : Res := .next (s.recallTimeout w)

/-! ## Host memory (R387, R388) -/

/-- HOST_COMPLETION: a completion with status UR or CA (`ok` false), a poisoned one, or data, of up to 64 bytes. -/
def State.hostCompletion (s : State) (w : Waiter) (ok poisoned : Bool) (data : Nat) : State :=
  match s.reqOf w with
  | none => s
  | some r =>
    if !r.host then s
    else if !ok then s.failRequest w 0xa4
    else if poisoned then s.failRequest w 0x40
    else s.answered w (some (r.addr, data))

/-- R387. -/
def execHostCompletion (w : Waiter) (ok poisoned : Bool) (data : BitVec 512) (s : State) : Res :=
  .next (s.hostCompletion w ok poisoned data.toNat)

/-- HOST_COMPLETION_TIMEOUT (R387): none within 50 µs. -/
def execHostCompletionTimeout (w : Waiter) (s : State) : Res :=
  .next (match s.reqOf w with
    | some r => if r.host then s.failRequest w 0xa4 else s
    | none => s)

end Sys2Proof.Machine
end

