-- ==== Sys2Proof/Machine/Issue.lean ====
section
/-! DEFINITION. Fetching and issuing: split blocks, signatures, breakpoints and the checks of R172 for harts and gangs, the
fetch of a control thread, and the events that end a step of a word in progress (R123, R129 to R137, R172, R225, R228,
R230, R252, R254, R259, R395, R419). -/

namespace Sys2Proof.Machine

/-- What an agent's turn comes to: an instruction to execute, or a state with nothing left to do in the turn. -/
inductive Next
  | run (s : State) (i : Instr)
  | settled (s : State)
deriving DecidableEq, Repr, Inhabited

/-! ## Signatures and breakpoints -/

/-- R132: the signature of a block's words 1 to L. -/
def blockCrc (words : List Nat) : Nat :=
  ((words.drop 1).take (headerLen (words.headD 0))).foldl (fun c w => crcBytes 0x1021 4 c w) 0xffff

/-- R132: what checking the block finds as word `pos` issues: `htval` of `0xC3 SIG_MISMATCH`. -/
def signatureFault (words : List Nat) (pos : Nat) : Option Nat :=
  let h := words.headD 0
  let v := blockCrc words + fld h 0 16 * 2 ^ 16
  if (pos = 1 ∧ !bit h 21) ∨ (pos = headerLen h ∧ blockCrc words ≠ fld h 0 16) then some v else none

/-- R132: signature checking is on for the harts of a core. -/
def State.checking (s : State) (c : Nat) : Bool :=
  (s.core c).flags.getLsbD 6 || !s.bar.ready || s.bar.recovery || s.power.testMode

/-- R419: breakpoint `n` matches word `pos` of the block at `va` on bank `b`. -/
def Ct.breakAt (t : Ct) (b va pos : Nat) (repact : Bool) (repi n : Nat) : Bool :=
  let a := (t.bpa.get n 0).toNat
  let m := (t.bpm.get n 0).toNat
  bit a 63 && fld a 6 42 == va / 64 && (fld a 2 4 == 0 || fld a 2 4 == pos) && bit m b &&
    (!bit a 1 || (bit a 0 == repact && fld m 32 32 == repi))

/-- R419: the lowest matching breakpoint. -/
def Ct.breaks (t : Ct) (b va pos : Nat) (repact : Bool) (repi : Nat) : Option Nat :=
  (List.range 4).find? fun n => t.breakAt b va pos repact repi n

/-- R419: `0xC2 BREAKPOINT` on a hart. DEDUCED, log 60, unsafe. -/
def State.breakHart (s : State) (c b n w : Nat) : State :=
  (s.traceMeet c 1 n).hartFault c b 0xc2 (n * 2 ^ 32 + w) (s.hart c b).egi.toNat

/-! ## The checks of R172, orders 1 to 5 -/

/-- R130: an ender that a broadcast block permits: BFETCH and REPB. -/
def bcastEnder (w : Nat) : Bool := fld w 26 6 == 0x0b && (fld w 0 7 == 0 || fld w 0 7 == 2)

/-- R172: the instruction of word `pos` of a block of length `len`, or its cause. -/
def issueCheck (w pos len : Nat) (bcast : Bool) : Except Nat Instr :=
  match decodeHart w with
  | .illegal => .error 0x01
  | .header => .error 0x0a
  | d =>
    if endsBlock w && (decide (pos < len) || (bcast && !bcastEnder w)) then .error 0x09
    else match d with
      | .ok i => .ok i
      | _ => .error 0x02

/-! ## Split harts (R131, R133, R139) -/

/-- R133: a fetch fails: the hart faults at word 0 of the block. -/
def State.fetchFault (s : State) (c b cause detail : Nat) : State :=
  let h := s.hart c b
  (s.setHart c b { h with hpc := BitVec.ofNat 48 h.blockVa }).hartFault c b cause detail 0

/-- R129, R133: the words of the block that the hart's cache or memory holds become the hart's block. -/
def State.takeBlock (s : State) (c b : Nat) (words : List Nat) (cache : List (Nat × List Nat)) : State × Bool :=
  let h := s.hart c b
  if !headerGood (words.headD 0) then (s.fetchFault c b 0x0b h.blockVa, false)
  else
    let pc := if h.wordIdx = 0 then h.hpc + 4 else h.hpc
    (s.setHart c b { h with blk := words, hpc := pc, cache := cache, req := none }, true)

/-- R133: a split hart fetches its block, unless it holds it already; whether it has it. -/
def State.splitFetch (s : State) (c b : Nat) : State × Bool :=
  let h := s.hart c b
  if h.blk ≠ [] then (s, true)
  else
    let va := h.blockVa
    match s.translateOn c false va .fetch false false with
    | .error (cause, detail) =>
      (if cause = walkWait then s.walkRequest (.hart c b) detail else s.fetchFault c b cause detail, false)
    | .ok l =>
      match Tab.find h.cache va with
      | some words => s.takeBlock c b words h.cache
      | none =>
        match s.readHere (.hart c b) va (linePa (lineOf l.pa)) 64 with
        | .wait s' => (s.keepRequest s' (.hart c b), false)
        | .done s' _ (some x) => (s'.fetchFault c b x.cause (detail48 va .fetch 0 false), false)
        | .done s' v none =>
          let old := (s'.hart c b).cache
          let room := if old.length < Config.blockCacheSize then old else old.drop 1
          s'.takeBlock c b (blockWords v) (room ++ [(va, blockWords v)])

/-- SPLIT_BLOCK_FETCH (R133). -/
def execSplitBlockFetch (core bank : Nat) (s : State) : Res :=
  .next (if (s.hart core bank).st = .split ∧ (s.hart core bank).pend.isNone then (s.splitFetch core bank).1 else s)

/-- The word of a split hart that holds its block comes to issue. -/
def State.splitIssue (s : State) (c b : Nat) : Next :=
  let h := s.hart c b
  let pos := h.wordIdx
  let w := h.blk.getD pos 0
  if h.after = 1 then .settled ((s.setHart c b { h.advance .next with after := 0 }).farFetch c b (h.leaves .next))
  else if h.blockLen < pos then .settled (s.hartFault c b 0x09 (h.blk.headD 0) 0)
  else match (if s.checking c && !h.sigOff then signatureFault h.blk pos else none) with
  | some v => .settled (s.hartFault c b 0xc3 v h.egi.toNat)
  | none =>
    match (if h.bpSkip then none else (s.ct c).breaks b h.blockVa pos h.repact h.repi.toNat) with
    | some n => .settled (s.breakHart c b n w)
    | none => match issueCheck w pos h.blockLen h.bcastKind with
      | .error cause => .settled (s.hartFault c b cause w 0)
      | .ok i => .run s i

/-- A split hart's turn: one that HKILL has named stops (R155); the word in progress goes on, or the next one issues. DEDUCED,
log 3, unsafe. -/
def State.hartNext (s0 : State) (c b : Nat) : Next :=
  let s := s0.stopDying c [b]
  let h := s.hart c b
  if (s.core c).st ≠ .running ∨ h.st ≠ .split then .settled s
  else if h.far.isSome then .settled (s.farAgain c b)
  else if h.pend.isSome then
    match decodeHart (s.wordAt c b) with
    | .ok i => .run s i
    | _ => .settled s
  else match s.splitFetch c b with
    | (s1, true) => s1.splitIssue c b
    | (s1, false) => .settled s1

/-! ## Gangs (R135 to R138) -/

/-- The count of a REPB. -/
def repCount (w : Nat) : Option Nat :=
  match decodeHart w with
  | .ok (.repb o) => some o.n.toNat
  | _ => none

/-- R132: the signature causes and R419's matches on the participants that the word issues to. -/
def State.gangStops (s : State) (c : Nat) (r : Running) (w : Nat) : State :=
  let issuing := r.todo.filter fun b => (s.hart c b).pend.isNone
  match (if s.checking c then signatureFault r.words r.pos else none) with
  | some v => issuing.foldl (fun t b => t.hartFault c b 0xc3 v (t.hart c b).egi.toNat) s
  | none => issuing.foldl (fun t b =>
      match (s.ct c).breaks b r.va r.pos r.repact r.repi.toNat with
      | some n => if (s.hart c b).bpSkip then t else t.breakHart c b n w
      | none => t) s

/-- A gang's word comes to issue, or goes on. -/
def State.gangIssue (s : State) (c g : Nat) (r : Running) : Next :=
  let w := r.words.getD r.pos 0
  let s1 := s.gangStops c r w
  match s1.running c g with
  | none => .settled s1
  | some r1 =>
    if r1.todo = [] then .settled (s1.gangForward c g (repCount w))
    else match issueCheck w r.pos (headerLen (r.words.headD 0)) true with
      | .error cause =>
        .settled ((r1.todo.foldl (fun t b => t.hartFault c b cause w 0) s1).gangForward c g none)
      | .ok i => .run s1 i

/-- A sequencer's turn. -/
def State.gangNext (s0 : State) (c g : Nat) : Next :=
  let s := s0.stopDying c (s0.gang c g).banks
  if (s.core c).st ≠ .running then .settled s
  else match s.running c g with
  | none => .settled (s.blockStart c g)
  | some r =>
    if headerLen (r.words.headD 0) < r.pos then .settled (s.blockRetire c g)
    else if r.todo = [] then .settled (s.gangForward c g (repCount (r.words.getD r.pos 0)))
    else s.gangIssue c g r

/-! ## The control thread (R123, R124) -/

/-- The control thread executes in a running core, and in one whose runtime stores its state (R407).
DEDUCED, log 52, unsafe. -/
def State.ctRuns (s : State) (c : Nat) : Bool :=
  (s.ct c).running && ((s.core c).st == .running || (s.core c).st == .saving)

/-- A control thread's turn. -/
def State.ctNext (s : State) (c : Nat) : Next :=
  if !s.ctRuns c then .settled s
  else match s.ctFetch c (s.ct c).pc.toNat with
  | .wait s1 => .settled s1
  | .trap s1 code detail => .settled (s1.ctCause c code detail)
  | .done s1 raw =>
    let short := raw % 4 != 3
    let s2 := { s1 with actLen := if short then 2 else 4 }
    match (if short then expandC raw else some raw) with
    | none => .settled (s2.ctIllegal c raw)
    | some w => match decodeCt w with
      | some i => .run s2 i
      | none => .settled (s2.ctBase c w raw)

/-! ## The ends of the steps of a word in progress -/

/-- Work of bank `b`'s word that `ok` describes goes on by `f`. -/
def State.workOn (s : State) (c b : Nat) (ok : Pend → Bool) (f : State → Nat → Nat → Pend → HRes) : State :=
  match (s.hart c b).pend with
  | none => s
  | some p =>
    if !ok p then s
    else match (f s c b p).walks s c b with
      | .work s' => s'
      | .wait s' => s'
      | .ok s' _ => s'.setPend c b (some .done)
      | .trap s' cause detail egi => s'.setPend c b (some (.trapped cause detail egi))

/-- LANE_GROUP_CYCLE (R197 to R200). -/
def execLaneGroupCycle (core bank : Nat) (agree : Bool) (s : State) : Res :=
  .next (if (s.hart core bank).young ≠ [] then s.laneCycles core bank agree
    else match (s.hart core bank).pend with
    | some (.lane op) => s.laneCycle core bank op agree
    | _ => s)

/-- The first step that `f` gives for the work of a hart's words in progress, the present word's first: it acts as though the word
were the present one. -/
def State.workStep (s : State) (c b : Nat) (f : Pend → Option (State → State)) : State :=
  match ((s.hart c b).pend.bind f, (List.range (s.hart c b).young.length).findSome? fun k =>
      (((s.hart c b).young[k]?).bind (·.work)).bind fun p => (f p).map fun g => (k, g)) with
  | (some g, _) => g s
  | (none, some (k, g)) => s.withWork c b k g
  | (none, none) => s

/-- ACT_SENSE_COMPLETE (R228). The SAG stays busy until SAG_BUSY_END. -/
def execActSenseComplete (core bank : Nat) (s : State) : Res :=
  .next (s.workStep core bank fun p => match p with
    | .sense k pa adv => some fun t => t.senseDone core bank k pa adv
    | .resense k true => some fun t => t.resenseDone core bank k
    | _ => none)

/-- WB_CAPTURE_COMPLETE (R228). -/
def execWbCaptureComplete (core bank : Nat) (s : State) : Res :=
  .next (s.workStep core bank fun p => match p with
    | .capture k pa close adv => some fun t => t.captureDone core bank k pa close adv
    | _ => none)

/-- ROW_WRITE_COMPLETE (R230). -/
def execRowWriteComplete (core bank : Nat) (s : State) : Res :=
  .next (s.workStep core bank fun p => match p with
    | .rowWrite _ pa bits conds adv => some fun t => t.rowWriteDone core bank pa bits conds adv
    | _ => none)

/-- TWILL_TRANSFER_COMPLETE (R252): the members of the gang receive their rows. -/
def execTwillTransferComplete (core : Nat) (x : TwillEnd) (s : State) : Res :=
  .next ((s.gang core x.gang).banks.foldl (fun t b =>
    t.workOn core b (fun p => match p with | .twill _ _ _ _ => true | _ => false)
      (twillPollWith ((x.bad.filter fun e => e.1 == b).map (·.2)) true)) s)

/-- SERGE_TRANSFER_COMPLETE (R254). -/
def execSergeTransferComplete (core : Nat) (x : SergeEnd) (s : State) : Res :=
  .next ((s.sergeTry x.bad core x.bank).getD s)

/-- GATHER_DATA_ARRIVAL (R259): the data of a group have come, in any order. -/
def execGatherDataArrival (core : Nat) (x : GatherGroup) (s : State) : Res :=
  .next (match decodeHart (s.wordAt core x.bank) with
    | .ok i => match gatherForm i with
      | some f =>
        s.workOn core x.bank (fun p => match p with | .gather _ _ => true | _ => false) (f.gatherPoll (some x.group) true)
      | none => s
    | _ => s)

/-- G of a scatter. -/
def scatterG (w : Nat) : Bool :=
  match decodeHart w with
  | .ok (.sts o) => o.g
  | .ok (.stst o) => o.g
  | _ => false

/-- How a column access in progress goes on. -/
def columnPoll (s : State) (c b : Nat) (p : Pend) : HRes :=
  match p with
  | .column (.ld o) => ldPoll o true s c b p
  | .column (.amoadd o) => amoPoll o 0 true s c b p
  | .column (.amoswap o) => amoPoll o 1 true s c b p
  | .column (.amocas o) => amoPoll o 2 true s c b p
  | .column (.amomin o) => amoPoll o 3 true s c b p
  | .column (.amomax o) => amoPoll o 4 true s c b p
  | .column (.amoand o) => amoPoll o 5 true s c b p
  | .column (.amoor o) => amoPoll o 6 true s c b p
  | .column (.amoxor o) => amoPoll o 7 true s c b p
  | .scatter _ _ => scatterPoll (scatterG (s.wordAt c b)) true s c b p
  | _ => .wait s

/-- COLUMN_ACCESS_COMPLETE (R261, R395, R396): the data or the acknowledgement of an access return. -/
def execColumnAccessComplete (core bank : Nat) (s : State) : Res :=
  .next (s.workOn core bank (fun p => match p with
    | .column _ => true
    | .scatter _ _ => true
    | _ => false) columnPoll)

end Sys2Proof.Machine
end

