-- ==== Sys2Proof/Machine/Dispatch.lean ====
section
/-! DEFINITION. The meaning of every instruction and event: one arm for each constructor. -/

namespace Sys2Proof.Machine

/-- The meaning of an instruction: for a word, as executed by the agent that the state names as acting. -/
def exec (i : Instr) (s : State) : Host.Outcome State Fault Refusal :=
  match i with
  | .add o => Sys2Proof.Machine.execAdd o s
  | .sub o => Sys2Proof.Machine.execSub o s
  | .and o => Sys2Proof.Machine.execAnd o s
  | .or o => Sys2Proof.Machine.execOr o s
  | .xor o => Sys2Proof.Machine.execXor o s
  | .sll o => Sys2Proof.Machine.execSll o s
  | .srl o => Sys2Proof.Machine.execSrl o s
  | .sra o => Sys2Proof.Machine.execSra o s
  | .mul o => Sys2Proof.Machine.execMul o s
  | .mulh o => Sys2Proof.Machine.execMulh o s
  | .mulhu o => Sys2Proof.Machine.execMulhu o s
  | .div o => Sys2Proof.Machine.execDiv o s
  | .divu o => Sys2Proof.Machine.execDivu o s
  | .rem o => Sys2Proof.Machine.execRem o s
  | .remu o => Sys2Proof.Machine.execRemu o s
  | .min o => Sys2Proof.Machine.execMin o s
  | .max o => Sys2Proof.Machine.execMax o s
  | .minu o => Sys2Proof.Machine.execMinu o s
  | .maxu o => Sys2Proof.Machine.execMaxu o s
  | .slt o => Sys2Proof.Machine.execSlt o s
  | .sltu o => Sys2Proof.Machine.execSltu o s
  | .addi o => Sys2Proof.Machine.execAddi o s
  | .andi o => Sys2Proof.Machine.execAndi o s
  | .ori o => Sys2Proof.Machine.execOri o s
  | .xori o => Sys2Proof.Machine.execXori o s
  | .slli o => Sys2Proof.Machine.execSlli o s
  | .srli o => Sys2Proof.Machine.execSrli o s
  | .srai o => Sys2Proof.Machine.execSrai o s
  | .limm o => Sys2Proof.Machine.execLimm o s
  | .lshi o => Sys2Proof.Machine.execLshi o s
  | .beq o => Sys2Proof.Machine.execBeq o s
  | .bne o => Sys2Proof.Machine.execBne o s
  | .blt o => Sys2Proof.Machine.execBlt o s
  | .bge o => Sys2Proof.Machine.execBge o s
  | .bltu o => Sys2Proof.Machine.execBltu o s
  | .bgeu o => Sys2Proof.Machine.execBgeu o s
  | .jal o => Sys2Proof.Machine.execJal o s
  | .jalr o => Sys2Proof.Machine.execJalr o s
  | .bfetch o => Sys2Proof.Machine.execBfetch o s
  | .stop o => Sys2Proof.Machine.execStop o s
  | .repb o => Sys2Proof.Machine.execRepb o s
  | .yield o => Sys2Proof.Machine.execYield o s
  | .pset o => Sys2Proof.Machine.execPset o s
  | .psetB0 a => Sys2Proof.Machine.execPsetB0 a s
  | .pnot => Sys2Proof.Machine.execPnot s
  | .xsend o => Sys2Proof.Machine.execXsend o s
  | .xrecv o => Sys2Proof.Machine.execXrecv o s
  | .xpeek o => Sys2Proof.Machine.execXpeek o s
  | .nop o => Sys2Proof.Machine.execNop o s
  | .hrd o => Sys2Proof.Machine.execHrd o s
  | .hwr o => Sys2Proof.Machine.execHwr o s
  | .evt o => Sys2Proof.Machine.execEvt o s
  | .trapi o => Sys2Proof.Machine.execTrapi o s
  | .brk o => Sys2Proof.Machine.execBrk o s
  | .vcfg o => Sys2Proof.Machine.execVcfg o s
  | .setvl o => Sys2Proof.Machine.execSetvl o s
  | .setrm o => Sys2Proof.Machine.execSetrm o s
  | .mmode o => Sys2Proof.Machine.execMmode o s
  | .mmodeOff o => Sys2Proof.Machine.execMmodeOff o s
  | .mmodeRd o => Sys2Proof.Machine.execMmodeRd o s
  | .vtag o => Sys2Proof.Machine.execVtag o s
  | .vtagRd o => Sys2Proof.Machine.execVtagRd o s
  | .act o => Sys2Proof.Machine.execAct o s
  | .wb o => Sys2Proof.Machine.execWb o s
  | .wbp o => Sys2Proof.Machine.execWbp o s
  | .pre o => Sys2Proof.Machine.execPre o s
  | .ref o => Sys2Proof.Machine.execRef o s
  | .sdef o => Sys2Proof.Machine.execSdef o s
  | .sld o => Sys2Proof.Machine.execSld o s
  | .sst o => Sys2Proof.Machine.execSst o s
  | .spos o => Sys2Proof.Machine.execSpos o s
  | .sposRd o => Sys2Proof.Machine.execSposRd o s
  | .vmov o => Sys2Proof.Machine.execVmov o s
  | .vsplat o => Sys2Proof.Machine.execVsplat o s
  | .vextr o => Sys2Proof.Machine.execVextr o s
  | .vinsr o => Sys2Proof.Machine.execVinsr o s
  | .twrot o => Sys2Proof.Machine.execTwrot o s
  | .twbfly o => Sys2Proof.Machine.execTwbfly o s
  | .twbcast o => Sys2Proof.Machine.execTwbcast o s
  | .twxpose o => Sys2Proof.Machine.execTwxpose o s
  | .shsnd o => Sys2Proof.Machine.execShsnd o s
  | .shrcv o => Sys2Proof.Machine.execShrcv o s
  | .ldg o => Sys2Proof.Machine.execLdg o s
  | .ldgff o => Sys2Proof.Machine.execLdgff o s
  | .sts o => Sys2Proof.Machine.execSts o s
  | .lds o => Sys2Proof.Machine.execLds o s
  | .stst o => Sys2Proof.Machine.execStst o s
  | .xfer o => Sys2Proof.Machine.execXfer o s
  | .xwait o => Sys2Proof.Machine.execXwait o s
  | .vadd o => Sys2Proof.Machine.execVadd o s
  | .vsub o => Sys2Proof.Machine.execVsub o s
  | .vmul o => Sys2Proof.Machine.execVmul o s
  | .vmulh o => Sys2Proof.Machine.execVmulh o s
  | .vdiv o => Sys2Proof.Machine.execVdiv o s
  | .vrem o => Sys2Proof.Machine.execVrem o s
  | .vmin o => Sys2Proof.Machine.execVmin o s
  | .vmax o => Sys2Proof.Machine.execVmax o s
  | .vabsd o => Sys2Proof.Machine.execVabsd o s
  | .vand o => Sys2Proof.Machine.execVand o s
  | .vor o => Sys2Proof.Machine.execVor o s
  | .vxor o => Sys2Proof.Machine.execVxor o s
  | .vsll o => Sys2Proof.Machine.execVsll o s
  | .vsrl o => Sys2Proof.Machine.execVsrl o s
  | .vsra o => Sys2Proof.Machine.execVsra o s
  | .vfma o => Sys2Proof.Machine.execVfma o s
  | .vfms o => Sys2Proof.Machine.execVfms o s
  | .vfnma o => Sys2Proof.Machine.execVfnma o s
  | .vminadd o => Sys2Proof.Machine.execVminadd o s
  | .vneg o => Sys2Proof.Machine.execVneg o s
  | .vabs o => Sys2Proof.Machine.execVabs o s
  | .vnot o => Sys2Proof.Machine.execVnot o s
  | .vclz o => Sys2Proof.Machine.execVclz o s
  | .vpopc o => Sys2Proof.Machine.execVpopc o s
  | .vsqrt o => Sys2Proof.Machine.execVsqrt o s
  | .vrcp o => Sys2Proof.Machine.execVrcp o s
  | .vrsqrt o => Sys2Proof.Machine.execVrsqrt o s
  | .vexp2 o => Sys2Proof.Machine.execVexp2 o s
  | .vlog2 o => Sys2Proof.Machine.execVlog2 o s
  | .vtanh o => Sys2Proof.Machine.execVtanh o s
  | .vcmpEq o => Sys2Proof.Machine.execVcmpEq o s
  | .vcmpNe o => Sys2Proof.Machine.execVcmpNe o s
  | .vcmpLt o => Sys2Proof.Machine.execVcmpLt o s
  | .vcmpLe o => Sys2Proof.Machine.execVcmpLe o s
  | .vcmpGt o => Sys2Proof.Machine.execVcmpGt o s
  | .vcmpGe o => Sys2Proof.Machine.execVcmpGe o s
  | .vcmpUnord o => Sys2Proof.Machine.execVcmpUnord o s
  | .vadc o => Sys2Proof.Machine.execVadc o s
  | .vsbc o => Sys2Proof.Machine.execVsbc o s
  | .vaddm o => Sys2Proof.Machine.execVaddm o s
  | .vcvt o => Sys2Proof.Machine.execVcvt o s
  | .vcvtmxImp o => Sys2Proof.Machine.execVcvtmxImp o s
  | .vcvtmxExp o => Sys2Proof.Machine.execVcvtmxExp o s
  | .vquant o => Sys2Proof.Machine.execVquant o s
  | .vsel o => Sys2Proof.Machine.execVsel o s
  | .vslup o => Sys2Proof.Machine.execVslup o s
  | .vsldn o => Sys2Proof.Machine.execVsldn o s
  | .vgathr o => Sys2Proof.Machine.execVgathr o s
  | .vcmprs o => Sys2Proof.Machine.execVcmprs o s
  | .vexpnd o => Sys2Proof.Machine.execVexpnd o s
  | .vrev o => Sys2Proof.Machine.execVrev o s
  | .vredSum o => Sys2Proof.Machine.execVredSum o s
  | .vredMax o => Sys2Proof.Machine.execVredMax o s
  | .vredMin o => Sys2Proof.Machine.execVredMin o s
  | .vredAnd o => Sys2Proof.Machine.execVredAnd o s
  | .vredOr o => Sys2Proof.Machine.execVredOr o s
  | .vredXor o => Sys2Proof.Machine.execVredXor o s
  | .vredSexp o => Sys2Proof.Machine.execVredSexp o s
  | .vhist o => Sys2Proof.Machine.execVhist o s
  | .vhmerge o => Sys2Proof.Machine.execVhmerge o s
  | .vfirst o => Sys2Proof.Machine.execVfirst o s
  | .viota o => Sys2Proof.Machine.execViota o s
  | .mand o => Sys2Proof.Machine.execMand o s
  | .mor o => Sys2Proof.Machine.execMor o s
  | .mxor o => Sys2Proof.Machine.execMxor o s
  | .mandn o => Sys2Proof.Machine.execMandn o s
  | .mnot o => Sys2Proof.Machine.execMnot o s
  | .mpopc o => Sys2Proof.Machine.execMpopc o s
  | .mshl o => Sys2Proof.Machine.execMshl o s
  | .mshr o => Sys2Proof.Machine.execMshr o s
  | .mset o => Sys2Proof.Machine.execMset o s
  | .mclr o => Sys2Proof.Machine.execMclr o s
  | .mfromv o => Sys2Proof.Machine.execMfromv o s
  | .mtov o => Sys2Proof.Machine.execMtov o s
  | .mop o => Sys2Proof.Machine.execMop o s
  | .mops o => Sys2Proof.Machine.execMops o s
  | .mzero o => Sys2Proof.Machine.execMzero o s
  | .mdrain o => Sys2Proof.Machine.execMdrain o s
  | .mdrainW o => Sys2Proof.Machine.execMdrainW o s
  | .mldacc o => Sys2Proof.Machine.execMldacc o s
  | .mldaccW o => Sys2Proof.Machine.execMldaccW o s
  | .mtile o => Sys2Proof.Machine.execMtile o s
  | .mtileRel o => Sys2Proof.Machine.execMtileRel o s
  | .tdot o => Sys2Proof.Machine.execTdot o s
  | .tdotm o => Sys2Proof.Machine.execTdotm o s
  | .tstk o => Sys2Proof.Machine.execTstk o s
  | .red o => Sys2Proof.Machine.execRed o s
  | .barrive o => Sys2Proof.Machine.execBarrive o s
  | .barwait o => Sys2Proof.Machine.execBarwait o s
  | .semwait o => Sys2Proof.Machine.execSemwait o s
  | .sempost o => Sys2Proof.Machine.execSempost o s
  | .fence o => Sys2Proof.Machine.execFence o s
  | .ld o => Sys2Proof.Machine.execLd o s
  | .st o => Sys2Proof.Machine.execSt o s
  | .amoadd o => Sys2Proof.Machine.execAmoadd o s
  | .amoswap o => Sys2Proof.Machine.execAmoswap o s
  | .amocas o => Sys2Proof.Machine.execAmocas o s
  | .amomin o => Sys2Proof.Machine.execAmomin o s
  | .amomax o => Sys2Proof.Machine.execAmomax o s
  | .amoand o => Sys2Proof.Machine.execAmoand o s
  | .amoor o => Sys2Proof.Machine.execAmoor o s
  | .amoxor o => Sys2Proof.Machine.execAmoxor o s
  | .gdef o => Sys2Proof.Machine.execGdef o s
  | .bcast o => Sys2Proof.Machine.execBcast o s
  | .bcastn o => Sys2Proof.Machine.execBcastn o s
  | .gwait o => Sys2Proof.Machine.execGwait o s
  | .gset o => Sys2Proof.Machine.execGset o s
  | .hget o => Sys2Proof.Machine.execHget o s
  | .hstat o => Sys2Proof.Machine.execHstat o s
  | .hresume o => Sys2Proof.Machine.execHresume o s
  | .hkill o => Sys2Proof.Machine.execHkill o s
  | .evwait o => Sys2Proof.Machine.execEvwait o s
  | .evpoll o => Sys2Proof.Machine.execEvpoll o s
  | .launch o => Sys2Proof.Machine.execLaunch o s
  | .capq o => Sys2Proof.Machine.execCapq o s
  | .capack o => Sys2Proof.Machine.execCapack o s
  | .taskend => Sys2Proof.Machine.execTaskend s
  | .ctbarArrive o => Sys2Proof.Machine.execCtbarArrive o s
  | .ctbarWait o => Sys2Proof.Machine.execCtbarWait o s
  | .ctbarSemwait o => Sys2Proof.Machine.execCtbarSemwait o s
  | .ctbarSempost o => Sys2Proof.Machine.execCtbarSempost o s
  | .ctbarSet o => Sys2Proof.Machine.execCtbarSet o s
  | .ctLoad o => Sys2Proof.Machine.execCtLoad o s
  | .ctStore o => Sys2Proof.Machine.execCtStore o s
  | .ctAmo o => Sys2Proof.Machine.execCtAmo o s
  | .ctLr o => Sys2Proof.Machine.execCtLr o s
  | .ctSc o => Sys2Proof.Machine.execCtSc o s
  | .ctFence o => Sys2Proof.Machine.execCtFence o s
  | .ctFenceI => Sys2Proof.Machine.execCtFenceI s
  | .ctEcall => Sys2Proof.Machine.execCtEcall s
  | .ctEbreak => Sys2Proof.Machine.execCtEbreak s
  | .ctWfi => Sys2Proof.Machine.execCtWfi s
  | .ctCsrAccess o => Sys2Proof.Machine.execCtCsrAccess o s
  | .ctMret => Sys2Proof.Machine.execCtMret s
  | .machineExternalInterrupt core => Sys2Proof.Machine.execMachineExternalInterrupt core s
  | .latchOwnedTrap core bank => Sys2Proof.Machine.execLatchOwnedTrap core bank s
  | .unload core => Sys2Proof.Machine.execUnload core s
  | .load core => Sys2Proof.Machine.execLoad core s
  | .banksave core => Sys2Proof.Machine.execBanksave core s
  | .bankrestore core => Sys2Proof.Machine.execBankrestore core s
  | .hmsaveOpComplete core => Sys2Proof.Machine.execHmsaveOpComplete core s
  | .logAppend core v => Sys2Proof.Machine.execLogAppend core v s
  | .quiesce core => Sys2Proof.Machine.execQuiesce core s
  | .retain core => Sys2Proof.Machine.execRetain core s
  | .gate core => Sys2Proof.Machine.execGate core s
  | .release core => Sys2Proof.Machine.execRelease core s
  | .wake core => Sys2Proof.Machine.execWake core s
  | .clusterCmdComplete cluster selfTestOk => Sys2Proof.Machine.execClusterCmdComplete cluster selfTestOk s
  | .registerWrite fn off v => Sys2Proof.Machine.execRegisterWrite fn off v s
  | .sqDoorbell fn q v => Sys2Proof.Machine.execSqDoorbell fn q v s
  | .sqcfgWrite fn q v => Sys2Proof.Machine.execSqcfgWrite fn q v s
  | .cqcfgWrite fn q v => Sys2Proof.Machine.execCqcfgWrite fn q v s
  | .cqheadWrite fn q v => Sys2Proof.Machine.execCqheadWrite fn q v s
  | .heldRecordWrite q => Sys2Proof.Machine.execHeldRecordWrite q s
  | .protectedWrite unit whole => Sys2Proof.Machine.execProtectedWrite unit whole s
  | .hostWindowWrite off data => Sys2Proof.Machine.execHostWindowWrite off data s
  | .hostWindowRead off len => Sys2Proof.Machine.execHostWindowRead off len s
  | .hostAtomicop off size op x y => Sys2Proof.Machine.execHostAtomicop off size op x y s
  | .acceptRecord => Sys2Proof.Machine.execAcceptRecord s
  | .launchPacketReceive origin packet => Sys2Proof.Machine.execLaunchPacketReceive origin packet s
  | .spanArrival gen member => Sys2Proof.Machine.execSpanArrival gen member s
  | .startReceive origin gen => Sys2Proof.Machine.execStartReceive origin gen s
  | .spanRefusalReport gen member code => Sys2Proof.Machine.execSpanRefusalReport gen member code s
  | .spanLinkLoss origin gen peer => Sys2Proof.Machine.execSpanLinkLoss origin gen peer s
  | .waitConditionsMet num => Sys2Proof.Machine.execWaitConditionsMet num s
  | .rangeFlushStart => Sys2Proof.Machine.execRangeFlushStart s
  | .rangeFlushComplete => Sys2Proof.Machine.execRangeFlushComplete s
  | .schedulerDecision => Sys2Proof.Machine.execSchedulerDecision s
  | .ageLimitExpiry num => Sys2Proof.Machine.execAgeLimitExpiry num s
  | .latestStartExpiry num => Sys2Proof.Machine.execLatestStartExpiry num s
  | .taskFaultEnd num core code => Sys2Proof.Machine.execTaskFaultEnd num core code s
  | .watchdogExpiry num => Sys2Proof.Machine.execWatchdogExpiry num s
  | .periodBoundary => Sys2Proof.Machine.execPeriodBoundary s
  | .owedIncrement core bank k => Sys2Proof.Machine.execOwedIncrement core bank k s
  | .hwRefreshRow core bank k => Sys2Proof.Machine.execHwRefreshRow core bank k s
  | .forcedRefreshRow core bank k => Sys2Proof.Machine.execForcedRefreshRow core bank k s
  | .scrubRow core bank k row stuck => Sys2Proof.Machine.execScrubRow core bank k row stuck s
  | .scoreDecay => Sys2Proof.Machine.execScoreDecay s
  | .coreLeaseStart core kind => Sys2Proof.Machine.execCoreLeaseStart core kind s
  | .leaseEfftime core => Sys2Proof.Machine.execLeaseEfftime core s
  | .leaseEnd core passed => Sys2Proof.Machine.execLeaseEnd core passed s
  | .fenStepStart x => Sys2Proof.Machine.execFenStepStart x s
  | .fenStepEnd u passed stuck => Sys2Proof.Machine.execFenStepEnd u passed stuck s
  | .remapCopyComplete layer => Sys2Proof.Machine.execRemapCopyComplete layer s
  | .shrinkComplete layer => Sys2Proof.Machine.execShrinkComplete layer s
  | .eventRecordEnter core => Sys2Proof.Machine.execEventRecordEnter core s
  | .governorCheck watts => Sys2Proof.Machine.execGovernorCheck watts s
  | .powerTripStart => Sys2Proof.Machine.execPowerTripStart s
  | .powerTripEnd => Sys2Proof.Machine.execPowerTripEnd s
  | .sensorRead readings => Sys2Proof.Machine.execSensorRead readings s
  | .coldReset => Sys2Proof.Machine.execColdReset s
  | .warmReset => Sys2Proof.Machine.execWarmReset s
  | .laneGroupCycle core bank agree => Sys2Proof.Machine.execLaneGroupCycle core bank agree s
  | .actSenseComplete core bank => Sys2Proof.Machine.execActSenseComplete core bank s
  | .wbCaptureComplete core bank => Sys2Proof.Machine.execWbCaptureComplete core bank s
  | .rowWriteComplete core bank => Sys2Proof.Machine.execRowWriteComplete core bank s
  | .sagBusyEnd core bank k => Sys2Proof.Machine.execSagBusyEnd core bank k s
  | .blockStart core gang => Sys2Proof.Machine.execBlockStart core gang s
  | .blockRetire core gang => Sys2Proof.Machine.execBlockRetire core gang s
  | .splitBlockFetch core bank => Sys2Proof.Machine.execSplitBlockFetch core bank s
  | .engineTakeUp core => Sys2Proof.Machine.execEngineTakeUp core s
  | .engineOpComplete core agree again => Sys2Proof.Machine.execEngineOpComplete core agree again s
  | .sergeTransferComplete core x => Sys2Proof.Machine.execSergeTransferComplete core x s
  | .gatherDataArrival core x => Sys2Proof.Machine.execGatherDataArrival core x s
  | .semGrant hub core ctr => Sys2Proof.Machine.execSemGrant hub core ctr s
  | .counterWaitMet hub core ctr => Sys2Proof.Machine.execCounterWaitMet hub core ctr s
  | .xferComplete core bank slot => Sys2Proof.Machine.execXferComplete core bank slot s
  | .remoteReadRequest src line => Sys2Proof.Machine.execRemoteReadRequest src line s
  | .remoteOwnershipRequest src line => Sys2Proof.Machine.execRemoteOwnershipRequest src line s
  | .remoteWriteBack src line data cond modified => Sys2Proof.Machine.execRemoteWriteBack src line data cond modified s
  | .recallRequest home line what => Sys2Proof.Machine.execRecallRequest home line what s
  | .remoteAnswer src kind line data cond owned => Sys2Proof.Machine.execRemoteAnswer src kind line data cond owned s
  | .recallTimeout w => Sys2Proof.Machine.execRecallTimeout w s
  | .hostCompletion w ok poisoned data => Sys2Proof.Machine.execHostCompletion w ok poisoned data s
  | .hostCompletionTimeout w => Sys2Proof.Machine.execHostCompletionTimeout w s
  | .dcacheEviction core word => Sys2Proof.Machine.execDcacheEviction core word s
  | .status => Sys2Proof.Machine.execStatus s
  | .readLog => Sys2Proof.Machine.execReadLog s
  | .readRetire => Sys2Proof.Machine.execReadRetire s
  | .setPlimit watts => Sys2Proof.Machine.execSetPlimit watts s
  | .setMode on => Sys2Proof.Machine.execSetMode on s
  | .armRetention on => Sys2Proof.Machine.execArmRetention on s
  | .attest nonce => Sys2Proof.Machine.execAttest nonce s
  | .debugCmd tokenOk core op arg => Sys2Proof.Machine.execDebugCmd tokenOk core op arg s
  | .fwUpdate version sigOk hash => Sys2Proof.Machine.execFwUpdate version sigOk hash s
  | .twillTransferComplete core x => Sys2Proof.Machine.execTwillTransferComplete core x s
  | .redCombineComplete core chan scope => Sys2Proof.Machine.execRedCombineComplete core chan scope s
  | .columnAccessComplete core bank => Sys2Proof.Machine.execColumnAccessComplete core bank s
  | .mscEviction line => Sys2Proof.Machine.execMscEviction line s
  | .remoteAmoRequest src addr op w32 x y => Sys2Proof.Machine.execRemoteAmoRequest src addr op w32 x y s
  | .remoteForwardRequest home line => Sys2Proof.Machine.execRemoteForwardRequest home line s

end Sys2Proof.Machine
end

