-- ==== Sys2Proof/Machine/Ahead.lean ====
section
/-! DEFINITION. Words behind the one a hart has in progress: the lane operations that issue while it stalls, group by group as
their sources arrive (R183, R193 to R195, R463). A word issues by its own meaning, from the state as it would be were it the
present one. DEDUCED, log 3, unsafe. -/

namespace Sys2Proof.Machine

/-! ## A word tried behind the present one -/

/-- R194: every register as though its groups had arrived and no line of it were bad. -/
def Bank.arrived (x : Bank) : Bank :=
  { x with regs := x.regs.mapVals fun _ v => { v with arrival := 0xffffffff, conds := [] } }

/-- The hart at word `pos` of a block, with nothing in progress, from group `g` on; `drawn` are the draws of the groups before
(R289). -/
def Hart.atWord (h : Hart) (words : List Nat) (va pos g : Nat) (drawn : List (Nat × Nat)) : Hart :=
  { h with
    st := .split, blk := words, hpc := BitVec.ofNat 48 (va + 4 * pos), pend := none, young := [], egi := BitVec.ofNat 5 g
    drawn := drawn, req := none, hostGot := [], note := {}, after := 0 }

/-- What word `pos` of a block does by its own meaning were it the present one, in a bank that `f` gives. -/
def State.tryWord (s : State) (c b : Nat) (words : List Nat) (va pos g : Nat) (drawn : List (Nat × Nat)) (f : Bank → Bank) :
    Option State :=
  match decodeHart (words.getD pos 0) with
  | .ok i =>
    let s1 := s.setBank c b (f (s.bank c b))
    let s2 := s1.setHart c b ((s1.hart c b).atWord words va pos g drawn)
    match exec i { s2 with actCore := c, actBank := b, actGang := none, stepwise := true } with
    | .next t => some t
    | _ => none
  | _ => none

/-- The lane operation that word `pos` of a block is, with its note, whatever its sources hold: it does nothing but write a register
or a mask group by group, add its flags and leave the generator's state. -/
def State.shape (s : State) (c b : Nat) (words : List Nat) (va pos : Nat) : Option (LaneOp × Note) :=
  let s1 := s.setHart c b { s.hart c b with rmode := (s.hart c b).rmode &&& ~~~(16 : BitVec 6) }
  match s1.tryWord c b words va pos 0 [] Bank.arrived with
  | some t => match (t.hart c b).pend with
    | some (.lane op) =>
      if op.word = words.getD pos 0 ∧ op.fin = { seed := op.fin.seed, fl := op.fin.fl } then some (op, (t.hart c b).note)
      else none
    | _ => none
  | none => none

/-- What an operation computes from a group on, all its sources read as arrived and good: groups and what it does at its end, or
the cause it ends by at that group. -/
inductive Computed
  | groups (gs : List Grp) (fin : AtEnd)
  | ends (cause detail : Nat)
  | none

def State.compute (s : State) (c b : Nat) (words : List Nat) (va pos g : Nat) (drawn : List (Nat × Nat)) : Computed :=
  match s.tryWord c b words va pos g drawn Bank.arrived with
  | some t => match (t.hart c b).pend with
    | some (.lane op) => .groups op.todo op.fin
    | some (.trapped cause detail _) => .ends cause detail
    | _ => .none
  | none => .none

/-! ## The words in flight -/

/-- The words a hart runs: those of its block, its VA and the place of the present word. -/
def State.stream (s : State) (c b : Nat) : List Nat × Nat × Nat :=
  let h := s.hart c b
  match h.st, (s.core c).gangOf b with
  | .member, some g => match (s.gang c g).run with
    | some r => (r.words, r.va, r.pos)
    | none => ([], 0, 0)
  | _, _ => (h.blk, h.blockVa, h.wordIdx)

/-- A word that may name number `r` in a register field of its format (R164, R266, R336). -/
def names (w r : Nat) : Bool :=
  if fld w 26 6 = 0x28 then fld w 20 4 == r || fld w 16 4 == r || fld w 12 4 == r
  else if fld w 26 6 = 0x29 then
    fld w 22 3 + 8 == r || fld w 18 3 + 8 == r || fld w 18 3 == r || fld w 14 4 == r || (fld w 0 7 == 1 && decide (r < 8))
  else fld w 22 4 == r || fld w 18 4 == r || fld w 14 4 == r

/-- A word that may read or write mask `m`. -/
def namesMask (w m : Nat) : Bool :=
  decide (0x10 ≤ fld w 26 6) && (fld w 11 3 == m || fld w 22 3 == m || fld w 18 3 == m || fld w 14 3 == m)

/-- R182: a word of the L slot. -/
def slotL (w : Nat) : Bool :=
  let m := fld w 26 6
  m == 0x13 || m == 0x28 || (decide (0x18 ≤ m) && decide (m ≤ 0x21))

/-- R355: a drain. -/
def isDrain (w : Nat) : Bool :=
  match decodeHart w with
  | .ok (.mdrain _) => true
  | .ok (.mdrainW _) => true
  | _ => false

/-- The present word may have words behind it in progress: its work is under way, and it writes no register but by groups and
`rd` of a scalar word, which the answer names; it does not end by a trap. -/
def Pend.behind : Pend → Option (List Nat)
  | .lane op => if op.fin.vl = none ∧ op.fin.trap = none then some (op.fin.gd.toList.map (·.1)) else none
  | .gather _ op => if op.fin.vl = none ∧ op.fin.trap = none then some [] else none
  | .column i => some [fld i.word 22 4]
  | .counter i => some [fld i.word 22 4]
  | .sense _ _ _ => some []
  | .capture _ _ _ _ => some []
  | .rowWrite _ _ _ _ _ => some []
  | .refresh _ _ => some []
  | .twill _ _ _ _ => some []
  | .send _ _ _ _ => some []
  | .recv _ _ _ _ => some []
  | .engine => some []
  | _ => none

/-- R191: no word in flight has still to read register `d`. An operation's groups are read as they are computed, and a word that the
engine has taken up counts until it retires (R351). -/
def State.readDone (s : State) (c b d w0 : Nat) (done : LaneOp → Bool) : Bool :=
  let h := s.hart c b
  let ok := fun (op : LaneOp) => done op || !(op.same ++ op.whole).contains d
  let present := match h.pend with
    | some (.lane op) => ok op
    | some _ => !names w0 d && d != 15
    | none => true
  present && h.young.all fun y => y.op.all ok

/-- R195: a writer of register `d` may issue, which commits its groups after those that earlier words have read. -/
def State.freeToWrite (s : State) (c b d w0 : Nat) : Bool := s.canWrite c b d && s.readDone c b d w0 fun op => op.left == []

/-- R190: latch `k` may be sensed or closed: every earlier reader of it has finished. -/
def State.freeToOpen (s : State) (c b k w0 : Nat) : Bool := s.canWrite c b k && s.readDone c b k w0 LaneOp.ended

/-- The scalar registers that the passed words among `ws` write. -/
def passedRegs (ys : List Young) (ws : List Nat) : List Nat :=
  (ys.zip ws).foldl (fun l e => if e.1.op.isNone && e.1.work.isNone then passedBy e.2 l else l) []

/-- R296: the tag of a register that word `w` names is written by an operation in flight: a TSTK. -/
def tagPending (ops : List LaneOp) (w : Nat) : Bool :=
  ops.any fun op => match decodeHart op.word with
    | .ok (.tstk _) => op.d.any (names w)
    | _ => false

/-- R296: the masks that an operation names or writes are not still to be written, nor those it writes to be read, by a word in
flight. -/
def masksFree (ops : List LaneOp) (ws : List Nat) (op : LaneOp) : Bool :=
  (ops.all fun o => o.m.all fun m => !namesMask op.word m) && op.m.all fun m => !ws.any fun w => namesMask w m

/-- R296: an operation that draws waits for the words in flight that leave `seed` another state. -/
def seedFree (ops : List LaneOp) (drains : Bool) (op : LaneOp) (sr : Bool) : Bool :=
  !sr || (op.fin.seed.isNone && op.todo.all fun g => g.seeds == []) || (!drains && ops.all fun o => o.fin.seed.isNone)

/-- R267: the latch that a WBP in progress is to close reads as its word will leave it only once it has. -/
def Pend.closing : Option Pend → Option Nat
  | some (.capture k _ true _) => some k
  | _ => none

/-! ## Groups as they arrive -/

/-- The draws that the operation at place `k` has made. -/
def State.drawnBy (s : State) (c b k : Nat) (op : LaneOp) : List (Nat × Nat) :=
  (if k = 0 then (s.hart c b).drawn else op.drawn) ++ (op.buf ++ op.todo).flatMap (·.seeds)

/-- R194: the sources read group by group have group `g`; the operation's own destinations are read before they are written. -/
def State.groupHere (s : State) (c b : Nat) (op : LaneOp) (g : Nat) : Bool :=
  op.same.all fun r => op.dests.contains r || ((s.reg c b r).latch != .opening && (s.reg c b r).arrival.getLsbD g)

/-- R194: the sources read group by group are whole and good, so that what is left of the operation can be computed at once. -/
def State.allHere (s : State) (c b : Nat) (op : LaneOp) : Bool :=
  op.same.all fun r => (op.dests.contains r || s.canRead c b r) && (s.reg c b r).conds == []

def LaneOp.endsBy (op : LaneOp) (cause detail g : Nat) : LaneOp :=
  { op with left := [], fin := { op.fin with trap := some (cause, BitVec.ofNat 64 detail, g) } }

/-- R204: the present word's operation gives way to the replay of a latch: it issues again from its lowest uncommitted group. -/
def State.giveWay (s : State) (c b : Nat) (op : LaneOp) : State :=
  let s1 := s.endDests c b op
  s1.setHart c b { s1.hart c b with egi := BitVec.ofNat 5 op.squash.next }

/-- R194, R205: an operation in flight computes the groups of a list, in order, up to the first that has still to arrive or that ends
it: on a NaN, or on a bad line. A line that may be sensed again is left to the operation once it is the present word. -/
def State.feedFrom (c b k : Nat) (words : List Nat) (va pos : Nat) : List Nat → LaneOp → State → State
  | [], op, s => s.putLane c b k { op with left := [] }
  | g :: gs, op, s =>
    let wait := s.putLane c b k { op with left := g :: gs }
    if !s.groupHere c b op g then wait
    else match s.consumeAt c b op.same g with
      | some (r, line, x) => match s.consumed c b op.word r line g 0 x false with
        | .inl t => if k = 0 then t.giveWay c b op else wait
        | .inr (t, cause, detail) => t.putLane c b k (op.endsBy cause detail g)
      | none => match s.compute c b words va pos g (s.drawnBy c b k op) with
        | .ends cause detail => s.putLane c b k (op.endsBy cause detail g)
        | .none => wait
        | .groups l fin =>
          let found := if s.allHere c b op then some (l.filter fun x => (g :: gs).contains x.g, ([] : List Nat))
            else (l.find? fun x => x.g == g).map fun x => ([x], gs)
          match found with
          | none => wait
          | some (l, rest) =>
            let op1 := { op with todo := op.todo ++ l, left := rest, fin := if rest = [] && op.fin.trap.isNone then fin else op.fin }
            if rest = [] then s.putLane c b k op1 else State.feedFrom c b k words va pos gs op1 s

/-- R194: the operation at a place computes the groups whose sources have arrived since. -/
def State.feed (s : State) (c b k : Nat) : State :=
  let (words, va, pos) := s.stream c b
  match (s.hart c b).laneAt k with
  | some op => if op.left = [] then s else State.feedFrom c b k words va (pos + k) op.left op s
  | none => s

/-! ## Issue behind -/

/-- A word joins those in flight. -/
def State.join (s : State) (c b : Nat) (y : Young) : State :=
  s.setHart c b { s.hart c b with young := (s.hart c b).young ++ [y] }

/-- R183, R193, R194, R195, R296, R356: the lane operation of word `k` issues behind those in flight. -/
def State.laneBehind (s : State) (c b : Nat) (words : List Nat) (va pos k : Nat) : Option State :=
  let h := s.hart c b
  let ws := (words.drop pos).take (k - pos)
  let w := words.getD k 0
  let ops := h.lanes.map (·.2)
  let drains := h.pend.isSome && isDrain (ws.headD 0)
  let rm := rmOf h.rmode
  match s.shape c b words va k with
  | some (op, n) =>
    if op.whole.all (fun r => s.canRead c b r && (s.reg c b r).conds == []) &&
        op.dests.all (fun d => s.freeToWrite c b d (ws.headD 0)) && masksFree ops ws op && !tagPending ops w &&
        seedFree ops (drains && !rm.seedRpt) op (rm.rm == 5) && (Pend.closing h.pend).all (fun r => !names w r) &&
        !(drains && slotL w && decide (2 ≤ (ws.tail.filter slotL).length)) then
      let s1 := op.dests.foldl (fun (t : State) r => t.beginWrite c b r 0) s
      let op1 := { op with todo := [], left := List.range 32 }
      some ((s1.join c b { op := some op1, note := n }).feed c b (h.young.length + 1))
    else none
  | none => none

/-- The state in which the hart and the agent that acts are as in `s`, but for a word that joins those in flight with its work. -/
def State.joinWork (s t : State) (c b : Nat) (p : Pend) (n : Note) : State :=
  ({ (t.setHart c b (s.hart c b)) with
      actCore := s.actCore, actBank := s.actBank, actGang := s.actGang, stepwise := s.stepwise }).join c b
    { work := some p, note := n }

/-- R372: no access of the hart's words in flight is still to be performed. -/
def State.accessesDone (s : State) (c b : Nat) (ws : List Nat) : Bool :=
  (s.hart c b).stores == [] && (ws.all fun w => !(decide (0x30 ≤ fld w 26 6) || fld w 26 6 == 0x16))

/-- R183, R190: an ACT, PRE or one-row REF of one bank issues behind the words in flight, and is complete when its work is. -/
def State.workBehind (s : State) (c b : Nat) (words : List Nat) (va pos k : Nat) : Option State :=
  let ws := (words.drop pos).take (k - pos)
  let w0 := ws.headD 0
  match decodeHart (words.getD k 0) with
  | .ok (.act o) =>
    if !s.freeToOpen c b o.k.toNat w0 || !s.accessesDone c b ws then none
    else match s.tryWord c b words va k 0 [] id with
      | some t => match (t.hart c b).pend with
        | some (.sense r pa none) => some (s.joinWork t c b (.sense r pa none) (t.hart c b).note)
        | _ => none
      | none => none
  | .ok (.pre o) =>
    if s.freeToOpen c b o.k.toNat w0 then some ((s.closeLatch c b o.k.toNat).join c b { work := some .done }) else none
  | .ok (.ref o) =>
    if o.n ≠ 0 then none
    else match s.tryWord c b words va k 0 [] id with
      | some t => match (t.hart c b).pend with
        | some .done => some ((s.joinWork t c b .done (t.hart c b).note).setSagBusy c b o.k.toNat s.stepwise)
        | _ => none
      | none => none
  | _ => none

/-- R183: an LD, ST or atomic operation that issues without a cause; it acts in its turn, as its effect is to (R196). -/
def State.accessBehind (s : State) (c b : Nat) (words : List Nat) (va k : Nat) : Bool :=
  let m := fld (words.getD k 0) 26 6
  (m == 0x31 || m == 0x32 || m == 0x33) &&
    (s.tryWord c b words va k 0 [] id).any fun t => (t.hart c b).st != .faulted

/-- R183: the word that comes next behind those in flight issues on one hart. The bank is the running context's already (R408); a word
that is refused waits for those before it to retire (R462). -/
def State.behind (s : State) (c b : Nat) : Option State :=
  let h := s.hart c b
  let (words, va, pos) := s.stream c b
  let k := pos + 1 + h.young.length
  let w := words.getD k 0
  let broken := (s.ct c).bpa.any fun x => bit x.2.toNat 63 && fld x.2.toNat 6 42 == va / 64
  if broken || h.dying || (s.bank c b).owner != (s.core c).ctx.toNat || headerLen (words.headD 0) < k ||
      (s.checking c && headerLen (words.headD 0) == k) then none
  else match issueCheck w k (headerLen (words.headD 0)) (h.st == .member || h.bcastKind) with
  | .error _ => none
  | .ok _ =>
    let present := match h.pend with
      | some p => p.behind
      | none => some []
    match present with
    | none => none
    | some regs =>
      let hidden := regs ++ passedRegs h.young (words.drop (pos + 1))
      if passesBy w || (bit w 7 && !h.hp && decide (0x13 ≤ fld w 26 6) && decide (fld w 26 6 ≤ 0x21)) then
        some (s.join c b {})
      else if hidden.any (names w) || h.young.any fun y => y.op.any fun op => op.fin.trap.isSome then none
      else if s.accessBehind c b words va k then some (s.join c b {})
      else if bit w 10 then none
      else match s.workBehind c b words va pos k with
        | some t => some t
        | none => s.laneBehind c b words va pos k

/-! ## What a turn does for the words in flight -/

/-- R463: an operation that was kept issues again, once those before it have. -/
def State.reissue (s : State) (c b k : Nat) : State :=
  let h := s.hart c b
  let before := (h.young.take k).all fun y => y.live || y.op.isNone
  match h.young[k]? with
  | some y => match y.op with
    | some op =>
      if !y.live && before && op.fin.trap.isNone && op.dests.all (fun d => s.canWrite c b d) then
        (s.reopen c b op).setYoung c b k (fun x => x) true
      else s
    | none => s
  | none => s

/-- R463, R194: every operation in flight. -/
def State.feedAll (s : State) (c b : Nat) : State :=
  let n := (s.hart c b).young.length
  let s1 := (List.range n).foldl (fun t k => t.reissue c b k) s
  (List.range (n + 1)).foldl (fun t k => t.feed c b k) s1

/-- R135, R183: the next word issues behind those in flight, on every hart of the stream at once. -/
def State.issueBehind (s : State) (c : Nat) (bs : List Nat) : Option State :=
  let n := (s.hart c (bs.headD 0)).young.length
  if bs = [] || !(bs.all fun b => (s.hart c b).young.length == n && (s.hart c b).young.all fun y => y.live) then none
  else bs.foldlM (fun (t : State) b => t.behind c b) s

/-- Words issue behind those in flight, as many as may. -/
def State.issueAhead : Nat → Nat → List Nat → State → State
  | 0, _, _, s => s
  | n + 1, c, bs, s => match s.issueBehind c bs with
    | some t => State.issueAhead n c bs t
    | none => s

/-- Lane cycles, every recheck agreeing. -/
def State.runCycles : Nat → Nat → Nat → State → State
  | 0, _, _, s => s
  | n + 1, c, b, s =>
    if (s.hart c b).lanes.any fun e => e.2.todo != [] || e.2.buf != [] then State.runCycles n c b (s.laneCycles c b true) else s

/-- A hart has a word in progress that others may follow. -/
def State.following (s : State) (c b : Nat) : Bool :=
  match (s.hart c b).pend with
  | some p => p.behind.isSome
  | none => false

/-- The row work behind the present word goes on (R228). -/
def State.rowsBehind (s : State) (c b : Nat) : State :=
  (List.range (s.hart c b).young.length).foldl (fun t k =>
    if ((t.hart c b).young[k]?).any fun y => y.work.isSome then
      t.withWork c b k fun u => match (u.hart c b).pend with
        | some p => match rowPoll true u c b p with
          | .work v => v
          | _ => u
        | none => u
    else t) s

/-- The words behind the present one go on, and compute what arrives. -/
def State.runBehind (c b : Nat) : Nat → State → State
  | 0, s => s
  | n + 1, s => State.runBehind c b n (((s.rowsBehind c b).runCycles 512 c b).feedAll c b)

/-- What a turn of a stream does for the words behind its present one, which harts `issued` have retired; in a whole turn their
operations run too. -/
def State.goAhead (s : State) (c : Nat) (bs issued : List Nat) (whole : Bool) : State :=
  let on := fun (t : State) (b : Nat) => t.following c b || issued.contains b
  let s1 := bs.foldl (fun t b => if on t b then t.feedAll c b else t) s
  let s2 := if bs.all (on s1) then s1.issueAhead 15 c bs else s1
  if whole then
    bs.foldl (fun t b => if on t b && (t.hart c b).young != [] then State.runBehind c b (t.hart c b).young.length t else t) s2
  else s2

end Sys2Proof.Machine
end

