-- ==== Sys2Proof/Machine/Outside.lean ====
section
/-! DEFINITION. What happens to the module from outside, apart from the events of the table (log 78): host reads of a
management BAR, what configuration software sets, TLB fills, and faults of stored data. -/

namespace Sys2Proof.Machine

/-! ## The host (R8, R67 to R70, R85, R388) -/

/-- A host reads a register of a management BAR. -/
def State.barRead (s : State) (fn off : Nat) : State := s.send (.barAnswer (BitVec.ofNat 64 (s.barValue fn off)))

/-- R67: the memory window's size is a power of two from 1 GiB to the module's 1 TiB. -/
def State.windowSize (s : State) (log : Nat) : State :=
  if 30 ≤ log ∧ log ≤ 40 then { s with bar := { s.bar with winLog := log } } else s

/-- R388: AtomicOp Requester Enable of a function. -/
def State.atomicEnable (s : State) (fn : Nat) (on : Bool) : State :=
  let others := s.bar.atomicEn.filter fun f => f != fn
  { s with bar := { s.bar with atomicEn := if on then others ++ [fn] else others } }

/-! ## TLBs (R49) -/

/-- A full TLB gives up the first translation it lists. DESIGN CHOICE, log 73, unsafe. -/
def tlbPut (size key v : Nat) (t : Tab Nat) : Tab Nat :=
  let others := t.drop key
  (if others.length < size then others else others.tail).put key v

/-- R49: a translation is cached in the compute-page TLB, or in the column TLB. -/
def Core.tlbFill (k : Core) (rows : Bool) (key v : Nat) : Core :=
  if rows then { k with rowTlb := tlbPut Config.rowTlbSize key v k.rowTlb }
  else { k with colTlb := tlbPut Config.colTlbSize key v k.colTlb }

/-- A TLB of a core caches the leaf that a walk finds for a VA; it caches no walk that fails. -/
def State.tlbFill (s : State) (c va : Nat) (rows : Bool) : State :=
  match s.spaceRoot (s.asid c) with
  | none => s
  | some root =>
    if va / 2 ^ 48 ≠ 0 then s
    else match Sys2Proof.Machine.walk (fun a => s.tableBytes a 8) va Config.levels (root * 4096) 1 with
      | .error _ => s
      | .ok (e, level) => s.setCore c ((s.core c).tlbFill rows (tlbKey (s.asid c) va) (e + level * 2 ^ 64))

/-- A TLB gives a translation up. -/
def State.tlbDrop (s : State) (c va : Nat) (rows : Bool) : State :=
  let k := s.core c
  let key := tlbKey (s.asid c) va
  s.setCore c (if rows then { k with rowTlb := k.rowTlb.drop key } else { k with colTlb := k.colTlb.drop key })

/-! ## Faults of stored data -/

/-- R55, R56: what is wrong with a line from now on, where it is stored. -/
def State.lineFault (s : State) (line bad : Nat) (e2eDiff : BitVec 16) : State :=
  s.setSide line { s.sideOf line with badSymbols := bad, e2eDiff := e2eDiff }

/-- R203, R116: a later read of a register finds what is wrong with a line: it corrects up to two symbols, and finds the
line UE or E2EBAD otherwise. A lane-file register (8 to 15) scores no SAG. A line that has a condition keeps it. -/
def State.latchFault (s : State) (c b r line bad : Nat) (e2eDiff : BitVec 16) : State :=
  let x := s.reg c b r
  let side : Side := { badSymbols := bad, e2eDiff := e2eDiff }
  match side.cond with
  | none => if bad ≠ 0 ∧ r < 8 then s.addScore 2 (sagUnit c b r) 1 else s
  | some f =>
    if (x.conds.find line).isSome then s
    else
      let s1 := s.setReg c b r { x with conds := x.conds.put line { cond := f, side := side } }
      if f = .e2eBad ∧ r < 8 then s1.addScore 2 (sagUnit c b r) 32 else s1

/-- R391: one of the three copies of a counter. -/
def Ctr.damage (x : Ctr) (copy : Nat) (v : BitVec 32) : Ctr :=
  match copy with
  | 0 => { x with c0 := v }
  | 1 => { x with c1 := v }
  | _ => { x with c2 := v }

/-- R391: a copy of a counter changes. -/
def State.counterFault (s : State) (hub : Bool) (c n copy : Nat) (v : BitVec 32) : State :=
  s.setCtr hub c n ((s.ctr hub c n).damage copy v)

/-- A record whose SEQ its signature no more covers. -/
def ConfigSlot.damage (x : ConfigSlot) : ConfigSlot := { x with signed := { x.record with seq := x.record.seq + 1 } }

/-- R87: the record in a slot does not verify any more. -/
def State.configFault (s : State) (ty slot : Nat) : State :=
  let l := s.flash.configs.get ty []
  { s with flash := { s.flash with configs := s.flash.configs.put ty (l.modify slot ConfigSlot.damage) } }

/-- R429: a record of the retirement region does not verify any more. -/
def State.retireFault (s : State) (n : Nat) : State :=
  { s with flash := { s.flash with records := s.flash.records.modify n fun r => { r with sigOk := false } } }

/-- What the outside does in a turn. What self-test finds takes effect at the next boot (R455). -/
def State.outside (s : State) (o : Outside) : State :=
  match o with
  | .barRead fn off => s.barRead fn off
  | .windowSize log => s.windowSize log
  | .atomicEnable fn on => s.atomicEnable fn on
  | .tlbFill c va rows => s.tlbFill c va rows
  | .tlbDrop c va rows => s.tlbDrop c va rows
  | .lineFault line bad d => s.lineFault line bad d
  | .latchFault c b r line bad d => s.latchFault c b r line bad d
  | .counterFault hub c n copy v => s.counterFault hub c n copy v
  | .configFault ty slot => s.configFault ty slot
  | .retireFault n => s.retireFault n
  | .selfTest u stuck => { s with finds := s.finds ++ [.unit u stuck] }
  | .coreSelfTest c => { s with finds := s.finds ++ [.core c] }
  | .busUnloaded n => { s with finds := s.finds ++ [.bus n] }

end Sys2Proof.Machine
end

