-- ==== Sys2Proof/Machine/Hub.lean ====
section
/-! DEFINITION. Turns: what each agent does in one, what the hub does as time passes, and the order of turns when none is
given (log 1, 2, 4). -/

namespace Sys2Proof.Machine

/-! ## Time -/

/-- Tenths of a clk that have passed by hub time `t` at `f` hundred MHz, as whole clk (R3, R443). -/
def clkAt (f t : Nat) : Nat := t * f / 10

/-- R449: the clock of a core's cluster is stopped: the cluster is GATED. -/
def State.gated (s : State) (c : Nat) : Bool := (s.clusterAt (c / 4)).state == 3

/-- Hub time passes, and with it the clock of each core whose clock runs. -/
def State.advance (s : State) (ns : Nat) : State :=
  { s with now := s.now + ns
           cores := s.cores.mapVals fun c k => if s.gated c then k else { k with
             clk := k.clk + (clkAt (s.clockOf c) (s.now + ns) - clkAt (s.clockOf c) s.now) } }

/-- R101: a period boundary that the time from `t` on has reached. -/
def State.periodFrom (s : State) (t : Nat) : State :=
  if t / 100000 < s.now / 100000 then
    let s1 := { s with now := s.now / 100000 * 100000 }.period
    { s1 with now := s.now }
  else s

/-! ## The hub's own work -/

/-- Hub time passes: the cores' clocks, the period that begins (R101) and the rises of OWED (R232) that it brings. -/
def State.pass (s : State) (ns : Nat) : State := ((s.advance ns).periodFrom s.now).owedTime

/-- R75: `n` lines at most of the flush of the task whose turn it is, and its end. -/
def State.flushSome (s : State) (n : Nat) : State := (State.flushLines n s.startFlush).endFlush

/-- R403, R404, R79: watchdogs and task ends, whose completion signals come first in a hub clock (R98), and the records held. -/
def State.hubEnds (s : State) : State :=
  let s1 := s.sched.tasks.foldl (fun u t => (u.watchdog t.num).goEnd t.num) s
  (s1.sched.held.map (·.q)).foldl State.writeHeld s1

/-- What the hub does about tasks, in the order of R98: ends, whose SIGNALs are counter updates; acceptance (R72) and stage 1
(R74); the flushes of those that reach stage 2 (R75), of which 16 lines take a ns; then the decision (R91 to R95). -/
def State.taskWork (s : State) (ns : Nat) : State :=
  let s1 := ((s.hubEnds).accept).retryPackets
  let s2 := s1.sched.tasks.foldl (fun u t => u.tryWaits t.num) s1
  let s3 := s2.sched.tasks.foldl (fun u _ => u.flushSome (16 * ns)) s2
  s3.decide_

/-- R233: the SAGs that have been busy are idle again. -/
def Bank.idleSags (b : Bank) : Bank := { b with sags := b.sags.mapVals fun _ x => { x with busy := false } }

def State.idleSags (s : State) (c : Nat) : State :=
  let k := s.core c
  s.setCore c { k with banks := k.banks.mapVals fun _ b => b.idleSags }

/-- What goes on about a core: ring entries, events, requests, saves, leases, copies (R421, R144, R263, R401, R408, R412, R117). -/
def State.coreWork (s : State) (c : Nat) : State :=
  let s1 := ((State.drainEvents Config.eventQueueSize c (State.ringRun Config.ringEntries c s)).interrupt c).endOp c
  let s2 := ((s1.leaseTry c).leaseDue c).idleSags c
  let waiting := ((s2.core c).harts.filter fun e => e.2.latchOwned).map (·.1)
  let s3 := waiting.foldl (fun u b => u.latchOwnedTrap c b) s2
  ((s3.core c).harts.map (·.1)).foldl (fun u b => (u.storesRun c b).xferAll c b) s3

/-- What Fen and the ports have still to do: dirty lines of bypassed slices (R439), rows to be substituted (R426), data that waited for
a test step (R113), messages that waited for a port (R112). -/
def State.repairWork (s : State) : State :=
  let s1 := s.flash.offSlices.foldl (fun t n => t.emptySlice (n / 16) (n % 16)) s
  (s1.fen.subs.foldl State.trySub s1).lateGo.sendHeld

/-- The hub's work as `ns` have passed. DEDUCED, log 62, unsafe. -/
def State.hubWork (s : State) (ns : Nat) : State :=
  let s1 := (s.cores.map (·.1)).foldl State.coreWork s
  ((s1.taskWork ns).repairWork).serveRemote.hostGo

/-- TICK. -/
def State.tick (s : State) (ns : Nat) : State := (s.pass ns).hubWork ns

/-! ## Turns -/

/-- Copies and matrix operations go on, when their events are not given one by one. -/
def State.progress (s : State) (c b : Nat) : State := (s.engineWhole c).xferAll c b

def Next.end (n : Next) : Res :=
  match n with
  | .run s i => exec i s
  | .settled s => .next s

/-- A hart's turn. -/
def State.hartTurn (s : State) (c b : Nat) (whole : Bool) : Next :=
  let s1 := { s with actCore := c, actBank := b, actGang := none, stepwise := !whole }
  let s2 := if whole then s1.progress c b else s1
  (if (s2.hart c b).st = .split then s2.goAhead c [b] [] whole else s2).hartNext c b

/-- A sequencer's turn. -/
def State.gangTurn (s : State) (c g : Nat) (whole : Bool) : Next :=
  let s1 := { s with actCore := c, actGang := some g, stepwise := !whole }
  let s2 := if whole then (s1.gang c g).banks.foldl (fun t b => t.progress c b) s1 else s1
  (match s2.running c g with
    | some r => s2.goAhead c r.parts r.done whole
    | none => s2).gangNext c g

/-- A control thread's turn. -/
def State.ctTurn (s : State) (c : Nat) : Next := { s with actCore := c }.ctNext c

/-- One turn. -/
def State.turn (s : State) (t : Turn) : Res :=
  match t with
  | .hart c b whole => (s.hartTurn c b whole).end
  | .gang c g whole => (s.gangTurn c g whole).end
  | .ct c => (s.ctTurn c).end
  | .event i => exec i s
  | .outside o => .next (s.outside o)
  | .tick ns => .next (s.tick ns)

/-- The turns of one core: its control thread, its gangs and its split harts. -/
def Core.turns (c : Nat) (k : Core) : List Turn :=
  if k.st = .running ∨ k.st = .saving then
    (if k.ct.running then [.ct c] else []) ++ (k.gangs.map fun e => .gang c e.1 true) ++
      (k.harts.filter fun e => e.2.st == .split).map fun e => .hart c e.1 true
  else []

/-- Every agent that may move, the hub first. -/
def State.turns (s : State) : List Turn := .tick 1 :: s.cores.flatMap fun e => e.2.turns e.1

/-- The turn whose place has come, and the place of the next; 1 ns passes with the turn of an agent. -/
def State.nextTurn (s : State) : State × Turn :=
  let l := s.turns
  let n := s.rr % l.length
  let t := l.getD n (.tick 1)
  let s1 := { s with rr := (n + 1) % l.length }
  (if t = .tick 1 then s1 else s1.pass 1, t)

/-! ## Placing one instruction (log 15) -/

/-- Where the instruction is placed: block VA and PA, and the translation tables. -/
def placeVa : Nat := 0x10000
def placeTable : Nat := 0x4000
def placeTable2 : Nat := 0x5000

/-- R43 to R46: an address-space entry and two tables that map the first 1 GiB to itself: readable, writable, executable,
computational, pinned, for tasks. -/
def State.placeSpace (s : State) (asid : Nat) : State :=
  let leaf := 0x17f + s.flash.modId.toNat * 2 ^ 58
  let m1 := s.mem.write (s.bar.asidBase.toNat * 2 ^ 16 + 16 * asid) 16 (1 + placeTable / 4096 * 2 ^ 12)
  let m2 := m1.write placeTable 8 (1 + placeTable2 / 4096 * 2 ^ 12)
  { s with mem := m2.write placeTable2 8 leaf }

/-- R129, R132: a block of one word, signed. -/
def placeBlock (w : Nat) : Nat :=
  let crc := crcBytes 0x1021 4 0xffff w
  0xfc400000 + 2 ^ 21 + crc + w * 2 ^ 32

/-- The word as the one word of a block that bank 0 of core 0 comes to in split mode. -/
def State.placeHart (s : State) (w : Nat) : State :=
  let k := s.core 0
  let h : Hart := { k.hart 0 with
    st := .split, hpc := BitVec.ofNat 48 placeVa, blk := [], cache := [], pend := none, after := 0, bcastKind := false
    sigOff := false }
  let s1 := s.setCore 0 { k with st := .running, harts := k.harts.put 0 h }
  let s2 := s1.placeSpace k.asid.toNat
  { s2 with mem := s2.mem.write placeVa 64 (placeBlock w), agenda := [.hart 0 0 true] }

/-- The word where the control thread of core 0 fetches next. -/
def State.placeCt (s : State) (w : Nat) : State :=
  let k := s.core 0
  let s1 := s.setCore 0 { k with
    st := .running, ct := { k.ct with running := true, pc := BitVec.ofNat 64 placeVa, icache := [], rreq := none } }
  let s2 := s1.placeSpace k.asid.toNat
  { s2 with mem := s2.mem.write placeVa 4 w, agenda := [.ct 0] }

/-- The word is one of the control thread (decodeTableWord takes that reading first). -/
def ctReading (w : Nat) : Bool :=
  (decodeXhlm w).isSome || match decodeHart w with | .ok _ => false | _ => (decodeCtRow w).isSome

end Sys2Proof.Machine
end

