-- ==== Sys2Proof/Machine/Step.lean ====
section
/-! DEFINITION. One step of the module: the next turn of the agenda, or, when it is empty, the turn whose place has
come (log 1). -/

namespace Sys2Proof.Machine

/-- One step. -/
def step (s : State) : Host.Outcome State Fault Refusal :=
  match s.agenda with
  | t :: ts => { s with agenda := ts }.turn t
  | [] => s.nextTurn.1.turn s.nextTurn.2

/-- The state whose next step fetches and runs the instruction of a word (log 15). -/
def State.withFetchWord (s : State) (_nbits w : Nat) : State := if ctReading w then s.placeCt w else s.placeHart w

end Sys2Proof.Machine
end

