-- ==== Sys2Proof/Safety.lean ====
section
/-! DEFINITION. The terms in which statements speak of a run: who acts, what stands in the way of a word, what a word's
completion leaves, and what every step keeps. -/

namespace Sys2Proof.Machine

/-- The hart of bank `b` of core `c` executes a word alone: it has no work in flight and no word behind this one has issued
(R183), the word's predicate lets it act (R166), the bank's state is its context's (R408), its block is not the last of the
48-bit space, past which no block can be fetched (R47, R131), the word runs to its end (log 4), and neither the access ring
(R420) nor the event trace (R422) records it. -/
structure Ready (s : State) (c b : Nat) (p : Bool) : Prop where
  gang : s.actGang = none
  core : s.actCore = c
  bank : s.actBank = b
  idle : (s.hart c b).pend = none
  alone : (s.hart c b).young = []
  inside : (s.hart c b).blockVa + 64 < 2 ^ 48
  acts : p = true → (s.hart c b).hp = true
  owned : (s.bank c b).owner = (s.core c).ctx.toNat
  whole : s.stepwise = false
  noTrace : (s.core c).traceOn = false
  noRing : (s.ct c).ring.getLsbD 63 = false

/-- The state with a word of the hart retired: egi is 0, nothing is in flight, and the hart has moved on (R131, R224). -/
def State.retired (s : State) (c b : Nat) (go : Go) : State := s.setHart c b ((s.hart c b).clean.advance go)

/-- The state with hart (c, b) changed by `f` and its word retired. -/
def State.hartDone (s : State) (c b : Nat) (f : Hart → Hart) : State :=
  s.setHart c b ((f (s.hart c b)).clean.advance .next)

/-- The lane operation of a plan, its groups already committed. -/
def Plan.laneOp (q : Plan) : LaneOp :=
  { word := q.lane.word, d := q.lane.d, w := q.lane.w, m := q.lane.m, fin := q.fin, same := q.lane.same, whole := q.lane.whole }

/-- The state with the register that a plan's word opens, if it writes one (R193), and `w7` where it writes scales (R324). -/
def Plan.opened (q : Plan) (s : State) (c b : Nat) : State :=
  let t := match q.lane.d with
    | some d => (q.tagged s c b).beginWrite c b d q.view.egi
    | none => q.tagged s c b
  if q.fin.w7.isSome then t.beginWrite c b 15 0 else t

/-- The groups of a lane operation committed in the given order, and its end. -/
def State.committed (s : State) (c b : Nat) (op : LaneOp) (gs : List Grp) : State :=
  op.fin.apply c b ((gs.foldl (fun t g => t.commitGrp c b op g) s).endDests c b op)

/-- What a vector word has done once all its groups are committed, in ascending order, and it has retired. -/
def State.laneDone (s : State) (c b : Nat) (q : Plan) : State :=
  ((q.opened s c b).committed c b q.laneOp (groupsFrom q.view.egi q.lane.w q.es)).retired c b .next

/-- A plan meets nothing that stops it: the member takes part (R246), its operands are ready, its sources hold no bad line
(R203, R299), no element traps on a NaN (R287). -/
structure Plan.Runs (q : Plan) (s : State) (c b : Nat) : Prop where
  takes : (q.view.out && !q.all) = false
  ready : q.ready = true
  noLate : q.late = none
  lines : (q.tagged s c b).firstLine c b q.lane q.view.egi = none
  noNan : q.view.rm.nantrap = true → nanGroup q.view.egi q.lane.w q.es = none
  noTrap : q.fin.trap = none

/-- A split hart runs a vector word alone from its issue to its end: the hart is ready, the word is its own (G = 0), its
operands are permitted (orders 7 to 9 of R172), nothing stops it, and the task's recheck policy is FULL (R198). -/
structure LaneWord.Goes (x : LaneWord) (s : State) (c b : Nat) : Prop where
  ready : Ready s c b x.p
  alone : x.g = false
  permitted : firstRefused (x.checks s s c b) = none
  accepted : x.refuse s s c b = none
  runs : (x.plan s s c b).Runs s c b
  full : (s.core c).idlePolicy = false

/-- What such a word leaves. -/
def LaneWord.done (x : LaneWord) (s : State) (c b : Nat) : State := s.laneDone c b (x.plan s s c b)

/-- A vector word of one hart meets nothing that stops it, in terms of the state alone: the hart is ready and restarts at group 0,
the recheck policy is FULL (R198), NaNs do not trap (R287), the registers it reads have arrived (R194) with no bad line (R203),
and those it writes are free (R195). -/
structure Clear (s : State) (c b : Nat) (p : Bool) (reads writes : List Nat) : Prop where
  ready : Ready s c b p
  start : (s.hart c b).egi = 0
  full : (s.core c).idlePolicy = false
  noTrap : (rmOf (s.hart c b).rmode).nantrap = false
  sources : ∀ r ∈ reads, s.canRead c b r = true ∧ (s.reg c b r).conds = []
  dests : ∀ r ∈ writes, s.canWrite c b r = true

/-- What a vector word of one hart leaves in all but its destinations: its hart has moved on with `vl` and `hp` as they were,
no register outside `ds` has changed, and no other hart, no other bank and no byte of memory. -/
structure Stays (s t : State) (c b : Nat) (ds : List Nat) : Prop where
  goes : (t.hart c b).hpc = ((s.hart c b).clean.advance .next).hpc ∧ (t.hart c b).pend = none
  scalars : (t.hart c b).vl = (s.hart c b).vl ∧ (t.hart c b).hp = (s.hart c b).hp
  others : ∀ r, r ∉ ds → t.reg c b r = s.reg c b r
  elsewhere : ∀ e x, ¬(e = c ∧ x = b) → t.bank e x = s.bank e x ∧ t.hart e x = s.hart e x
  mem : t.mem = s.mem

/-- A vector word of one hart has written elements of width `w` of register `d` as `f` gives them, and left the others as they
were when the register was opened (R33, R193); of the registers, only those of `ds` have changed, and no mask has. -/
structure Lands (s t : State) (c b d w : Nat) (ds : List Nat) (f : Nat → Option Nat) : Prop where
  elems : ∀ k x, f k = some x → elemAt (t.reg c b d).bits w k = x
  rest : ∀ k, f k = none → elemAt (t.reg c b d).bits w k = elemAt ((s.reg c b d).openFor d).bits w k
  arrived : (t.reg c b d).arrival = 0xffffffff
  masks : ∀ m, (t.bank c b).mask m = (s.bank c b).mask m
  stays : Stays s t c b ds

/-- The elements that a word of one hart acts on: those below `n` and `vl` whose mask bit, as tag `t` numbers them, is set
(R273, R295). -/
def State.acting (s : State) (c b n t m k : Nat) : Bool :=
  decide (k < min n (s.hart c b).vl.toNat) && ((s.bank c b).mask m).testBit (maskIndex t k)

/-- Element `k` of a register. -/
def State.elem (s : State) (c b r k : Nat) : Nat := elemAt ((s.reg c b r).content r) (tagBits (s.tag c b r)) k

/-- R289: the generator's state as element `k` of a word is computed: what the elements below it that are acted on have left. -/
def seedBefore (acts : Nat → Bool) (f : Nat → Rd → Nat × Rd) (seed k : Nat) : Nat :=
  (List.range k).foldl (fun x j => if acts j then (f j { seed := x }).2.seed else x) seed

/-- An element-wise word has computed, for the elements of the register `d` that it acts on, what `f` gives in ascending order
(R289); the other elements are as they were when the register was opened (R33, R193). The flags of all the elements have joined
the hart's (R199), and the generator keeps its last draw (R289). -/
structure Computes (s t : State) (c b d w n : Nat) (acts : Nat → Bool) (f : Nat → Rd → Nat × Rd) : Prop where
  elems : ∀ k, acts k = true →
    elemAt (t.reg c b d).bits w k = (f k { seed := seedBefore acts f (s.hart c b).seed.toNat k }).1
  rest : ∀ k, acts k = false → elemAt (t.reg c b d).bits w k = elemAt ((s.reg c b d).openFor d).bits w k
  arrived : (t.reg c b d).arrival = 0xffffffff
  flags : (t.hart c b).flags = (List.range n).foldl (fun x k =>
    if acts k then x ||| (f k { seed := seedBefore acts f (s.hart c b).seed.toNat k }).2.fl else x) (s.hart c b).flags
  seed : (t.hart c b).seed = if (rmOf (s.hart c b).rmode).rm = 5 ∧ (rmOf (s.hart c b).rmode).seedRpt = false
    then BitVec.ofNat 32 (seedBefore acts f (s.hart c b).seed.toNat n) else (s.hart c b).seed

/-- An element-wise word of one hart has computed as `f` gives, and left the masks, every register outside `ds` and everything
beside its hart as they were. -/
structure ComputesAlone (s t : State) (c b d w n : Nat) (ds : List Nat) (acts : Nat → Bool) (f : Nat → Rd → Nat × Rd) : Prop where
  computes : Computes s t c b d w n acts f
  masks : ∀ m, (t.bank c b).mask m = (s.bank c b).mask m
  stays : Stays s t c b ds

/-- R13, R286, R287: one `Convert` of an exact value, with the flag of a NaN that no source holds. -/
def converted (td : Nat) (rm : Rm) (scale : Nat) (srcs : List XVal) (x : XVal) (r : Rd) : Nat × Rd :=
  let e := convert td rm scale x r
  (e.1, e.2.nanIf (nanCode td e.1) srcs)

/-- Every participant of a gang's block issues the word at the sequencer's place in lockstep: all members take part, none has
work in flight or has retired the word, and nothing records them. -/
structure Lockstep (s : State) (c g : Nat) (r : Running) : Prop where
  gang : s.actGang = some g
  core : s.actCore = c
  run : s.running c g = some r
  fresh : r.done = []
  all : r.parts = (s.gang c g).banks
  nonempty : r.parts ≠ []
  inBlock : r.pos < headerLen (r.words.headD 0)
  mine : ∀ b ∈ r.parts, (s.core c).gangOf b = some g
  member : ∀ b ∈ r.parts, (s.hart c b).st = .member
  idle : ∀ b ∈ r.parts, (s.hart c b).pend = none
  alone : ∀ b ∈ r.parts, (s.hart c b).young = []
  owned : ∀ b ∈ r.parts, (s.bank c b).owner = (s.core c).ctx.toNat
  whole : s.stepwise = false
  noTrace : (s.core c).traceOn = false
  noRing : (s.ct c).ring.getLsbD 63 = false

/-- An ordinary line of this module at `pa`: it exists, is awake, passes its checks, no other module holds a copy of it (R384) or has
still to acknowledge an invalidation of it (R385), and its row is neither being sensed nor under a destructive step (R113, R237). -/
structure Plain (s : State) (pa : Nat) : Prop where
  awake : s.asleep pa = false
  served : s.unserved pa = false
  still : s.sensing pa = false
  untested : s.rowTested pa = false
  good : (s.sideOf (lineOf pa)).cond = none
  home : (s.sideOf (lineOf pa)).state = 0
  acked : s.unacked (lineOf pa) = []

/-- The MSC of the line at `pa` holds it already, or has room for it (R16): a read of it evicts nothing. -/
def State.mscFree (s : State) (pa : Nat) : Bool :=
  let l := s.stackKeys (keyStack (s.flash.modId.toNat * 2 ^ 34 + lineOf pa))
  l.contains (s.flash.modId.toNat * 2 ^ 34 + lineOf pa) || decide (l.length < Config.mscLines)

/-- Column accesses of the hart of bank `b` of core `c` go out: its cluster's bus is under no step (R112, R190), and the gather
unit has free requests for a group (R26). -/
structure Reaches (s : State) (c b : Nat) : Prop where
  bus : s.busHeld (.hart c b) = false
  free : s.requestsFree c 256 = true

/-- Task `t` is on its cores and can end at once, without a record: its end has not been decided, nothing of it is being
saved or copied, none of its harts has work in flight (R155) and the outer-product engines of its cores are idle (R360), no other
event of the hub clk has still to arise (R403), and its CQ is disabled (R78). -/
structure Ending (s : State) (t : Task) : Prop where
  listed : s.task t.num = some t
  going : t.ends = none
  onCores : t.stage = .running
  unsaved : s.saving t = false
  quiet : s.copying t = false
  noRecord : cqEnabled t.recd.cq = false
  idle : ∀ c ∈ t.cores, s.holds c t.num = true →
    (s.core c).engine = [] ∧ ∀ b, (s.hart c b).pend = none ∧ (s.hart c b).young = []
  alone : s.sameClk = false

/-- R403, R423: task `t` of `s` is gone in `u`: its cores are free, its bank state is cleared, and memory and every other
core's banks and harts are as they were. -/
structure Gone (s u : State) (t : Task) : Prop where
  dropped : u.task t.num = none
  freed : ∀ c ∈ t.cores, s.holds c t.num = true →
    (u.core c).task = none ∧ (u.core c).st = .free ∧ (u.core c).ctx = 0
  cleared : ∀ c ∈ t.cores, s.holds c t.num = true → (s.core c).st ≠ .ended →
    (u.core c).gangs = [] ∧ (u.core c).evq = [] ∧ (u.core c).tiles = [] ∧
    ((s.core c).ctx ≠ 0 → ∀ b, (s.bank c b).owner = (s.core c).ctx.toNat →
      (u.bank c b).owner = 0 ∧ (u.bank c b).regs = [])
  others : ∀ c, c ∉ t.cores → (u.core c).banks = (s.core c).banks ∧ (u.core c).harts = (s.core c).harts
  mem : u.mem = s.mem

end Sys2Proof.Machine
end

