-- ==== Sys2Proof/Certificates/Slice0/Obligations.lean ====
section
/-! DEFINITION. What is claimed of the model: statements from the numbered rules of the spec, for the provers. -/

open Sys2Proof Sys2Proof.Machine

/-! ## Hart words on scalar state -/

/-- R209: the words of major 0x01, with what they compute from ga and gb. -/
def Sys2Proof.Claims.aluWords (o : S3) : List (Instr × (Word → Word → Word)) :=
  [(.add o, fun a b => a + b), (.sub o, fun a b => a - b), (.and o, fun a b => a &&& b),
    (.or o, fun a b => a ||| b), (.xor o, fun a b => a ^^^ b),
    (.sll o, fun a b => a <<< (b.toNat % 64)), (.srl o, fun a b => a >>> (b.toNat % 64)),
    (.sra o, fun a b => a.sshiftRight (b.toNat % 64)), (.mul o, fun a b => a * b),
    (.mulh o, fun a b => (a.signExtend 128 * b.signExtend 128).extractLsb' 64 64),
    (.mulhu o, fun a b => (a.setWidth 128 * b.setWidth 128).extractLsb' 64 64),
    (.div o, fun a b => if b = 0 then -1 else a.sdiv b), (.divu o, fun a b => if b = 0 then -1 else a / b),
    (.rem o, fun a b => if b = 0 then a else a.srem b), (.remu o, fun a b => if b = 0 then a else a % b),
    (.min o, fun a b => if a.slt b then a else b), (.max o, fun a b => if a.slt b then b else a),
    (.minu o, fun a b => if a.ult b then a else b), (.maxu o, fun a b => if a.ult b then b else a),
    (.slt o, fun a b => if a.slt b then 1 else 0), (.sltu o, fun a b => if a.ult b then 1 else 0)]

/-- R210, R211: the immediate words, the shifts by an immediate and the constant builders, with what they do to their hart. -/
def Sys2Proof.Claims.immediateWords (o : SI) (k : SH) (l : LI) : List (Instr × (Hart → Hart)) :=
  [(.addi o, fun h => h.setG o.d.toNat (h.greg o.a.toNat + o.i.signExtend 64)),
    (.andi o, fun h => h.setG o.d.toNat (h.greg o.a.toNat &&& o.i.signExtend 64)),
    (.ori o, fun h => h.setG o.d.toNat (h.greg o.a.toNat ||| o.i.signExtend 64)),
    (.xori o, fun h => h.setG o.d.toNat (h.greg o.a.toNat ^^^ o.i.signExtend 64)),
    (.slli k, fun h => h.setG k.d.toNat (h.greg k.a.toNat <<< k.s.toNat)),
    (.srli k, fun h => h.setG k.d.toNat (h.greg k.a.toNat >>> k.s.toNat)),
    (.srai k, fun h => h.setG k.d.toNat ((h.greg k.a.toNat).sshiftRight k.s.toNat)),
    (.limm l, fun h => h.setG l.d.toNat (l.i.signExtend 64)),
    (.lshi l, fun h => h.setG l.d.toNat (h.greg l.d.toNat <<< 22 + l.i.setWidth 64))]

/-- R209: every word of major 0x01 computes gd from ga and gb over 64 bits, and leaves everything else as it was but for
the hart's moving on. Bits [13:8] are zero in its words. -/
def Sys2Proof.Claims.ScalarWords : Prop :=
  ∀ (o : S3) (i : Instr) (f : Word → Word → Word),
    (i, f) ∈ Sys2Proof.Claims.aluWords o →
    (∀ (s : State) (c b : Nat), Ready s c b o.p →
      exec i s = .next (s.hartDone c b fun h => h.setG o.d.toNat (f (h.greg o.a.toNat) (h.greg o.b.toNat)))) ∧
    decodeHart i.word = .ok i ∧ ∀ w, fld w 26 6 = 1 → fld w 8 6 ≠ 0 → decodeHart w ≠ .ok i

/-- R210, R211: the immediate words, the shifts by an immediate and the constant builders. -/
def Sys2Proof.Claims.ImmediateWords : Prop :=
  ∀ (o : SI) (k : SH) (l : LI) (i : Instr) (f : Hart → Hart),
    (i, f) ∈ Sys2Proof.Claims.immediateWords o k l →
    ∀ (s : State) (c b : Nat), Ready s c b false → exec i s = .next (s.hartDone c b f)

/-- The words of majors 0x01 to 0x07: their results and completion, and the reserved bits of major 0x01: the claims
`ScalarWords` and `ImmediateWords`. -/
def Obligations.ScalarWords : Prop := Sys2Proof.Claims.ScalarWords ∧ Sys2Proof.Claims.ImmediateWords

/-- R31, R167: what a write of a scalar register leaves: `g0` reads 0 whatever is written, the register written reads the
value, every other register and every other field of the hart is unchanged. -/
def Sys2Proof.Claims.ScalarRegisterWrite : Prop :=
  ∀ (h : Hart) (r : Nat) (v : Word),
    (h.setG r v).greg 0 = 0 ∧ (r ≠ 0 → (h.setG r v).greg r = v) ∧ (∀ q, q ≠ r → (h.setG r v).greg q = h.greg q) ∧
      { h.setG r v with g := h.g } = h

/-- R131, R217, R141: where a retired word leaves its hart: at the next word; after the last word of a block at word 1
of the next block (as the fetch of the block at the next 64-byte address), or PARKED in a broadcast block; in the next
pass of its block, or past the last one; at the target of a jump; PARKED. `egi` is 0 and nothing is in flight. -/
def Sys2Proof.Claims.HartMovesOn : Prop :=
  ∀ (h : Hart) (n va : Nat),
    let k := h.clean
    let next := { k with hpc := BitVec.ofNat 48 (h.hpc.toNat / 64 * 64 + 64), blk := [], bcastKind := false, sigOff := false }
    let parked := { k with st := .parked, blk := [], bcastKind := false, sigOff := false }
    let ended := if h.bcastKind then parked else next
    let passes := if h.repact then h.repi else BitVec.ofNat 32 n
    k.egi = 0 ∧ k.pend = none ∧ k.g = h.g ∧ k.hpc = h.hpc ∧
    k.advance .next = (if h.hpc.toNat % 64 / 4 < h.blockLen then { k with hpc := h.hpc + 4 } else ended) ∧
    k.advance .park = parked ∧
    k.advance (.jump va) = { k with hpc := BitVec.ofNat 48 va, blk := [], bcastKind := false, sigOff := false } ∧
    k.advance (.rep n) = (if passes = 0 then { ended with repact := false, repi := 0 }
      else { k with repact := true, repi := passes - 1, hpc := BitVec.ofNat 48 (h.hpc.toNat / 64 * 64 + 4) })

/-- R39, R47, R131: past the last block of the 48-bit space there is none: the word that ends it retires, and the fetch of the
block at 2^48 fails with `0x20`, as that of any jump beyond 48 bits. -/
def Sys2Proof.Claims.LastBlockEnds : Prop :=
  ∀ (n : P0) (s : State) (c b va : Nat),
    let h := s.hart c b
    let fails (t : State) (va : Nat) := (t.hart c b).st = .faulted ∧ (t.hart c b).hcause = 0x20 ∧
      (t.hart c b).htval = BitVec.ofNat 64 (detail48 va .fetch 0 false) ∧ (t.hart c b).g = h.g ∧ t.mem = s.mem
    (s.spaceRoot (s.asid c)).isSome = true →
    (2 ^ 48 ≤ va → fails (s.farFetch c b (some va)) va) ∧
    (va < 2 ^ 48 → s.farFetch c b (some va) = s) ∧
    (s.actGang = none → s.actCore = c → s.actBank = b → h.pend = none → h.young = [] → h.hp = true → s.stepwise = false →
      (s.core c).traceOn = false → (s.ct c).ring.getLsbD 63 = false → h.blockVa = 2 ^ 48 - 64 → h.wordIdx = h.blockLen →
      h.bcastKind = false → ∃ t, exec (.nop n) s = .next t ∧ fails t (2 ^ 48))

/-- What a scalar write leaves, and where a hart stands once its word has retired, at the end of the 48-bit space too: the
claims `ScalarRegisterWrite`, `HartMovesOn` and `LastBlockEnds`. -/
def Obligations.ScalarWriteAndNextWord : Prop :=
  Sys2Proof.Claims.ScalarRegisterWrite ∧ Sys2Proof.Claims.HartMovesOn ∧ Sys2Proof.Claims.LastBlockEnds

/-- R212: a branch goes to its target, in blocks from its own block (R164), where its condition holds, and goes on as
R131 gives where it fails; registers, predicate and every other hart are unchanged. -/
def Sys2Proof.Claims.BranchWords : Prop :=
  ∀ (o : BR) (i : Instr) (f : Word → Word → Bool),
    (i, f) ∈ ([(.beq o, fun a b => a == b), (.bne o, fun a b => a != b), (.blt o, fun a b => a.slt b),
      (.bge o, fun a b => !a.slt b), (.bltu o, fun a b => a.ult b), (.bgeu o, fun a b => !a.ult b)] : List (Instr × (Word → Word → Bool))) →
    ∀ (s : State) (c b : Nat), Ready s c b false →
      let h := s.hart c b
      let va := uval 64 ((h.hpc.toNat / 64 * 64 : Nat) + 64 * o.o.toInt)
      (f (h.greg o.a.toNat) (h.greg o.b.toNat) = false → exec i s = .next (s.retired c b .next)) ∧
      (f (h.greg o.a.toNat) (h.greg o.b.toNat) = true → va < 2 ^ 48 → exec i s = .next (s.retired c b (.jump va)))

/-- R213, R215: JAL and JALR write the VA of the following block and go to their target; JALR takes its target from ga
before gd is written; BFETCH in a split block goes to its target without a link. A target of JALR or BFETCH that is no
multiple of 64 raises `0x06 JUMP_ALIGN` with the target as detail, and writes no register. -/
def Sys2Proof.Claims.JumpWords : Prop :=
  ∀ (j : JL) (o : SI) (r : R1) (s : State) (c b : Nat),
    let h := s.hart c b
    let link := BitVec.ofNat 64 (h.hpc.toNat / 64 * 64 + 64)
    let near := uval 64 ((h.hpc.toNat / 64 * 64 : Nat) + 64 * j.o.toInt)
    let far := (h.greg o.a.toNat + o.i.signExtend 64).toNat
    let own := (h.greg r.r.toNat).toNat
    (Ready s c b false → near < 2 ^ 48 →
      exec (.jal j) s = .next ((s.setHart c b (h.setG j.l.toNat link)).retired c b (.jump near))) ∧
    (Ready s c b false → far < 2 ^ 48 → far % 64 = 0 →
      exec (.jalr o) s = .next ((s.setHart c b (h.setG o.d.toNat link)).retired c b (.jump far))) ∧
    (Ready s c b r.p → own < 2 ^ 48 → own % 64 = 0 → exec (.bfetch r) s = .next (s.retired c b (.jump own))) ∧
    (Ready s c b false → far % 64 ≠ 0 → ∃ t, exec (.jalr o) s = .next t ∧ (t.hart c b).st = .faulted ∧
      (t.hart c b).hcause = 0x06 ∧ (t.hart c b).htval = BitVec.ofNat 64 far ∧ (t.hart c b).g = h.g) ∧
    (Ready s c b r.p → own % 64 ≠ 0 → ∃ t, exec (.bfetch r) s = .next t ∧ (t.hart c b).st = .faulted ∧
      (t.hart c b).hcause = 0x06 ∧ (t.hart c b).htval = BitVec.ofNat 64 own ∧ (t.hart c b).g = h.g)

/-- Branches, JAL, JALR and BFETCH: where they go, their link, and misaligned targets: the claims `BranchWords` and
`JumpWords`. -/
def Obligations.BranchesAndJumps : Prop := Sys2Proof.Claims.BranchWords ∧ Sys2Proof.Claims.JumpWords

/-- R216 to R219, R223: STOP parks the hart; YIELD and NOP only go on; REPB counts a pass; PSET and PNOT write `hp` and
nothing else. -/
def Obligations.BlockAndPredicateWords : Prop :=
  ∀ (p : P0) (n : N10) (o : PS) (a : BitVec 4) (s : State) (c b : Nat),
    let h := s.hart c b
    let x := h.greg o.a.toNat
    let y := h.greg o.b.toNat
    let hp (v : Bool) := s.hartDone c b fun h => { h with hp := v }
    (Ready s c b p.p → exec (.stop p) s = .next (s.retired c b .park)) ∧
    (Ready s c b p.p → exec (.yield p) s = .next (s.retired c b .next)) ∧
    (Ready s c b p.p → exec (.nop p) s = .next (s.retired c b .next)) ∧
    (Ready s c b false → exec (.repb n) s = .next (s.retired c b (.rep n.n.toNat))) ∧
    (Ready s c b false → o.c = 0 → exec (.pset o) s = .next (hp (x == y))) ∧
    (Ready s c b false → o.c = 1 → exec (.pset o) s = .next (hp (x != y))) ∧
    (Ready s c b false → o.c = 2 → exec (.pset o) s = .next (hp (x.slt y))) ∧
    (Ready s c b false → o.c = 3 → exec (.pset o) s = .next (hp (!x.slt y))) ∧
    (Ready s c b false → o.c = 4 → exec (.pset o) s = .next (hp (x.ult y))) ∧
    (Ready s c b false → o.c = 5 → exec (.pset o) s = .next (hp (!x.ult y))) ∧
    (Ready s c b false → exec (.psetB0 a) s = .next (hp ((h.greg a.toNat).getLsbD 0))) ∧
    (Ready s c b false → exec .pnot s = .next (hp (!h.hp)))

/-- R220: a send appends ga to the neighbour's queue, or to TOCT, if it has room; a receive takes the oldest entry of
its queue, if there is one; a peek does not wait: of an empty queue, whatever the hart's other queues hold, it writes `hp` 0 and
no register. -/
def Obligations.LinkWords : Prop :=
  ∀ (o : LK) (s : State) (c b : Nat), Ready s c b o.p →
    let h := s.hart c b
    let v := h.greg o.r.toNat
    let e := (s.core c).east b
    let w := (s.core c).west b
    (o.k = 0 → (s.hart c e).fromW.length < 4 → exec (.xsend o) s =
      .next ((s.setHart c e { s.hart c e with fromW := (s.hart c e).fromW ++ [v] }).retired c b .next)) ∧
    (o.k = 1 → (s.hart c w).fromE.length < 4 → exec (.xsend o) s =
      .next ((s.setHart c w { s.hart c w with fromE := (s.hart c w).fromE ++ [v] }).retired c b .next)) ∧
    (o.k = 2 → h.toCT.length < 4 → exec (.xsend o) s = .next (s.hartDone c b fun h => { h with toCT := h.toCT ++ [v] })) ∧
    (∀ x q, o.k = 0 → h.fromE = x :: q →
      exec (.xrecv o) s = .next (s.hartDone c b fun h => { h with fromE := q }.setG o.r.toNat x) ∧
      exec (.xpeek o) s = .next (s.hartDone c b fun h => { h with hp := true }.setG o.r.toNat x)) ∧
    (∀ x q, o.k = 1 → h.fromW = x :: q →
      exec (.xrecv o) s = .next (s.hartDone c b fun h => { h with fromW := q }.setG o.r.toNat x) ∧
      exec (.xpeek o) s = .next (s.hartDone c b fun h => { h with hp := true }.setG o.r.toNat x)) ∧
    (∀ x q, o.k = 2 → h.fromCT = x :: q →
      exec (.xrecv o) s = .next (s.hartDone c b fun h => { h with fromCT := q }.setG o.r.toNat x) ∧
      exec (.xpeek o) s = .next (s.hartDone c b fun h => { h with hp := true }.setG o.r.toNat x)) ∧
    ((o.k = 0 → h.fromE = []) → (o.k = 1 → h.fromW = []) → (2 ≤ o.k.toNat → h.fromCT = []) →
      exec (.xpeek o) s = .next (s.hartDone c b fun h => { h with hp := false }))

/-- R224, R221: HRD reads and HWR writes the special registers, field by field; EVT appends its record to the core's
event queue while that has room and the hart's copies are done. -/
def Obligations.SystemWords : Prop :=
  ∀ (o : RT) (e : R1) (s : State) (c b : Nat),
    let h := s.hart c b
    let v := h.greg o.r.toNat
    let read (x : Word) := s.hartDone c b fun h => h.setG o.r.toNat x
    (Ready s c b o.p →
      (o.t = 0 → exec (.hrd o) s = .next (read (h.vl.setWidth 64)) ∧
        exec (.hwr o) s = .next (s.hartDone c b fun h => { h with vl := v.setWidth 21 })) ∧
      (o.t = 1 → exec (.hrd o) s = .next (read (h.rmode.setWidth 64)) ∧
        (v.toNat % 8 < 6 → exec (.hwr o) s = .next (s.hartDone c b fun h => { h with rmode := v.setWidth 6 }))) ∧
      (o.t = 2 → exec (.hrd o) s = .next (read (h.egi.setWidth 64)) ∧ exec (.hwr o) s = .next (s.retired c b .next)) ∧
      (o.t = 3 → exec (.hrd o) s = .next (read (h.hpc.setWidth 64)) ∧ exec (.hwr o) s = .next (s.retired c b .next)) ∧
      (o.t = 4 → exec (.hrd o) s = .next (read (h.hcause.setWidth 64)) ∧ exec (.hwr o) s = .next (s.retired c b .next)) ∧
      (o.t = 5 → exec (.hrd o) s = .next (read h.htval) ∧ exec (.hwr o) s = .next (s.retired c b .next)) ∧
      (o.t = 6 → exec (.hrd o) s = .next (read (s.hstat c b)) ∧ exec (.hwr o) s = .next (s.retired c b .next)) ∧
      (o.t = 7 → exec (.hrd o) s = .next (read (h.seed.setWidth 64)) ∧
        exec (.hwr o) s = .next (s.hartDone c b fun h => { h with seed := if v.setWidth 32 = 0#32 then 1 else v.setWidth 32 })) ∧
      (o.t = 8 → exec (.hrd o) s = .next (read (s.tdesc c)) ∧ exec (.hwr o) s = .next (s.retired c b .next)) ∧
      (o.t = 9 → (∀ x ∈ (s.core c).engine, x.bank ≠ b) → exec (.hrd o) s = .next (read (h.flags.setWidth 64)) ∧
        exec (.hwr o) s = .next (s.hartDone c b fun h => { h with flags := v.setWidth 4 })) ∧
      (o.t = 10 → exec (.hrd o) s = .next (read (if h.hp then 1 else 0)) ∧
        exec (.hwr o) s = .next (s.hartDone c b fun h => { h with hp := v.getLsbD 0 }))) ∧
    (Ready s c b e.p → h.quiet = true → (s.core c).evq.length < 64 →
      exec (.evt e) s = .next ((s.setCore c { s.core c with evq := (s.core c).evq ++
        [{ cause := 0x88, src := 0, bank := BitVec.ofNat 8 b, gang := (s.core c).gangByte b, detail := h.greg e.r.toNat,
           time := s.now, hpc := h.hpc.setWidth 64, body := 0 }] }).retired c b .next))

/-- R138, R144, R400: what a hart's fault leaves, where no word behind the present one has issued (R463) and the outer-product
engine holds no operation of the hart (R360): the hart FAULTED
with its cause, detail and restart group, nothing in flight, its registers as they were; the fault's record in the event queue
where that has room, the hart's copies and ring entries are done (R375, R421) and no record of the hart waits; memory, control
thread and every other core unchanged. Cause 0x86 makes no record (R155). -/
def Sys2Proof.Claims.HartFaultTaken : Prop :=
  ∀ (s : State) (c b cause detail egi : Nat),
    let h := s.hart c b
    let t := s.hartFault c b cause detail egi
    h.young = [] → (∀ x ∈ (s.core c).engine, x.bank ≠ b) →
    (t.hart c b).st = .faulted ∧ (t.hart c b).hcause = BitVec.ofNat 8 cause ∧
      (t.hart c b).htval = BitVec.ofNat 64 detail ∧ (t.hart c b).egi = BitVec.ofNat 5 egi ∧
      (t.hart c b).pend = none ∧ (t.hart c b).g = h.g ∧ (t.hart c b).hpc = h.hpc ∧ (t.hart c b).vl = h.vl ∧
      (t.hart c b).hp = h.hp ∧ (t.hart c b).flags = h.flags ∧ (t.hart c b).seed = h.seed ∧
    (cause ≠ 0x86 → (s.core c).evq.length < 64 → h.evWait = [] → h.quiet = true →
      (t.core c).evq = (s.core c).evq ++ [s.faultRecord c b cause detail egi]) ∧
    (cause = 0x86 → (t.core c).evq = (s.core c).evq) ∧
    (∀ x, x ≠ b → t.hart c x = s.hart c x) ∧ (∀ x, t.bank c x = s.bank c x) ∧ t.ct c = s.ct c ∧
    (∀ d, d ≠ c → t.core d = s.core d) ∧ t.mem = s.mem ∧ t.side = s.side

/-- R222: TRAPI raises `0x08 TRAP_INSN` and BRK raises `0xC1 BRK_INSN`, with n in htval[41:32] and the word in htval[31:0];
the hart is suspended with `hpc` at the word. -/
def Sys2Proof.Claims.SoftwareTraps : Prop :=
  ∀ (o : N10) (s : State) (c b : Nat), Ready s c b o.p →
    (∃ t, exec (.trapi o) s = .next t ∧ (t.hart c b).st = .faulted ∧ (t.hart c b).hcause = 0x08 ∧
      (t.hart c b).htval = BitVec.ofNat 64 (o.n.toNat * 2 ^ 32 + (Instr.trapi o).word) ∧
      (t.hart c b).hpc = (s.hart c b).hpc ∧ (t.hart c b).g = (s.hart c b).g ∧ t.mem = s.mem) ∧
    (∃ t, exec (.brk o) s = .next t ∧ (t.hart c b).st = .faulted ∧ (t.hart c b).hcause = 0xc1 ∧
      (t.hart c b).htval = BitVec.ofNat 64 (o.n.toNat * 2 ^ 32 + (Instr.brk o).word) ∧
      (t.hart c b).hpc = (s.hart c b).hpc ∧ (t.hart c b).g = (s.hart c b).g ∧ t.mem = s.mem)

/-- What a fault of a hart leaves, and TRAPI and BRK: the claims `HartFaultTaken` and `SoftwareTraps`. -/
def Obligations.HartFaults : Prop := Sys2Proof.Claims.HartFaultTaken ∧ Sys2Proof.Claims.SoftwareTraps

/-- R303 to R306, R338: the configuration words. VCFG sets the tags of the registers its bitmap names, VTAG that of one;
SETVL sets `vl` and gd to the smaller of ga and the capacity of its gang or hart; SETRM sets `rmode`; MMODE turns matrix
mode on with `ml`, and its other forms turn it off and read `ml`. A bitmap of more than 16 bits, and an `ml` outside 1 to 256,
raise `0x07 OPERAND_VALUE` and change no tag and no `ml`; where the engine holds no operation of the hart (R360), no register
either. -/
def Sys2Proof.Claims.ConfigWords : Prop :=
  ∀ (o : RT) (v : SV) (m : RM) (r : R2) (k : R1) (p : P0) (s : State) (c b : Nat),
    let h := s.hart c b
    let refuses (i : Instr) (x w : Nat) := ∃ t, exec i s = .next t ∧ (t.hart c b).st = .faulted ∧
      (t.hart c b).hcause = 0x07 ∧ (t.hart c b).htval = BitVec.ofNat 64 (x % 2 ^ 32 * 2 ^ 32 + w) ∧
      (t.hart c b).g = h.g ∧ (t.hart c b).mmode = h.mmode ∧ (t.hart c b).ml = h.ml ∧
      (∀ r, (t.reg c b r).tag = (s.reg c b r).tag) ∧
      ((∀ x ∈ (s.core c).engine, x.bank ≠ b) → ∀ r, t.reg c b r = s.reg c b r)
    (Ready s c b o.p → (h.greg o.r.toNat).toNat < 2 ^ 16 →
      exec (.vcfg o) s = .next ((s.setTags c b (h.greg o.r.toNat).toNat o.t).retired c b .next)) ∧
    (Ready s c b o.p → 2 ^ 16 ≤ (h.greg o.r.toNat).toNat →
      refuses (.vcfg o) (h.greg o.r.toNat).toNat (Instr.vcfg o).word) ∧
    (Ready s c b k.p → ((h.greg k.r.toNat).toNat = 0 ∨ 256 < (h.greg k.r.toNat).toNat) →
      refuses (.mmode k) (h.greg k.r.toNat).toNat (Instr.mmode k).word) ∧
    (Ready s c b o.p → exec (.vtag o) s = .next ((s.setTags c b (2 ^ o.r.toNat) o.t).retired c b .next)) ∧
    (Ready s c b r.p → exec (.vtagRd r) s =
      .next (s.hartDone c b fun h => h.setG r.d.toNat ((s.reg c b r.a.toNat).tag.setWidth 64))) ∧
    (Ready s c b v.p → exec (.setvl v) s =
      let n := min (h.greg v.a.toNat).toNat (capOf v.t.toNat * (s.rank c b v.g).2)
      .next (s.hartDone c b fun h => { h with vl := BitVec.ofNat 21 n }.setG v.d.toNat (BitVec.ofNat 64 n))) ∧
    (Ready s c b m.p → exec (.setrm m) s = .next (s.hartDone c b fun h =>
      { h with rmode := BitVec.ofBool m.e ++ BitVec.ofBool m.n ++ BitVec.ofBool m.s ++ m.r })) ∧
    (Ready s c b k.p → 1 ≤ (h.greg k.r.toNat).toNat → (h.greg k.r.toNat).toNat ≤ 256 → exec (.mmode k) s =
      .next (s.hartDone c b fun h => { h with mmode := true, ml := (h.greg k.r.toNat).toNat })) ∧
    (Ready s c b k.p → exec (.mmodeRd k) s = .next (s.hartDone c b fun h => h.setG k.r.toNat (BitVec.ofNat 64 h.ml))) ∧
    (Ready s c b p.p → (∀ x ∈ (s.core c).engine, x.bank ≠ b) →
      exec (.mmodeOff p) s = .next (s.hartDone c b fun h => { h with mmode := false, ml := 0 }))

/-- R303: what setting tags leaves: the named registers have the tag, and their contents, latch state and arrival bits are
unchanged, as is every other register. -/
def Sys2Proof.Claims.TagsSet : Prop :=
  ∀ (s : State) (c b bitmap : Nat) (t : BitVec 4) (r : Nat),
    (s.setTags c b bitmap t).reg c b r =
      if r < 16 ∧ bitmap.testBit r then { s.reg c b r with tag := t } else s.reg c b r

/-- VCFG, VTAG, SETVL, SETRM and MMODE, and the values they refuse: the claims `ConfigWords` and `TagsSet`. -/
def Obligations.ConfigWords : Prop := Sys2Proof.Claims.ConfigWords ∧ Sys2Proof.Claims.TagsSet

/-! ## Rows and strips -/

/-- R228, R243: ACT and SLD leave the latch OPEN on the row their address names, clean, with the row's bytes as its
contents and every arrival bit set; SLD also advances its handle. Memory, masks, other registers, banks and harts are
unchanged. -/
def Sys2Proof.Claims.RowsOpened : Prop :=
  ∀ (o : RW) (k : HK) (s : State) (c b pa n : Nat),
    let h := s.hart c b
    let x := h.handle k.n.toNat
    let free (v : Nat) := s.actReady c b v = true ∧ s.held c b (.here pa) 8192 false = false ∧ s.tableFull c 1 = false ∧
      pa ∉ s.rown
    let opens (i : Instr) (v : Nat) (g : Hart) := ∃ t, exec i s = .next t ∧
      t.reg c b v = { s.reg c b v with bits := s.mem.slice pa 8192, latch := .opened, row := some pa, dirty := false,
                                       arrival := 0xffffffff, conds := s.rowConds pa } ∧
      (∀ r, r ≠ v → t.reg c b r = s.reg c b r) ∧ (t.bank c b).masks = (s.bank c b).masks ∧
      (∀ d e, ¬(d = c ∧ e = b) → t.bank d e = s.bank d e ∧ t.hart d e = s.hart d e) ∧
      t.hart c b = g.clean.advance .next ∧ t.mem = s.mem
    (Ready s c b o.p → o.g = false → s.rowAt c b o.k.toNat (h.greg o.a.toNat).toNat false = .ok (n, pa) →
      free o.k.toNat → opens (.act o) o.k.toNat h) ∧
    (Ready s c b k.p → k.g = false → x.count ≠ 0 → s.derivedRow c b k.k.toNat x.base.toNat
        (uval 48 ((x.base.toNat : Int) + x.pos * x.stride.toInt * 2 ^ 18)) false = .ok pa → free k.k.toNat →
      opens (.sld k) k.k.toNat { h with handles := h.handles.put k.n.toNat { x with pos := (x.pos + 1) % x.count.toNat } })

/-- R43, R44, R46 to R48, R51: the order of `Translate`'s checks, with cause and detail: an unaligned row `0x29`, an invalid address
space `0x28`, a VA beyond 48 bits `0x20`; at each of three levels an absent entry `0x20` and a malformed one `0x27`, with the level;
of the leaf the permissions `0x23`, a row's C and P `0x21` with NOTCMP and NOTPIN, and another module's page `0x26`. A table's line
that another module holds makes the walk wait until its owner has supplied it (R385). -/
def Sys2Proof.Claims.TranslateOrder : Prop :=
  ∀ (s : State) (asid va : Nat) (mach : Bool) (k : Kind) (reads writes : Bool),
    let d (level : Nat) := va % 2 ^ 48 + k.code * 2 ^ 48 + level * 2 ^ 50 + bnat writes * 2 ^ 52
    let space := s.bar.asidBase.toNat * 2 ^ 16 + 16 * asid
    let leaf (e level : Nat) : Except Cause Loc :=
      let size := if level = 2 then 2 ^ 30 else 2 ^ 21
      if (reads ∧ bit e 2 = false) ∨ (writes ∧ bit e 3 = false) ∨ (k = .fetch ∧ bit e 4 = false) ∨ (bit e 8 = false ∧ mach = false) then
        .error (0x23, d level)
      else if k = .row ∧ (bit e 5 = false ∨ bit e 6 = false) then
        .error (0x21, d level + (if bit e 5 then 0 else 2 ^ 53) + if bit e 6 then 0 else 2 ^ 54)
      else if fld e 58 6 ≠ s.flash.modId.toNat ∧ (bit e 7 = false ∨ k ≠ .col) then .error (0x26, d level)
      else .ok ⟨fld e 58 6, fld e 12 28 * 4096 + va % size, size, e⟩
    let entry (level table : Nat) (further : Nat → Except Cause Loc) : Except Cause Loc :=
      let a := table + 8 * (va / 2 ^ (48 - 9 * level) % 512)
      match s.tableBytes a 8 with
      | none => .error (walkWait, walkDetail a va)
      | some e =>
        if bit e 0 = false then .error (0x20, d level)
        else if malformed e level = true then .error (0x27, d level)
        else if bit e 1 then leaf e level
        else further (fld e 12 28 * 4096)
    s.translate asid mach va k reads writes =
      if k = .row ∧ va % 8192 ≠ 0 then .error (0x29, d 0)
      else match s.tableBytes space 16 with
        | none => .error (walkWait, walkDetail space va)
        | some e =>
          if bit e 0 = false ∨ fld e 64 64 ≠ 0 ∨ fld e 40 24 ≠ 0 ∨ fld e 1 11 ≠ 0 then .error (0x28, d 0)
          else if 2 ^ 48 ≤ va then .error (0x20, d 0)
          else entry 1 (fld e 12 28 * 4096) fun t1 => entry 2 t1 fun t2 => entry 3 t2 fun _ => .error (0x27, d 3)

/-- R48, R51, R52: what follows for a row: a core, a bank or a SAG that is not its own gives `0x25`, `0x24` or `0x2A`, in this order
and with LEVEL 0; a derived row outside the page of the row it is derived from gives `0x22`, after every check on each of the two.
ACT and WB of a row that a check refuses take its cause and detail and change no register; a WB of a CLOSED latch takes `0x0D` before
them. -/
def Sys2Proof.Claims.RowCheckOrder : Prop :=
  ∀ (o : RW) (s : State) (c b k va base : Nat) (writes : Bool),
    let d (va : Nat) := va % 2 ^ 48 + bnat writes * 2 ^ 52
    let at_ (va : Nat) : Except Cause (Nat × Nat) :=
      match s.translateOn c false va .row (!writes) writes with
      | .error e => .error e
      | .ok l =>
        if l.pa / 2 ^ 30 % 1024 ≠ c then .error (0x25, d va)
        else if l.pa / 2 ^ 13 % 32 ≠ b then .error (0x24, d va)
        else if l.pa / 2 ^ 27 % 8 ≠ k then .error (0x2a, d va)
        else .ok (l.size, l.pa)
    let refuses (i : Instr) (cause detail : Nat) := ∃ t, exec i s = .next t ∧ (t.hart c b).st = .faulted ∧
      (t.hart c b).hcause = cause ∧ (t.hart c b).htval = BitVec.ofNat 64 detail ∧ (t.hart c b).g = (s.hart c b).g ∧
      ((∀ x ∈ (s.core c).engine, x.bank ≠ b) → ∀ r, t.reg c b r = s.reg c b r) ∧ t.mem = s.mem
    let row := ((s.hart c b).greg o.a.toNat).toNat
    s.rowAt c b k va writes = at_ va ∧
    (s.derivedRow c b k base va writes = match at_ base, at_ va with
      | .error e, _ => .error e
      | .ok _, .error e => .error e
      | .ok x, .ok y => if va / x.1 = base / x.1 then .ok y.2 else .error (0x22, d va)) ∧
    (Ready s c b o.p → o.g = false →
      (∀ cause detail, cause ≠ walkWait → s.rowAt c b o.k.toNat row false = .error (cause, detail) →
        refuses (.act o) cause detail) ∧
      ((s.reg c b o.k.toNat).latch = .closed → refuses (.wb o) 0x0d 0 ∧ refuses (.wbp o) 0x0d 0) ∧
      ((s.reg c b o.k.toNat).latch ≠ .closed → ∀ cause detail, cause ≠ walkWait →
        s.rowAt c b o.k.toNat row true = .error (cause, detail) → refuses (.wb o) cause detail ∧ refuses (.wbp o) cause detail))

/-- Rows opened, and the checks that refuse an address: the claims `RowsOpened`, `TranslateOrder` and `RowCheckOrder`. -/
def Obligations.RowsOpened : Prop :=
  Sys2Proof.Claims.RowsOpened ∧ Sys2Proof.Claims.TranslateOrder ∧ Sys2Proof.Claims.RowCheckOrder

/-- R228, R229, R243: WB, WBP and SST write the latch's contents to the whole row they name; the latch is then bound to the
row and clean, or CLOSED after WBP; SST also advances its handle. Every byte outside the row, masks, other registers,
banks and harts are unchanged. -/
def Sys2Proof.Claims.RowsWritten : Prop :=
  ∀ (o : RW) (k : HK) (s : State) (c b pa n : Nat),
    let h := s.hart c b
    let x := h.handle k.n.toNat
    let va := (h.greg o.a.toNat).toNat
    let free (v : Nat) := (s.reg c b v).latch ≠ .closed ∧ s.wbReady c b v = true ∧
      s.held c b (.here pa) 8192 true = false ∧ s.tableFull c 1 = false ∧ pa ∉ s.rshr ∧ pa ∉ s.rown
    let kept (y : VReg) := { y with latch := .opened, row := some pa, dirty := false }
    let dropped (y : VReg) := { y with latch := .closed, row := none, dirty := false, conds := [] }
    let writes (i : Instr) (v : Nat) (y : VReg) (g : Hart) := ∃ t, exec i s = .next t ∧
      t.mem = s.mem.place pa 13 ((s.reg c b v).content v) ∧ t.reg c b v = y ∧
      (∀ r, r ≠ v → t.reg c b r = s.reg c b r) ∧ (t.bank c b).masks = (s.bank c b).masks ∧
      (∀ d e, ¬(d = c ∧ e = b) → t.bank d e = s.bank d e ∧ t.hart d e = s.hart d e) ∧
      t.hart c b = g.clean.advance .next
    (Ready s c b o.p → o.g = false → s.rowAt c b o.k.toNat va true = .ok (n, pa) → free o.k.toNat →
      writes (.wb o) o.k.toNat (kept (s.reg c b o.k.toNat)) h ∧
      writes (.wbp o) o.k.toNat (dropped (s.reg c b o.k.toNat)) h) ∧
    (Ready s c b k.p → k.g = false → x.count ≠ 0 → s.derivedRow c b k.k.toNat x.base.toNat
        (uval 48 ((x.base.toNat : Int) + x.pos * x.stride.toInt * 2 ^ 18)) true = .ok pa → free k.k.toNat →
      writes (.sst k) k.k.toNat (kept (s.reg c b k.k.toNat))
        { h with handles := h.handles.put k.n.toNat { x with pos := (x.pos + 1) % x.count.toNat } })

/-- R5, R228: a row placed in memory in canonical form reads back as it was written, and every byte outside it stays. -/
def Sys2Proof.Claims.RowStoreReadsBack : Prop :=
  ∀ (m : Mem) (pa v : Nat), m.wf = true → v < 2 ^ 65536 →
    (m.place pa 13 v).slice pa 8192 = v ∧ (m.place pa 13 v).wf = true ∧
      ∀ a, a < pa ∨ pa + 8192 ≤ a → (m.place pa 13 v).get a = m.get a

/-- Rows written, and read back from memory: the claims `RowsWritten` and `RowStoreReadsBack`. -/
def Obligations.RowsWritten : Prop := Sys2Proof.Claims.RowsWritten ∧ Sys2Proof.Claims.RowStoreReadsBack

/-- R231, R235, R242, R244: PRE closes its latch; REF refreshes n rows; SDEF sets a handle; SPOS sets its position and
SPOS.RD reads it. A base, count or position that a handle does not admit raises `0x07 OPERAND_VALUE` and leaves the handles. REF's
`unitUsed`, by which an array operation that has waited for a Fen step ends the SAG's rest, is the model's reading: DEDUCED, log 76. -/
def Obligations.LatchAndHandleWords : Prop :=
  ∀ (g : KG) (n : KN) (d : HD) (p : HP) (s : State) (c b : Nat),
    let h := s.hart c b
    let y := s.reg c b g.k.toNat
    let z := (s.bank c b).sag n.k.toNat
    let va := h.greg d.a.toNat
    let v := h.greg d.b.toNat
    let x := h.handle p.n.toNat
    let pos := h.greg p.r.toNat
    let setHandle (k : Nat) (e : Handle) := s.hartDone c b fun h => { h with handles := h.handles.put k e }
    let refuses (i : Instr) (x w : Nat) := ∃ t, exec i s = .next t ∧ (t.hart c b).st = .faulted ∧
      (t.hart c b).hcause = 0x07 ∧ (t.hart c b).htval = BitVec.ofNat 64 (x % 2 ^ 32 * 2 ^ 32 + w) ∧
      (t.hart c b).g = h.g ∧ (t.hart c b).handles = h.handles
    (Ready s c b g.p → g.g = false → s.canWrite c b g.k.toNat = true → exec (.pre g) s =
      .next ((s.setReg c b g.k.toNat { y with latch := .closed, row := none, dirty := false, conds := [],
                                              arrival := 0xffffffff }).retired c b .next)) ∧
    (Ready s c b n.p → s.sagIdle c b n.k.toNat = true → exec (.ref n) s =
      .next (((s.setBank c b ((s.bank c b).setSag n.k.toNat
        { z with owed := z.owed - (n.n.toNat + 1), ptr := (z.ptr + (n.n.toNat + 1)) % 528, busy := false })).unitUsed 2
          (sagUnit c b n.k.toNat)).retired c b .next)) ∧
    (Ready s c b d.p → va.toNat % 8192 = 0 → va.toNat < 2 ^ 48 → v.toNat < 2 ^ 32 → v.toNat / 2 ^ 16 ≠ 0 →
      exec (.sdef d) s = .next (setHandle d.n.toNat
        { base := va, stride := v.setWidth 16, count := (v >>> 16).setWidth 16, pos := 0 })) ∧
    (Ready s c b p.p → pos.toNat < x.count.toNat →
      exec (.spos p) s = .next (setHandle p.n.toNat { x with pos := pos.toNat })) ∧
    (Ready s c b d.p → (va.toNat % 8192 ≠ 0 ∨ 2 ^ 48 ≤ va.toNat) → refuses (.sdef d) va.toNat (Instr.sdef d).word) ∧
    (Ready s c b d.p → va.toNat % 8192 = 0 → va.toNat < 2 ^ 48 → (2 ^ 32 ≤ v.toNat ∨ v.toNat / 2 ^ 16 = 0) →
      refuses (.sdef d) v.toNat (Instr.sdef d).word) ∧
    (Ready s c b p.p → x.count.toNat ≤ pos.toNat → refuses (.spos p) pos.toNat (Instr.spos p).word) ∧
    (Ready s c b p.p → exec (.sposRd p) s = .next (s.hartDone c b fun h => h.setG p.r.toNat (BitVec.ofNat 64 x.pos)))

/-! ## Vector words -/

/-- R307 to R310: VSPLAT and VINSR run as their lane plans; VEXTR gives gd the element's encoding, sign-extended under a
signed integer tag, or 0 with OOR for an index at or beyond the length. -/
def Sys2Proof.Claims.ElementMoves : Prop :=
  ∀ (o : VS) (e : VE) (s : State) (c b : Nat),
    let h := s.hart c b
    let t := s.tag c b e.a.toNat
    let x := (h.greg e.b.toNat).toNat
    let code := elemAt ((s.reg c b e.a.toNat).content e.a.toNat) (tagBits t) x
    ((splatWord o).Goes s c b → exec (.vsplat o) s = .next ((splatWord o).done s c b)) ∧
    ((insertWord e).Goes s c b → exec (.vinsr e) s = .next ((insertWord e).done s c b)) ∧
    (Ready s c b e.p → e.g = false → s.canRead c b e.a.toNat = true → s.consumeFrom c b [] [e.a.toNat] 0 = none →
      exec (.vextr e) s = .next (s.hartDone c b fun h =>
        if x < min h.vl.toNat (capOf t) then
          h.setG e.d.toNat (if t < 8 ∧ t % 2 = 0 then BitVec.ofInt 64 (sval (tagBits t) code) else BitVec.ofNat 64 code)
        else { h with flags := h.flags ||| 4 }.setG e.d.toNat 0))

/-- R313, R318, R325: bitwise operations, shifts, selects and carries act on the encodings of one size. -/
def Sys2Proof.Claims.EncodingWords : Prop :=
  ∀ (o : V3) (i : Instr) (x : LaneWord),
    (i, x) ∈ ([(.vand o, bitWord (.vand o) o anyTag false fun _ _ a b => a &&& b),
      (.vor o, bitWord (.vor o) o anyTag false fun _ _ a b => a ||| b),
      (.vxor o, bitWord (.vxor o) o anyTag false fun _ _ a b => a ^^^ b),
      (.vsll o, bitWord (.vsll o) o isIR false fun w _ a b => a * 2 ^ (b % w) % 2 ^ w),
      (.vsrl o, bitWord (.vsrl o) o isIR false fun w _ a b => a / 2 ^ (b % w)),
      (.vsra o, bitWord (.vsra o) o isIR false fun w _ a b => uval w (sval w a / (2 ^ (b % w) : Nat))),
      (.vsel o, bitWord (.vsel o) o anyTag true fun _ m a b => if m then a else b),
      (.vadc o, carryWord (.vadc o) o fun a b c => a + b + c), (.vsbc o, carryWord (.vsbc o) o fun a b c => a - b - c),
      (.vaddm o, carryWord (.vaddm o) o fun a b _ => a + b)] : List (Instr × LaneWord)) →
    ∀ (s : State) (c b : Nat), x.Goes s c b → exec i s = .next (x.done s c b)

/-- VSPLAT, VINSR, VEXTR, and the words on encodings: the claims `ElementMoves` and `EncodingWords`. -/
def Obligations.MovesAndEncodings : Prop := Sys2Proof.Claims.ElementMoves ∧ Sys2Proof.Claims.EncodingWords

/-- R311 to R315: the words of majors 0x18 and 0x1A: the tags they permit, and the exact result of an element from a, b and
vd's old value, converted once. -/
def Sys2Proof.Claims.ValueWords : Prop :=
  ∀ (o : V3) (i : Instr) (x : ValOp),
    (i, x) ∈ ([(.vadd o, binVal isIFQ isIFQT fun m a b => a.add m.rdn b),
      (.vsub o, binVal isIFQ isIFQT fun m a b => a.sub m.rdn b), (.vmul o, binVal isIFQ isIFQT fun _ a b => a.mul b),
      (.vmulh o, mulhOp), (.vdiv o, divOp), (.vrem o, binVal isI isI fun _ a b => .ofInt (a.int.tmod b.int)),
      (.vmin o, binVal isIFQ isIFQT fun _ a b => a.min b), (.vmax o, binVal isIFQ isIFQT fun _ a b => a.max b),
      (.vabsd o, binVal isIFQ isIFQT fun m a b => (a.sub m.rdn b).abs),
      (.vfma o, fmaVal fun m a b c => (a.mul b).add m.rdn c), (.vfms o, fmaVal fun m a b c => (a.mul b).sub m.rdn c),
      (.vfnma o, fmaVal fun m a b c => c.sub m.rdn (a.mul b)), (.vminadd o, minaddOp)] : List (Instr × ValOp)) →
    ∀ (s : State) (c b : Nat), (valueWord i o x).Goes s c b → exec i s = .next ((valueWord i o x).done s c b)

/-- R249, R293, R316, R319: the words of one source. -/
def Sys2Proof.Claims.UnaryWords : Prop :=
  ∀ (o : V2) (i : Instr) (x : UnOp),
    (i, x) ∈ ([(.vmov o, movOp), (.vneg o, unVal XVal.neg), (.vabs o, unVal XVal.abs), (.vnot o, notOp),
      (.vclz o, countVal clzBits), (.vpopc o, countVal popBits), (.vsqrt o, transOp .sqrt), (.vrcp o, transOp .rcp),
      (.vrsqrt o, transOp .rsqrt), (.vexp2 o, transOp .exp2), (.vlog2 o, transOp .log2), (.vtanh o, transOp .tanh),
      (.vcvt o, cvtOp)] : List (Instr × UnOp)) →
    ∀ (s : State) (c b : Nat), (unaryWord i o x).Goes s c b → exec i s = .next ((unaryWord i o x).done s c b)

/-- R168, R276 to R279, R283, R286, R287, R289, R295, R311, R312, R314, R315: the words of two or three sources on one hart complete
with `Convert` of their exact value for each element acted on, in ascending order: from va, from vb or the splat, and from vd's old
value. In INT a zero has no sign, and VDIV by zero gives an end of vd's range with SAT; a T2 code 10 that is read raises INEXACT. -/
def Sys2Proof.Claims.ValueWordsComplete : Prop :=
  ∀ (o : V3) (s : State) (c b splat : Nat),
    let td := s.tag c b o.d.toNat
    let ta := s.tag c b o.a.toNat
    let tb := if o.f = 0 then s.tag c b o.b.toNat else ta
    let rm := rmOf (s.hart c b).rmode
    let n := min (capOf td) (min (capOf ta) (capOf tb))
    let second (k : Nat) := if o.f = 0 then s.elem c b o.b.toNat k else splat
    let scale (k : Nat) := elemAt ((s.reg c b 15).content 15) 8 (k / 4)
    let scaled := isQ td || isQ ta || isQ tb
    let reads (third : Bool) := o.a.toNat :: (if o.f = 0 then [o.b.toNat] else []) ++ (if third then [o.d.toNat] else []) ++
      if scaled then [15] else []
    let runs (i : Instr) (third : Bool) (f : Dom → Nat → XVal → XVal → XVal → Rd → Nat × Rd) :=
      Clear s c b o.p (reads third) [o.d.toNat] → ∃ t, exec i s = .next t ∧
        ComputesAlone s t c b o.d.toNat (tagBits td) n [o.d.toNat] (s.acting c b n td o.m.toNat) fun k r =>
          f ⟨td, (isI ta || isT ta) && (isI tb || isT tb) && (!third || isI td || isT td), rm⟩ (scale k)
            (valueOf ta (s.elem c b o.a.toNat k) (scale k)) (valueOf tb (second k) (scale k))
            (valueOf td (s.elem c b o.d.toNat k) (scale k))
            (if (ta = 14 ∧ s.elem c b o.a.toNat k = 2) ∨ (tb = 14 ∧ second k = 2) then { r with fl := r.fl ||| 8 } else r)
    let zero (m : Dom) := !m.int && decide (rm.rm = 2)
    let two (i : Instr) (f : Dom → XVal → XVal → XVal) := runs i false fun m sc x y _ r =>
      converted td rm sc [x, y] (m.clean (f m x y)) r
    let three (i : Instr) (f : Dom → XVal → XVal → XVal → XVal) := runs i true fun m sc x y z r =>
      converted td rm sc [x, y, z] (m.clean (f m x y z)) r
    o.g = false → o.f ≠ 3 → (o.f = 0 ∨ splatEnc ta o.f.toNat ((s.hart c b).greg o.b.toNat) o.b = some splat) →
    (scaled = true → o.d ≠ 15 ∧ (s.tag c b 15 = 1 ∨ s.tag c b 15 = 15)) →
    (isIFQ td = true → isIFQT ta = true → isIFQT tb = true →
      two (.vadd o) (fun m x y => x.add (zero m) y) ∧ two (.vsub o) (fun m x y => x.add (zero m) y.neg) ∧
      two (.vmul o) (fun _ x y => x.mul y) ∧ two (.vmin o) (fun _ x y => x.min y) ∧ two (.vmax o) (fun _ x y => x.max y) ∧
      two (.vabsd o) (fun m x y => (x.add (zero m) y.neg).abs) ∧
      runs (.vdiv o) false fun m sc x y _ r =>
        if m.int = false then converted td rm sc [x, y] (x.div y) r
        else if y.int = 0 then
          (if td < 8 then encInt td (if x.int < 0 then intMin td else intMax td)
            else if td = 13 then (if x.int < 0 then 0xf else 7)
            else (fmtOf td).signed (decide (x.int < 0)) (fmtOf td).maxCode, { r with fl := r.fl ||| 1 })
        else converted td rm sc [x, y] (.ofInt (x.int.tdiv y.int)) r) ∧
    (isI td = true → isI ta = true → isI tb = true →
      two (.vmulh o) (fun _ x y => .ofInt (x.int * y.int / (2 ^ tagBits td : Nat))) ∧
      two (.vrem o) (fun _ x y => .ofInt (if y.int = 0 then x.int else x.int - y.int * x.int.tdiv y.int))) ∧
    (isIF td = true → isIFQT ta = true → isIFQT tb = true →
      three (.vfma o) (fun m x y z => (x.mul y).add (zero m) z) ∧
      three (.vfms o) (fun m x y z => (x.mul y).add (zero m) z.neg) ∧
      three (.vfnma o) (fun m x y z => z.add (zero m) (x.mul y).neg)) ∧
    (isIF td = true → isIF ta = true → isIF tb = true →
      runs (.vminadd o) true fun m _ x y z r =>
        let v := if x.isNan || y.isNan || z.isNan then .nan else z.min (x.add (zero m) y)
        if td < 8 then
          match v with
          | .nan => (0, { r with fl := r.fl ||| 1 })
          | .inf neg => (encInt td (if neg then intMin td else intMax td), { r with fl := r.fl ||| 1 })
          | .fin p q _ =>
            let e := if p % (q : Int) = 0 then (p / (q : Int), r) else roundInt rm.rm p q r
            satInt td e.1 e.2
        else
          let e := roundFloat (fmtOf td) rm.rm v r
          if v.isFin && !((fmtOf td).value e.1).isFin then
            ((fmtOf td).signed v.isNeg (fmtOf td).maxCode, { e.2 with fl := e.2.fl ||| 1 })
          else (e.1, e.2.nanIf (nanCode td e.1) [x, y, z]))

/-- R249, R276 to R279, R283, R286, R287, R289, R293, R295, R316, R319: the words of one source on one hart complete with their
result for each element acted on, in ascending order: VMOV and VNOT on encodings of one size; VNEG and VABS by one `Convert`; VCLZ
and VPOPC of the encoding's bits; the six functions of R293 rounded to FP32 and converted once; VCVT by `Convert`, or to T2. -/
def Sys2Proof.Claims.UnaryWordsComplete : Prop :=
  ∀ (o : V2) (s : State) (c b : Nat),
    let td := s.tag c b o.d.toNat
    let ta := s.tag c b o.a.toNat
    let w := tagBits ta
    let rm := rmOf (s.hart c b).rmode
    let n := min (capOf td) (capOf ta)
    let scale (k : Nat) := elemAt ((s.reg c b 15).content 15) 8 (k / 4)
    let scaled := isQ td || isQ ta
    let lands (i : Instr) (f : Nat → Rd → Nat × Rd) := ∃ t, exec i s = .next t ∧
      ComputesAlone s t c b o.d.toNat (tagBits td) n [o.d.toNat] (s.acting c b n td o.m.toNat) f
    let values (i : Instr) (f : Nat → XVal → Rd → Nat × Rd) := lands i fun k r =>
      f (scale k) (valueOf ta (s.elem c b o.a.toNat k) (scale k))
        (if ta = 14 ∧ s.elem c b o.a.toNat k = 2 then { r with fl := r.fl ||| 8 } else r)
    let exact (x : XVal) := (⟨td, isI ta || isT ta, rm⟩ : Dom).clean x
    o.g = false →
    (Clear s c b o.p [o.a.toNat] [o.d.toNat] → tagBits td = w →
      lands (.vmov o) (fun k r => (s.elem c b o.a.toNat k, r)) ∧
      lands (.vnot o) (fun k r => (2 ^ w - 1 - s.elem c b o.a.toNat k, r))) ∧
    (Clear s c b o.p [o.a.toNat] [o.d.toNat] → isI td = true → (isI ta = true ∨ ta = 15) →
      lands (.vclz o) (fun k r => convertInt td rm (.ofInt ((List.range w).takeWhile fun j =>
        !(s.elem c b o.a.toNat k).testBit (w - 1 - j)).length) r) ∧
      lands (.vpopc o) (fun k r => convertInt td rm (.ofInt ((List.range w).filter fun j =>
        (s.elem c b o.a.toNat k).testBit j).length) r)) ∧
    (Clear s c b o.p (o.a.toNat :: if scaled then [15] else []) [o.d.toNat] →
      (scaled = true → o.d ≠ 15 ∧ (s.tag c b 15 = 1 ∨ s.tag c b 15 = 15)) →
      (isIFQ td = true → isIFQT ta = true →
        values (.vneg o) (fun sc x r => converted td rm sc [x] (exact x.neg) r) ∧
        values (.vabs o) (fun sc x r => converted td rm sc [x] (exact x.abs) r) ∧
        values (.vcvt o) (fun sc x r => converted td rm sc [x] (exact x) r)) ∧
      (isIFQ td = true → isIFQ ta = true → ∀ i f, (i, f) ∈ ([(.vsqrt o, .sqrt), (.vrcp o, .rcp), (.vrsqrt o, .rsqrt),
          (.vexp2 o, .exp2), (.vlog2 o, .log2), (.vtanh o, .tanh)] : List (Instr × TransOp)) →
        values i fun sc x r =>
          let y := roundFloat fmtFP32 0 (transVal f x) r
          converted td rm sc [x] (fmtFP32.value y.1) y.2) ∧
      (td = 14 → isIFQT ta = true → values (.vcvt o) fun _ x r => match x with
        | .nan => (0, { r with fl := r.fl ||| 8 })
        | x =>
          let e := convertInt 0 { rm with sat := true } x r
          let v := sval 8 e.1
          (if v < 0 then 3 else if 0 < v then 1 else 0, if v < -1 ∨ 1 < v then { e.2 with fl := e.2.fl ||| 1 } else e.2)))

/-- The words of two or three sources, and of one, and the results of their elements: the claims `ValueWords`, `UnaryWords`,
`ValueWordsComplete` and `UnaryWordsComplete`. -/
def Obligations.ValueWords : Prop :=
  Sys2Proof.Claims.ValueWords ∧ Sys2Proof.Claims.UnaryWords ∧ Sys2Proof.Claims.ValueWordsComplete ∧
    Sys2Proof.Claims.UnaryWordsComplete

/-- R281, R282, R317, R319 to R323, R332, R335: compares into masks, conversions with scales, and the moves between masks and
registers. -/
def Sys2Proof.Claims.CompareAndConvertWords : Prop :=
  ∀ (o : VM) (q : V2) (k : VX) (u : VI) (f : MV) (g : M4) (i : Instr) (x : LaneWord),
    (i, x) ∈ ([(.vcmpEq o, cmpWord (.vcmpEq o) o 0), (.vcmpNe o, cmpWord (.vcmpNe o) o 1),
      (.vcmpLt o, cmpWord (.vcmpLt o) o 2), (.vcmpLe o, cmpWord (.vcmpLe o) o 3), (.vcmpGt o, cmpWord (.vcmpGt o) o 4),
      (.vcmpGe o, cmpWord (.vcmpGe o) o 5), (.vcmpUnord o, cmpWord (.vcmpUnord o) o 6),
      (.vcvtmxImp k, mxImpWord k), (.vcvtmxExp k, mxExpWord k), (.vquant q, quantWord q),
      (.viota u, iotaWord u), (.mfromv f, fromvWord f), (.mtov g, tovWord g)] : List (Instr × LaneWord)) →
    ∀ (s : State) (c b : Nat), x.Goes s c b → exec i s = .next (x.done s c b)

/-- R325 to R327: each permute as the pairs of destination and source index it moves, over the indices that act. -/
def Sys2Proof.Claims.PermuteWords : Prop :=
  ∀ (o : V3) (q : V2) (v : VC) (i : Instr) (x : LaneWord),
    (i, x) ∈ ([(.vslup o, permWord (.vslup o) o.d.toNat o.a.toNat o.m.toNat o.g o.p false (amountOf o) fun p =>
        p.local ((p.mine.filter fun j => decide (p.k ≤ j)).map fun j => (j, j - p.k))),
      (.vsldn o, permWord (.vsldn o) o.d.toNat o.a.toNat o.m.toNat o.g o.p false (amountOf o) fun p =>
        p.local ((p.mine.filter fun j => decide (j + p.k < p.n)).map fun j => (j, j + p.k))),
      (.vrev q, permWord (.vrev q) q.d.toNat q.a.toNat q.m.toNat q.g q.p false noAmount fun p =>
        p.local (p.mine.map fun j => (j, p.n - 1 - j))),
      (.vcmprs q, permWord (.vcmprs q) q.d.toNat q.a.toNat q.m.toNat q.g q.p true noAmount fun p =>
        p.local (p.picked.zipIdx.map fun e => (e.2, e.1))),
      (.vexpnd q, permWord (.vexpnd q) q.d.toNat q.a.toNat q.m.toNat q.g q.p true noAmount fun p =>
        p.local p.picked.zipIdx),
      (.vgathr v, gatherRegWord v)] : List (Instr × LaneWord)) →
    ∀ (s : State) (c b : Nat), x.Goes s c b → exec i s = .next (x.done s c b)

/-- Compares, conversions with scales, moves between masks and registers, and permutes: the claims `CompareAndConvertWords`
and `PermuteWords`. -/
def Obligations.CompareConvertPermute : Prop := Sys2Proof.Claims.CompareAndConvertWords ∧ Sys2Proof.Claims.PermuteWords

/-- R273, R295, R317, R335: a compare of two registers of I or F tags, and MFROMV, complete with the mask bits that the elements
acted on give; every other mask bit, the other masks and every register stay. -/
def Obligations.CompareWordsComplete : Prop :=
  ∀ (o : VM) (v : MV) (s : State) (c b : Nat),
    let ta := s.tag c b o.a.toNat
    let tb := s.tag c b o.b.toNat
    let n := min (capOf ta) (capOf tb)
    let marks (t : State) (d : BitVec 3) (acts bit : Nat → Bool) :=
      (∀ k, ((t.bank c b).mask d.toNat).testBit k =
        if d ≠ 0 ∧ acts k = true then bit k else ((s.bank c b).mask d.toNat).testBit k) ∧
      (∀ m, m ≠ d.toNat → (t.bank c b).mask m = (s.bank c b).mask m) ∧ (t.hart c b).g = (s.hart c b).g ∧ Stays s t c b []
    let compares (i : Instr) (cc : Nat) := ∃ t, exec i s = .next t ∧ marks t o.d (s.acting c b n 0 o.m.toNat) fun k =>
      cmpHolds cc (valueOf ta (s.elem c b o.a.toNat k) 0) (valueOf tb (s.elem c b o.b.toNat k) 0)
    (Clear s c b o.p [o.a.toNat, o.b.toNat] [] → o.g = false → o.f = 0 → isIF ta = true → isIF tb = true →
      compares (.vcmpEq o) 0 ∧ compares (.vcmpNe o) 1 ∧ compares (.vcmpLt o) 2 ∧ compares (.vcmpLe o) 3 ∧
      compares (.vcmpGt o) 4 ∧ compares (.vcmpGe o) 5 ∧ compares (.vcmpUnord o) 6) ∧
    (Clear s c b v.p [v.a.toNat] [] → isIFR (s.tag c b v.a.toNat) = true → ∃ t, exec (.mfromv v) s = .next t ∧
      marks t v.d (s.acting c b (capOf (s.tag c b v.a.toNat)) 0 0) fun k =>
        nonzero (s.tag c b v.a.toNat) (s.elem c b v.a.toNat k))

/-- R277, R281, R282, R320 to R323, R332, R335: VCVTMX, VQUANT, VIOTA and MTOV of one hart complete with the results that the
rules give for the elements acted on, in every mode, with their flags and draws (R199, R289); VCVTMX to MX and VQUANT also give each
block of `w7` that holds one its scale byte. MTOV takes no draw: DESIGN CHOICE, log 96. -/
def Obligations.ConversionWordsComplete : Prop :=
  ∀ (o : VX) (q : V2) (u : VI) (v : M4) (s : State) (c b : Nat),
    let rm := rmOf (s.hart c b).rmode
    let imp := s.acting c b (min (capOf (s.tag c b o.d.toNat)) (mxCap o.t.toNat)) (s.tag c b o.d.toNat) o.m.toNat
    let scaled (i : Instr) (d a w size n m : Nat) (scale : List XVal → Nat) (code : Nat → XVal → Rd → Nat × Rd) :=
      let acts := s.acting c b n (s.tag c b a) m
      let val (k : Nat) := valueOf (s.tag c b a) (s.elem c b a k) 0
      let byte (p : Nat) := match ((List.range size).map fun j => p * size + j).filter acts with
        | [] => elemAt ((s.reg c b 15).content 15) 8 p
        | ks => scale (ks.map val)
      ∃ t, exec i s = .next t ∧ (∀ p, p < 8192 → elemAt (t.reg c b 15).bits 8 p = byte p) ∧
        ComputesAlone s t c b d w n [d, 15] acts fun k r => code (byte (k / size)) (val k) r
    let scales := s.tag c b 15 = 1 ∨ s.tag c b 15 = 15
    (Clear s c b o.p [o.a.toNat, 15] [o.d.toNat] → o.g = false → o.d ≠ 15 → isIF (s.tag c b o.d.toNat) = true →
      s.tag c b o.a.toNat = 15 → scales → ∃ t, exec (.vcvtmxImp o) s = .next t ∧
        ComputesAlone s t c b o.d.toNat (tagBits (s.tag c b o.d.toNat)) (min (capOf (s.tag c b o.d.toNat)) (mxCap o.t.toNat))
          [o.d.toNat] imp fun k r =>
            let x := mxValue o.t.toNat (elemAt ((s.reg c b o.a.toNat).content o.a.toNat) (mxBits o.t.toNat) k)
              (elemAt ((s.reg c b 15).content 15) 8 (k / 32))
            converted (s.tag c b o.d.toNat) rm 0 [x] x r) ∧
    (Clear s c b o.p [o.a.toNat] [o.d.toNat, 15] → o.g = false → o.d ≠ 15 → o.a ≠ 15 → o.d ≠ o.a →
      s.tag c b o.d.toNat = 15 → isIF (s.tag c b o.a.toNat) = true → scales →
      scaled (.vcvtmxExp o) o.d.toNat o.a.toNat (mxBits o.t.toNat) 32 (min (capOf (s.tag c b o.a.toNat)) (mxCap o.t.toNat))
        o.m.toNat (mxExport o.t.toNat) (mxEncode o.t.toNat rm)) ∧
    (Clear s c b q.p [q.a.toNat] [q.d.toNat, 15] → q.g = false → q.d ≠ 15 → q.a ≠ 15 → q.d ≠ q.a →
      s.tag c b q.d.toNat = 13 → isIF (s.tag c b q.a.toNat) = true → scales →
      scaled (.vquant q) q.d.toNat q.a.toNat 4 4 (capOf (s.tag c b q.a.toNat)) q.m.toNat quantScale (convert 13 rm)) ∧
    (Clear s c b u.p [] [u.d.toNat] → isI (s.tag c b u.d.toNat) = true →
      let acts := s.acting c b (capOf (s.tag c b u.d.toNat)) 0 u.m.toNat
      let before (k : Nat) := ((List.range k).filter fun j => acts j && ((s.bank c b).mask u.a.toNat).testBit j).length
      ∃ t, exec (.viota u) s = .next t ∧
        ComputesAlone s t c b u.d.toNat (tagBits (s.tag c b u.d.toNat)) (capOf (s.tag c b u.d.toNat)) [u.d.toNat] acts fun k r =>
          convertInt (s.tag c b u.d.toNat) rm (.ofInt (before k)) r) ∧
    (Clear s c b v.p [] [v.d.toNat] → isIFR (s.tag c b v.d.toNat) = true → ∃ t, exec (.mtov v) s = .next t ∧
      ComputesAlone s t c b v.d.toNat (tagBits (s.tag c b v.d.toNat)) (capOf (s.tag c b v.d.toNat)) [v.d.toNat]
        (s.acting c b (capOf (s.tag c b v.d.toNat)) 0 0) fun k r =>
          (if ((s.bank c b).mask v.a.toNat).testBit k then oneEnc (s.tag c b v.d.toNat) else 0, r))

/-- R325 to R327: each permute of one hart completes with the elements it moves; VGATHR gives 0 for an index out of range. -/
def Obligations.PermuteWordsComplete : Prop :=
  ∀ (o : V3) (q : V2) (v : VC) (s : State) (c b : Nat),
    let lands (i : Instr) (d : Nat) (f : Nat → Option Nat) := ∃ t, exec i s = .next t ∧
      Lands s t c b d (tagBits (s.tag c b d)) [d] f
    let reach (d : Nat) := min (capOf (s.tag c b d)) (s.hart c b).vl.toNat
    let amount := if o.f = 1 then ((s.hart c b).greg o.b.toNat).toNat else o.b.toNat
    let acts := s.acting c b (capOf (s.tag c b o.d.toNat)) (s.tag c b o.d.toNat) o.m.toNat
    let picks (k : Nat) := ((s.bank c b).mask q.m.toNat).testBit (maskIndex (s.tag c b q.d.toNat) k)
    let picked := (List.range (reach q.d.toNat)).filter picks
    let n := min (capOf (s.tag c b v.d.toNat)) (capOf (s.tag c b v.b.toNat))
    let index (k : Nat) : Int := if signedTag (s.tag c b v.b.toNat)
      then sval (tagBits (s.tag c b v.b.toNat)) (s.elem c b v.b.toNat k) else s.elem c b v.b.toNat k
    (Clear s c b o.p [o.a.toNat] [o.d.toNat] → o.g = false → o.d ≠ o.a → (o.f = 1 ∨ o.b.getLsbD 3 = false) →
      tagBits (s.tag c b o.d.toNat) = tagBits (s.tag c b o.a.toNat) →
      lands (.vslup o) o.d.toNat (fun k => if acts k ∧ amount ≤ k then some (s.elem c b o.a.toNat (k - amount)) else none) ∧
      lands (.vsldn o) o.d.toNat (fun k =>
        if acts k ∧ k + amount < reach o.d.toNat then some (s.elem c b o.a.toNat (k + amount)) else none)) ∧
    (Clear s c b q.p [q.a.toNat] [q.d.toNat] → q.g = false → q.d ≠ q.a →
      tagBits (s.tag c b q.d.toNat) = tagBits (s.tag c b q.a.toNat) →
      lands (.vrev q) q.d.toNat (fun k => if s.acting c b (capOf (s.tag c b q.d.toNat)) (s.tag c b q.d.toNat) q.m.toNat k
        then some (s.elem c b q.a.toNat (reach q.d.toNat - 1 - k)) else none) ∧
      lands (.vcmprs q) q.d.toNat (fun k => picked[k]?.map (s.elem c b q.a.toNat)) ∧
      lands (.vexpnd q) q.d.toNat (fun k => if k < reach q.d.toNat ∧ picks k = true
        then some (s.elem c b q.a.toNat ((List.range k).filter picks).length) else none)) ∧
    (Clear s c b v.p [v.a.toNat, v.b.toNat] [v.d.toNat] → v.g = false → v.d ≠ v.a → v.d ≠ v.b →
      tagBits (s.tag c b v.d.toNat) = tagBits (s.tag c b v.a.toNat) → isI (s.tag c b v.b.toNat) = true →
      lands (.vgathr v) v.d.toNat (fun k => if s.acting c b n (s.tag c b v.d.toNat) v.m.toNat k then
          some (if 0 ≤ index k ∧ index k < (min n (s.hart c b).vl.toNat : Nat) then s.elem c b v.a.toNat (index k).toNat else 0)
        else none))

/-- R267, R268, R290, R291, R328 to R330: each reduction of one hart completes with the root of its tree over the elements acted
on in element 0 (and 1 for SEXP); VHIST adds to each bin the elements that fall into it, up to 2^32 - 1; VHMERGE sums the 32
lanes; TDOT, TDOTM and TSTK write their 32 sums and the row's bitmap and count. -/
def Obligations.ReductionWordsComplete : Prop :=
  ∀ (o : V2) (g : R2) (d : TD) (m : TM) (k : TS) (s : State) (c b : Nat),
    let td := s.tag c b o.d.toNat
    let ta := s.tag c b o.a.toNat
    let n := min (capOf td) (capOf ta)
    let ls := (List.range (min n (s.hart c b).vl.toNat)).map fun j =>
      if ((s.bank c b).mask o.m.toNat).testBit (maskIndex td j) then some (s.elem c b o.a.toNat j, 0) else none
    let reduces (i : Instr) (x : RedOp) := ∃ t, exec i s = .next t ∧ Lands s t c b o.d.toNat (tagBits td) [o.d.toNat] fun j =>
      (x.f ⟨td, isI ta, rmOf (s.hart c b).rmode⟩ ta ls { seed := (s.hart c b).seed.toNat }).1[j]?
    let value (j : Nat) : Int := if signedTag ta then sval (tagBits ta) (s.elem c b o.a.toNat j) else s.elem c b o.a.toNat j
    let hits (j : Nat) := ((List.range (capOf ta)).filter fun i => s.acting c b (capOf ta) ta o.m.toNat i &&
      decide (0 ≤ value i ∧ value i < 64) && decide (64 * (i * tagBits ta / 8 / 256) + (value i).toNat = j)).length
    let open_ (x : Nat) := s.tag c b x = 14 ∧ (s.reg c b x).latch ≠ .closed ∧ (s.reg c b x).row ≠ none
    let rows (ks : List Nat) := ks.map fun x => (x, (s.reg c b x).content x)
    let dots (i : Instr) (d a : Nat) (ks : List Nat) := ∃ t, exec i s = .next t ∧ Lands s t c b d 32 [d] fun j =>
      if j < 32 then (tdotElem (rows ks) ((s.reg c b a).content a) ((s.reg c b d).content d) j).enc else none
    let sel := ((s.hart c b).greg m.s.toNat).toNat
    let stuck := ((s.bank c b).sag k.k.toNat).stuck
    (Clear s c b o.p [o.a.toNat] [o.d.toNat] → o.g = false → o.d ≠ o.a →
      (isIF td = true → isIF ta = true → reduces (.vredSum o) sumOp ∧
        reduces (.vredMax o) (extremeOp XVal.max maxIdentity) ∧ reduces (.vredMin o) (extremeOp XVal.min minIdentity)) ∧
      (tagBits td = tagBits ta → (isI ta = true ∨ ta = 15) →
        reduces (.vredAnd o) (bitRedOp (fun a b => a &&& b) true) ∧
        reduces (.vredOr o) (bitRedOp (fun a b => a ||| b) false) ∧
        reduces (.vredXor o) (bitRedOp (fun a b => a ^^^ b) false)) ∧
      (td = 12 → isF ta = true → reduces (.vredSexp o) sexpOp) ∧
      (td = 5 → isI ta = true → ∃ t, exec (.vhist o) s = .next t ∧ Lands s t c b o.d.toNat 32 [o.d.toNat] fun j =>
        if j < 2048 then some (min (2 ^ 32 - 1) (elemAt ((s.reg c b o.d.toNat).openFor o.d.toNat).bits 32 j + hits j))
        else none)) ∧
    (Clear s c b g.p [g.a.toNat] [g.d.toNat] → g.d ≠ g.a → s.tag c b g.d.toNat = 5 → s.tag c b g.a.toNat = 5 →
      ∃ t, exec (.vhmerge g) s = .next t ∧ Lands s t c b g.d.toNat 32 [g.d.toNat] fun j =>
        if j < 64 then some (min (2 ^ 32 - 1)
          ((List.range 32).foldl (fun x l => x + elemAt ((s.reg c b g.a.toNat).content g.a.toNat) 32 (64 * l + j)) 0))
        else none) ∧
    (Clear s c b d.p [d.k.toNat, 8 + d.a.toNat, 8 + d.d.toNat] [8 + d.d.toNat] → d.d ≠ d.a →
      s.tag c b (8 + d.d.toNat) = 4 → s.tag c b (8 + d.a.toNat) = 0 → open_ d.k.toNat →
      dots (.tdot d) (8 + d.d.toNat) (8 + d.a.toNat) [d.k.toNat]) ∧
    (Clear s c b m.p (selected sel ++ [8 + m.a.toNat, 8 + m.d.toNat]) [8 + m.d.toNat] → m.d ≠ m.a → 0 < sel → sel < 256 →
      s.tag c b (8 + m.d.toNat) = 4 → s.tag c b (8 + m.a.toNat) = 0 → (∀ x ∈ selected sel, open_ x) →
      dots (.tdotm m) (8 + m.d.toNat) (8 + m.a.toNat) (selected sel)) ∧
    (Clear s c b k.p [] [8 + k.d.toNat] → s.canRead c b k.k.toNat = true → (s.openRow c b k.k.toNat).isSome = true →
      ∃ t, exec (.tstk k) s = .next t ∧ (t.reg c b (8 + k.d.toNat)).tag = 15 ∧
        (k.r ≠ 0 → (t.hart c b).greg k.r.toNat =
          BitVec.ofNat 64 (stuckCount stuck (paRow ((s.openRow c b k.k.toNat).getD 0)))) ∧
        Lands s t c b (8 + k.d.toNat) 64 [8 + k.d.toNat] fun j =>
          if j < 1024 then some (elemAt (stuckBitmap stuck (paRow ((s.openRow c b k.k.toNat).getD 0))) 64 j) else none)

/-- R290, R291, R328 to R330, R267, R268: reductions over the pairwise tree, histograms, ternary dot products and the map of
stuck cells. -/
def Obligations.ReductionAndTernaryWords : Prop :=
  ∀ (o : V2) (r : R2) (d : TD) (m : TM) (k : TS) (i : Instr) (x : LaneWord),
    (i, x) ∈ ([(.vredSum o, redWord (.vredSum o) o sumOp),
      (.vredMax o, redWord (.vredMax o) o (extremeOp XVal.max maxIdentity)),
      (.vredMin o, redWord (.vredMin o) o (extremeOp XVal.min minIdentity)),
      (.vredAnd o, redWord (.vredAnd o) o (bitRedOp (fun a b => a &&& b) true)),
      (.vredOr o, redWord (.vredOr o) o (bitRedOp (fun a b => a ||| b) false)),
      (.vredXor o, redWord (.vredXor o) o (bitRedOp (fun a b => a ^^^ b) false)),
      (.vredSexp o, redWord (.vredSexp o) o sexpOp), (.vhist o, histWord o), (.vhmerge r, mergeWord r),
      (.tdot d, tdotWord (.tdot d) d.p (8 + d.d.toNat) (8 + d.a.toNat) 2 1 fun _ _ _ => 2 ^ d.k.toNat),
      (.tdotm m, tdotWord (.tdotm m) m.p (8 + m.d.toNat) (8 + m.a.toNat) 1 2 fun s c b => (s.greg c b m.s.toNat).toNat),
      (.tstk k, stuckWord k)] : List (Instr × LaneWord)) →
    ∀ (s : State) (c b : Nat), x.Goes s c b → exec i s = .next (x.done s c b)

/-- R331, R333, R334: mask words change the low min(vl, 8192) bits of their destination and nothing else: `m0` keeps all
ones; counts and the first set bit go to a scalar register. -/
def Obligations.MaskWords : Prop :=
  ∀ (o : M3) (n : M2) (z : M1) (k : MK) (p : M4) (v : VI) (s : State) (c b : Nat),
    let m (r : BitVec 3) := (s.bank c b).mask r.toNat
    let len := min (s.hart c b).vl.toNat 8192
    let amount := if k.f = 1 then ((s.hart c b).greg k.k.toNat).toNat else k.k.toNat
    let wrote (t : State) (d : BitVec 3) (x : Nat) :=
      (∀ j, ((t.bank c b).mask d.toNat).testBit j =
        if d ≠ 0 ∧ j < len then x.testBit j else (m d).testBit j) ∧
      (∀ r, r ≠ d.toNat → (t.bank c b).mask r = (s.bank c b).mask r) ∧ (∀ r, t.reg c b r = s.reg c b r) ∧
      t.hart c b = (s.hart c b).clean.advance .next ∧ t.mem = s.mem ∧
      (∀ e f, ¬(e = c ∧ f = b) → t.bank e f = s.bank e f ∧ t.hart e f = s.hart e f)
    (Ready s c b o.p →
      (∃ t, exec (.mand o) s = .next t ∧ wrote t o.d (m o.a &&& m o.b)) ∧
      (∃ t, exec (.mor o) s = .next t ∧ wrote t o.d (m o.a ||| m o.b)) ∧
      (∃ t, exec (.mxor o) s = .next t ∧ wrote t o.d (m o.a ^^^ m o.b)) ∧
      (∃ t, exec (.mandn o) s = .next t ∧ wrote t o.d (m o.a &&& ((2 ^ 8192 - 1) ^^^ m o.b)))) ∧
    (Ready s c b n.p → ∃ t, exec (.mnot n) s = .next t ∧ wrote t n.d ((2 ^ 8192 - 1) ^^^ m n.a)) ∧
    (Ready s c b z.p →
      (∃ t, exec (.mset z) s = .next t ∧ wrote t z.d (2 ^ 8192 - 1)) ∧ (∃ t, exec (.mclr z) s = .next t ∧ wrote t z.d 0)) ∧
    (Ready s c b k.p → (k.f = 1 ∨ k.k.getLsbD 3 = false) →
      (∃ t, exec (.mshl k) s = .next t ∧ wrote t k.d (if len ≤ amount then 0 else m k.a * 2 ^ amount)) ∧
      (∃ t, exec (.mshr k) s = .next t ∧ wrote t k.d (if len ≤ amount then 0 else m k.a % 2 ^ len / 2 ^ amount))) ∧
    (Ready s c b p.p → exec (.mpopc p) s = .next (s.hartDone c b fun h =>
      h.setG p.d.toNat (BitVec.ofNat 64 ((List.range len).filter fun j => (m p.a).testBit j).length))) ∧
    (Ready s c b v.p → exec (.vfirst v) s = .next (s.hartDone c b fun h => h.setG v.d.toNat
      (match (List.range len).find? fun j => (m v.a).testBit j && (m v.m).testBit j with
        | some j => BitVec.ofNat 64 j
        | none => -1)))

/-- R193, R196, R295, R297: what a lane operation has left once it has retired: each result of its plan stands in its element
or mask bit; every other element keeps what the destination held as it was opened (R33: zero where it was CLOSED or not yet
valid), every other mask bit its value. -/
def Sys2Proof.Claims.LaneResultsLand : Prop :=
  ∀ (s : State) (c b : Nat) (q : Plan), 0 < q.lane.w → q.view.egi = 0 →
    q.fin.w7 = none → q.fin.zeroTile = none → (q.es.map fun e => e.i).Nodup →
    (∀ e ∈ q.es, ∀ x, e.enc = some x → x < 2 ^ q.lane.w) →
    let t := s.laneDone c b q
    (∀ d, q.lane.d = some d →
      (∀ e ∈ q.es, ∀ x, e.enc = some x → elemAt (t.reg c b d).bits q.lane.w e.i = x) ∧
      (∀ i, (∀ e ∈ q.es, e.i = i → e.enc = none) →
        elemAt (t.reg c b d).bits q.lane.w i = elemAt (((q.tagged s c b).reg c b d).openFor d).bits q.lane.w i) ∧
      (t.reg c b d).arrival = 0xffffffff) ∧
    (∀ m, q.lane.m = some m → m ≠ 0 → (∀ e ∈ q.es, ∀ x, e.mbit = some x → x.1 = e.i) → ∀ i,
      ((t.bank c b).mask m).testBit i = match q.es.find? fun e => e.mbit.isSome && e.i == i with
        | some e => (e.mbit.map fun x => x.2).getD false
        | none => ((s.bank c b).mask m).testBit i)

/-- R193, R196: what a lane operation leaves unchanged: every register that is not its destination (`w7` where it writes
scales, R322), every mask but its own, memory and sideband, every other bank, hart and core, the control thread and the
tiles; of its hart only the generator, the flags, `vl`, a result register and the place it stands at change. -/
def Sys2Proof.Claims.LaneFrame : Prop :=
  ∀ (s : State) (c b : Nat) (q : Plan), q.fin.zeroTile = none → (∀ r, q.retag = some r → q.lane.d = some r) →
    let t := s.laneDone c b q
    (∀ r, q.lane.d ≠ some r → (r ≠ 15 ∨ q.fin.w7 = none) → t.reg c b r = s.reg c b r) ∧
    (∀ m, q.lane.m ≠ some m → (t.bank c b).mask m = (s.bank c b).mask m) ∧ (t.bank c b).mask 0 = (s.bank c b).mask 0 ∧
    (∀ e, e ≠ b → t.bank c e = s.bank c e ∧ t.hart c e = s.hart c e) ∧ (∀ d, d ≠ c → t.core d = s.core d) ∧
    t.ct c = s.ct c ∧ (∀ n, t.tile c n = s.tile c n) ∧ t.mem = s.mem ∧ t.side = s.side ∧ t.hctrs = s.hctrs ∧
    (t.hart c b).hp = (s.hart c b).hp ∧ (t.hart c b).handles = (s.hart c b).handles ∧
    (q.fin.vl = none → (t.hart c b).vl = (s.hart c b).vl) ∧ (q.fin.seed = none → (t.hart c b).seed = (s.hart c b).seed) ∧
    (∀ r, q.fin.gd.map (·.1) ≠ some r → (t.hart c b).greg r = (s.hart c b).greg r)

/-- Vector words of every shape that runs as a lane operation. -/
def Sys2Proof.Claims.laneWords (o : V3) (q : V2) (k : VX) (u : VI) (g : M4) (v : VC) (z : R2) : List (Instr × LaneWord) :=
  [(.vadd o, valueWord (.vadd o) o (binVal isIFQ isIFQT fun m a b => a.add m.rdn b)),
    (.vsub o, valueWord (.vsub o) o (binVal isIFQ isIFQT fun m a b => a.sub m.rdn b)),
    (.vmul o, valueWord (.vmul o) o (binVal isIFQ isIFQT fun _ a b => a.mul b)), (.vdiv o, valueWord (.vdiv o) o divOp),
    (.vfma o, valueWord (.vfma o) o (fmaVal fun m a b c => (a.mul b).add m.rdn c)),
    (.vminadd o, valueWord (.vminadd o) o minaddOp), (.vmov q, unaryWord (.vmov q) q movOp),
    (.vneg q, unaryWord (.vneg q) q (unVal XVal.neg)), (.vsqrt q, unaryWord (.vsqrt q) q (transOp .sqrt)),
    (.vcvt q, unaryWord (.vcvt q) q cvtOp), (.vcvtmxImp k, mxImpWord k), (.vcvtmxExp k, mxExpWord k), (.vquant q, quantWord q),
    (.viota u, iotaWord u), (.mtov g, tovWord g), (.vgathr v, gatherRegWord v),
    (.vand o, bitWord (.vand o) o anyTag false fun _ _ a b => a &&& b),
    (.vsll o, bitWord (.vsll o) o isIR false fun w _ a b => a * 2 ^ (b % w) % 2 ^ w),
    (.vadc o, carryWord (.vadc o) o fun a b c => a + b + c), (.vredSum q, redWord (.vredSum q) q sumOp),
    (.vredSexp q, redWord (.vredSexp q) q sexpOp), (.vhist q, histWord q), (.vhmerge z, mergeWord z)]

/-- R193, R289, R298: a vector word that restarts at group `egi` of its hart completes with the elements of groups `egi` to 31 that a
run from group 0 on the same state gives them, in every mode, and leaves those of the groups below as they stand. Under SR the hart
holds the generator's state after each element of the groups below, so that every remaining element takes its own draw. -/
def Sys2Proof.Claims.LaneWordsRestart : Prop :=
  ∀ (o : V3) (q : V2) (k : VX) (u : VI) (g : M4) (v : VC) (z : R2) (i : Instr) (x : LaneWord),
    (i, x) ∈ Sys2Proof.Claims.laneWords o q k u g v z →
    ∀ (s : State) (c b d : Nat),
      let h := s.hart c b
      let s0 := s.setHart c b { h with egi := 0, drawn := [] }
      let p := x.plan s s c b
      p.lane.d = some d → x.Goes s c b → x.Goes s0 c b →
      ((rmOf h.rmode).rm = 5 → ∀ e ∈ (x.plan s0 s0 c b).es,
        Tab.find h.drawn e.i = if groupOf p.lane.w e.i < h.egi.toNat then e.seed else none) →
      ∃ t t0, exec i s = .next t ∧ exec i s0 = .next t0 ∧
        (∀ j, elemAt (t.reg c b d).bits p.lane.w j = if groupOf p.lane.w j < h.egi.toNat
          then elemAt ((s.reg c b d).openFor d).bits p.lane.w j else elemAt (t0.reg c b d).bits p.lane.w j) ∧
        (t.hart c b).seed = (t0.hart c b).seed ∧ (t.hart c b).egi = 0 ∧ (t.hart c b).hpc = (t0.hart c b).hpc

/-- R172, R298: a vector word with a tag that is not permitted takes `0x03 TAG_ILLEGAL`, whose htval names the refused operand of
lowest number with its tag; one whose tags are permitted, but whose registers overlap or whose operand has a value that it does not
admit, takes the cause of that; either way no register changes. -/
def Sys2Proof.Claims.LaneWordsRefused : Prop :=
  ∀ (o : V3) (q : V2) (k : VX) (u : VI) (g : M4) (v : VC) (z : R2) (i : Instr) (x : LaneWord),
    (i, x) ∈ Sys2Proof.Claims.laneWords o q k u g v z →
    ∀ (s : State) (c b num tag cause detail : Nat), Ready s c b x.p → x.g = false →
      let refuses (cause detail : Nat) := ∃ t, exec i s = .next t ∧ (t.hart c b).st = .faulted ∧
        (t.hart c b).hcause = cause ∧ (t.hart c b).htval = BitVec.ofNat 64 detail ∧ (t.hart c b).g = (s.hart c b).g ∧
        ((∀ y ∈ (s.core c).engine, y.bank ≠ b) → ∀ r, t.reg c b r = s.reg c b r) ∧ t.mem = s.mem
      ((num, tag, false) ∈ x.checks s s c b →
        (∀ y ∈ x.checks s s c b, y.2.2 = false → num < y.1 ∨ y = (num, tag, false)) →
        refuses 0x03 (i.word + tag * 2 ^ 32 + num * 2 ^ 36)) ∧
      ((∀ y ∈ x.checks s s c b, y.2.2 = true) → x.refuse s s c b = some (cause, detail) → refuses cause detail)

/-- R172, R278, R298, R311, R314: the tags that the words of majors 0x18 and 0x1A refuse on one hart, in the order of their operands:
vd (0), va (1), vb (2), and `w7` (5) where a QS4 operand makes it hold scales; then `w7` named as vd beside such an operand, `0x04`. -/
def Sys2Proof.Claims.ValueTagsRefused : Prop :=
  ∀ (o : V3) (i : Instr) (okd ok : Nat → Bool),
    (i, okd, ok) ∈ ([(.vadd o, isIFQ, isIFQT), (.vsub o, isIFQ, isIFQT), (.vmul o, isIFQ, isIFQT), (.vmulh o, isI, isI),
      (.vdiv o, isIFQ, isIFQT), (.vrem o, isI, isI), (.vmin o, isIFQ, isIFQT), (.vmax o, isIFQ, isIFQT),
      (.vabsd o, isIFQ, isIFQT), (.vfma o, isIF, isIFQT), (.vfms o, isIF, isIFQT), (.vfnma o, isIF, isIFQT),
      (.vminadd o, isIF, isIF)] : List (Instr × (Nat → Bool) × (Nat → Bool))) →
    ∀ (s : State) (c b : Nat), Ready s c b o.p → o.g = false → o.f = 0 →
      let td := s.tag c b o.d.toNat
      let ta := s.tag c b o.a.toNat
      let tb := s.tag c b o.b.toNat
      let t7 := s.tag c b 15
      let scaled := isQ td || isQ ta || isQ tb
      let refuses (cause detail : Nat) := ∃ t, exec i s = .next t ∧ (t.hart c b).st = .faulted ∧
        (t.hart c b).hcause = cause ∧ (t.hart c b).htval = BitVec.ofNat 64 detail
      let tags (num t : Nat) := refuses 0x03 (i.word + t * 2 ^ 32 + num * 2 ^ 36)
      (okd td = false → tags 0 td) ∧
      (okd td = true → ok ta = false → tags 1 ta) ∧
      (okd td = true → ok ta = true → ok tb = false → tags 2 tb) ∧
      (okd td = true → ok ta = true → ok tb = true → scaled = true → t7 ≠ 1 → t7 ≠ 15 → tags 5 t7) ∧
      (okd td = true → ok ta = true → ok tb = true → scaled = true → (t7 = 1 ∨ t7 = 15) → o.d = 15 → refuses 0x04 0)

/-- What a lane operation leaves of its destinations and of everything else, what one that restarts does, and what refuses one: the
claims `LaneResultsLand`, `LaneFrame`, `LaneWordsRestart`, `LaneWordsRefused` and `ValueTagsRefused`. -/
def Obligations.LaneOperations : Prop :=
  Sys2Proof.Claims.LaneResultsLand ∧ Sys2Proof.Claims.LaneFrame ∧ Sys2Proof.Claims.LaneWordsRestart ∧
    Sys2Proof.Claims.LaneWordsRefused ∧ Sys2Proof.Claims.ValueTagsRefused

/-- R286: `Convert` of an integer to an integer tag: the value where it is in range, the nearer end with SAT under rmode.SAT,
and the value modulo 2^n without a flag otherwise. -/
def Sys2Proof.Claims.ConvertInteger : Prop :=
  ∀ (t : Nat) (rm : Rm) (scale : Nat) (v : Int) (r : Rd), t < 8 →
    let n := tagBits t
    let lo : Int := if t % 2 = 0 then -(2 ^ (n - 1) : Nat) else 0
    let hi : Int := if t % 2 = 0 then (2 ^ (n - 1) : Nat) - 1 else (2 ^ n : Nat) - 1
    convert t rm scale (.ofInt v) r =
      if lo ≤ v ∧ v ≤ hi then (uval n v, r)
      else if rm.sat = true then (uval n (if v < lo then lo else hi), { r with fl := r.fl ||| 1 })
      else (uval n v, r)

/-- R275, R284: a value that a format represents is returned unchanged, without a flag, in every mode; SR still takes its
draw (R289). -/
def Sys2Proof.Claims.RepresentableUnchanged : Prop :=
  ∀ (m : Fmt) (rm c : Nat) (r : Rd), m ∈ [fmtFP32, fmtFP16, fmtBF16, fmtE5M2, fmtE4M3, fmtE2M1] →
    c < 2 ^ (1 + m.e + m.f) → (m.value c).isFin = true →
    roundFloat m rm (m.value c) r = (c, if rm = 5 then { r with seed := nextSeed r.seed } else r)

/-- R290: the pairwise tree over integers under addition is their sum, whatever the number of leaves. -/
def Sys2Proof.Claims.TreeSumsIntegers : Prop :=
  ∀ (xs : List Int) (r : Rd), xs.length ≤ 2 ^ 21 →
    treeRoot (fun a b r => (a + b, r)) 0 treeDepth xs r = (xs.foldl (fun a b => a + b) 0, r)

/-- R364, R365: an integer addition over the tree is the sum of the participants' values modulo 2^64: the tree's order does
not show. -/
def Sys2Proof.Claims.RedAddsIntegers : Prop :=
  ∀ (ty c : Nat) (parts : List RedPart), ty < 2 → (∀ p ∈ parts, p.core = c ∧ p.bank < 32) →
    (parts.map fun p => p.bank).Nodup →
    (redRoot 0 ty 1 c parts).1 = ((parts.foldl (fun a p => a + p.m.toNat) 0) % 2 ^ 64, 0)

/-- `Convert` of integers and of values a float format represents, and the fixed trees of VRED and RED over integers: the claims
`ConvertInteger`, `RepresentableUnchanged`, `TreeSumsIntegers` and `RedAddsIntegers`. -/
def Obligations.ConversionsAndTreeSums : Prop :=
  Sys2Proof.Claims.ConvertInteger ∧ Sys2Proof.Claims.RepresentableUnchanged ∧ Sys2Proof.Claims.TreeSumsIntegers ∧
    Sys2Proof.Claims.RedAddsIntegers

/-! ## Gangs, and moves between banks and cores -/

/-- R209 to R211, R218, R219: the scalar words and those on the predicate, with their P bit and what they do to a hart. -/
def Sys2Proof.Claims.hartWords (o : S3) (q : SI) (k : SH) (l : LI) (z : P0) (y : PS) (a : BitVec 4) :
    List (Instr × Bool × (Hart → Hart)) :=
  (Sys2Proof.Claims.aluWords o).map (fun e =>
    (e.1, o.p, fun h => h.setG o.d.toNat (e.2 (h.greg o.a.toNat) (h.greg o.b.toNat)))) ++
  (Sys2Proof.Claims.immediateWords q k l).map (fun e => (e.1, false, e.2)) ++
  [(.nop z, z.p, id), (.yield z, z.p, id), (.pnot, false, fun h => { h with hp := !h.hp }),
    (.psetB0 a, false, fun h => { h with hp := (h.greg a.toNat).getLsbD 0 }),
    (.pset y, false, fun h =>
      let u := h.greg y.a.toNat
      let v := h.greg y.b.toNat
      { h with hp := ([u == v, u != v, u.slt v, !u.slt v, u.ult v, !u.ult v]).getD y.c.toNat (!u.ult v) })]

/-- R135, R137, R217: a scalar word, or one on the predicate, acts in lockstep on every participant as it acts on a split hart, and
the sequencer goes on to the next word, where each participant then stands. -/
def Sys2Proof.Claims.LockstepScalarWord : Prop :=
  ∀ (o : S3) (q : SI) (k : SH) (l : LI) (z : P0) (y : PS) (a : BitVec 4) (i : Instr) (p : Bool) (f : Hart → Hart),
    (i, p, f) ∈ Sys2Proof.Claims.hartWords o q k l z y a →
    ∀ (s : State) (c g : Nat) (r : Running), Lockstep s c g r → ∃ t, exec i s = .next t ∧
      (∀ b ∈ r.parts,
        let h := if p = true ∧ (s.hart c b).hp = false then s.hart c b else f (s.hart c b)
        (t.hart c b).g = h.g ∧ (t.hart c b).hp = h.hp ∧
        (t.hart c b).hpc = BitVec.ofNat 48 (r.va + 4 * (r.pos + 1)) ∧ (t.hart c b).st = .member) ∧
      (∀ b, b ∉ r.parts → t.hart c b = s.hart c b) ∧ (∀ b, t.bank c b = s.bank c b) ∧ t.mem = s.mem ∧
      t.running c g = some { r with pos := r.pos + 1, done := [] }

/-- R246, R295, R299, R311: with G = 1 in lockstep the gang forms one vector: element k of the member of rank j is element
j * cap + k of it, acted on where that is below the member's `vl` and its mask bit k is set. VADD, VSUB and VMUL write what `Convert`
gives it, each member with its own flags and draws; a member of a rank that `vl` does not reach keeps its register. -/
def Sys2Proof.Claims.LockstepVectorWord : Prop :=
  ∀ (o : V3) (i : Instr) (f : Bool → XVal → XVal → XVal),
    (i, f) ∈ ([(.vadd o, fun z x y => x.add z y), (.vsub o, fun z x y => x.add z y.neg), (.vmul o, fun _ x y => x.mul y)] :
      List (Instr × (Bool → XVal → XVal → XVal))) →
    ∀ (s : State) (c g td ta tb : Nat) (r : Running), Lockstep s c g r → o.g = true → o.f = 0 →
      isIF td = true → isIF ta = true → isIF tb = true → tagBits ta = tagBits td → tagBits tb = tagBits td →
      (s.core c).idlePolicy = false →
      (∀ b ∈ r.parts, s.tag c b o.d.toNat = td ∧ s.tag c b o.a.toNat = ta ∧ s.tag c b o.b.toNat = tb ∧
        s.canRead c b o.a.toNat = true ∧ s.canRead c b o.b.toNat = true ∧ s.canWrite c b o.d.toNat = true ∧
        (s.reg c b o.a.toNat).conds = [] ∧ (s.reg c b o.b.toNat).conds = [] ∧ (s.hart c b).egi = 0 ∧
        (rmOf (s.hart c b).rmode).nantrap = false ∧ (o.p = true → (s.hart c b).hp = true)) →
      ∃ t, exec i s = .next t ∧ t.mem = s.mem ∧ t.running c g = some { r with pos := r.pos + 1, done := [] } ∧
        (∀ j b, r.parts[j]? = some b →
          let rm := rmOf (s.hart c b).rmode
          let m : Dom := ⟨td, isI ta && isI tb, rm⟩
          let acts (k : Nat) := decide (k < capOf td ∧ j * capOf td + k < (s.hart c b).vl.toNat) &&
            ((s.bank c b).mask o.m.toNat).testBit k
          (if j * capOf td < (s.hart c b).vl.toNat then
            Computes s t c b o.d.toNat (tagBits td) (capOf td) acts fun k x =>
              let u := valueOf ta (s.elem c b o.a.toNat k) 0
              let v := valueOf tb (s.elem c b o.b.toNat k) 0
              converted td rm 0 [u, v] (m.clean (f (!m.int && decide (rm.rm = 2)) u v)) x
          else t.reg c b o.d.toNat = s.reg c b o.d.toNat) ∧
          (∀ q, q ≠ o.d.toNat → t.reg c b q = s.reg c b q) ∧ (∀ q, (t.bank c b).mask q = (s.bank c b).mask q) ∧
          (t.hart c b).g = (s.hart c b).g ∧ (t.hart c b).hpc = BitVec.ofNat 48 (r.va + 4 * (r.pos + 1))) ∧
        (∀ b, b ∉ r.parts → t.hart c b = s.hart c b ∧ t.bank c b = s.bank c b)

/-- R228, R247: ACT with G = 1 in lockstep opens on every participant the row whose VA is that in its own ga with its own bank in
bits [17:13], whatever `vl` holds. -/
def Sys2Proof.Claims.LockstepRowWord : Prop :=
  ∀ (o : RW) (s : State) (c g : Nat) (r : Running) (pa : Nat → Nat), Lockstep s c g r → o.g = true →
    s.tableFull c r.parts.length = false →
    (∀ b ∈ r.parts, (o.p = true → (s.hart c b).hp = true) ∧ s.actReady c b o.k.toNat = true ∧
      s.held c b (.here (pa b)) 8192 false = false ∧ pa b ∉ s.rown ∧
      ∃ n, let va := ((s.hart c b).greg o.a.toNat).toNat
        s.rowAt c b o.k.toNat (va - va / 2 ^ 13 % 32 * 2 ^ 13 + b * 2 ^ 13) false = .ok (n, pa b)) →
    ∃ t, exec (.act o) s = .next t ∧ t.mem = s.mem ∧ t.running c g = some { r with pos := r.pos + 1, done := [] } ∧
      (∀ b ∈ r.parts,
        t.reg c b o.k.toNat = { s.reg c b o.k.toNat with
          bits := s.mem.slice (pa b) 8192, latch := .opened, row := some (pa b), dirty := false, arrival := 0xffffffff,
          conds := s.rowConds (pa b) } ∧
        (∀ q, q ≠ o.k.toNat → t.reg c b q = s.reg c b q) ∧ (t.bank c b).masks = (s.bank c b).masks ∧
        (t.hart c b).g = (s.hart c b).g ∧ (t.hart c b).hpc = BitVec.ofNat 48 (r.va + 4 * (r.pos + 1))) ∧
      (∀ b, b ∉ r.parts → t.hart c b = s.hart c b ∧ t.bank c b = s.bank c b)

/-- R246, R248: a word with G = 1, a Twill word or a RED of gang scope on a split hart takes `0x0C GANG_ABSENT`, with the
member bitmap of its gang and the word in htval, and changes no register of any bank and nothing of memory (where the outer-product
engine holds no operation of the hart, R360). -/
def Sys2Proof.Claims.GangWordOnSplitHart : Prop :=
  ∀ (s : State) (o : V3) (q : V2) (v : VC) (r : RW) (w : TW) (x : TX) (d : RD) (i : Instr),
    i ∈ ([.vadd o, .vsub o, .vmul o, .vfma o, .vand o, .vsel o, .vadc o, .vslup o, .vmov q, .vcvt q, .vredSum q, .vquant q,
      .vgathr v, .ldg v, .sts v, .act r, .wb r, .twrot w, .twbfly w, .twbcast w, .twxpose x, .red d] : List Instr) →
    (∀ y ∈ (s.core s.actCore).engine, y.bank ≠ s.actBank) → s.actGang = none → o.g = true → q.g = true → v.g = true → r.g = true → d.s = 0 →
    let c := s.actCore
    let b := s.actBank
    let members := match (s.core c).gangOf b with
      | some g => (s.gang c g).members.toNat
      | none => 0
    (s.hart c b).young = [] →
    ∃ t, exec i s = .next t ∧ (t.hart c b).st = .faulted ∧ (t.hart c b).hcause = 0x0c ∧
      (t.hart c b).htval = BitVec.ofNat 64 (members * 2 ^ 32 + i.word) ∧ (t.hart c b).g = (s.hart c b).g ∧
      (t.hart c b).hpc = (s.hart c b).hpc ∧ (∀ x, t.bank c x = s.bank c x) ∧ (∀ x, x ≠ b → t.hart c x = s.hart c x) ∧
      t.mem = s.mem

/-- Scalar words, vector words and row words of a gang in lockstep, and gang words on a split hart: the claims
`LockstepScalarWord`, `LockstepVectorWord`, `LockstepRowWord` and `GangWordOnSplitHart`. -/
def Obligations.LockstepAndGangAbsent : Prop :=
  Sys2Proof.Claims.LockstepScalarWord ∧ Sys2Proof.Claims.LockstepVectorWord ∧ Sys2Proof.Claims.LockstepRowWord ∧
    Sys2Proof.Claims.GangWordOnSplitHart

/-- R251, R252: a Twill word moves whole rows of va between the members of its gang, by rank: TWROT to the rank amt above,
TWBFLY to the rank whose number differs by amt's bits (where there is one), TWBCAST from rank amt to all, and TWXPOSE chunk k
of each member's row to member k. -/
def Obligations.TwillWords : Prop :=
  ∀ (o : TW) (x : TX) (s : State) (c g : Nat) (r : Running), Lockstep s c g r →
    let ms := r.parts
    let m := ms.length
    let amt : Int := if o.f = 1 then ((s.hart c (ms.headD 0)).greg o.b.toNat).toInt else o.b.toInt
    let row (a k : Nat) := (s.reg c (ms.getD k 0) a).content a
    let free (d a : Nat) := d ≠ a ∧ ∀ b ∈ ms, s.canRead c b a = true ∧ s.canWrite c b d = true ∧ (s.reg c b a).conds = []
    let moves (i : Instr) (d : Nat) (lands : Nat → Nat → Prop) := ∃ t, exec i s = .next t ∧ t.mem = s.mem ∧
      ∀ k b, ms[k]? = some b → lands k (t.reg c b d).bits ∧ ∀ q, q ≠ d → t.reg c b q = s.reg c b q
    (free o.d.toNat o.a.toNat →
      moves (.twrot o) o.d.toNat (fun k v => v = row o.a.toNat (((k : Int) - amt) % (m : Int)).toNat) ∧
      (0 ≤ amt → amt < m → moves (.twbcast o) o.d.toNat (fun _ v => v = row o.a.toNat amt.toNat)) ∧
      (0 ≤ amt → amt ≤ 31 →
        moves (.twbfly o) o.d.toNat (fun k v => k ^^^ amt.toNat < m → v = row o.a.toNat (k ^^^ amt.toNat)))) ∧
    (free x.d.toNat x.a.toNat → 2 ^ m.log2 = m →
      moves (.twxpose x) x.d.toNat fun k v =>
        ∀ j, j < m → elemAt v (65536 / m) j = elemAt (row x.a.toNat j) (65536 / m) k)

/-- R253, R254: SHSND and SHRCV complete together: the receiver's register takes the sender's whole row, both harts' words
end, and nothing else is written. -/
def Obligations.SergeWords : Prop :=
  ∀ (o : R2) (s : State) (c b x y z r : Nat), Ready s c b o.p →
    s.peer c b ((s.hart c b).greg o.a.toNat).toNat = some (x, y, z) →
    (s.canRead c b o.d.toNat = true → (s.reg c b o.d.toNat).conds = [] → (s.hart c b).aheadSent = false →
      (s.hart x y).pend = some (.recv r c b z) →
      ∃ t, exec (.shsnd o) s = .next t ∧ (t.reg x y r).bits = (s.reg c b o.d.toNat).content o.d.toNat ∧
        (t.hart x y).pend = some .done ∧ t.hart c b = (s.hart c b).clean.advance .next ∧
        (∀ d e q, ¬(d = x ∧ e = y ∧ q = r) → t.reg d e q = s.reg d e q) ∧ t.mem = s.mem) ∧
    (s.canWrite c b o.d.toNat = true → (s.hart c b).aheadRecv = none → (s.hart x y).pend = some (.send r c b z) →
      (s.reg x y r).conds = [] → (∀ q, decodeHart (s.nextWord c b) ≠ .ok (.shsnd q)) →
      ∃ t, exec (.shrcv o) s = .next t ∧ (t.reg c b o.d.toNat).bits = (s.reg x y r).content r ∧
        (t.hart x y).pend = some .done ∧ t.hart c b = (s.hart c b).clean.advance .next ∧
        (∀ d e q, ¬(d = c ∧ e = b ∧ q = o.d.toNat) → t.reg d e q = s.reg d e q) ∧ t.mem = s.mem)

/-! ## Memory -/

/-- R256 to R260: a gather on lines of this module loads each active element from its address; the others keep what vd held as
it was opened. LDGFF of elements that all succeed does the same and keeps `vl`; one whose element j is the first to fail, and
not its first active one, loads the elements below j and sets `vl` to j. -/
def Sys2Proof.Claims.GatherWords : Prop :=
  ∀ (o : VC) (q : VF) (f : GForm) (i : Instr) (p : Bool) (s : State) (c b : Nat) (pa : Nat → Nat),
    let v := s.view c b f.g (f.cov s c b) (s.tag c b f.d) f.m
    let n := f.size s c b
    let w := tagBits (s.tag c b f.d)
    let free := Ready s c b p ∧ Reaches s c b ∧ f.g = false ∧ firstRefused (f.checks s s c b) = none ∧ s.canWrite c b f.d = true ∧
      (f.indexed = true → f.d ≠ f.b ∧ s.canRead c b f.b = true ∧ s.consumeFrom c b [] [f.b] 0 = none) ∧
      (s.hart c b).egi = 0 ∧ (s.hart c b).hostGot = [] ∧ f.waits s c b (f.elems s c b v) = false
    let good (k : Nat) := s.colElem c (f.va s c b v.first k) n false = .ok (.here (pa k)) ∧ Plain s (pa k)
    let loads (t : State) (end_ : Nat) :=
      (∀ k, k < end_ → v.active k = true → elemAt (t.reg c b f.d).bits w k = s.mem.read (pa k) n) ∧
      (∀ k, ¬(k < end_ ∧ v.active k = true) →
        elemAt (t.reg c b f.d).bits w k = elemAt ((s.reg c b f.d).openFor f.d).bits w k) ∧
      (∀ r, r ≠ f.d → t.reg c b r = s.reg c b r) ∧ (t.bank c b).masks = (s.bank c b).masks ∧ t.mem = s.mem
    ((i = .ldg o ∧ f = gform o true false ∧ p = o.p) ∨ (i = .lds o ∧ f = gform o false false ∧ p = o.p) ∨
      (i = .ldgff q ∧ f = ⟨q.d.toNat, q.a.toNat, q.b.toNat, q.m.toNat, false, true, false⟩ ∧ p = q.p)) →
    free →
    ((∀ k, v.active k = true → good k) →
      ∃ t, exec i s = .next t ∧ loads t v.n ∧ t.hart c b = (s.hart c b).clean.advance .next) ∧
    (∀ j first, i = .ldgff q → v.active j = true → first < j → v.active first = true →
      (∀ k, k < j → v.active k = true → good k) →
      (∃ e, s.colElem c (f.va s c b v.first j) n false = .error e) →
      (∀ k d, v.active k = true → s.colElem c (f.va s c b v.first k) n false ≠ .error (walkWait, d)) →
      ∃ t, exec i s = .next t ∧ loads t j ∧
        t.hart c b = { s.hart c b with vl := BitVec.ofNat 21 j }.clean.advance .next)

/-- R261: a scatter to lines of this module leaves memory, in canonical form, as writing the active elements in ascending order would,
each to its address; registers,
masks and every byte outside the elements' bytes are unchanged. -/
def Sys2Proof.Claims.ScatterWords : Prop :=
  ∀ (o : VC) (f : GForm) (i : Instr) (s : State) (c b : Nat) (pa : Nat → Nat),
    let v := s.view c b f.g (f.cov s c b) (s.tag c b f.d) f.m
    let n := f.size s c b
    let w := tagBits (s.tag c b f.d)
    let data := (s.reg c b f.d).content f.d
    ((i = .sts o ∧ f = gform o true true) ∨ (i = .stst o ∧ f = gform o false true)) →
    Ready s c b o.p → Reaches s c b → f.g = false → firstRefused (f.checks s s c b) = none → s.canRead c b f.d = true →
    (f.indexed = true → s.canRead c b f.b = true) →
    s.consumeFrom c b [f.d] (if f.indexed then [f.b] else []) 0 = none → f.waits s c b (f.elems s c b v) = false →
    s.mem.wf = true → (∀ k, v.active k = true → s.colElem c (f.va s c b v.first k) n true = .ok (.here (pa k)) ∧ Plain s (pa k)) →
    ∃ t, exec i s = .next t ∧
      t.mem = ((List.range v.n).filter v.active).foldl (fun m k => m.write (pa k) n (elemAt data w k)) s.mem ∧
      (∀ a, (∀ k, v.active k = true → a < pa k ∨ pa k + n ≤ a) → t.mem.get a = s.mem.get a) ∧
      (∀ d e, t.bank d e = s.bank d e) ∧ t.hart c b = (s.hart c b).clean.advance .next ∧
      (∀ d e, ¬(d = c ∧ e = b) → t.hart d e = s.hart d e)

/-- LDG, LDS, LDGFF, STS and STST on ordinary lines of this module: the claims `GatherWords` and `ScatterWords`. -/
def Obligations.GatherScatterWords : Prop := Sys2Proof.Claims.GatherWords ∧ Sys2Proof.Claims.ScatterWords

/-- R262 to R264: a copy between rows of this module, with budget of FABRIC left on every core, has copied every byte of
every unit when XFER, run whole, is done; its slot is idle again. XWAIT on an idle slot gives the status of the slot's copy
and clears the slot. -/
def Obligations.CopyWords : Prop :=
  ∀ (o : XF) (x : XW) (s : State) (c b : Nat) (src dst : List Nat),
    let va := ((s.hart c b).greg o.a.toNat).toNat
    let vb := ((s.hart c b).greg o.b.toNat).toNat
    let apart (p q : Nat) := p + 8192 ≤ q ∨ q + 8192 ≤ p
    let y := (s.hart c b).slot x.s.toNat
    (Ready s c b o.p → va % 8192 = 0 → vb % 8192 = 0 →
      s.xferUnits c va vb (o.n.toNat + 1) = .ok (src.map fun p => (65, p), dst.map fun p => (65, p)) →
      (∀ e ∈ (s.hart c b).slots, e.2.busy = false) → ((s.hart c b).slot o.s.toNat).got = [] → s.mem.wf = true →
      s.tableFull c 2 = false → s.busHeld (.copy c b o.s.toNat) = false → (∀ x, s.affords x .fabric 1 = true) →
      (∀ p ∈ src, ∀ q ∈ dst, apart p q) → dst.Pairwise apart →
      (∀ p, p ∈ src ∨ p ∈ dst → p % 8192 = 0 ∧ ∀ k, k < 8192 → Plain s (p + k)) →
      ∃ t, exec (.xfer o) s = .next t ∧
        (∀ (j p q k : Nat), src[j]? = some p → dst[j]? = some q → k < 8192 → t.mem.get (q + k) = s.mem.get (p + k)) ∧
        (∀ a, (∀ q ∈ dst, a < q ∨ q + 8192 ≤ a) → t.mem.get a = s.mem.get a) ∧
        ((t.hart c b).slot o.s.toNat).busy = false ∧
        ((t.hart c b).slot o.s.toNat).cause = ((s.hart c b).slot o.s.toNat).cause ∧
        (t.hart c b).g = (s.hart c b).g ∧ (∀ d e, t.bank d e = s.bank d e)) ∧
    (Ready s c b x.p → y.busy = false →
      exec (.xwait x) s = .next (s.hartDone c b fun h => { h with slots := h.slots.put x.s.toNat {} }.setG x.d.toNat
        (BitVec.ofNat 64 (y.cause.toNat + if y.cause = 0 then 0 else y.unit.toNat * 2 ^ 8))))

/-- R395: LD reads 2^w bytes of this module little-endian and extends them; ST writes the low 2^w bytes of gs, and nothing
else of memory changes; a store to host memory is posted. -/
def Sys2Proof.Claims.LoadAndStoreWords : Prop :=
  ∀ (o : LDo) (q : STo) (s : State) (c b pa bus : Nat),
    let h := s.hart c b
    let n := 2 ^ o.w.toNat
    let va := (h.greg o.a.toNat + o.o.signExtend 64).toNat
    let v := s.mem.read pa n
    let k := 2 ^ q.w.toNat
    let vb := (h.greg q.a.toNat + q.o.signExtend 64).toNat
    let x := (h.greg q.d.toNat).toNat
    let store := vb % k = 0 ∧ Reaches s c b ∧ (q.q = true → h.posted = false ∧ h.quiet = true)
    (Ready s c b false → Reaches s c b → va % n = 0 → s.colAt c false va n true false = .ok (.here pa) →
      s.held c b (.here pa) n false = false → Plain s pa → ∃ t, exec (.ld o) s = .next t ∧
        t.hart c b = (h.setG o.d.toNat
          (if o.u then BitVec.ofNat 64 v else BitVec.ofInt 64 (sval (8 * n) v))).clean.advance .next ∧
        t.mem = s.mem ∧ t.side = s.side ∧ (∀ d e, t.bank d e = s.bank d e) ∧
        (∀ d e, ¬(d = c ∧ e = b) → t.hart d e = s.hart d e)) ∧
    (Ready s c b false → store → s.colAt c false vb k false true = .ok (.here pa) →
      s.held c b (.here pa) k true = false → Plain s pa →
      ∃ t, exec (.st q) s = .next t ∧ t.mem = s.mem.write pa k x ∧
        (∀ a, a < pa ∨ pa + k ≤ a → t.mem.get a = s.mem.get a) ∧
        (s.mem.wf = true → t.mem.read pa k = x % 2 ^ (8 * k)) ∧ (∀ d e, t.bank d e = s.bank d e) ∧ t.hart c b = h.clean.advance .next ∧
        (∀ d e, ¬(d = c ∧ e = b) → t.hart d e = s.hart d e)) ∧
    (Ready s c b false → store → s.colAt c false vb k false true = .ok (.host bus) →
      s.held c b (.host bus) k true = false →
      exec (.st q) s = .next ({ s with out := s.out ++ [Out.hostWrite bus k (x % 2 ^ (8 * k)) false] }.hartDone c b
        fun h => { h with posted := true })) ∧
    (Ready s c b false → va % n ≠ 0 → ∃ t, exec (.ld o) s = .next t ∧ (t.hart c b).st = .faulted ∧
      (t.hart c b).hcause = 0x2b ∧ (t.hart c b).g = h.g ∧ t.mem = s.mem)

/-- R378, R394: FENCE ends at once when it orders scalar accesses before vector ones only and no store of the hart waits, or when the
hart's stores, copies and ring entries are done; FENCE.ALL discards the hart's block cache. After posted writes to the
host, a fence of system scope waits for a zero-length read inside a window that the hart's function may read: R390 names the
releases and R90 the windows, and that a FENCE sends one, to the base of the first such window, is the model's reading (log 65,
DEDUCED). -/
def Sys2Proof.Claims.FenceWord : Prop :=
  ∀ (o : FN) (s : State) (c b : Nat), Ready s c b o.p →
    let h := s.hart c b
    (o.k = 0 ∧ h.stores = [] ∨ h.quiet = true) →
    ((o.s = 2 → h.posted = false) →
      exec (.fence o) s = .next (s.hartDone c b fun h => if o.k = 3 then { h with cache := [] } else h)) ∧
    (∀ bus, o.s = 2 → h.posted = true → h.req = none → h.hostGot = [] → s.readWindow (.hart c b) = some bus →
      ∃ t, exec (.fence o) s = .next t ∧ t.out = s.out ++ [Out.hostRequest 0 bus 0 0 0] ∧ (t.hart c b).hpc = h.hpc ∧
        (t.hart c b).g = h.g ∧ t.mem = s.mem)

/-- LD, ST and FENCE: the claims `LoadAndStoreWords` and `FenceWord`. -/
def Obligations.LoadStoreFenceWords : Prop := Sys2Proof.Claims.LoadAndStoreWords ∧ Sys2Proof.Claims.FenceWord

/-- R396: an AMO on this module writes the new value and gives gd the old one, sign-extended; AMOCAS writes only where the
old value is gd's. Bytes outside the operand are unchanged. -/
def Obligations.AtomicWords : Prop :=
  ∀ (o : AM) (i : Instr) (f : Nat → Nat → Nat → Nat → Option Nat),
    (i, f) ∈ ([(.amoadd o, fun w old x _ => some ((old + x) % 2 ^ w)), (.amoswap o, fun _ _ x _ => some x),
      (.amocas o, fun _ old x d => if old = d then some x else none),
      (.amomin o, fun w old x _ => some (if sval w old ≤ sval w x then old else x)),
      (.amomax o, fun w old x _ => some (if sval w old ≤ sval w x then x else old)),
      (.amoand o, fun _ old x _ => some (old &&& x)), (.amoor o, fun _ old x _ => some (old ||| x)),
      (.amoxor o, fun _ old x _ => some (old ^^^ x))] : List (Instr × (Nat → Nat → Nat → Nat → Option Nat))) →
    ∀ (s : State) (c b pa : Nat),
      let h := s.hart c b
      let n := if o.w then 4 else 8
      let va := (h.greg o.a.toNat).toNat
      let old := s.mem.read pa n
      Ready s c b o.p → Reaches s c b → va % n = 0 → s.colAt c false va n true true = .ok (.here pa) →
      s.held c b (.here pa) n true = false → (o.o.getLsbD 1 = true → (o.s = 2 → h.posted = false) ∧ h.quiet = true) →
      Plain s pa →
      ∃ t, exec i s = .next t ∧
        t.mem = (match f (8 * n) old ((h.greg o.b.toNat).toNat % 2 ^ (8 * n)) ((h.greg o.d.toNat).toNat % 2 ^ (8 * n)) with
          | some v => s.mem.write pa n v
          | none => s.mem) ∧
        (∀ a, a < pa ∨ pa + n ≤ a → t.mem.get a = s.mem.get a) ∧
        t.hart c b = (h.setG o.d.toNat (BitVec.ofInt 64 (sval (8 * n) old))).clean.advance .next ∧
        (∀ d e, t.bank d e = s.bank d e) ∧ (∀ d e, ¬(d = c ∧ e = b) → t.hart d e = s.hart d e)

/-! ## Counters and reductions between harts -/

/-- R392, R393: on a counter whose copies agree, BARRIVE adds, SEMPOST adds up to 2^32 - 1, and both give gd the old value;
BARWAIT ends at once where the counter meets its threshold, which leaves the counter as it was; SEMWAIT at the head of an
empty queue subtracts where the counter suffices; behind another waiter it takes the last place and waits. -/
def Obligations.CounterWords : Prop :=
  ∀ (o : CN) (s : State) (c b : Nat) (v : BitVec 32), Ready s c b o.p →
    let h := s.hart c b
    let n := o.i.toNat
    let y := (h.greg o.b.toNat).toNat
    let x := s.ctr o.h c n
    x.failed = false → x.c0 = v → x.c1 = v → x.c2 = v → y < 2 ^ 32 →
    (h.quiet = true →
      exec (.barrive o) s = .next ((s.writeCtr o.h c n (v + BitVec.ofNat 32 y)).hartDone c b fun h =>
        h.setG o.d.toNat (v.setWidth 64)) ∧
      exec (.sempost o) s = .next ((s.writeCtr o.h c n (BitVec.ofNat 32 (min (v.toNat + y) (2 ^ 32 - 1)))).hartDone c b
        fun h => h.setG o.d.toNat (v.setWidth 64))) ∧
    ((∀ w ∈ x.bars, ¬(w.core = c ∧ w.bank = some b)) → y ≤ v.toNat →
      ∃ t, exec (.barwait o) s = .next t ∧ t.ctr o.h c n = x ∧
        t.hart c b = (h.setG o.d.toNat (v.setWidth 64)).clean.advance .next ∧ t.mem = s.mem) ∧
    (x.sems = [] → y ≤ v.toNat →
      ∃ t, exec (.semwait o) s = .next t ∧
        t.ctr o.h c n = { x with c0 := v - BitVec.ofNat 32 y, c1 := v - BitVec.ofNat 32 y, c2 := v - BitVec.ofNat 32 y } ∧
        t.hart c b = (h.setG o.d.toNat (v.setWidth 64)).clean.advance .next ∧ t.mem = s.mem) ∧
    (∀ w rest, x.sems = w :: rest → ¬(w.core = c ∧ w.bank = some b) →
      ∃ t, exec (.semwait o) s = .next t ∧
        t.ctr o.h c n = { x with sems := x.sems ++ [{ core := c, bank := some b, amount := y }] } ∧
        (t.hart c b).pend = some (.counter (.semwait o)) ∧ (t.hart c b).g = h.g)

/-- R391: two copies of a counter that agree outvote the third, which is rewritten and logged (`0x47 COPY_CORRECTED`); with
no two in agreement the counter is failed and has no value. -/
def Sys2Proof.Claims.CounterVote : Prop :=
  ∀ (s : State) (hub : Bool) (c n : Nat) (v : BitVec 32),
    let x := s.ctr hub c n
    (x.failed = false → (x.c0 = v ∧ x.c1 = v ∨ x.c0 = v ∧ x.c2 = v ∨ x.c1 = v ∧ x.c2 = v) →
      (s.readCtr hub c n).2 = some v ∧
      ((s.readCtr hub c n).1.ctr hub c n) = { x with c0 := v, c1 := v, c2 := v }) ∧
    ((x.failed = true ∨ (x.c0 ≠ x.c1 ∧ x.c0 ≠ x.c2 ∧ x.c1 ≠ x.c2)) →
      (s.readCtr hub c n).2 = none ∧ ((s.readCtr hub c n).1.ctr hub c n).failed = true)

/-- R392: a barrier wait that its counter meets leaves the counter as it was and gives its hart the value; the head semaphore
waiter of a counter that suffices takes its amount and gets the old value. -/
def Sys2Proof.Claims.CounterEvents : Prop :=
  ∀ (s : State) (hub : Bool) (c n b : Nat) (v : BitVec 32) (o : CN) (w : CtrWait) (rest : List CtrWait),
    let x := s.ctr hub c n
    let h := s.hart w.core b
    x.failed = false → x.c0 = v → x.c1 = v → x.c2 = v → w.bank = some b →
    (h.pend = some (.counter (.barwait o)) → x.bars.find? (fun w => decide (w.amount ≤ v.toNat)) = some w →
      ∃ t, exec (.counterWaitMet hub c n) s = .next t ∧ t.ctr hub c n = { x with bars := x.bars.filter (· != w) } ∧
        (t.hart w.core b).pend = some .done ∧ (o.d ≠ 0 → (t.hart w.core b).greg o.d.toNat = v.setWidth 64) ∧
        t.mem = s.mem) ∧
    (h.pend = some (.counter (.semwait o)) → x.sems = w :: rest → w.amount ≤ v.toNat →
      let y := v - BitVec.ofNat 32 w.amount
      ∃ t, exec (.semGrant hub c n) s = .next t ∧ t.ctr hub c n = { x with c0 := y, c1 := y, c2 := y, sems := rest } ∧
        (t.hart w.core b).pend = some .done ∧ (o.d ≠ 0 → (t.hart w.core b).greg o.d.toNat = v.setWidth 64) ∧
        t.mem = s.mem) ∧
    (x.sems = w :: rest → v.toNat < w.amount → exec (.semGrant hub c n) s = .next s)

/-- The vote of the copies of a counter, and the events that end its waits: the claims `CounterVote` and `CounterEvents`. -/
def Obligations.CounterVoteAndEvents : Prop := Sys2Proof.Claims.CounterVote ∧ Sys2Proof.Claims.CounterEvents

/-- R362 to R365: the RED of the last participant to issue completes its instance: every participant's gd (and, for SEXP, the
next register) takes the root of the fixed tree, and its word ends. -/
def Sys2Proof.Claims.RedWord : Prop :=
  ∀ (o : RD) (s : State) (c b : Nat), Ready s c b false → (o.s = 1 ∨ o.s = 2) →
    let h := s.hart c b
    let desc := h.greg o.b.toNat
    let scope := o.s.toNat
    let key := redKey scope (redChan desc.toNat) (((s.core c).gangOf b).getD 0)
    let inst := h.redInst scope key
    let mine : RedPart := { inst := inst, core := c, bank := b, op := o.o.toNat, desc := desc, m := h.greg o.a.toNat
                            s := h.greg (o.a.toNat + 1) }
    let joined := s.setCore c { s.core c with reds := (s.core c).reds.put key ((s.core c).reds.get key [] ++ [mine]) }
    let parts := joined.redParts c scope key inst
    let root := (redRoot o.o.toNat (redType desc.toNat) scope c parts).1
    redRefused o.o.toNat scope desc.toNat b = false → mine ∈ parts →
    (∀ m ∈ joined.redMembers c scope key parts, ∃ p ∈ parts, p.core = m.1 ∧ p.bank = m.2) →
    (∀ p ∈ parts, p.op = o.o.toNat ∧ p.desc = desc) → (∀ p ∈ parts, p.core = c → p.bank = b → p = mine) →
    (∃ t, exec (.red o) s = .next t ∧ (t.hart c b).st = ((h.clean).advance .next).st ∧
      (o.d ≠ 0 → (t.hart c b).greg o.d.toNat = BitVec.ofNat 64 root.1) ∧
      (o.o = 6 → o.d ≠ 15 → (t.hart c b).greg (o.d.toNat + 1) = BitVec.ofNat 64 root.2) ∧
      (∀ p ∈ parts, ¬(p.core = c ∧ p.bank = b) → ∀ d ch sc i, (s.hart p.core p.bank).pend = some (.red d ch sc i) →
        (t.hart p.core p.bank).pend = some .done ∧ (d ≠ 0 → (t.hart p.core p.bank).greg d = BitVec.ofNat 64 root.1)) ∧
      t.mem = s.mem)

/-- R363 to R366: once every hart that an instance at core scope waits for has issued, the instance combines: each gets the
root of the fixed tree, and the instance is gone. -/
def Sys2Proof.Claims.RedInstanceCombines : Prop :=
  ∀ (s : State) (c chan inst op : Nat) (desc : Word) (ps : List RedPart),
    let key := redKey 1 chan chan
    let root := (redRoot op (redType desc.toNat) 1 c ps).1
    (s.core c).reds.get key [] = ps → ps ≠ [] →
    (∀ p ∈ ps, p.inst = inst ∧ p.core = c ∧ p.op = op ∧ p.desc = desc) → (ps.map fun p => p.bank).Nodup →
    (∀ m ∈ s.redMembers c 1 key ps, ∃ p ∈ ps, p.core = m.1 ∧ p.bank = m.2) →
    ∃ t, exec (.redCombineComplete c chan 1) s = .next t ∧ (t.core c).reds.get key [] = [] ∧ t.mem = s.mem ∧
      ∀ p ∈ ps, ∀ d ch sc i, (s.hart c p.bank).pend = some (.red d ch sc i) →
        (t.hart c p.bank).pend = some .done ∧ (d ≠ 0 → (t.hart c p.bank).greg d = BitVec.ofNat 64 root.1)

/-- RED: the last participant completes its instance, and an instance combines: the claims `RedWord` and
`RedInstanceCombines`. -/
def Obligations.RedWords : Prop := Sys2Proof.Claims.RedWord ∧ Sys2Proof.Claims.RedInstanceCombines

/-! ## The matrix engine -/

/-- R341, R342: MTILE claims a free tile, and does nothing to one the bank holds; MTILE.REL gives up a tile whose operations are
done. A tile of another bank raises `0x0E TILE_CLAIM`, and stays as it is where the engine holds no operation of the hart (R360). -/
def Sys2Proof.Claims.TileWords : Prop :=
  ∀ (o : XQ) (s : State) (c b : Nat), Ready s c b o.p →
    let q := o.q.toNat
    let t := s.tile c q
    (t.owner = none → exec (.mtile o) s = .next ((s.setTile c q { t with owner := some b }).retired c b .next)) ∧
    (t.owner = some b → exec (.mtile o) s = .next (s.retired c b .next)) ∧
    (t.owner = some b → (s.core c).engine = [] →
      exec (.mtileRel o) s = .next ((s.setTile c q { t with owner := none, failed := false }).retired c b .next)) ∧
    (∀ x, t.owner = some x → x ≠ b → (∀ y ∈ (s.core c).engine, y.bank ≠ b) → ∃ u, exec (.mtile o) s = .next u ∧ (u.hart c b).st = .faulted ∧
      (u.hart c b).hcause = 0x0e ∧ u.tile c q = t)

/-- R346, R350, R353 to R355: with an empty queue, a word of the engine is taken up and completed: MZERO zeroes the tile and
sets its format; MLDACC and MLDACC.W load it; MDRAIN and MDRAIN.W convert its elements into their registers and zero it if
asked. Other tiles, the masks, memory and every other register stay. -/
def Sys2Proof.Claims.TileMoves : Prop :=
  ∀ (z : XZ) (l : XL) (w : X3) (d : XD) (e : XDW) (s : State) (c b : Nat),
    let h := s.hart c b
    let reg (r : Nat) := { s.reg c b r with bits := (s.reg c b r).content r }
    let free (i : Instr) (p : Bool) := Ready s c b p ∧ h.mmode = true ∧ (s.tile c (engTile i)).owner = some b ∧
      (s.core c).engine = []
    let leaves (i : Instr) (bits : Nat) (si32 : Bool) := ∃ t, exec i s = .next t ∧
      t.tile c (engTile i) = { s.tile c (engTile i) with bits := bits, si32 := si32, failed := false } ∧
      (∀ x, x ≠ engTile i → t.tile c x = s.tile c x) ∧ (∀ x, t.bank c x = s.bank c x) ∧
      t.hart c b = h.clean.advance .next ∧ (t.core c).engine = [] ∧ t.mem = s.mem
    let isFloat (r : Nat) := decide (8 ≤ s.tag c b r) && decide (s.tag c b r ≤ 12)
    let drains (i : Instr) (r : Nat) (second : Option Nat) (zero : Bool) := ∃ t, exec i s = .next t ∧
      let tile := s.tile c (engTile i)
      let width := tagBits (s.tag c b r)
      let es := (drainElems (s.tag c b r) (rmOf h.rmode) tile h.seed.toNat).1
      (∀ k, k < 4096 → k < 65536 / width → (es[k]?).bind (fun y => y.enc) = some (elemAt (t.reg c b r).bits width k)) ∧
      (∀ r2 k, second = some r2 → k < 2048 →
        (es[2048 + k]?).bind (fun y => y.enc) = some (elemAt (t.reg c b r2).bits 32 k)) ∧
      t.tile c (engTile i) = (if zero then { tile with bits := 0, failed := false } else tile) ∧
      (∀ x, x ≠ r → second ≠ some x → t.reg c b x = s.reg c b x) ∧ (∀ x, (t.bank c b).mask x = (s.bank c b).mask x) ∧
      (t.hart c b).greg = h.greg ∧ (t.core c).engine = [] ∧ t.mem = s.mem
    (free (.mzero z) z.p → leaves (.mzero z) 0 z.i) ∧
    (free (.mldacc l) l.p → firstRefused (loadTags l.a.toNat s c b) = none → s.canRead c b l.a.toNat = true →
      s.consumeFrom c b [] [l.a.toNat] 0 = none →
      leaves (.mldacc l) (loadTile (isFloat l.a.toNat) (reg l.a.toNat) none) (!isFloat l.a.toNat)) ∧
    (free (.mldaccW w) w.p → (s.tag c b w.a.toNat = 12 ∨ s.tag c b w.a.toNat = 4) →
      s.tag c b w.b.toNat = s.tag c b w.a.toNat → s.canRead c b w.a.toNat = true → s.canRead c b w.b.toNat = true →
      s.consumeFrom c b [] [w.a.toNat, w.b.toNat] 0 = none →
      leaves (.mldaccW w) (loadTile (isFloat w.a.toNat) (reg w.a.toNat) (some (reg w.b.toNat))) (!isFloat w.a.toNat)) ∧
    (free (.mdrain d) d.p → s.tag c b d.d.toNat ∈ [0, 1, 2, 3, 8, 9, 10, 11] → s.canWrite c b d.d.toNat = true →
      (s.tile c d.q.toNat).failed = false → h.egi = 0 → (rmOf h.rmode).nantrap = false →
      drains (.mdrain d) d.d.toNat none d.z) ∧
    (free (.mdrainW e) e.p → s.tag c b e.d.toNat ∈ [4, 5, 12] → s.tag c b e.e.toNat = s.tag c b e.d.toNat → e.d ≠ e.e →
      s.canWrite c b e.d.toNat = true → s.canWrite c b e.e.toNat = true → (s.tile c e.q.toNat).failed = false →
      h.egi = 0 → (rmOf h.rmode).nantrap = false → drains (.mdrainW e) e.d.toNat (some e.e.toNat) e.z)

/-- MTILE, MZERO, MLDACC and MDRAIN: the claims `TileWords` and `TileMoves`. -/
def Obligations.TileWords : Prop := Sys2Proof.Claims.TileWords ∧ Sys2Proof.Claims.TileMoves

/-- R344 to R349, R357: with an empty queue and a sampled check that agrees, MOP and MOPS leave in their tile what the
operation on it gives, and add INEXACT and NANP to the flags; registers, masks, other tiles and memory stay. -/
def Sys2Proof.Claims.OuterProductWords : Prop :=
  ∀ (o : X3) (q : XS) (s : State) (c b : Nat),
    let h := s.hart c b
    let reg (r : Nat) := { s.reg c b r with bits := (s.reg c b r).content r }
    let w7 := (s.reg c b 15).content 15
    let gives (i : Instr) (e : EngOp) (mops : Option (Nat × Nat)) :=
      let tile := s.tile c (engTile i)
      let m := e.run mops tile
      ((rmOf h.rmode).nantrap = false ∨ m.nan = none) → ∃ t, exec i s = .next t ∧
        t.tile c (engTile i) = { tile with bits := packRows m.rows } ∧
        (∀ x, x ≠ engTile i → t.tile c x = s.tile c x) ∧ (∀ x, t.bank c x = s.bank c x) ∧
        t.hart c b = { h with flags := h.flags ||| ((if m.inexact then 8 else 0) ||| if m.nan.isSome then 2 else 0) }.clean.advance .next ∧
        (t.core c).engine = [] ∧ t.mem = s.mem
    let free (i : Instr) (p : Bool) := Ready s c b p ∧ h.mmode = true ∧ (s.tile c (engTile i)).owner = some b ∧
      (s.tile c (engTile i)).failed = false ∧ (s.core c).engine = []
    let a := o.a.toNat
    let b' := o.b.toNat
    (free (.mop o) o.p → firstRefused (mopChecks o.q.toNat a b' s c b) = none →
      kLimit a b' none (Instr.mop o).word s c b = none →
      (∀ r ∈ [a, b'] ++ (if s.tag c b a = 13 then [15] else []), s.canRead c b r = true) →
      s.consumeFrom c b [] ([a, b'] ++ if s.tag c b a = 13 then [15] else []) 0 = none →
      gives (.mop o) { bank := b, instr := .mop o, ml := h.ml, rmode := h.rmode, taken := true, srcA := reg a, srcB := reg b'
                       scales := w7 } none) ∧
    (free (.mops q) q.p → firstRefused (mopChecks q.q.toNat q.a.toNat q.b.toNat s c b) = none →
      kLimit q.a.toNat q.b.toNat (some (if q.n then 24 else 16)) (Instr.mops q).word s c b = none →
      (∀ r ∈ [q.a.toNat, q.b.toNat, q.x.toNat] ++ (if s.tag c b q.a.toNat = 13 then [15] else []), s.canRead c b r = true) →
      badBitmap ((s.reg c b q.x.toNat).content q.x.toNat) (if q.n then 24 else 16) (h.ml / 48) = none →
      s.consumeFrom c b [] ([q.a.toNat, q.b.toNat, q.x.toNat] ++ if s.tag c b q.a.toNat = 13 then [15] else []) 0 = none →
      gives (.mops q) { bank := b, instr := .mops q, ml := h.ml, rmode := h.rmode, taken := true, srcA := reg q.a.toNat
                        srcB := reg q.b.toNat, srcX := reg q.x.toNat, scales := w7 }
        (some (if q.n then 24 else 16, (s.reg c b q.x.toNat).content q.x.toNat)))

/-- R202, R350: the engine's events. A taken-up MOP has copied its sources and is accepted; the end of one whose sampled check
fails twice marks its tile failed, at the row that the engine drew (a free value, log 13), and leaves its elements. -/
def Sys2Proof.Claims.EngineEvents : Prop :=
  ∀ (o : X3) (s : State) (c b : Nat) (e : EngOp) (rest : List EngOp), e.instr = .mop o → e.bank = b →
    (s.core c).engine = e :: rest →
    let reg (r : Nat) := { s.reg c b r with bits := (s.reg c b r).content r }
    let tile := s.tile c o.q.toNat
    (e.taken = false → tile.failed = false → (rmOf e.rmode).nantrap = false → (s.hart c b).pend = some .engine →
      s.consumeFrom c b [] (s.engSources c e) 0 = none →
      ∃ t, exec (.engineTakeUp c) s = .next t ∧
        (t.core c).engine = { e with taken := true, srcA := reg o.a.toNat, srcB := reg o.b.toNat
                                     scales := (s.reg c b 15).content 15 } :: rest ∧
        (t.hart c b).pend = some .done ∧ (∀ q, t.tile c q = s.tile c q) ∧ (∀ x, t.bank c x = s.bank c x) ∧ t.mem = s.mem) ∧
    (e.taken = true → (rmOf e.rmode).nantrap = false →
      (∃ t, exec (.engineOpComplete c true false) s = .next t ∧ (t.core c).engine = rest ∧
        t.tile c o.q.toNat = { tile with bits := packRows (e.run none tile).rows } ∧ (∀ x, t.bank c x = s.bank c x)) ∧
      (∃ t, exec (.engineOpComplete c false false) s = .next t ∧ (t.core c).engine = rest ∧
        t.tile c o.q.toNat = { tile with failed := true, badRow := Config.sampledRow s.draws } ∧
        (∀ x, t.bank c x = s.bank c x)))

/-- R292, R344, R346: on integers an outer product adds to every element of the tile the exact sum over the k-steps of column
element times row element, modulo 2^32; it is never inexact and gives no NaN. -/
def Sys2Proof.Claims.OuterProductOfIntegers : Prop :=
  ∀ (e : EngOp) (tile : Tile), tile.si32 = true → (e.srcA.tag = 0 ∨ e.srcA.tag = 1) → (e.srcB.tag = 0 ∨ e.srcB.tag = 1) →
    let x (tag : BitVec 4) (bits i : Nat) : Int := if tag = 0 then sval 8 (elemAt bits 8 i) else elemAt bits 8 i
    let m := e.run none tile
    m.inexact = false ∧ m.nan = none ∧ ∀ r j, r < 64 → j < 64 →
      (m.rows[r]?).bind (fun row => row[j]?) = some (uval 32 (sval 32 (elemAt tile.bits 32 (64 * r + j)) +
        ((List.range e.ml).map fun k => x e.srcA.tag e.srcA.bits (64 * k + r) * x e.srcB.tag e.srcB.bits (64 * k + j)).foldl
          (fun a y => a + y) 0))

/-- MOP and MOPS, the events of the engine (the failed row is a free value, log 13), and outer products of integers: the claims
`OuterProductWords`, `EngineEvents` and `OuterProductOfIntegers`. -/
def Obligations.OuterProducts : Prop :=
  Sys2Proof.Claims.OuterProductWords ∧ Sys2Proof.Claims.EngineEvents ∧ Sys2Proof.Claims.OuterProductOfIntegers

/-! ## The control thread -/

/-- R34, R123: an instruction of the control thread that completes writes rd and nothing else of the registers, goes to the next
instruction, and counts in instret; `x0` reads 0. -/
def Sys2Proof.Claims.ControlThreadGoesOn : Prop :=
  ∀ (s : State) (c r : Nat) (v : Word),
    let t := s.ctDone c r v
    (t.ct c).xreg 0 = 0 ∧ (r ≠ 0 → (t.ct c).xreg r = v) ∧ (∀ q, q ≠ r → (t.ct c).xreg q = (s.ct c).xreg q) ∧
      (t.ct c).pc = (s.ct c).pc + BitVec.ofNat 64 s.actLen ∧ (t.core c).instret = (s.core c).instret + 1 ∧
      (t.ct c).mode = (s.ct c).mode ∧ (∀ b, t.hart c b = s.hart c b) ∧ (∀ b, t.bank c b = s.bank c b) ∧
      (∀ d, d ≠ c → t.core d = s.core d) ∧ t.mem = s.mem ∧ t.hctrs = s.hctrs

/-- R126, R401: a trap of the control thread saves the pc in mepc, the cause in mcause and its detail in mtval (of a detail of more
than 56 bits the low 56: the model's choice, log 97), moves MIE to
MPIE and the mode to MPP, and goes on in M mode at the base of mtvec (log 10 for the RISC-V layout of mtvec); a device cause is
mcause 24 with the code in mtval[63:56]. Registers, harts, banks and memory stay, and the reservation ends. -/
def Sys2Proof.Claims.ControlThreadTrap : Prop :=
  ∀ (s : State) (c code detail : Nat), code < 256 →
    let t := s.ctCause c code detail
    let x := s.ct c
    let y := t.ct c
    y.mepc = x.pc ∧ y.mcause = 24 ∧ y.mtval = BitVec.ofNat 64 (code * 2 ^ 56 + detail % 2 ^ 56) ∧ y.mpie = x.mie ∧
      y.mie = false ∧ y.mpp = x.mode ∧ y.mode = .machine ∧ y.pc = BitVec.ofNat 64 (x.mtvec.toNat / 4 * 4) ∧
      y.resv = none ∧ y.x = x.x ∧ (∀ b, t.hart c b = s.hart c b) ∧ (∀ b, t.bank c b = s.bank c b) ∧
      (∀ d, d ≠ c → t.core d = s.core d) ∧ t.mem = s.mem

/-- The control thread's completion and its traps (the layout of mtvec is log 10): the claims `ControlThreadGoesOn` and
`ControlThreadTrap`. -/
def Obligations.ControlThreadGoesOnAndTraps : Prop := Sys2Proof.Claims.ControlThreadGoesOn ∧ Sys2Proof.Claims.ControlThreadTrap

/-- R148 to R150: GDEF on a quiet gang moves its members and answers the old bitmap; BCAST and BCASTN append the fetched blocks
with the gang's next sequence numbers and answer the first; GWAIT answers the met bit and the faulted members. -/
def Obligations.GangInstructions : Prop :=
  ∀ (o : XH) (s s1 : State) (v : Nat) (blks : List (List Nat × Nat)),
    let c := s.actCore
    let g := o.g.toNat
    let x := s.gang c g
    let a := s.rs1 o
    let n := s.rs2 o
    let old := x.members.toNat
    let faulted := x.banks.filter fun b => (s.hart c b).st == .faulted
    let met := if n = 0 then seqRetired x.last a else s.gangIdle c g
    (a < 2 ^ 32 → n < 2 → x.queue = [] → x.run = none → (∀ b ∈ x.banks, (s.hart c b).st ≠ .split) →
      (∀ b, b < 32 → a.testBit b = true → (s.core c).gangOf b = none ∨ (s.core c).gangOf b = some g) →
      ∃ t, exec (.gdef o) s = .next t ∧ (o.d ≠ 0 → (t.ct c).xreg o.d.toNat = BitVec.ofNat 64 old) ∧
        t.gang c g = { x with members := BitVec.ofNat 32 a, hold := n == 1 } ∧ (∀ q, q ≠ g → t.gang c q = s.gang c q) ∧
        (∀ b, b < 32 →
          (t.hart c b).st = (if old.testBit b && !a.testBit b then .free
            else if a.testBit b && !old.testBit b then .member else (s.hart c b).st) ∧
          ((old.testBit b || a.testBit b) = true →
            (t.hart c b).fromW = [] ∧ (t.hart c b).fromE = [] ∧ (t.hart c b).fromCT = [] ∧ (t.hart c b).toCT = []) ∧
          (t.hart c b).g = (s.hart c b).g ∧ t.bank c b = s.bank c b) ∧ t.mem = s.mem) ∧
    (a % 64 = 0 → x.members ≠ 0 → s.ctLine c a = .done s1 v → headerGood ((blockWords v).headD 0) = true →
      (s1.gang c g).queue.length < 8 →
      exec (.bcast o) s = .next ((s1.setGang c g { s1.gang c g with
        queue := (s1.gang c g).queue ++ [⟨blockWords v, a, (s1.gang c g).nextSeq.toNat % 2 ^ 32⟩]
        nextSeq := (s1.gang c g).nextSeq + 1 }).ctDone s1.actCore o.d.toNat ((s1.gang c g).nextSeq.setWidth 64))) ∧
    (a % 64 = 0 → 0 < n → n ≤ 8 → x.members ≠ 0 → State.fetchBlocks c n a s [] = .inr (s1, blks) →
      (s1.gang c g).queue.length + n ≤ 8 →
      ∃ t, exec (.bcastn o) s = .next t ∧
        (t.gang c g).queue.map (fun e => (e.words, e.va)) = (s1.gang c g).queue.map (fun e => (e.words, e.va)) ++ blks ∧
        (t.gang c g).nextSeq = (s1.gang c g).nextSeq + BitVec.ofNat 32 n ∧ t.mem = s1.mem) ∧
    (n ≤ 1 → (met = true ∨ faulted ≠ []) → exec (.gwait o) s = .next ((if met then s.ctAcquire c else s).ctDone c o.d.toNat
      (BitVec.ofNat 64 ((if met then 2 ^ 32 else 0) + faulted.foldl (fun a b => a + 2 ^ b) 0))))

/-- R151 to R155, R225: GSET and HGET reach a hart's scalar registers, special registers and link queues; HSTAT answers its
status; HRESUME sends a FAULTED hart on from its saved place, after the word for TRAPI and BRK; HKILL stops the harts of a
bitmap. -/
def Obligations.HartInstructions : Prop :=
  ∀ (o : XH) (s : State) (n b : Nat) (h1 : Hart), b < 32 → n < 16 →
    let c := s.actCore
    let h := s.hart c b
    let v := (s.ct c).xreg o.b.toNat
    let a := s.rs1 o
    (a = b + n * 2 ^ 8 → s.mayAct c b = true →
      exec (.gset o) s = .next ((s.setHart c b (h.setG n v)).ctDone c o.d.toNat 0) ∧
      exec (.hget o) s = .next (s.ctDone c o.d.toNat (h.greg n))) ∧
    (a = b + n * 2 ^ 8 + 2 ^ 12 → n < 11 → s.mayAct c b = true →
      (h.gsetSreg n v = some h1 → exec (.gset o) s = .next ((s.setHart c b h1).ctDone c o.d.toNat 0)) ∧
      exec (.hget o) s = .next (s.ctDone c o.d.toNat (s.sreg c b n))) ∧
    (a = b + 2 ^ 13 → h.fromCT.length < 4 →
      exec (.gset o) s = .next ((s.setHart c b { h with fromCT := h.fromCT ++ [v] }).ctDone c o.d.toNat 0)) ∧
    (∀ x q, a = b + 2 ^ 13 → h.toCT = x :: q →
      exec (.hget o) s = .next ((s.setHart c b { h with toCT := q }).ctDone c o.d.toNat x)) ∧
    (a = b → exec (.hstat o) s = .next (s.ctDone c o.d.toNat (s.hartStatus c b))) ∧
    (a = b → h.st = .faulted → exec (.hresume o) s = .next ((s.setHart c b h.resume).ctDone c o.d.toNat 0)) ∧
    (h.after = 0 → h.resume.st = .split ∧ h.resume.hpc = h.hpc ∧ h.resume.egi = h.egi ∧
      h.resume.after = (if h.hcause = 0x08 ∨ h.hcause = 0xc1 then 1 else 0)) ∧
    (a < 2 ^ 32 → (∀ x, x < 32 → a.testBit x = true → (s.hart c x).midway = false) →
      ∃ t, exec (.hkill o) s = .next (t.ctDone t.actCore o.d.toNat 0) ∧
        t = s.killHarts c ((List.range 32).filter fun x => a.testBit x)) ∧
    (h.st = .split → h.pend = none → h.young = [] → (s.core c).engine = [] →
      ((s.killHart c b).hart c b).st = .faulted ∧ ((s.killHart c b).hart c b).hcause = 0x86 ∧
        (s.killHart c b).bank c b = s.bank c b ∧ ((s.killHart c b).core c).evq = (s.core c).evq)

/-- R144, R156: EVWAIT and EVPOLL store the oldest record's 64 bytes, at a place that takes them, take it from the queue, let
a waiting record in, and answer its cause; EVPOLL answers 0 on an empty queue. EVENT_RECORD_ENTER lets waiting records in. -/
def Sys2Proof.Claims.EventInstructions : Prop :=
  ∀ (o : XH) (s s1 : State) (r : EvRec) (rest : List EvRec) (n : Nat),
    let c := s.actCore
    let va := s.rs1 o
    (va % 64 = 0 → (s.core c).evq = r :: rest → s.storeRecord c va r.bits = .done s1 n →
      let t := (State.drainEvents 64 c (s1.setCore c { s1.core c with evq := rest })).ctAcquire c
      exec (.evwait o) s = .next (t.ctDone t.actCore o.d.toNat (r.cause.setWidth 64)) ∧
      exec (.evpoll o) s = .next (t.ctDone t.actCore o.d.toNat (r.cause.setWidth 64))) ∧
    (va % 64 = 0 → (s.core c).evq = [] → exec (.evpoll o) s = .next (s.ctDone c o.d.toNat 0)) ∧
    (∀ d e b, (s.core d).evq.length = 63 → (s.core d).st = .running → s.oldestWaiting d = some (e, some b) →
      ∃ t, exec (.eventRecordEnter d) s = .next t ∧ (t.core d).evq = (s.core d).evq ++ [e] ∧
        (t.hart d b).evWait = (s.hart d b).evWait.drop 1 ∧ t.mem = s.mem)

/-- R161, R391, R392: the CTBAR instructions on a counter whose copies agree, of a thread with no Dirty word: ARRIVE adds,
SEMPOST adds up to 2^32 - 1, SET writes, each answering the old value; WAIT ends where the counter meets the threshold, SEMWAIT
at the head of an empty queue subtracts. -/
def Sys2Proof.Claims.ControlThreadCounters : Prop :=
  ∀ (o : XH) (s : State) (hub : Bool) (n : Nat) (y v : BitVec 32),
    let c := s.actCore
    let x := s.ctr hub c n
    s.rs1 o = n + (if hub then 256 else 0) → (if hub then n < 256 else n < 64) → s.rs2 o = y.toNat →
    x.failed = false → x.c0 = v → x.c1 = v → x.c2 = v → (∀ e ∈ (s.ct c).dcache, e.2.st ≠ .dirty) →
    exec (.ctbarArrive o) s = .next ((s.writeCtr hub c n (v + y)).ctDone c o.d.toNat (v.setWidth 64)) ∧
    exec (.ctbarSempost o) s = .next ((s.writeCtr hub c n (BitVec.ofNat 32 (min (v.toNat + y.toNat) (2 ^ 32 - 1)))).ctDone
      c o.d.toNat (v.setWidth 64)) ∧
    exec (.ctbarSet o) s = .next ((s.writeCtr hub c n y).ctDone c o.d.toNat (v.setWidth 64)) ∧
    (y.toNat ≤ v.toNat → exec (.ctbarWait o) s =
      .next (((s.withdraw c none).ctAcquire c).ctDone c o.d.toNat (v.setWidth 64))) ∧
    (y.toNat ≤ v.toNat → x.sems = [] → ∃ t, exec (.ctbarSemwait o) s = .next t ∧
      (t.ctr hub c n).c0 = v - y ∧ (t.ctr hub c n).c1 = v - y ∧ (t.ctr hub c n).c2 = v - y ∧ (t.ctr hub c n).sems = [] ∧
      (o.d ≠ 0 → (t.ct c).xreg o.d.toNat = v.setWidth 64) ∧ t.mem = s.mem)

/-- EVWAIT, EVPOLL and the CTBAR instructions: the claims `EventInstructions` and `ControlThreadCounters`. -/
def Obligations.EventAndCounterInstructions : Prop := Sys2Proof.Claims.EventInstructions ∧ Sys2Proof.Claims.ControlThreadCounters

/-- R26, R124, R381: a load of a word the data cache holds answers from it; of a line it does not hold and has room for, from
memory, once the gather unit has a request free. The mode of an access is the thread's, or that of MPP under MPRV (log 10). A store leaves memory as it was and its bytes Dirty in the cache. A word that leaves the cache Dirty, as the eviction
of one does, puts its written bytes into memory, and no other byte. -/
def Obligations.ControlThreadMemory : Prop :=
  ∀ (o q : CtM) (s : State) (pa : Nat) (x : DWord),
    let c := s.actCore
    let n := 2 ^ (o.f3.toNat % 4)
    let va := s.ctAddr c o
    let ext (w : Nat) (v : Nat) : Word := if 4 ≤ o.f3.toNat then BitVec.ofNat 64 v else BitVec.ofInt 64 (sval (8 * w) v)
    let k := 2 ^ q.f3.toNat
    let vb := s.ctAddr c q
    let key := dkey s.flash.modId.toNat (pa / 8 * 8)
    let y := ((s.ct c).xreg q.r.toNat).toNat
    let room := (s.ct c).dcache.find key ≠ none ∨ (Tab.lines (s.ct c).dcache).length < Config.dcacheLines
    let open_ := s.busHeld (.ct c) = false ∧ Plain s pa
    (va % n = 0 → o.f3 ≠ 7 → s.colAt c (s.dataMach c) va n true false = .ok (.here pa) → (s.ct c).dcache.find key = some x →
      x.has = 0xff → exec (.ctLoad o) s = .next (s.ctDone c o.r.toNat (ext n (fld x.data.toNat (8 * (va % 8)) (8 * n))))) ∧
    (va % n = 0 → o.f3 ≠ 7 → s.colAt c (s.dataMach c) va n true false = .ok (.here pa) → pa % 8 = va % 8 →
      (s.ct c).dcache.find key = none → room → open_ → s.ctFree c = true → ∃ t, exec (.ctLoad o) s = .next t ∧
        (o.r ≠ 0 → (t.ct c).xreg o.r.toNat = ext n (s.mem.read pa n)) ∧ t.mem = s.mem ∧
        (t.ct c).pc = (s.ct c).pc + BitVec.ofNat 64 s.actLen) ∧
    (vb % k = 0 → q.f3.toNat < 4 → s.colAt c (s.dataMach c) vb k false true = .ok (.here pa) → room → open_ →
      ((s.ct c).dcache.find key = none → s.ctFree c = true) → ∃ t z, exec (.ctStore q) s = .next t ∧ (t.ct c).dcache.find key = some z ∧ z.st = .dirty ∧
        fld z.data.toNat (8 * (vb % 8)) (8 * k) = y % 2 ^ (8 * k) ∧
        (∀ j, j < k → z.mask.getLsbD (vb % 8 + j) = true) ∧ t.mem = s.mem ∧ (t.ct c).x = (s.ct c).x ∧
        (t.ct c).pc = (s.ct c).pc + BitVec.ofNat 64 s.actLen) ∧
    (pa % 8 = 0 → pa < 2 ^ 40 → s.mem.wf = true → (s.ct c).dcache.find key = some x → x.st = .dirty → open_ →
      ∃ t, exec (.dcacheEviction c key) s = .next t ∧ (t.ct c).dcache.find key = none ∧
        (∀ j, j < 8 → t.mem.get (pa + j) = if x.mask.getLsbD j then BitVec.ofNat 8 (x.data.toNat / 256 ^ j)
          else s.mem.get (pa + j)) ∧
        (∀ a, a < pa ∨ pa + 8 ≤ a → t.mem.get a = s.mem.get a))

/-- R123, R381: atomic operations of the control thread on an ordinary word of this module that its cache does not hold Dirty.
AMO writes the new value; LR reserves the line; SC writes and answers 0 while the reservation stands, and answers 1 and writes
nothing otherwise, and needs no read permission (R47). The thread's own copy of the word is gone after each. -/
def Obligations.ControlThreadAtomics : Prop :=
  ∀ (o : CtA) (s : State) (pa : Nat),
    let c := s.actCore
    let n := if o.d64 then 8 else 4
    let va := ((s.ct c).xreg o.a.toNat).toNat
    let key := dkey s.flash.modId.toNat (pa / 8 * 8)
    let old := s.mem.read pa n
    let y := ((s.ct c).xreg o.b.toNat).toNat
    let x := y % 2 ^ (8 * n)
    let rd (t : State) (v : Word) := (o.d ≠ 0 → (t.ct c).xreg o.d.toNat = v) ∧ (t.ct c).dcache.find key = none ∧
      (t.ct c).pc = (s.ct c).pc + BitVec.ofNat 64 s.actLen ∧ (∀ d e, t.hart d e = s.hart d e ∧ t.bank d e = s.bank d e)
    let free (reads writes : Bool) := va % n = 0 ∧ s.colAt c (s.dataMach c) va n reads writes = .ok (.here pa) ∧ Plain s pa ∧
      s.busHeld (.ct c) = false ∧ s.ctFree c = true ∧
      (∀ e ∈ (s.ct c).dcache, e.2.st ≠ .dirty) ∧ (o.rl = true → (s.ct c).posted = false)
    (∀ v, free true true →
      (o.f5, v) ∈ ([(0, (old + x) % 2 ^ (8 * n)), (1, x), (4, old ^^^ x), (8, old ||| x), (12, old &&& x),
        (16, if sval (8 * n) old ≤ sval (8 * n) x then old else x), (20, if sval (8 * n) old ≤ sval (8 * n) x then x else old),
        (24, min old x), (28, max old x)] : List (BitVec 5 × Nat)) →
      ∃ t, exec (.ctAmo o) s = .next t ∧ rd t (BitVec.ofInt 64 (sval (8 * n) old)) ∧ t.mem = s.mem.write pa n v) ∧
    (free true false → ∃ t, exec (.ctLr o) s = .next t ∧ rd t (BitVec.ofInt 64 (sval (8 * n) old)) ∧
      (t.ct c).resv = some (key / 64) ∧ t.mem = s.mem) ∧
    (free false true → (s.ct c).resv = some (key / 64) → ∃ t, exec (.ctSc o) s = .next t ∧ rd t 0 ∧ (t.ct c).resv = none ∧
      t.mem = s.mem.write pa n y) ∧
    (free false true → (s.ct c).resv ≠ some (key / 64) → ∃ t, exec (.ctSc o) s = .next t ∧ rd t 1 ∧ (t.ct c).resv = none ∧
      t.mem = s.mem)

/-- R123, R125, R127, R401: fences of a thread with no Dirty word (every FENCE, whatever its sets, drops the Clean words: the model's
reading, log 37, DEDUCED), WFI, and the system instructions (base and CSRs: log 10): ECALL takes mcause 8 or 11
by the mode, EBREAK mcause 3; MRET restores the mode and MIE and goes to mepc; a CSR instruction of an allowed register answers
the old value and writes the new one, a write of minstret in place of the instruction's own count; an instruction that the mode does not allow is an illegal instruction (mcause 2). -/
def Obligations.ControlThreadSystem : Prop :=
  ∀ (f : CtF) (o : CtC) (s : State),
    let c := s.actCore
    let t := s.ct c
    let n := o.csr.toNat
    let arg := if 4 ≤ o.f3.toNat then o.a.toNat else (t.xreg o.a.toNat).toNat
    let writes := o.f3.toNat % 4 = 1 ∨ o.a ≠ 0
    let allowed := (t.mode = .machine ∨ fld n 8 2 = 0) ∧ ¬(writes ∧ fld n 10 2 = 3)
    let new (old : Nat) := if o.f3.toNat % 4 = 1 then arg
      else if o.f3.toNat % 4 = 2 then old % 2 ^ 64 ||| arg else old % 2 ^ 64 &&& ((2 ^ 64 - 1) ^^^ arg)
    ((∀ e ∈ t.dcache, e.2.st ≠ .dirty) →
      (t.posted = false → exec (.ctFence f) s = .next ((s.ctAcquire c).ctDone c 0 0)) ∧
      exec .ctFenceI s = .next ((s.setCt c { t with icache := [] }).ctDone c 0 0)) ∧
    exec .ctWfi s = .next (s.ctDone c 0 0) ∧
    exec .ctEcall s = .next (s.ctTrap c (if t.mode = .machine then 11 else 8) 0 t.pc) ∧
    exec .ctEbreak s = .next (s.ctTrap c 3 t.pc.toNat t.pc) ∧
    (t.mode = .machine → ∃ u, exec .ctMret s = .next u ∧
      u.ct c = { t with mode := t.mpp, mie := t.mpie, mpie := true, mpp := .user, pc := t.mepc
                        mprv := t.mprv && t.mpp == .machine } ∧
      (∀ b, u.hart c b = s.hart c b) ∧ u.mem = s.mem) ∧
    (t.mode = .user → exec .ctMret s = .next (s.ctTrap c 2 (Instr.ctMret).word t.pc)) ∧
    (∀ old, s.csr c n = some old → allowed → o.f3.toNat % 4 ≠ 0 →
      (¬writes → exec (.ctCsrAccess o) s = .next (s.ctDone c o.d.toNat (BitVec.ofNat 64 old))) ∧
      (writes → n ≠ 0xb02 →
        exec (.ctCsrAccess o) s = .next ((s.setCsr c n (new old)).ctDone c o.d.toNat (BitVec.ofNat 64 old))) ∧
      (writes → n = 0xb02 → ∃ u, exec (.ctCsrAccess o) s = .next u ∧ (u.core c).instret = new old ∧
        (o.d ≠ 0 → (u.ct c).xreg o.d.toNat = BitVec.ofNat 64 old) ∧ (u.ct c).pc = t.pc + BitVec.ofNat 64 s.actLen)) ∧
    (s.csr c n = none ∨ ¬allowed → exec (.ctCsrAccess o) s = .next (s.ctTrap c 2 (Instr.ctCsrAccess o).word t.pc))

/-! ## Tasks, records and saves -/

/-- R402, R403, R404, R160: a task without a queue ends by the cause of the trap that the control thread of one of its cores has
taken (that the model takes the event for such a cause only is log 52, DEDUCED), by its watchdog once its running time has reached
WATCHDOG microseconds and not before, and by TASKEND of its one core: it is gone. That the Dirty words of its data caches are then
dropped, so that memory stays as it was, is the model's reading (log 42, DEDUCED). -/
def Sys2Proof.Claims.TaskEnds : Prop :=
  ∀ (s : State) (t : Task) (core code : Nat), Ending s t →
    (s.holds core t.num = true → (s.ct core).disposition = some code →
      ∃ u, exec (.taskFaultEnd t.num core code) s = .next u ∧ Gone s u t) ∧
    ((s.ct core).disposition ≠ some code → exec (.taskFaultEnd t.num core code) s = .next s) ∧
    (t.recd.watchdog ≠ 0 → t.recd.watchdog.toNat * 1000 ≤ s.runTime t →
      ∃ u, exec (.watchdogExpiry t.num) s = .next u ∧ Gone s u t) ∧
    ((t.recd.watchdog = 0 ∨ s.runTime t < t.recd.watchdog.toNat * 1000) → exec (.watchdogExpiry t.num) s = .next s) ∧
    (t.cores = [s.actCore] → s.holds s.actCore t.num = true → s.blocksRun s.actCore = false →
      s.splitHarts s.actCore = [] → (s.ct s.actCore).dcache = [] → s.coreQuiet s.actCore = true →
      (s.core s.actCore).st = .running → ∃ u, exec .taskend s = .next u ∧ Gone s u t)

/-- R77 to R79: the oldest record held for a queue is written at the tail of its ring once that has room, with the ring's
PHASE in bit 79; then SIGNAL is posted, and the message is sent if one is asked for. The tail advances, and PHASE turns as it
wraps. -/
def Sys2Proof.Claims.HeldRecordWritten : Prop :=
  ∀ (s : State) (q : Nat) (h : Held), s.sched.held.find? (fun x => x.q == q) = some h → s.ringFull q = false →
    let x := s.qblock q
    let a := x.cqBase.toNat * 4096 + 32 * x.cqTail.toNat
    let tail := (x.cqTail.toNat + 1) % 2 ^ x.cqLog.toNat
    s.dmaAllows h.fn a 32 true = true → (h.fn = 0 ∨ cqVector h.cq < 64) →
    ∃ t, exec (.heldRecordWrite q) s = .next t ∧
      t.out = s.out ++ [Out.recordWrite a (if x.cqPasidEn then some x.cqPasid.toNat else none)
        (h.record.toNat + bnat x.cqPhase * 2 ^ 79)] ++
        (if cqEnabled h.cq && cqIrq h.cq then [Out.msix h.fn (cqVector h.cq)] else []) ∧
      t.sched.held = s.sched.held.erase h ∧ (t.qblock q).cqTail = BitVec.ofNat 16 tail ∧
      (t.qblock q).cqPhase = (if tail = 0 then !x.cqPhase else x.cqPhase) ∧
      (h.signal.getLsbD 8 = false → t.hctrs = s.hctrs) ∧
      (∀ v, h.signal.getLsbD 8 = true → (s.ctr true 0 (fld h.signal.toNat 0 8)).failed = false →
        (s.ctr true 0 (fld h.signal.toNat 0 8)).c0 = v → (s.ctr true 0 (fld h.signal.toNat 0 8)).c1 = v →
        (s.ctr true 0 (fld h.signal.toNat 0 8)).c2 = v →
        (t.ctr true 0 (fld h.signal.toNat 0 8)).c0 =
          BitVec.ofNat 32 (min (v.toNat + fld h.signal.toNat 32 32) (2 ^ 32 - 1))) ∧
      t.mem = s.mem

/-- How a task ends, and how its record reaches the ring: the claims `TaskEnds` and `HeldRecordWritten`. -/
def Obligations.TaskEndsAndRecords : Prop := Sys2Proof.Claims.TaskEnds ∧ Sys2Proof.Claims.HeldRecordWritten

/-- R401, R407, R408, R412, R416, R441: a request that the thread may be interrupted by stops the core's harts and traps the
thread; a word that waits for its bank, of another context, traps it with `0x80 LATCH_OWNED`; UNLOAD takes the core's scalar state
into its context, with the registers that the thread had at the interrupt, leaves the banks, writes memory only by the writes of the
save area that it then begins, and ends, once they are performed, with the core free under a pre-emption or paused under a lease; LOAD,
once what it reads of the save area is good, brings that state back, and ends with the core running and the record of its resumption
queued; a write of hmlogc appends a log entry with an allocated code. -/
def Sys2Proof.Claims.PreemptionEvents : Prop :=
  ∀ (s u : State) (c b : Nat) (v : Saved) (w : Word),
    let k := s.core c
    let x := s.ct c
    let trapped (t : State) := (t.ct c).mepc = x.pc ∧ (t.ct c).mpp = x.mode ∧ (t.ct c).mode = .machine ∧
      (t.ct c).mpie = x.mie ∧ (t.ct c).mie = false ∧ (t.ct c).x = x.x
    let ended (op req : Nat) := x.busy = true ∧ x.opDone = true ∧ x.op.toNat = op ∧ x.req.toNat = req ∧ k.saveLeft = []
    let mayTrap := x.running = true ∧ (x.mode = .user ∨ x.mie = true) ∧ x.ending = false ∧ s.launching c = false ∧
      x.midway = false ∧ ∀ e ∈ k.harts, e.2.dying = false
    (s.interruptible c = true → ∃ t, exec (.machineExternalInterrupt c) s = .next t ∧ trapped t ∧
      (t.ct c).mcause = BitVec.ofNat 64 (2 ^ 63 + 11) ∧ (t.ct c).mtval = 0 ∧ (t.core c).st = .saving) ∧
    (s.interruptible c = false → exec (.machineExternalInterrupt c) s = .next s) ∧
    ((s.hart c b).latchOwned = true → s.ownBank c b = none → mayTrap →
      ∃ t, exec (.latchOwnedTrap c b) s = .next t ∧ trapped t ∧ (t.ct c).mcause = 24 ∧
        (t.ct c).mtval = BitVec.ofNat 64 (0x80 * 2 ^ 56 +
          (b * 2 ^ 48 + (s.bank c b).owner * 2 ^ 32 + s.wordAt c b) % 2 ^ 56) ∧
        (∀ y, t.hart c y = s.hart c y) ∧ t.mem = s.mem) ∧
    ((s.ownBank c b).isSome = true → exec (.latchOwnedTrap c b) s = .next s) ∧
    (x.busy = false → k.st = .saving → s.coreQuiet c = true → ∃ (t z : State) (y : Saved), exec (.unload c) s = .next t ∧
      (t.core c).saved.find k.ctx.toNat = some y ∧ y.harts = k.harts ∧ y.gangs = k.gangs ∧ y.ctrs = k.ctrs ∧
      y.evq = k.evq ∧ y.tiles = k.tiles ∧ y.ct.x = x.stash.getD x.x ∧
      y.ct.pc = (if x.mode = .machine then x.mepc else x.pc) ∧
      (t.core c).harts = [] ∧ (t.core c).evq = [] ∧ (∀ y, t.bank c y = s.bank c y) ∧
      t.mem = (z.saveRun c).mem ∧ z.mem = s.mem ∧
      (∀ r ∈ (z.core c).saveLeft, r ∈ k.saveLeft ∨ ∃ n m, k.task = some n ∧ s.task n = some m ∧ r.asid = m.recd.asid.toNat ∧
        r.fn = m.fn ∧ m.area c ≤ r.va ∧ r.va + r.n ≤ m.area c + 0x1c000)) ∧
    (ended 1 1 → ∃ t, exec (.hmsaveOpComplete c) s = .next t ∧ (t.core c).st = .free ∧ (t.core c).task = none ∧
      (t.core c).ctx = 0 ∧ (t.ct c).busy = false ∧ (t.ct c).err = 0 ∧ (t.ct c).req = 0 ∧ (t.ct c).running = false) ∧
    (ended 1 2 → ∃ t, exec (.hmsaveOpComplete c) s = .next t ∧ (t.core c).st = .paused ∧ (t.core c).task = k.task ∧
      (t.ct c).busy = false ∧ (t.ct c).req = 0) ∧
    (x.busy = false → k.st = .loading → State.areaRead c k.task scalarRegions (s.issueOp c 2) = .good u →
      k.saved.find k.ctx.toNat = some v → ∃ t, exec (.load c) s = .next t ∧ (t.core c).harts = v.harts ∧
        (t.core c).gangs = v.gangs ∧ (t.core c).ctrs = v.ctrs ∧ (t.core c).evq = v.evq ∧ (t.core c).tiles = v.tiles ∧
        (t.ct c).x = v.ct.x ∧ (t.ct c).pc = v.ct.pc ∧ (t.ct c).mode = v.ct.mode ∧ (∀ y, t.bank c y = s.bank c y) ∧
        t.mem = s.mem) ∧
    (x.busy = true → x.opDone = true → x.op.toNat = 2 → k.saveLeft = [] → k.saved.find k.ctx.toNat = some v →
      k.evq.length < 64 → v.waiting = [] → s.waitingFor c = [] →
      ∃ t, exec (.hmsaveOpComplete c) s = .next t ∧ (t.core c).st = .running ∧
        (t.ct c).running = true ∧ (t.ct c).busy = false ∧
        (t.core c).evq = k.evq ++ [resumedRecord v.unloadedAt s.now] ∧ (t.core c).harts = k.harts) ∧
    (fld w.toNat 54 2 ≠ 3 → codeListed (fld w.toNat 56 8) = true → s.flash.log.length < 4096 →
      ∃ t, exec (.logAppend c w) s = .next t ∧ t.mem = s.mem ∧ (∀ d, t.ct d = s.ct d) ∧
        t.flash = { s.flash with log := s.flash.log ++
          [⟨s.now, BitVec.ofNat 8 (fld w.toNat 56 8), 1, c, BitVec.ofNat 64 (fld w.toNat 54 2), x.logv⟩] }) ∧
    (fld w.toNat 54 2 = 3 ∨ codeListed (fld w.toNat 56 8) = false → exec (.logAppend c w) s = .next s)

/-- R413, R47: a save's writes go line by line: one on an ordinary line of this module writes its bytes there and nothing else of
memory, and the rest follow; one that does not translate for a write is passed over (the model's choice, log 17). -/
def Sys2Proof.Claims.SaveLines : Prop :=
  ∀ (s : State) (c f pa : Nat) (x : AreaPut) (rest : List AreaPut) (e : Cause),
    let m := min 64 x.n
    (s.areaPlace x.asid x.fn x.va m true = .ok (.here pa) → s.busHeld (.save c) = false → Plain s pa →
      ∃ t, State.saveGo c (f + 1) (x :: rest) s = State.saveGo c f (x.rest m ++ rest) t ∧
        t.mem = s.mem.write pa m (x.v % 2 ^ (8 * m)) ∧ (∀ a, a < pa ∨ pa + m ≤ a → t.mem.get a = s.mem.get a) ∧
        (x.poison = true → (t.sideOf (lineOf pa)).poison = true) ∧ (∀ d b, t.bank d b = s.bank d b) ∧
        (∀ d b, t.hart d b = s.hart d b)) ∧
    (s.areaPlace x.asid x.fn x.va m true = .error e → e.1 ≠ walkWait →
      State.saveGo c (f + 1) (x :: rest) s = State.saveGo c f rest s)

/-- Interrupts, UNLOAD and LOAD of a core, LATCH_OWNED, appends to the log, and the writes of a save: the claims
`PreemptionEvents` and `SaveLines`. -/
def Obligations.PreemptionEvents : Prop := Sys2Proof.Claims.PreemptionEvents ∧ Sys2Proof.Claims.SaveLines

/-- R409, R410, R412 to R414: BANKSAVE of a bank of its context, to any slot, while the SAGs of its save rows are idle, and, once its
writes are performed and what a restore reads is good, BANKRESTORE give back what the bank held: each register's contents, tag and
latch state, the conditions of its lines as they are stored, and the masks. In between the bank has no owner and its state is
cleared. Every other bank is unchanged; memory changes only by the writes of the bank's regions of the save area (R413, `SaveLines`). -/
def Obligations.BankSavedAndRestored : Prop :=
  ∀ (s z : State) (c : Nat) (v : Saved),
    let x := s.ct c
    let ctx := x.sctx.toNat
    let b := x.sbank.toNat
    let k := s.bank c b
    let others (t : State) := ∀ d e, ¬(d = c ∧ e = b) → t.bank d e = s.bank d e
    let mine (r : AreaPut) := ∃ m off len, s.task v.task = some m ∧ r.asid = m.recd.asid.toNat ∧ r.fn = m.fn ∧
      (off, len) ∈ bankPieces x.slot.toNat b k.regs ∧ r.va = m.area c + off ∧ r.n = len
    x.busy = false → x.slot.toNat ≤ 4 → ctx ≠ 0 → k.owner = ctx → (s.core c).saved.find ctx = some v → k.regs.keys.Nodup →
    (∀ r, (s.reg c b r).latch = .opened ∨ (s.reg c b r).latch = .closed) → s.stepwise = false →
    s.rowsReady c b x.slot.toNat k.regs = true →
    ∃ t, exec (.banksave c) s = .next t ∧ (t.bank c b).owner = 0 ∧ (∀ r, t.reg c b r = {}) ∧ others t ∧
      (∃ y : State, y.mem = s.mem ∧ t.mem = (y.saveRun c).mem ∧ ∀ r ∈ (y.core c).saveLeft, r ∈ (s.core c).saveLeft ∨ mine r) ∧
      ((t.core c).saveLeft = [] →
        ∃ u, exec (.hmsaveOpComplete c) t = .next u ∧ (u.ct c).busy = false ∧ (u.ct c).err = 0 ∧ others u ∧ u.mem = t.mem ∧
          (State.areaRead c (some v.task) (bankPieces x.slot.toNat b k.regs) (u.issueOp c 4) = .good z →
            ∃ w, exec (.bankrestore c) u = .next w ∧ (w.bank c b).owner = ctx ∧ (w.bank c b).masks = k.masks ∧
              (∀ r, (w.reg c b r).content r = (s.reg c b r).content r ∧ (w.reg c b r).tag = (s.reg c b r).tag ∧
                (w.reg c b r).valid = (s.reg c b r).valid ∧ (w.reg c b r).latch = (s.reg c b r).latch ∧
                (w.reg c b r).row = (s.reg c b r).row ∧ (w.reg c b r).dirty = (s.reg c b r).dirty ∧
                (w.reg c b r).arrival = (s.reg c b r).arrival ∧ (w.reg c b r).conds = storedConds (s.reg c b r).conds) ∧
              others w ∧ w.mem = t.mem))

/-- R449, R450, R452: a command that no reason refuses makes its cluster BUSY: it is not BUSY, the command is valid from its STATE,
its four cores are the task's and none is the issuing one, for QUIESCE they have ended their work and their banks have no owner, and
no lease, step, remap, shrink or relay service involves it. One that a reason refuses leaves that reason in REFUSE and the cluster as
it was. A command that completes clears BUSY and leaves the state R449 gives it. RETAIN writes OWED and pointer of every SAG and the
spare lanes of every bank to the retention registers, and leaves them in the banks; GATE loses them there; WAKE gives the banks the
spare lanes and the SAGs the pointers that the retention registers hold, with OWED 0; cores that fail their self-test at WAKE fail
under R425 (with REASON 2: the model's reading, log 54, DEDUCED). How the registers hold them is log 54's too. -/
def Obligations.ClusterCommands : Prop :=
  ∀ (s : State) (c n : Nat) (failed : BitVec 4) (i : Instr) (cmd : Nat) (o : Task),
    (i, cmd) ∈ ([(.quiesce c, 1), (.retain c, 2), (.gate c, 3), (.release c, 4), (.wake c, 5)] : List (Instr × Nat)) →
    let m := (s.ct c).psel.toNat
    let z := s.clusterAt m
    let x := s.clusterAt n
    let accepted := exec i s = .next (s.setCluster m { z with refuse := 0, busy := some cmd })
    let lists (y : Nat) := (s.core y).banks.keys.Nodup ∧ ∀ b, b ∈ (s.core y).banks.keys →
      b < 32 ∧ (s.bank y b).sags.keys.Nodup ∧ ∀ k, k ∈ (s.bank y b).sags.keys → k < 8
    ((s.core c).task.bind s.task = some o → z.busy = none →
      (if cmd = 1 then z.state = 0 else if cmd = 2 then z.state = 1 else if cmd = 3 then z.state = 2
        else if cmd = 4 then z.state = 1 ∨ z.state = 2 else z.state = 3) →
      (∀ y, y / 4 = m → y ∈ o.cores ∧ y ≠ c) →
      (cmd = 1 → ∀ y, y / 4 = m → (s.core y).st = .ended ∧ ∀ e ∈ (s.core y).banks, e.2.owner = 0) →
      s.involved m = false → accepted) ∧
    (s.refuseCmd c m cmd = none → accepted) ∧
    (∀ r, s.refuseCmd c m cmd = some r →
      exec i s = .next (s.setCluster m { z with refuse := BitVec.ofNat 8 r })) ∧
    (x.busy = some cmd → (cmd = 5 → failed = 0) → ∃ t, exec (.clusterCmdComplete n failed) s = .next t ∧
      (t.clusterAt n).busy = none ∧
      (t.clusterAt n).state = (if cmd = 1 then 1 else if cmd = 2 then 2 else if cmd = 3 then 3 else 0) ∧
      (∀ y, y ≠ n → t.clusterAt y = s.clusterAt y) ∧ t.mem = s.mem ∧
      (cmd = 2 → (∀ y, y / 4 = n → lists y) → ∀ y b, y / 4 = n → y < 1024 → b < 32 → t.bank y b = s.bank y b ∧
        (t.clusterAt n).kept.get (laneKey y b) 0 = (s.bank y b).spareLanes ∧
        ∀ k, k < 8 → (t.clusterAt n).kept.get (sagKey y b k) 0 = ((s.bank y b).sag k).owed + ((s.bank y b).sag k).ptr * 128) ∧
      (cmd = 3 → (t.clusterAt n).kept = x.kept ∧ ∀ y b k, y / 4 = n → (t.bank y b).spareLanes = 0 ∧
        ((t.bank y b).sag k).owed = 0 ∧ ((t.bank y b).sag k).ptr = 0 ∧ (t.bank y b).regs = (s.bank y b).regs) ∧
      (cmd = 5 → ∀ y b k, y / 4 = n → ((t.bank y b).sag k).owed = 0 ∧
        (∀ e, (s.core y).banks.find b = some e → (t.bank y b).spareLanes = x.kept.get (laneKey y b) 0 ∧
          (e.sags.find k ≠ none → ((t.bank y b).sag k).ptr = x.kept.get (sagKey y b k) 0 / 128))) ∧
      (∀ y b, y / 4 ≠ n → t.bank y b = s.bank y b)) ∧
    (x.busy = some 5 → ∃ t, exec (.clusterCmdComplete n 0) s = .next t ∧ exec (.clusterCmdComplete n failed) s =
      .next (((List.range 4).filter fun j => failed.getLsbD j).foldl (fun u j => u.coreFails (4 * n + j) 2) t)) ∧
    (x.busy = none → exec (.clusterCmdComplete n failed) s = .next s)

/-- R8, R68 to R71, R79: the host's register writes on a module whose firmware runs. A doorbell, with no earlier access of the
host waiting, sets the tail, or DBERR in
recovery and for a tail outside the ring; enabling a ring of 16 to 65536 entries resets its indexes, and one of another size
sets CFGERR and stays disabled; CQHEAD is the function's own; a register without behaviour takes its fields, and an offset
that names none changes nothing. -/
def Sys2Proof.Claims.HostRegisterWrites : Prop :=
  ∀ (s : State) (fn q off : Nat) (v : Word), s.bar.rcause ≠ 2 → s.bar.errEn = false →
    let x := s.qblock q
    let tail := v.toNat % 65536
    let size := fld v.toNat 52 5
    let en := v.getLsbD 63
    let sq : QBlock := { x with sqLog := BitVec.ofNat 5 size, sqOwner := BitVec.ofNat 5 (fld v.toNat 47 5)
                                sqBase := BitVec.ofNat 28 (fld v.toNat 12 28) }
    let cq : QBlock := { x with cqLog := BitVec.ofNat 5 size, cqOwner := BitVec.ofNat 5 (fld v.toNat 47 5)
                                cqPasidEn := v.getLsbD 20, cqPasid := BitVec.ofNat 20 (fld v.toNat 0 20) }
    let idle := s.hostq = [] ∧ s.hostReq = none ∧ s.hostGot = []
    (idle → (fn = 0 ∨ x.sqOwner.toNat = fn) → s.bar.recovery = false → tail < 2 ^ x.sqLog.toNat →
      exec (.sqDoorbell fn q v) s = .next (s.setQ q { x with sqTail := BitVec.ofNat 16 tail })) ∧
    (idle → (fn = 0 ∨ x.sqOwner.toNat = fn) → (s.bar.recovery = true ∨ 2 ^ x.sqLog.toNat ≤ tail) →
      exec (.sqDoorbell fn q v) s = .next (s.setQ q { x with qstat := x.qstat ||| 1 })) ∧
    (idle → fn ≠ 0 → x.sqOwner.toNat ≠ fn → exec (.sqDoorbell fn q v) s = .next s) ∧
    (x.sqEn = true → exec (.sqcfgWrite 0 q v) s = .next (s.setQ q { x with sqEn := en })) ∧
    (x.sqEn = false → en = true → 4 ≤ size → size ≤ 16 →
      exec (.sqcfgWrite 0 q v) s =
        .next (s.setQ q { sq with sqEn := true, sqHead := 0, sqTail := 0, sqEpoch := x.sqEpoch + 1 })) ∧
    (x.sqEn = false → en = true → (size < 4 ∨ 16 < size) → ∃ t, exec (.sqcfgWrite 0 q v) s = .next t ∧
      t.qblock q = { sq with qstat := x.qstat ||| 2 }) ∧
    (x.cqEn = true → exec (.cqcfgWrite 0 q v) s = .next (s.setQ q { x with cqEn := en })) ∧
    (x.cqEn = false → en = true → 4 ≤ size → size ≤ 16 → exec (.cqcfgWrite 0 q v) s =
      .next (s.setQ q { cq with cqEn := true, cqHead := 0, cqTail := 0, cqPhase := true })) ∧
    (x.cqEn = false → en = true → (size < 4 ∨ 16 < size) → ∃ t, exec (.cqcfgWrite 0 q v) s = .next t ∧
      t.qblock q = { cq with qstat := x.qstat ||| 2 }) ∧
    (fn ≠ 0 → exec (.sqcfgWrite fn q v) s = .next s ∧ exec (.cqcfgWrite fn q v) s = .next s) ∧
    ((fn = 0 ∨ x.cqOwner.toNat = fn) →
      exec (.cqheadWrite fn q v) s = .next (s.setQ q { x with cqHead := v.setWidth 16 })) ∧
    exec (.registerWrite 0 0x10 v) s =
      .next { s with bar := { s.bar with memwin := BitVec.ofNat 10 (fld v.toNat 0 10) } } ∧
    exec (.registerWrite 0 8 v) s =
      .next { s with bar := { s.bar with asidBase := BitVec.ofNat 24 (fld v.toNat 16 24) } } ∧
    (x.cqEn = false → q < 64 → exec (.registerWrite 0 (0x10000 + 64 * q + 0x18) v) s =
      .next (s.setQ q { x with cqBase := BitVec.ofNat 52 (fld v.toNat 12 52) })) ∧
    (0x1800 ≤ off → off < 0x10000 → exec (.registerWrite 0 off v) s = .next s)

/-- R8, R68 to R70, R85: what host reads of a management BAR answer, on a module whose firmware runs: a listed register its
current value, with its reserved bits 0; the registers of a half that a function does not own, offsets that name no register,
and the protected-write aperture 0. A read changes nothing else. -/
def Sys2Proof.Claims.RegisterReads : Prop :=
  ∀ (s : State) (ts : List Turn) (fn q off : Nat), s.bar.rcause ≠ 2 → q < 64 →
    let x := s.qblock q
    let b := s.bar
    let block := if fn = 0 then 0x10000 + 64 * q else 64 * q
    let answers (off v : Nat) := s.agenda = .outside (.barRead fn off) :: ts →
      step s = .next { s with agenda := ts, out := s.out ++ [Out.barAnswer (BitVec.ofNat 64 v)] }
    (fn = 0 → answers 0 ((if b.ready then 1 else 0) + (if b.e2eev then 2 else 0) + (if b.recovery then 4 else 0) +
        (if b.replreq then 8 else 0) + 16 * b.rcause.toNat) ∧
      answers 8 (b.asidBase.toNat * 2 ^ 16) ∧ answers 0x10 b.memwin.toNat ∧
      answers 0x18 (b.errVec.toNat + if b.errEn then 2 ^ 15 else 0) ∧
      (0x1800 ≤ off → off < 0x10000 → answers off 0) ∧ (0x11000 ≤ off → answers off 0)) ∧
    (fn ≠ 0 → 0x1000 ≤ off → answers off 0) ∧
    ((fn = 0 ∨ x.sqOwner.toNat = fn) → answers (block + 8) x.sqTail.toNat ∧ answers (block + 0x10) x.sqHead.toNat ∧
      answers block (x.sqBase.toNat * 2 ^ 12 + x.sqOwner.toNat * 2 ^ 47 + x.sqLog.toNat * 2 ^ 52 +
        if x.sqEn then 2 ^ 63 else 0)) ∧
    ((fn = 0 ∨ x.cqOwner.toNat = fn) → answers (block + 0x28) x.cqHead.toNat ∧
      answers (block + 0x30) (x.cqTail.toNat + if x.cqPhase then 2 ^ 16 else 0)) ∧
    (fn ≠ 0 → x.sqOwner.toNat ≠ fn → ∀ reg ∈ [0, 8, 0x10], answers (block + reg) 0) ∧
    (fn ≠ 0 → x.cqOwner.toNat ≠ fn → ∀ reg ∈ [0x18, 0x20, 0x28, 0x30], answers (block + reg) 0)

/-- R67, R83 to R85, R389: the host's accesses to ordinary lines of this module, each inside one line, with no access of the
host waiting and budget of HOSTDMA left: a write puts its bytes into memory and changes no other byte; a read answers the
bytes; an AtomicOp answers the old value and writes the new one; a protected write whose code matches writes its line,
and one whose code does not, or that is not whole, changes nothing of memory. -/
def Sys2Proof.Claims.HostWindowAccesses : Prop :=
  ∀ (s : State) (off : Nat) (data : List Byte) (len n : Nat) (x y : BitVec 128) (u : BitVec 1024) (bad : Bool),
    let pa := s.windowPa off
    let old := s.mem.read pa n
    let line := fld u.toNat 576 40
    let free (pa : Nat) := s.hostq = [] ∧ s.hostReq = none ∧ s.hostGot = [] ∧ s.hostFits pa = true ∧ Plain s pa
    let writes (i : Instr) (pa k v : Nat) := ∃ t, exec i s = .next t ∧ t.mem = s.mem.write pa k v ∧
      (∀ a, a < pa ∨ pa + k ≤ a → t.mem.get a = s.mem.get a) ∧ t.hostq = [] ∧ (∀ d e, t.bank d e = s.bank d e)
    (free pa → 0 < data.length → pa % 64 + data.length ≤ 64 →
      writes (.hostWindowWrite off ⟨data, bad⟩) pa data.length (bytesNum data)) ∧
    (free pa → s.mscFree pa = true → 0 < len → pa % 64 + len ≤ 64 → ∃ t, exec (.hostWindowRead off len) s = .next t ∧
      t.out = s.out ++ [Out.hostAnswer (s.mem.read pa len) false false] ∧ t.mem = s.mem) ∧
    (free pa → pa % n = 0 → (n = 4 ∨ n = 8) → ∃ t, exec (.hostAtomicop off n 1 ⟨x, false⟩ y) s = .next t ∧
      t.mem = s.mem.write pa n ((old + x.toNat) % 2 ^ (8 * n)) ∧ Out.hostAnswer old false false ∈ t.out) ∧
    (free pa → pa % n = 0 → (n = 4 ∨ n = 8) → ∃ t, exec (.hostAtomicop off n 2 ⟨x, false⟩ y) s = .next t ∧
      t.mem = s.mem.write pa n (x.toNat % 2 ^ (8 * n)) ∧ Out.hostAnswer old false false ∈ t.out) ∧
    (free pa → pa % n = 0 → (n = 4 ∨ n = 8 ∨ n = 16) → ∃ t, exec (.hostAtomicop off n 3 ⟨x, false⟩ y) s = .next t ∧
      t.mem = (if old = x.toNat % 2 ^ (8 * n) then s.mem.write pa n (y.toNat % 2 ^ (8 * n)) else s.mem) ∧
      Out.hostAnswer old false false ∈ t.out) ∧
    (free line → line % 64 = 0 → unitGood u.toNat = true →
      writes (.protectedWrite u ⟨true, false⟩) line 64 (fld u.toNat 0 512)) ∧
    (∀ how : UnitIn, (how.whole = false ∨ unitGood u.toNat = false) → ∃ t, exec (.protectedWrite u how) s = .next t ∧
      t.mem = s.mem ∧ t.bar.e2eev = true ∧ t.side = s.side)

/-- The host's register accesses and memory accesses: the claims `HostRegisterWrites`, `RegisterReads` and
`HostWindowAccesses`. -/
def Obligations.HostAccesses : Prop :=
  Sys2Proof.Claims.HostRegisterWrites ∧ Sys2Proof.Claims.RegisterReads ∧ Sys2Proof.Claims.HostWindowAccesses

/-- R60, R62: a record's checks in their order, with the code of the first that fails: version and reserved fields `0x01`, the address
space `0x02`, the span `0x03`, the core set `0x04`, the entry `0x05`, the ranges `0x06`, the save area `0x07`, a bounded task without
work `0x08`; a record that passes them all is accepted with its cores and ranges. -/
def Sys2Proof.Claims.RecordChecks : Prop :=
  ∀ (s : State) (fn : Nat) (r : Record),
    let asid := r.asid.toNat
    let well := r.version = 1 ∧ r.rsvZero = true
    let space := well ∧ (s.tableBytes (s.spaceAddr asid) 16).isSome = true
    let ours := space ∧ (s.spaceRoot asid).isSome = true ∧ s.asidGranted fn asid = true
    let spans := ours ∧ (r.modmask = 0 ∨ r.modmask.getLsbD s.flash.modId.toNat = true)
    let first := fld r.coreset.toNat 0 10
    let count := fld r.coreset.toNat 16 11
    let listed := (List.range count).map fun j => first + j
    let page (u : State) (j : Nat) := u.translate asid false (r.savebase.toNat + j * 2 ^ 21) .col false true
    (¬well → s.judge fn r = .refuse s 0x01) ∧
    (space → ((s.spaceRoot asid).isNone = true ∨ s.asidGranted fn asid = false) → s.judge fn r = .refuse s 0x02) ∧
    (ours → r.modmask ≠ 0 → r.modmask.getLsbD s.flash.modId.toNat = false → s.judge fn r = .refuse s 0x03) ∧
    (spans → bit r.coreset.toNat 63 = false →
      (count = 0 ∨ 1024 < first + count ∨ (∃ x ∈ listed, s.removed x = true) → s.judge fn r = .refuse s 0x04) ∧
      (0 < count → first + count ≤ 1024 → (∀ x ∈ listed, s.removed x = false) → s.coresOf fn r = .ok s listed)) ∧
    (spans → bit r.coreset.toNat 63 = true → fld r.coreset.toNat 0 48 % 128 ≠ 0 → s.judge fn r = .refuse s 0x04) ∧
    (∀ u, spans → s.coresOf fn r = .no u → s.judge fn r = .refuse u 0x04) ∧
    (∀ u cores, spans → s.coresOf fn r = .ok u cores →
      let entry := u.translate asid false r.entry.toNat .fetch false false
      (r.entry.getLsbD 0 = true → s.judge fn r = .refuse u 0x05) ∧
      (∀ cause detail, entry = .error (cause, detail) → cause ≠ walkWait → s.judge fn r = .refuse u 0x05) ∧
      (∀ l, r.entry.getLsbD 0 = false → entry = .ok l →
        (4096 < r.nranges.toNat ∨ (0 < r.nranges.toNat ∧ r.ranges.toNat % 16 ≠ 0) → s.judge fn r = .refuse u 0x06) ∧
        (∀ w, u.rangesOf fn r = .no w → s.judge fn r = .refuse w 0x06) ∧
        (r.nranges = 0 → u.rangesOf fn r = .ok u []) ∧
        ∀ w ranges, u.rangesOf fn r = .ok w ranges →
          let aligned := r.savebase ≠ 0 ∧ r.savebase.toNat % 2 ^ 21 = 0
          let saved := r.preempt = false ∨ (aligned ∧ ∀ j, j < 4 * cores.length → ∃ l, page w j = .ok l)
          (r.preempt = true → ¬aligned → s.judge fn r = .refuse w 0x07) ∧
          (∀ j cause detail, r.preempt = true → aligned → j < 4 * cores.length → (∀ i, i < j → ∃ l, page w i = .ok l) →
            page w j = .error (cause, detail) → cause ≠ walkWait → s.judge fn r = .refuse w 0x07) ∧
          (saved → r.bounded = true → r.work = 0 → s.judge fn r = .refuse w 0x08) ∧
          (saved → (r.bounded = false ∨ r.work ≠ 0) → s.judge fn r = .accept w cores ranges)))

/-- R71 to R76, R157: the acceptance unit, with no record in service, serves the requester whose turn it is: a record that
has been read and passes the checks of R62 becomes a task, QUEUED, and one that does not is reported REFUSED in its queue's
ring; the head advances. A LAUNCH of a thread with no Dirty word, alone at the unit, answers 0 with its record a task, or the
refusal's code. A task whose wait conditions are met goes to the range flush, which serves one task at a time in the order in
which they reached it; its end makes a task of one module ready; the lines of a range leave the MSC. -/
def Sys2Proof.Claims.TaskAcceptance : Prop :=
  ∀ (s s1 s2 : State) (q code v : Nat) (cores : List Nat) (ranges : List (Nat × Nat × Bool)),
    let x := s.qblock q
    let fn := x.sqOwner.toNat
    let pa := x.sqBase.toNat * 4096 + 256 * x.sqHead.toNat
    let r := record (BitVec.ofNat 2048 v).toNat
    let entered (t : State) (u : State) (source fn : Nat) := ∃ k : Task,
      t.sched.tasks = u.sched.tasks ++ [k] ∧ k.num = u.sched.nextNum ∧ k.recd = r ∧ k.cores = cores ∧
      k.ranges = ranges ∧ k.source = source ∧ k.fn = fn ∧ k.stage = .queued ∧ k.acceptedAt = u.now ∧ k.ends = none
    let free := s.sched.refused = none ∧ s.sched.tasks.length < 4096 ∧ s.sched.serving = none
    let head := BitVec.ofNat 16 ((x.sqHead.toNat + 1) % 2 ^ x.sqLog.toNat)
    let turn := free ∧ s.nextRequester = some q ∧ q < 64 ∧ State.recordLines .hub pa 4 (s.begin_ q) = .got s1 v
    let unit := ((s1.setQ q { s1.qblock q with sqHead := head }).forget .hub).served q
    (turn → unit.judge fn r = .accept s2 cores ranges → ∃ t, exec .acceptRecord s = .next t ∧ entered t s2 q fn ∧
      (t.qblock q).sqHead = head ∧ t.sched.lastAccepted = q ∧ t.sched.serving = none ∧ t.mem = s2.mem) ∧
    (turn → unit.judge fn r = .refuse s2 code → s2.noQueue fn q = false → s2.ringFull q = false →
      (s2.sched.held.any fun h => h.q == q) = false →
      let y := s2.qblock q
      let a := y.cqBase.toNat * 4096 + 32 * y.cqTail.toNat
      s2.dmaAllows fn a 32 true = true → ∃ t, exec .acceptRecord s = .next t ∧ (t.qblock q).sqHead = head ∧
        t.sched.tasks = s2.sched.tasks ∧ t.sched.serving = none ∧
        t.out = s2.out ++ [Out.recordWrite a (if y.cqPasidEn then some y.cqPasid.toNat else none)
          ((completion r.usertag.toNat 1 code q s2.flash.modId.toNat 0 s2.now 0 r.gen.toNat).toNat +
            bnat y.cqPhase * 2 ^ 79)]) ∧
    (∀ (o : XH) (p : Place),
      let c := s.actCore
      let va := s.rs1 o
      let s0 : State := { s with
        walkData := []
        sched := { s.sched with
          launches := [⟨c, va, o.d.toNat, true⟩], lastAccepted := 64
          serving := some (.reading 64 (s.qblock 64).sqOwner.toNat (s.qblock 64).entry (s.qblock 64).sqEpoch) } }
      va % 256 = 0 → (s.ct c).dcache = [] → s.sched.launches = [] → free → (∀ n, n < 64 → s.requests n = false) →
      s0.colAt c (s0.mach c) va 256 true false = .ok p → State.lines (.ct c) va p 4 s0 = .got s1 v →
      ((s1.forget (.ct c)).judge (s0.fnOf c) r = .accept s2 cores ranges → ∃ t, exec (.launch o) s = .next t ∧
        entered t s2 64 (s0.fnOf c) ∧ (o.d ≠ 0 → (t.ct c).xreg o.d.toNat = 0)) ∧
      ((s1.forget (.ct c)).judge (s0.fnOf c) r = .refuse s2 code → ∃ t, exec (.launch o) s = .next t ∧
        t.sched.tasks = s2.sched.tasks ∧ (o.d ≠ 0 → (t.ct c).xreg o.d.toNat = BitVec.ofNat 64 code))) ∧
    (∀ t : Task, s.task t.num = some t →
      let ready (u : State) := u.task t.num = some { t with stage := .ready, readyAt := s.now } ∧ u.mem = s.mem
      let flushing := (s.sched.tasks.find? fun y => y.stage == .flushing) = some t ∧ t.recd.modmask = 0
      (t.stage = .queued → (∀ w ∈ t.recd.waits, w.getLsbD 16 = true → ∃ v,
          (s.ctr true 0 (fld w.toNat 0 8)).failed = false ∧ (s.ctr true 0 (fld w.toNat 0 8)).c0 = v ∧
          (s.ctr true 0 (fld w.toNat 0 8)).c1 = v ∧ (s.ctr true 0 (fld w.toNat 0 8)).c2 = v ∧ fld w.toNat 32 32 ≤ v.toNat) →
        ∃ u, exec (.waitConditionsMet t.num) s = .next u ∧ u.task t.num = some { t with stage := .toFlush } ∧
          u.sched.flushq = s.sched.flushq ++ [t.num]) ∧
      ((s.sched.tasks.any fun y => y.stage == .flushing) = false → s.flushOrder.head? = some t.num →
        ∃ u, exec .rangeFlushStart s = .next u ∧ u.task t.num = some { t with stage := .flushing } ∧
          u.sched.flushLeft = (t.ranges.map fun e => (e.1, e.2.1)).filter fun e => e.2 != 0) ∧
      (flushing → s.sched.flushLeft = [] → ∃ u, exec .rangeFlushComplete s = .next u ∧ ready u) ∧
      (∀ va len l, flushing → s.sched.flushLeft = [(va, len)] → 0 < len → va % 64 = 0 → len % 64 = 0 →
        va % 2 ^ 21 + len ≤ 2 ^ 21 → s.translate t.recd.asid.toNat false va .col true false = .ok l →
        l.home = s.flash.modId.toNat →
        (∀ pa, l.pa ≤ pa → pa < l.pa + len → s.sensing pa = false ∧ s.asleep pa = false ∧ s.sliceHeld pa = false) → ∃ u, exec .rangeFlushComplete s = .next u ∧ ready u ∧
          ∀ e ∈ u.msc, ¬(l.pa ≤ linePa e.1 ∧ linePa e.1 < l.pa + len)))

/-- The checks of a record, and what the acceptance unit, LAUNCH and the range flush do: the claims `RecordChecks` and
`TaskAcceptance`. -/
def Obligations.TaskAcceptance : Prop := Sys2Proof.Claims.RecordChecks ∧ Sys2Proof.Claims.TaskAcceptance

/-- R80, R81: while no packet waits and no record is in service, a launch packet whose barrier is not open is judged, and
enters as a task or is reported refused to its origin; the last arrival at a barrier sends START to the other members and
makes the origin's task ready, and an earlier one only counts; START makes a member's task ready; a refusal or a lost link
aborts the span at its origin: the other members are told, and its task goes; at a member the loss discards the copy. The rest is
the model's reading: that an aborted span writes no SIGNAL, that a report or a loss belongs to the oldest span of its GEN that it
can be of, that a loss discards the copy whose barrier is open (log 45, DEDUCED), the numbers of the messages (log 61, DEDUCED), and
the entry of log source 0 that a member makes where it is the origin that was lost (log 89, DEDUCED). No port stands in the way of
a message (R112). -/
def Sys2Proof.Claims.SpanEvents : Prop :=
  ∀ (s s1 : State) (origin gen member code : Nat) (v : BitVec 2048) (cores : List Nat)
    (ranges : List (Nat × Nat × Bool)) (b : Barrier) (t : Task), s.sched.packets = [] → s.sched.serving = none →
    let r := record v.toNat
    let others (m : Word) := (maskList m).filter fun y => y != s.flash.modId.toNat
    let left := b.missing.filter (· != member)
    let mine := fun (t : Task) => t.origin == some origin && t.recd.gen.toNat == gen &&
      (t.stage == .queued || t.stage == .toFlush || t.stage == .flushing || t.stage == .barrier)
    let checks := State.judge { s with walkData := [] } 0 r
    let closed := s.sched.barriers.filter fun x => x.num != b.num
    (s.barrierOpen origin r.gen.toNat = false → s.sched.tasks.length < 4096 →
      (checks = .accept s1 cores ranges → ∃ u k, exec (.launchPacketReceive origin v) s = .next u ∧
        u.sched.tasks = s1.sched.tasks ++ [k] ∧ k.recd = r ∧ k.cores = cores ∧ k.origin = some origin ∧ k.stage = .queued) ∧
      (checks = .refuse s1 code → s1.portHeld origin = false → ∃ u, exec (.launchPacketReceive origin v) s = .next u ∧
        u.sched.tasks = s1.sched.tasks ∧ u.out = s1.out ++ [Out.fabric origin msgRefused r.gen.toNat code])) ∧
    (s.sched.barriers.find? (fun x => x.gen == gen && x.missing.contains member) = some b → s.task b.num = some t →
      (left = [] → (∀ m, s.portHeld m = false) → ∃ u, exec (.spanArrival gen member) s = .next u ∧ u.sched.barriers = closed ∧
        u.task b.num = some { t with stage := .ready, readyAt := s.now } ∧
        u.out = s.out ++ (others t.recd.modmask).map fun m => Out.fabric m msgStart gen 0) ∧
      (left ≠ [] → ∃ u, exec (.spanArrival gen member) s = .next u ∧ u.sched.tasks = s.sched.tasks ∧ u.out = s.out ∧
        u.sched.barriers = s.sched.barriers.map fun x => if x.num = b.num then { x with missing := left } else x)) ∧
    (s.task t.num = some t → t.origin = some origin → t.recd.gen.toNat = gen → t.stage = .barrier →
      ∃ u, exec (.startReceive origin gen) s = .next u ∧ u.task t.num = some { t with stage := .ready, readyAt := s.now }) ∧
    (s.task b.num = some t → (∀ c ∈ t.cores, s.holds c t.num = false) → cqEnabled t.recd.cq = false →
      (∀ m, s.portHeld m = false) → s.sameClk = false → ∀ i : Instr,
      ((i = .spanRefusalReport gen member code ∧
          s.sched.barriers.find? (fun x => x.gen == gen && x.missing.contains member) = some b) ∨
        (i = .spanLinkLoss s.flash.modId.toNat gen member ∧
          s.sched.barriers.find? (fun x => x.gen == gen && s.inSpan member x) = some b)) →
      ∃ u, exec i s = .next u ∧ u.task b.num = none ∧ u.hctrs = s.hctrs ∧ u.sched.barriers = closed ∧
        u.out = s.out ++ ((others t.recd.modmask).filter fun m => m != member).map fun m => Out.fabric m msgAbort gen 0) ∧
    (origin ≠ s.flash.modId.toNat → s.flash.log.length < 4096 → s.sched.tasks.find? mine = some t →
      ∃ u, exec (.spanLinkLoss origin gen member) s = .next u ∧
        u.sched.tasks = s.sched.tasks.filter (fun x => x.num != t.num) ∧
        u.flash.log = if member = origin then
            s.flash.log ++ [⟨s.now, 0x8c, 0, 0xffff, BitVec.ofNat 64 (origin * 2 ^ 16 + gen), 0⟩]
          else s.flash.log)

/-- R92 to R95, R97, R34: the age limit raises a waiting task's effective priority by one for each limit it has waited, to at
most 6, and a latest start that has passed raises it to 6; the scheduler starts the one task that waits on its free cores,
each at its entry in user mode with the record's arguments, its banks as they were; in recovery it starts nothing; a
pre-emption asks each of the task's running cores. -/
def Sys2Proof.Claims.SchedulerEvents : Prop :=
  ∀ (s : State) (t : Task),
    let aged := max t.base (min 6 (t.base + (s.now - t.readyAt) / (s.fen.shares.ageLimit * 1000000)))
    (s.task t.num = some t → t.waits = true → t.latestStart = none → ∃ u, exec (.ageLimitExpiry t.num) s = .next u ∧
      u.task t.num = some { t with eff := aged } ∧ u.cores = s.cores) ∧
    (∀ l, s.task t.num = some t → t.waits = true → t.latestStart = some l → l ≤ s.now →
      ∃ u, exec (.latestStartExpiry t.num) s = .next u ∧ u.task t.num = some { t with eff := max aged 6 } ∧
        u.cores = s.cores) ∧
    (s.bar.recovery = false → s.sched.tasks = [t] → t.stage = .ready → t.ends = none →
      (∀ c ∈ t.cores, s.coreFree c = true) → ∃ u k, exec .schedulerDecision s = .next u ∧ u.task t.num = some k ∧
        k.stage = .running ∧ k.runFrom = some s.now ∧ ∀ c ∈ t.cores, (u.core c).task = some t.num ∧
          (u.core c).st = .running ∧ (u.core c).asid = t.recd.asid.setWidth 12 ∧ (u.ct c).pc = t.recd.entry ∧
          (u.ct c).mode = .user ∧ (u.ct c).xreg 2 = t.recd.sp ∧ (u.ct c).xreg 10 = t.recd.arg0 ∧
          (u.ct c).xreg 11 = t.recd.arg1 ∧ (u.ct c).xreg 12 = t.recd.arg2 ∧ (u.ct c).xreg 13 = t.recd.arg3 ∧
          (u.ct c).xreg 1 = 0 ∧ (∀ b, b < 32 → (u.hart c b).st = .free ∧ (u.hart c b).seed = BitVec.ofNat 32 (b + 1) ∧
            (u.hart c b).g = []) ∧ (∀ b, u.bank c b = s.bank c b)) ∧
    (s.bar.recovery = true → exec .schedulerDecision s = .next s) ∧
    ((∀ c ∈ t.cores, s.holds c t.num = true ∧ (s.core c).st = .running) →
      ∀ c ∈ t.cores, ((s.preemptTask t).ct c).req = 1)

/-- Spans of modules, and the start of a task: the claims `SpanEvents` and `SchedulerEvents`. -/
def Obligations.SpansAndScheduler : Prop := Sys2Proof.Claims.SpanEvents ∧ Sys2Proof.Claims.SchedulerEvents

/-! ## The hub -/

/-- R36, R113, R187, R232 to R234: at each hub time that is a multiple of W / 528, OWED grows, to at most 96, where the SAG
is forced, and the record of its deadline is queued as it reaches 64 under a program that refreshes; hardware refreshes one
row of an idle SAG of a core it serves that no ready word waits for, and a forced SAG until OWED is 64; each makes the SAG
busy until its floor has run; a scrubbed row has its correctable lines corrected. Contents of registers and memory never
change. -/
def Obligations.RefreshEvents : Prop :=
  ∀ (s : State) (c b k row : Nat),
    let x := s.sag c b k
    let kept (t : State) := t.mem = s.mem ∧ (∀ d e r, t.reg d e r = s.reg d e r) ∧
      (∀ d e j, ¬(d = c ∧ e = b ∧ j = k) → t.sag d e j = s.sag d e j)
    let hw := s.clusterOn c = true ∧ s.hwRefreshes c = true ∧ x.owed ≠ 0 ∧ s.sagIdle c b k = true ∧
      s.wantsSag c b k = false ∧ s.affords c .refresh 1 = true
    let i := x.risen + 1
    let rises := s.clusterOn c = true ∧ (s.hotCore c = true ∨ i % 2 = 0)
    let line := lineOf (rowPa c b k row)
    (riseCount s.now = i → rises → ∃ t, exec (.owedIncrement c b k) s = .next t ∧ kept t ∧ t.sag c b k =
        { x with risen := i, owed := min 96 (x.owed + 1), forced := x.forced || decide (95 ≤ x.owed) } ∧
      (x.owed = 63 → s.programRefresh c = true → (s.core c).evq.length < 64 → s.waitingFor c = [] →
        (t.core c).evq = (s.core c).evq ++ [s.deadlineRecord c b k i])) ∧
    (riseCount s.now = i → ¬rises → ∃ t, exec (.owedIncrement c b k) s = .next t ∧ kept t ∧
      t.sag c b k = { x with risen := i }) ∧
    (riseCount s.now ≤ x.risen → exec (.owedIncrement c b k) s = .next s) ∧
    (x.risen ≤ riseCount s.now → ∃ t, exec (.owedIncrement c b k) s = .next t ∧ kept t ∧
      (t.sag c b k).risen = riseCount s.now ∧ (x.owed ≤ 96 → x.owed ≤ (t.sag c b k).owed ∧ (t.sag c b k).owed ≤ 96)) ∧
    (hw → ∃ t, exec (.hwRefreshRow c b k) s = .next t ∧ kept t ∧
      t.sag c b k = { x with owed := x.owed - 1, ptr := (x.ptr + 1) % 528, busy := true }) ∧
    (¬hw → exec (.hwRefreshRow c b k) s = .next s) ∧
    (s.clusterOn c = true → x.forced = true → x.busy = false → x.step = false →
      ∃ t, exec (.forcedRefreshRow c b k) s = .next t ∧ kept t ∧
        t.sag c b k = { x with owed := x.owed - 1, ptr := (x.ptr + 1) % 528, busy := true, forced := decide (65 < x.owed) }) ∧
    (∃ t, exec (.sagBusyEnd c b k) s = .next t ∧ kept t ∧ t.sag c b k = { x with busy := false }) ∧
    (s.clusterOn c = true → s.sagIdle c b k = true → s.wantsSag c b k = false →
      s.affords c .scrub (s.scrubClk line row) = true → row < 512 → s.side.keys.Nodup →
      ∃ t, exec (.scrubRow c b k row []) s = .next t ∧ kept t ∧ t.sag c b k = { x with busy := true } ∧
        (∀ n, line ≤ n → n < line + 128 → t.sideOf n =
          if (s.sideOf n).badSymbols ≤ 2 then { s.sideOf n with badSymbols := 0 } else s.sideOf n) ∧
        (∀ n, n < line ∨ line + 128 ≤ n → t.sideOf n = s.sideOf n))

/-- R109 to R122: a lease on an idle core is in force at once; an urgent one on a running core is announced with the grace
and comes into force at EFFTIME, when a task with a save area is asked to pause; the end of a lease the core passes lowers
its score. -/
def Sys2Proof.Claims.LeaseEvents : Prop :=
  ∀ (s : State) (c kind : Nat) (x : Lease) (t : Task),
    let grace := s.fen.shares.grace
    let eff := s.now + grace * 1000
    let value := (s.score 1 c).value
    (s.leaseAllowed c kind = true → s.fen.leases.find c = none → s.leaseIdle c = true →
      ∃ u, exec (.coreLeaseStart c kind) s = .next u ∧
        u.fen.leases.find c = some { kind := min kind 2, seq := 0, effTime := s.now, inForce := true } ∧ u.mem = s.mem) ∧
    (s.leaseAllowed c kind = false → exec (.coreLeaseStart c kind) s = .next s) ∧
    (s.leaseAllowed c 1 = true → s.fen.leases.find c = none → (s.core c).st = .running → (s.ct c).req = 0 →
      (s.core c).task = some t.num → s.task t.num = some t → t.ends = none → s.recipients c = [c] →
      (s.core c).evq.length < 64 → s.waitingFor c = [] → ∃ u, exec (.coreLeaseStart c 1) s = .next u ∧
        u.fen.leases.find c = some { kind := 1, seq := s.fen.nextSeq, effTime := eff, inForce := false } ∧
        (u.core c).evq = (s.core c).evq ++ [{ cause := 0x81, src := 1, bank := 0, gang := 0, detail := 0, time := s.now
                                              hpc := 0, body := Notice.body ⟨s.fen.nextSeq, 0, 1, 1, c, grace, eff, [c], none⟩ }] ∧
        u.fen.nextSeq = s.fen.nextSeq + 1) ∧
    (s.fen.leases.find c = some x → x.inForce = false → x.seq ≠ 0 →
      (s.now < x.effTime → exec (.leaseEfftime c) s = .next s) ∧
      (x.effTime ≤ s.now → (s.core c).st = .running → (s.core c).task = some t.num → s.task t.num = some t →
        t.recd.preempt = true → (s.ct c).req = 0 → ∃ u, exec (.leaseEfftime c) s = .next u ∧
          u.fen.leases.find c = some { x with inForce := true } ∧ (u.ct c).req = 2)) ∧
    (s.fen.leases.find c = some x → x.inForce = true → x.seq = 0 → (s.core c).st ≠ .saving → (s.ct c).req = 0 →
      ∃ u, exec (.leaseEnd c true) s = .next u ∧ u.fen.leases.find c = none ∧ u.fen.lastLease.find c = some s.now ∧
        (u.score 1 c).value = (if x.kind = 2 then 512 else if x.kind = 1 then 128 else value) ∧
        (u.score 1 c).probation = (if x.kind = 2 then true else if x.kind = 1 then false else (s.score 1 c).probation) ∧
        u.mem = s.mem)

/-- R158, R159: CAPQ answers the SEQ of the last notice of a core of its task and the core's state; CAPACK answers 1 the
first time for a notice that the core was sent and 0 otherwise; for the notice of its own core's lease, before EFFTIME, its
core's work ends and the lease is in force. -/
def Sys2Proof.Claims.CapacityWords : Prop :=
  ∀ (o : XH) (s : State) (t : Task) (n : Notice) (x : Lease),
    let c := s.actCore
    let a := s.rs1 o
    (a < 1024 → (s.core c).task = some t.num → s.task t.num = some t → a ∈ t.cores →
      exec (.capq o) s = .next (s.ctDone c o.d.toNat (BitVec.ofNat 64 (s.fen.latest.get a 0 * 2 ^ 32 + s.capState a)))) ∧
    (a < 2 ^ 32 → (s.fen.notices.find? fun y => y.seq == a && y.sentTo.contains c) = none →
      exec (.capack o) s = .next (s.ctDone c o.d.toNat 0)) ∧
    (a < 2 ^ 32 → (s.fen.notices.find? fun y => y.seq == a && y.sentTo.contains c) = some n →
      (¬(n.utype = 1 ∧ n.kind = 0 ∧ n.unit = c) →
        (s.fen.acks.contains (c, a) = true → exec (.capack o) s = .next (s.ctDone c o.d.toNat 0)) ∧
        (s.fen.acks.contains (c, a) = false → ∃ u, exec (.capack o) s = .next u ∧ u.fen.acks = s.fen.acks ++ [(c, a)] ∧
          (o.d ≠ 0 → (u.ct c).xreg o.d.toNat = 1))) ∧
      (n.utype = 1 → n.kind = 0 → n.unit = c → s.fen.leases.find c = some x → x.seq = a → x.inForce = false →
        s.capackReady c = true → s.now < x.effTime → (s.ct c).dcache = [] → (s.ct c).req = 0 → (s.core c).task = some t.num →
        s.task t.num = some t → (∃ y ∈ t.cores, y ≠ c ∧ y ∉ t.done) →
        ∃ u k, exec (.capack o) s = .next u ∧ u.fen.leases.find c = some { x with inForce := true } ∧
          (u.core c).st = .ended ∧ (u.ct c).running = false ∧ u.task t.num = some k ∧ k.done = t.done ++ [c] ∧
          k.acked = t.acked ++ [c]))

/-- Leases, CAPQ and CAPACK: the claims `LeaseEvents` and `CapacityWords`. -/
def Obligations.LeaseEvents : Prop := Sys2Proof.Claims.LeaseEvents ∧ Sys2Proof.Claims.CapacityWords

/-- R112 to R114, R116, R425 to R427, R431, R433: a step that may start enters Fen's list and reserves its SAG, writes
patterns only where R113 permits them, and its end takes it out and leaves zeros in the rows it tested destructively; a row
that fails its test takes the next repair row of its SAG, at once if the SAG is idle and TEST has budget and else when that is so,
and a lane the next spare lane of its bank, with a record; a finished copy gives the logical id its layer's spare region, once its
core is stopped; a finished shrink removes it, once no core of the layer runs; a decay halves every score. How the number that a
failed step finds names a row or a lane is the model's (log 51, DEDUCED), and so is that a cell stays in the map of stuck cells after
its row has moved (log 86, DESIGN CHOICE). -/
def Obligations.TestAndRepairEvents : Prop :=
  ∀ (s : State) (c b k n cell i spare : Nat) (rows : List Nat) (u : FenUnit),
    let x := s.sag c b k
    let l := s.layer n
    let key := unitKey (unitOf u).1 (unitOf u).2
    let halted (y : Nat) := (s.core y).st ∉ [.running, .loading, .saving] ∧ (s.ct y).req = 0
    (s.stepReady u = true → (∀ d e j, u = .sag d e j → rows.all (s.mayPattern d e j) = true) →
      ∃ t, exec (.fenStepStart ⟨u, rows⟩) s = .next t ∧ t.fen.steps = s.fen.steps ++ [u] ∧
        t.fen.stepKinds.find key = some (s.testKind u) ∧
        (u = .sag c b k → t.sag c b k = { x with step := true, testing := rows }) ∧ t.mem = s.mem) ∧
    (s.stepReady u = false → exec (.fenStepStart ⟨u, rows⟩) s = .next s) ∧
    (rows.all (s.mayPattern c b k) = false → exec (.fenStepStart ⟨.sag c b k, rows⟩) s = .next s) ∧
    (s.fen.steps.contains u = true → ∃ t, exec (.fenStepEnd u true []) s = .next t ∧
      t.fen.steps = s.fen.steps.erase u ∧ t.fen.stepEnded.find key = some s.now ∧
      (u = .sag c b k → t.sag c b k = { x with step := false, testing := [] }) ∧
      ((∀ d e j, u = .sag d e j → (s.sag d e j).testing = []) → t.mem = s.mem) ∧
      (u = .sag c b k → s.mem.wf = true →
        (∀ a, (∃ r ∈ x.testing, r < 512 ∧ rowPa c b k r ≤ a ∧ a < rowPa c b k r + 8192) → t.mem.get a = 0) ∧
        (∀ a, ¬(∃ r ∈ x.testing, r < 512 ∧ rowPa c b k r ≤ a ∧ a < rowPa c b k r + 8192) →
          t.mem.get a = s.mem.get a))) ∧
    (s.fen.steps.contains (.sag c b k) = true → x.spareRows < 8 → s.flash.records.length < 2048 → cell < 528 * 65536 →
      s.fen.subs = [] → let now := x.busy = false ∧ x.forced = false ∧ s.affords c .test 2 = true
      ∃ t r, exec (.fenStepEnd (.sag c b k) false [cell]) s = .next t ∧
        (now → (t.sag c b k).spareRows = x.spareRows + 1 ∧ (t.sag c b k).busy = true ∧ t.fen.subs = []) ∧
        (¬now → (t.sag c b k).spareRows = x.spareRows ∧ t.fen.subs = [⟨c, b, k, cell / 65536⟩]) ∧
        cell ∈ (t.sag c b k).stuck ∧ t.flash.records = s.flash.records ++ [r] ∧ r.action = 2 ∧
        r.unit = unitField c (s.regionOf c) b k (cell / 65536) 0 0 ∧ r.time = s.now) ∧
    (s.fen.steps.contains (.sag c b k) = true → (s.bank c b).spareLanes < 2 → s.flash.records.length < 2048 →
      528 * 65536 ≤ cell → ∃ t r, exec (.fenStepEnd (.sag c b k) false [cell]) s = .next t ∧
        (t.bank c b).spareLanes = (s.bank c b).spareLanes + 1 ∧ (t.sag c b k).stuck = x.stuck ∧
        t.flash.records = s.flash.records ++ [r] ∧ r.action = 1 ∧
        r.unit = unitField c (s.regionOf c) b 0 0 (cell / 65536 - 528) 0 ∧ r.time = s.now) ∧
    (i < 8 → spare < 16 → l.remap = some (i, spare) → halted (n * 8 + i) →
      ∃ t, exec (.remapCopyComplete n) s = .next t ∧ fld (t.layer n).map.toNat (4 * i) 4 = spare ∧
        (∀ j, j < 8 → j ≠ i → fld (t.layer n).map.toNat (4 * j) 4 = fld l.map.toNat (4 * j) 4) ∧
        (t.layer n).remap = none ∧ t.mem = s.mem) ∧
    (i < 8 → l.shrink = [i] → l.stopped = [] → (∀ j, j < 8 → halted (n * 8 + j)) → (∀ t ∈ s.sched.tasks, n * 8 + i ∉ t.cores) →
      ∃ t, exec (.shrinkComplete n) s = .next t ∧ fld (t.layer n).map.toNat (4 * i) 4 = 15 ∧
        (∀ j, j < 8 → j ≠ i → fld (t.layer n).map.toNat (4 * j) 4 = fld l.map.toNat (4 * j) 4) ∧
        (t.layer n).shrink = [] ∧ t.bar.replreq = true ∧ t.mem = s.mem) ∧
    (∃ t, exec .scoreDecay s = .next t ∧ ∀ y, (s.fen.scores.get y {}).value ≤ 65535 →
      (t.fen.scores.get y {}).value = (s.fen.scores.get y {}).value / 2)

/-- R101, R443 to R447: the governor holds issue above PLIMIT outside the deterministic mode and counts the time above 3200
W; a power trip begins after 20 µs of it, sets every stack that is in no thermal trip to 900 MHz, and ends with the next
period; a period starts with fresh shares and clocks: 1500 MHz in the deterministic mode, one step down for the hottest stack
above PLIMIT, one step up for all below 95 %; readings are kept, and a stack trips at 105 °C and recovers at 95 °C. That all eight
stacks step up together and only the hottest steps down, and that two samples of 10 µs make the 20 µs, is the model's reading (log 55,
DEDUCED). -/
def Sys2Proof.Claims.PowerEvents : Prop :=
  ∀ (s : State) (watts : Nat) (readings : List Nat),
    let p := s.power
    let period (d : Nat → Nat) := ∃ t, exec .periodBoundary s = .next t ∧ t.fen.spent = [] ∧
      (∀ k, k < 8 → t.power.clocks.get k 18 = d k) ∧ t.mem = s.mem
    let clock (k : Nat) := p.clocks.get k 18
    (∃ t, exec (.governorCheck watts) s = .next t ∧ t.power.watts = watts ∧
      t.power.hold = (!p.det && decide (p.plimit < watts)) ∧
      t.power.overFor = (if 3200 < watts then p.overFor + 10 else 0) ∧ { t with power := p } = s) ∧
    (20 ≤ p.overFor → p.powerTrip = none → ∃ t, exec .powerTripStart s = .next t ∧
      t.power.powerTrip = some (s.now / 100000) ∧ ∀ k, k ∉ p.thermalTrips → t.stackClock k = 9) ∧
    ((p.overFor < 20 ∨ p.powerTrip ≠ none) → exec .powerTripStart s = .next s) ∧
    (∀ y, p.powerTrip = some y →
      ((y + 2) * 100000 ≤ s.now → ∃ t, exec .powerTripEnd s = .next t ∧ t.power.powerTrip = none ∧
        t.power.clocks = p.clocks) ∧
      (s.now < (y + 2) * 100000 → exec .powerTripEnd s = .next s)) ∧
    (s.now % 100000 = 0 → p.detWanted = true → period fun _ => 15) ∧
    (s.now % 100000 = 0 → p.detWanted = false → p.plimit < p.watts →
      period fun k => if k = s.hottest then max 12 (clock k - 1) else clock k) ∧
    (s.now % 100000 = 0 → p.detWanted = false → p.watts ≤ p.plimit → p.belowAllPeriod = true →
      period fun k => min 18 (clock k + 1)) ∧
    (s.now % 100000 = 0 → p.detWanted = false → p.watts ≤ p.plimit → p.belowAllPeriod = false → period clock) ∧
    (s.now % 100000 ≠ 0 → exec .periodBoundary s = .next s) ∧
    (∃ t, exec (.sensorRead readings) s = .next t ∧
      (∀ j r, j < 288 → readings[j]? = some r → (t.sensor (sensorNo (j / 36) (j % 36 / 4) (j % 4))).reading = r) ∧
      (∀ k, k < 8 → (105 ≤ t.stackHottest k → k ∈ t.power.thermalTrips) ∧
        (t.stackHottest k ≤ 95 → k ∉ t.power.thermalTrips) ∧
        (95 < t.stackHottest k → t.stackHottest k < 105 → (k ∈ t.power.thermalTrips ↔ k ∈ p.thermalTrips))))

/-- R57, R89, R437, R438, R453, R455: cold reset fills memory with zero, clears every sideband, starts hub time at 0 and, with
verified firmware and configuration, leaves the module READY, every core free, every hart and register as at task start and no
queue enabled; without verified firmware it is in recovery with RCAUSE 2. Warm reset does the same to the cores and queues, but
keeps hub time, the hub's counters, the scores and REPLREQ, and memory with its sideband where retention is armed. No self-test finds
anything. -/
def Sys2Proof.Claims.Resets : Prop :=
  ∀ (s : State),
    let good := (bestSlot s.flash.firmware).isSome = true ∧
      (∀ ty, 1 ≤ ty → ty ≤ 3 → (s.config ty).isSome = true) ∧ s.flash.records = [] ∧ s.finds = []
    let fresh (t : State) := (∀ c b, t.hart c b = Hart.init b) ∧ (∀ c b r, t.reg c b r = {}) ∧ (∀ c, t.ct c = {}) ∧
      (∀ c, (t.core c).st = .free ∧ (t.core c).task = none) ∧ (∀ q, t.qblock q = {}) ∧ t.sched.tasks = [] ∧ t.msc = [] ∧
      t.rlines = []
    (good → ∃ t, exec .coldReset s = .next t ∧ fresh t ∧ t.hctrs = [] ∧ t.mem = [] ∧ t.side = [] ∧ t.now = 0 ∧ t.bar.ready = true ∧
      t.bar.recovery = false ∧ t.flash.boots = s.flash.boots + 1) ∧
    (good → ∃ t, exec .warmReset s = .next t ∧ fresh t ∧ t.now = s.now ∧ t.bar.ready = true ∧ t.bar.recovery = false ∧
      t.hctrs = (s.hctrs.mapVals fun _ x => { x with sems := [], bars := [] }) ∧
      t.fen.scores = s.fen.scores ∧ (s.bar.replreq = true → t.bar.replreq = true) ∧
      (s.power.retention = false → t.mem = [] ∧ t.side = []) ∧
      (s.power.retention = true → s.msc = [] → t.mem = s.mem ∧ t.side = s.side)) ∧
    (bestSlot s.flash.firmware = none → ∀ i, i ∈ [Instr.coldReset, Instr.warmReset] → ∃ t, exec i s = .next t ∧
      fresh t ∧ t.bar.ready = false ∧ t.bar.recovery = true ∧ t.bar.rcause = 2)

/-- Governor, clocks and trips, and the two resets: the claims `PowerEvents` and `Resets`. -/
def Obligations.PowerAndResets : Prop := Sys2Proof.Claims.PowerEvents ∧ Sys2Proof.Claims.Resets

/-- R129, R133, R197 to R200, R228, R230, R252, R254, R259, R263, R395: the events that end a step of a word in progress: a
block that the hart's cache or memory holds stands in its hart; a lane cycle computes a group into the commit buffer, commits
the oldest one on a recheck that agrees, marks it on a first disagreement and traps on a second; a sensed row is in the
latch; a captured row leaves the latch clean and waits to be written; a written row stands in memory; a group of a gather
whose data have come commits; a load's data reach gd; both ends of a Serge transfer and every member of a rotation get their
rows; a copy has copied its row. That a full block cache gives up its oldest block is the model's choice (log 19, DESIGN CHOICE). -/
def Obligations.WordStepEvents : Prop :=
  ∀ (s : State) (c b : Nat),
    let h := s.hart c b
    let reg (r : Nat) := s.reg c b r
    let step (i : Instr) (p : Pend) (f : Nat → VReg) := ∃ t, exec i s = .next t ∧ (t.hart c b).pend = some p ∧
      (∀ r, t.reg c b r = f r) ∧ t.mem = s.mem
    let taken (u : State) (words : List Nat) (cache : List (Nat × List Nat)) := u.setHart c b { u.hart c b with
      blk := words, hpc := if h.wordIdx = 0 then h.hpc + 4 else h.hpc, req := none, cache := cache }
    (∀ (l : Loc) (words : List Nat), h.st = .split → h.pend = none → h.blk = [] → headerGood (words.headD 0) = true →
      s.translateOn c false h.blockVa .fetch false false = .ok l →
      (Tab.find h.cache h.blockVa = some words → exec (.splitBlockFetch c b) s = .next (taken s words h.cache)) ∧
      (∀ u v, Tab.find h.cache h.blockVa = none →
        s.readHere (.hart c b) h.blockVa (linePa (lineOf l.pa)) 64 = .done u v none → words = blockWords v →
        exec (.splitBlockFetch c b) s = .next (taken u words
          ((if h.cache.length < 64 then h.cache else h.cache.drop 1) ++ [(h.blockVa, words)])))) ∧
    (∀ (op : LaneOp) (g : Grp) (rest : List Grp), h.pend = some (.lane op) → h.young = [] →
      (∀ agree, op.again = false → op.todo = g :: rest → op.buf.length < 16 →
        step (.laneGroupCycle c b agree) (.lane { op with todo := rest, buf := op.buf ++ [g] }) reg) ∧
      (op.todo = [] → op.buf = g :: rest → rest ≠ [] → step (.laneGroupCycle c b true)
        (.lane { op with buf := rest, again := false }) fun r => (s.commitGrp c b op g).reg c b r) ∧
      (op.again = false → op.todo = [] → op.buf = g :: rest →
        step (.laneGroupCycle c b false) (.lane { op with again := true }) reg) ∧
      (op.again = true → op.buf = g :: rest → step (.laneGroupCycle c b false)
        (.trapped 0x43 (g.g * 2 ^ 32 + op.word) g.g) fun r =>
          if r ∈ op.dests then { reg r with arrival := 0xffffffff } else reg r)) ∧
    (∀ k pa, h.pend = some (.sense k pa none) → step (.actSenseComplete c b) .done fun r =>
      if r = k then { reg k with bits := s.mem.slice pa 8192, latch := .opened, row := some pa, dirty := false,
                                 arrival := 0xffffffff, conds := s.rowConds pa } else reg r) ∧
    (∀ k pa, h.pend = some (.capture k pa false none) → step (.wbCaptureComplete c b)
      (.rowWrite k pa ((reg k).content k) (reg k).conds none) fun r =>
        if r = k then { reg k with latch := .opened, row := some pa, dirty := false } else reg r) ∧
    (∀ k pa, h.pend = some (.capture k pa true none) → step (.wbCaptureComplete c b)
      (.rowWrite k pa ((reg k).content k) (reg k).conds none) fun r =>
        if r = k then { reg k with latch := .closed, row := none, dirty := false, conds := [] } else reg r) ∧
    (∀ k pa bits conds, h.pend = some (.rowWrite k pa bits conds none) → ∃ t, exec (.rowWriteComplete c b) s = .next t ∧
      (t.hart c b).pend = some .done ∧ t.mem = s.mem.place pa 13 bits ∧ ∀ d e, t.bank d e = s.bank d e) ∧
    (∀ (i : Instr) (f : GForm) (left : List Nat) (op : LaneOp) (g : Grp) (n : Nat), h.pend = some (.gather left op) →
      decodeHart (s.wordAt c b) = .ok i → gatherForm i = some f → op.todo.find? (fun x => x.g == n) = some g →
      let more := op.todo.filter fun x => x.g != n
      (left ≠ [] ∨ more ≠ []) → step (.gatherDataArrival c ⟨b, n⟩) (.gather left { op with todo := more }) fun r =>
        (s.commitGrp c b op g).reg c b r) ∧
    (∀ (o : LDo) (pa : Nat), h.pend = some (.column (.ld o)) →
      let va := (h.greg o.a.toNat + o.o.signExtend 64).toNat
      let n := 2 ^ o.w.toNat
      s.colAt c false va n true false = .ok (.here pa) → s.busHeld (.hart c b) = false → Plain s pa →
      ∃ t, exec (.columnAccessComplete c b) s = .next t ∧ (t.hart c b).pend = some .done ∧ t.mem = s.mem ∧
        (o.d ≠ 0 → (t.hart c b).greg o.d.toNat = if o.u then BitVec.ofNat 64 (s.mem.read pa n)
          else BitVec.ofInt 64 (sval (8 * n) (s.mem.read pa n)))) ∧
    (∀ r x y z q, h.pend = some (.send r x y z) → (s.hart x y).pend = some (.recv q c b z) → (x ≠ c ∨ y ≠ b) →
      (reg r).conds = [] → ∃ t, exec (.sergeTransferComplete c ⟨b, []⟩) s = .next t ∧ (t.hart c b).pend = some .done ∧
        (t.hart x y).pend = some .done ∧ (t.reg x y q).bits = (reg r).content r ∧ t.mem = s.mem) ∧
    (∀ g d a (amt : Int), let ms := (s.gang c g).banks
      d ≠ a → (∀ y ∈ ms, (s.core c).gangOf y = some g ∧ (s.hart c y).pend = some (.twill 0 d a amt) ∧
        (s.reg c y a).conds = []) →
      ∃ t, exec (.twillTransferComplete c ⟨g, []⟩) s = .next t ∧ t.mem = s.mem ∧ ∀ (k y : Nat), ms[k]? = some y →
        (t.hart c y).pend = some .done ∧ (t.reg c y d).bits =
          (let z := ms.getD (((k : Int) - amt) % (ms.length : Int)).toNat 0
           (s.reg c z a).content a)) ∧
    (∀ n p q, (h.slot n).busy = true → (h.slot n).src = [(65, p)] → (h.slot n).dst = [(65, q)] → (h.slot n).pos = 0 →
      (h.slot n).got = [] → (h.slot n).posted = false → (p + 8192 ≤ q ∨ q + 8192 ≤ p) → p % 8192 = 0 → q % 8192 = 0 →
      s.mem.wf = true → s.busHeld (.copy c b n) = false → (∀ x, s.affords x .fabric 1 = true) →
      (∀ k, k < 8192 → Plain s (p + k) ∧ Plain s (q + k)) →
      ∃ t, exec (.xferComplete c b n) s = .next t ∧ ((t.hart c b).slot n).busy = false ∧
        (∀ k, k < 8192 → t.mem.get (q + k) = s.mem.get (p + k)) ∧
        (∀ a, a < q ∨ q + 8192 ≤ a → t.mem.get a = s.mem.get a))

/-- R135 to R137: a gang that may start takes its oldest queued block; its members that are MEMBER or PARKED take part, at
word 1; a block whose last word is done retires with its sequence number once its participants' accesses are performed. A gang that
may not start stays. -/
def Obligations.BlockEvents : Prop :=
  ∀ (s : State) (c g : Nat) (q : Queued) (rest : List Queued) (r : Running),
    let x := s.gang c g
    let parts := x.banks.filter fun b => (s.hart c b).st == .member || (s.hart c b).st == .parked
    (s.canStart c g = true → x.queue = q :: rest → 1 ≤ headerLen (q.words.headD 0) →
      let run : Running := { words := q.words, va := q.va, seq := q.seq, pos := 1, parts := parts }
      ∃ t, exec (.blockStart c g) s = .next t ∧ t.gang c g = { x with queue := rest, run := some run } ∧
        (∀ b ∈ parts, (t.hart c b).st = .member ∧ (t.hart c b).hpc = BitVec.ofNat 48 (q.va + 4) ∧
          (t.hart c b).g = (s.hart c b).g) ∧ t.mem = s.mem) ∧
    (s.canStart c g = false → exec (.blockStart c g) s = .next s) ∧
    (x.run = some r → headerLen (r.words.headD 0) < r.pos → (∀ b ∈ r.parts, (s.hart c b).quiet = true) →
      exec (.blockRetire c g) s = .next (s.setGang c g { x with run := none, last := BitVec.ofNat 32 r.seq })) ∧
    (x.run = some r → r.pos ≤ headerLen (r.words.headD 0) → exec (.blockRetire c g) s = .next s)

/-- R385, R396: this module as the home of a line, with no other request waiting and budget of FABRIC: a read of a line that
no module holds in E, O or M is answered and leaves the line in S; an ownership request is granted in E to its sender, where
other modules may hold copies once they have been told to invalidate them; a write-back from M puts the data into memory and
leaves the line to the home; an atomic operation is performed here and answers the old value. No agent of this module comes first.
The layout of the answers, `answerData`, is the model's (log 61, DEDUCED). -/
def Sys2Proof.Claims.HomeRequests : Prop :=
  ∀ (s : State) (src line addr : Nat) (data : BitVec 512) (w32 : Bool) (x y : Word),
    let pa := linePa line
    let side := s.sideOf line
    let n := if w32 then 4 else 8
    let old := s.mem.read addr n
    let free (a : Nat) := s.remoteQ = [] ∧ s.firsts = [] ∧ s.affordsAt a .fabric 1 = true ∧ s.portHeld src = false ∧
      s.rowWriting a = false ∧ s.unacked (lineOf a) = []
    (free pa → s.mscFree pa = true → s.asleep pa = false → s.unserved pa = false → s.rowTested pa = false →
      side.cond = none → side.state.toNat ≤ 1 → ∃ t, exec (.remoteReadRequest src line) s = .next t ∧
      t.out = s.out ++ [Out.fabric src msgAnswer line (answerData (s.mem.read pa 64) false false false false)] ∧
      (t.sideOf line).state = 1 ∧ rowStart pa ∈ t.rshr ∧ t.remoteQ = [] ∧ t.mem = s.mem) ∧
    (free pa → s.mscFree pa = true → Plain s pa → s.rowHeld pa = false →
      ∃ t, exec (.remoteOwnershipRequest src line) s = .next t ∧
        t.out = s.out ++ [Out.fabric src msgAnswer line (answerData (s.mem.read pa 64) false false true false)] ∧
        (t.sideOf line).state = 2 ∧ (t.sideOf line).owner = some (BitVec.ofNat 6 src) ∧ rowStart pa ∈ t.rown ∧
        t.remoteQ = [] ∧ t.mem = s.mem) ∧
    (free pa → line < 2 ^ 34 → s.asleep pa = false → s.sensing pa = false → s.rowHeld pa = false → side.state = 1 →
      s.others ≠ [] → (∀ m ∈ s.others, s.portHeld m = false) →
      ∃ t, exec (.remoteOwnershipRequest src line) s = .next t ∧ t.remoteQ.length = 1 ∧ t.mem = s.mem ∧ t.side = s.side ∧
        t.invals = s.invals ++ s.others.map (fun m => (line, m)) ∧
        t.out = s.out ++ s.others.map fun m => Out.fabric m msgInvalidate line 0) ∧
    (free pa → s.asleep pa = false → s.unserved pa = false → s.sensing pa = false → s.rowTested pa = false → side.state = 4 →
      side.owner = some (BitVec.ofNat 6 src) → ∃ t, exec (.remoteWriteBack src line data .good true) s = .next t ∧
        t.mem = s.mem.write pa 64 data.toNat ∧ (t.sideOf line).state = 0 ∧ (t.sideOf line).owner = none ∧
        (t.sideOf line).poison = false ∧ t.remoteQ = []) ∧
    (free addr → Plain s addr → ∃ t, exec (.remoteAmoRequest src addr 0 w32 x y) s = .next t ∧
      t.mem = s.mem.write addr n ((old + x.toNat % 2 ^ (8 * n)) % 2 ^ (8 * n)) ∧
      Out.fabric src msgAnswer addr (answerData old false false false false) ∈ t.out ∧ t.remoteQ = [])

/-- R237 to R239, R384 to R387: lines of other modules held here, and the answers that this module waits for. A recalled line
leaves, with its data unless it is invalidated; a forwarded one stays in O from O or M and in S from E; an evicted dirty one
goes home; a line read from its home is held in S, and the hart that waited goes on; the last acknowledgement of an invalidation
leaves the line to its home alone; host data reach the waiter; a recall that
is not answered, and a completion that fails or does not come, end the access by its cause, and leave the sideband as it was. The
layout of answers, and that of a write-back's data with its flag for M at bit 512, are the model's (log 61, DEDUCED); so is that htval
names the first module that has not answered (log 66, DESIGN CHOICE). -/
def Sys2Proof.Claims.HeldLineEvents : Prop :=
  ∀ (s : State) (home line va c b : Nat) (l : RLine) (r : Req) (i : Instr) (data : BitVec 512),
    let key := home * 2 ^ 34 + line
    let owned := l.st == .o || l.st == .m
    let h := s.hart c b
    let w : Waiter := .hart c b
    let fails (i : Instr) (cause detail : Nat) := ∃ t, exec i s = .next t ∧ (t.hart c b).req = none ∧
      (t.hart c b).pend = some (.trapped cause detail 0) ∧ t.side = s.side ∧ t.mem = s.mem
    (s.rlines.find key = some l → s.portHeld home = false →
      (∃ t, exec (.recallRequest home line .recall) s = .next t ∧ t.rlines.find key = none ∧ t.mem = s.mem ∧
        t.out = s.out ++ [Out.fabric home msgAnswer line (answerData l.data l.poison owned false false l.e2eDiff)]) ∧
      (∃ t, exec (.recallRequest home line .line) s = .next t ∧ t.rlines.find key = none ∧
        t.out = s.out ++ [Out.fabric home msgAnswer line (answerData 0 false false false false)]) ∧
      (∃ t, exec (.recallRequest home line .row) s = .next t ∧ (∀ n, n < 128 → t.rlines.find (key + n) = none) ∧
        t.out = s.out ++ [Out.fabric home msgAnswer line (answerData 0 false false false false)]) ∧
      (∃ t, exec (.remoteForwardRequest home line) s = .next t ∧
        t.rlines.find key = some { l with st := if owned then .o else .s } ∧
        t.out = s.out ++ [Out.fabric home msgAnswer line (answerData l.data l.poison owned false false l.e2eDiff)]) ∧
      (line < 2 ^ 34 → home ≠ s.flash.modId.toNat →
        ∃ t, exec (.mscEviction key) s = .next t ∧ t.rlines.find key = none ∧
          t.out = s.out ++ if owned then [Out.fabric home msgWriteBack line (l.data % 2 ^ 512 + bnat (l.st == .m) * 2 ^ 512 +
            bnat l.poison * 2 ^ 513 + l.e2eDiff.toNat * 2 ^ 514)] else [])) ∧
    (line < 2 ^ 34 → home = s.flash.modId.toNat → s.sensing (linePa line) = false →
      ∃ t, exec (.mscEviction key) s = .next t ∧ t.msc.find line = none ∧ t.mem = s.mem) ∧
    (h.req = some ⟨va, home, linePa line, false, msgRead⟩ → s.remoteQ = [] → s.hostq = [] →
      ∃ t, exec (.remoteAnswer home msgRead line data .good false) s = .next t ∧
        t.rlines.find key = some ⟨.s, data.toNat, false, 0⟩ ∧ (t.hart c b).req = none ∧ (t.hart c b).pend = h.pend ∧
        t.mem = s.mem) ∧
    (h.req = some ⟨va, home, linePa line, false, msgInvalidate⟩ → s.invals = [(line, home)] →
      (s.sideOf line).state = 1 → s.remoteQ = [] → s.hostq = [] →
      ∃ t, exec (.remoteAnswer home msgInvalidate line data .good false) s = .next t ∧ t.invals = [] ∧
        (t.sideOf line).state = 0 ∧ (t.hart c b).req = none ∧ (t.hart c b).pend = h.pend ∧ t.mem = s.mem) ∧
    (h.req = some r → h.pend = some (.column i) →
      (r.host = false → r.invals = false → fails (.recallTimeout w) 0xa1 (r.va % 2 ^ 48 + r.module * 2 ^ 58)) ∧
      (r.invals = true → ∀ m ms, s.unacked r.invalKey = m :: ms →
        fails (.recallTimeout w) 0xa1 (r.va % 2 ^ 48 + m * 2 ^ 58)) ∧
      (r.host = true →
        fails (.hostCompletionTimeout w) 0xa4 (detail48 r.va .col 0 (decide (17 ≤ r.kind))) ∧
        fails (.hostCompletion w false false data) 0xa4 (detail48 r.va .col 0 (decide (17 ≤ r.kind))) ∧
        fails (.hostCompletion w true true data) 0x40 (detail48 r.va .col 0 (decide (17 ≤ r.kind))))) ∧
    (h.req = some r → r.host = true → ∃ t, exec (.hostCompletion w true false data) s = .next t ∧ (t.hart c b).req = none ∧
      (t.hart c b).hostGot.find r.addr = some data.toNat ∧ (t.hart c b).pend = h.pend ∧ t.mem = s.mem)

/-- This module as home, and lines of other modules held here: the claims `HomeRequests` and `HeldLineEvents`. -/
def Obligations.RequestsBetweenModules : Prop := Sys2Proof.Claims.HomeRequests ∧ Sys2Proof.Claims.HeldLineEvents

/-- R422, R440, R444, R445, R453 to R457: the management commands of a module whose firmware runs. Without verified firmware
only STATUS and FW_UPDATE are answered, and the others change nothing. The slot that holds the running image stays. DEBUG's code 0 as
stop, that a limit out of range changes nothing, the numbers of the answers and that READ_LOG answers the whole log are the model's
(log 56, DESIGN CHOICE), and so is log source 0 of DEBUG's entry (log 89, DEDUCED). -/
def Obligations.ManagementCommands : Prop :=
  ∀ (s : State) (watts core arg n : Nat) (on ok : Bool) (nonce hash : BitVec 256),
    let p := s.power
    let runs := s.bar.rcause ≠ 2
    let others : List Instr := [.readLog, .readRetire, .setPlimit watts, .setMode on, .armRetention on, .attest nonce,
      .debugCmd ok core n arg]
    (∃ l, exec .status s = .next (s.send (.mgmt 1 l)) ∧ l[0]? = some s.bar.gstat ∧
      (∀ k, k < 8 → l[k + 1]? = some (s.stackClock k)) ∧ l[9]? = some p.plimit) ∧
    (runs → exec .readLog s = .next (s.send (.mgmt 2 (s.flash.lost.toNat :: s.flash.log.map LogEntry.bits)))) ∧
    (runs → ∃ l, exec .readRetire s = .next (s.send (.mgmt 3 l)) ∧ l.length = s.flash.records.length) ∧
    (runs → 1000 ≤ watts → watts ≤ 3200 → exec (.setPlimit watts) s =
      .next { s with power := { p with plimit := watts }, out := s.out ++ [Out.mgmt 4 []] }) ∧
    ((watts < 1000 ∨ 3200 < watts) → exec (.setPlimit watts) s = .next s) ∧
    (runs → exec (.setMode on) s = .next { s with power := { p with detWanted := on, det := p.det && on }
                                                  out := s.out ++ [Out.mgmt 5 []] }) ∧
    (runs → exec (.armRetention on) s = .next { s with power := { p with retention := on }
                                                       out := s.out ++ [Out.mgmt 6 []] }) ∧
    (runs → ∃ r, exec (.attest nonce) s = .next (s.send (.mgmt 7 [r])) ∧ r % 2 ^ 256 = nonce.toNat) ∧
    (runs → s.flash.log.length < 4096 → ∃ t, exec (.debugCmd true core 0 arg) s = .next t ∧
      (t.core core).traceOn = false ∧
      t.flash.log = s.flash.log ++ [⟨s.now, 0xc4, 0, 0xffff, 8, 0⟩]) ∧
    exec (.debugCmd false core n arg) s = .next s ∧
    (∀ h x, s.flash.running = some h → x ∈ s.flash.firmware → x.ok = true → x.hash = h → ∃ t y,
      exec (.fwUpdate n ok hash) s = .next t ∧ t.flash.firmware = [y, ⟨n, ok, hash⟩] ∧ y.ok = true ∧ y.hash = h ∧
      t.flash.running = some h ∧ t.mem = s.mem) ∧
    (s.bar.rcause = 2 → ∀ i ∈ others, exec i s = .next s)

/-! ## Steps, encodings and invariants -/

/-- R44, R123, R129, R131, R133: a step whose turn is an agent's runs the instruction that the bytes at its pc decode to: of
a split hart, from the block it holds, from its cache, or fetched from memory; of a gang, at its sequencer's place; of a
control thread, of 32 or 16 bits from memory. A word in progress goes on by its own instruction, after what the words behind
it have done (log 3). A turn that is an event, something from outside, or hub time, is that (log 1, 78). The checks of R172
and breakpoints apart, and harts that HKILL has named (R155). Which block or line a full cache gives up for one fetched is the model's
choice (log 19, DESIGN CHOICE). -/
def Obligations.StepRunsDecoded : Prop :=
  ∀ (s u : State) (ts : List Turn) (c b g v w pos : Nat) (whole : Bool) (i : Instr) (l : Loc) (words : List Nat)
    (r : Running) (o : Outside),
    let h := s.hart c b
    let x := s.ct c
    let len := headerLen (words.headD 0)
    let still (y : Nat) := whole = true → (s.core c).engine = [] ∧ ∀ e ∈ (s.hart c y).slots, e.2.busy = false
    let runs (bcast : Bool) := pos ≤ len ∧ w = words.getD pos 0 ∧ decodeHart w = .ok i ∧
      (endsBlock w = true → pos = len ∧ (bcast = true → bcastEnder w = true))
    let s1 : State := { s with agenda := ts, actCore := c, actBank := b, actGang := none, stepwise := !whole }
    let s2 : State := { s with agenda := ts, actCore := c, actGang := some g, stepwise := !whole }
    let fresh := h.pend = none ∧ h.young = [] ∧ h.after = 0 ∧ h.dying = false ∧ h.far = none
    let s3 := s1.goAhead c [b] [] whole
    let taken (u : State) (cache : List (Nat × List Nat)) : State := u.setHart c b { u.hart c b with
      blk := words, hpc := if h.wordIdx = 0 then h.hpc + 4 else h.hpc, req := none, cache := cache }
    let here : State := { s with agenda := ts, actCore := c }
    let codes (t : State) := x.pc.toNat % 64 ≤ 60 →
      (∀ l2, w = fld v (8 * (x.pc.toNat % 64)) 32 → w % 4 = 3 → decodeCt w = some i →
        t.translateOn c (t.mach c) ((x.pc.toNat + 2) % 2 ^ 64) .fetch false false = .ok l2 →
        step s = exec i { t with actLen := 4 }) ∧
      (∀ raw, raw = fld v (8 * (x.pc.toNat % 64)) 16 → raw % 4 ≠ 3 → expandC raw = some w → decodeCt w = some i →
        step s = exec i { t with actLen := 2 })
    (s.agenda = .hart c b whole :: ts → still b → (s.core c).st = .running → h.st = .split → fresh →
      s.checking c = false → x.breaks b h.blockVa pos h.repact h.repi.toNat = none → runs h.bcastKind →
      (h.blk = words → words ≠ [] → pos = h.wordIdx → step s = exec i s1) ∧
      (h.blk = [] → s.translateOn c false h.blockVa .fetch false false = .ok l → headerGood (words.headD 0) = true →
        pos = (if h.wordIdx = 0 then 1 else h.wordIdx) →
        (Tab.find h.cache h.blockVa = some words → step s = exec i (taken s1 h.cache)) ∧
        (Tab.find h.cache h.blockVa = none → words = blockWords v →
          s1.readHere (.hart c b) h.blockVa (linePa (lineOf l.pa)) 64 = .done u v none →
          u.hart c b = h → u.checking c = false → (u.ct c).bpa = x.bpa → (u.ct c).bpm = x.bpm →
          step s = exec i (taken u ((if h.cache.length < 64 then h.cache else h.cache.drop 1) ++ [(h.blockVa, words)]))))) ∧
    (s.agenda = .hart c b whole :: ts → still b → (s3.core c).st = .running → h.st = .split → (s3.hart c b).st = .split →
      (s3.hart c b).pend ≠ none → (s3.hart c b).dying = false → (s3.hart c b).far = none → decodeHart (s3.wordAt c b) = .ok i →
      step s = exec i s3) ∧
    (∀ t : State, s.agenda = .gang c g whole :: ts → (∀ y ∈ (s.gang c g).banks, still y) → s.running c g = some r →
      r.todo ≠ [] → r.words = words → r.pos = pos → runs true →
      (t = s2 ∧ r.done = [] ∧ ∀ y ∈ r.parts, (s.hart c y).pend = none ∧ (s.hart c y).young = []) ∨
        (t = s2.goAhead c r.parts r.done whole ∧ t.running c g = some r) →
      (t.core c).st = .running → t.checking c = false → (∀ y ∈ (t.gang c g).banks, (t.hart c y).dying = false) →
      (∀ y ∈ r.todo, (t.ct c).breaks y r.va pos r.repact r.repi.toNat = none) → step s = exec i t) ∧
    (s.agenda = .ct c :: ts → x.running = true → ((s.core c).st = .running ∨ (s.core c).st = .saving) →
      s.translateOn c (s.mach c) x.pc.toNat .fetch false false = .ok l →
      (x.icache.find (x.pc.toNat / 64) = some v → codes here) ∧
      (x.icache.find (x.pc.toNat / 64) = none →
        here.readHere (.ct c) x.pc.toNat (linePa (lineOf l.pa)) 64 = .done u v none →
        let y := u.ct c
        codes (u.setCt c { y with
          icache := (if y.icache.length < Config.icacheLines then y.icache else y.icache.drop 1).put (x.pc.toNat / 64) v
          rreq := none }))) ∧
    (s.agenda = .event i :: ts → step s = exec i { s with agenda := ts }) ∧
    (s.agenda = .outside o :: ts → step s = .next (State.outside { s with agenda := ts } o)) ∧
    (s.agenda = .tick v :: ts → step s = .next (State.tick { s with agenda := ts } v))

/-- Decoding the word of a well-formed instruction gives the instruction back, with every operand at every value: a hart's by
the hart's decoder, and the control thread's by its own. -/
def Obligations.DecodeEncode : Prop :=
  ∀ (i : Instr) (w : Nat), i.wf = true → encode i = some w → decodeHart w = .ok i ∨ decodeCt w = some i

/-- Memory keeps its canonical form under every step, from any state in which it has it: the addresses rise strictly and no
byte is listed that an unlisted address reads as (R57: 0). -/
def Obligations.StepKeepsMemory : Prop :=
  ∀ (s t : State), s.mem.wf = true → step s = .next t → t.mem.wf = true

/-- R31, R34, R57, R128, R134, R189, R224: what reset leaves: memory in canonical form that reads 0 everywhere, every sideband
clear, every hart FREE and as at task start, every latch CLOSED and every register RAW, every gang empty, no task, and every
counter 0. -/
def Sys2Proof.Claims.ResetState : Prop :=
  let s := State.reset
  s.mem.wf = true ∧ (∀ a, s.mem.get a = 0) ∧ (∀ n, s.sideOf n = {}) ∧ s.now = 0 ∧ s.sched.tasks = [] ∧
  (∀ c b, (s.hart c b).st = .free ∧ (s.hart c b).hp = true ∧ (s.hart c b).vl = 0 ∧ (s.hart c b).egi = 0 ∧
    (s.hart c b).flags = 0 ∧ (s.hart c b).rmode = 0 ∧ (s.hart c b).seed = BitVec.ofNat 32 (b + 1) ∧
    ∀ r, (s.hart c b).greg r = 0) ∧
  (∀ c b r, (s.reg c b r).latch = .closed ∧ (s.reg c b r).tag = 15 ∧ (s.reg c b r).content r = 0) ∧
  (∀ c b, (s.bank c b).mask 0 = 2 ^ 8192 - 1) ∧
  (∀ c g, (s.gang c g).members = 0 ∧ (s.gang c g).queue = []) ∧
  (∀ c, (s.core c).st = .free ∧ (s.core c).task = none) ∧
  (∀ hub c n, (s.ctr hub c n).vote = some 0) ∧ (∀ c q, (s.tile c q).owner = none)

/-- R146, R164, R169, R170, R171: words written out from the spec's encodings decode to the instructions they stand for. -/
def Sys2Proof.Claims.SampleWords : Prop :=
  decodeHart 0x04d54000 = .ok (.add ⟨3, 5, 5, false⟩) ∧
  decodeHart 0x6048c000 = .ok (.vadd ⟨1, 2, 3, 0, false, 0, false⟩) ∧
  decodeHart 0x08afffff = .ok (.addi ⟨2, 11, -1⟩) ∧
  decodeHart 0x44500000 = .ok (.act ⟨1, 4, false, false⟩)

/-- What reset leaves (values: log 5), and words written out from the encodings: the claims `ResetState` and `SampleWords`. -/
def Obligations.ResetAndSampleWords : Prop := Sys2Proof.Claims.ResetState ∧ Sys2Proof.Claims.SampleWords
end

