-- ==== Sys2Proof/Laws/Tab.lean ====
section
/-! SUPPORT. Tables: what an entry put or dropped is read as, there and elsewhere. -/

namespace Sys2Proof.Machine

variable {α : Type}

@[simp] theorem Tab.find_nil (k : Nat) : Tab.find ([] : Tab α) k = none := rfl

@[simp] theorem Tab.find_put_self (t : Tab α) (k : Nat) (x : α) : (t.put k x).find k = some x := by
  induction t with
  | nil => simp [Tab.put, Tab.find]
  | cons e t ih =>
    obtain ⟨j, y⟩ := e
    simp only [Tab.put]
    split_ifs with h1 h2
    · simp [Tab.find]
    · simp [Tab.find]
    · simp [Tab.find, h1, ih]

theorem Tab.find_put_of_ne (t : Tab α) {k j : Nat} (x : α) (h : j ≠ k) : (t.put k x).find j = t.find j := by
  induction t with
  | nil => simp [Tab.put, Tab.find, h.symm]
  | cons e t ih =>
    obtain ⟨i, y⟩ := e
    simp only [Tab.put]
    split_ifs with h1 h2
    · subst h1; simp [Tab.find, h.symm]
    · simp [Tab.find, h.symm]
    · by_cases hi : i = j <;> simp [Tab.find, hi, ih]

@[simp] theorem Tab.put_put (t : Tab α) (k : Nat) (x y : α) : (t.put k x).put k y = t.put k y := by
  induction t with
  | nil => simp [Tab.put]
  | cons e t ih =>
    obtain ⟨j, z⟩ := e
    simp only [Tab.put]
    split_ifs with h1 h2
    · simp [Tab.put]
    · simp [Tab.put]
    · simp [Tab.put, h1, h2, ih]

@[simp] theorem Tab.get_nil (k : Nat) (d : α) : Tab.get ([] : Tab α) k d = d := rfl

@[simp] theorem Tab.get_put_self (t : Tab α) (k : Nat) (x d : α) : (t.put k x).get k d = x := by simp [Tab.get]

theorem Tab.get_put_of_ne (t : Tab α) {k j : Nat} (x d : α) (h : j ≠ k) : (t.put k x).get j d = t.get j d := by
  simp [Tab.get, Tab.find_put_of_ne t x h]

theorem Tab.get_put (t : Tab α) (k j : Nat) (x d : α) : (t.put k x).get j d = if j = k then x else t.get j d := by
  split_ifs with h
  · subst h; simp
  · exact Tab.get_put_of_ne t x d h

@[simp] theorem Tab.find_drop_self (t : Tab α) (k : Nat) : (t.drop k).find k = none := by
  induction t with
  | nil => rfl
  | cons e t ih =>
    obtain ⟨j, y⟩ := e
    by_cases h : j = k <;> simp [Tab.drop, Tab.find, h, ih]

theorem Tab.find_drop_of_ne (t : Tab α) {k j : Nat} (h : j ≠ k) : (t.drop k).find j = t.find j := by
  induction t with
  | nil => rfl
  | cons e t ih =>
    obtain ⟨i, y⟩ := e
    by_cases hi : i = k
    · subst hi; simp [Tab.drop, Tab.find, h.symm, ih]
    · simp only [Tab.drop, hi, if_false, Tab.find]
      split_ifs <;> simp [ih]

end Sys2Proof.Machine
end

