-- ==== Sys2Proof/Laws/State.lean ====
section
/-! SUPPORT. The state's accessors and updates: what each update leaves alone (one lemma a field), what it sets, and
updates of one place that follow each other. -/

namespace Sys2Proof.Machine

/-! ## Fields that an update of a core, of what a core holds, of the cluster, layer and queue tables or a message leaves alone -/

@[simp] theorem State.setCore_agenda (s : State) (c : Nat) (k : Core) : (s.setCore c k).agenda = s.agenda := rfl
@[simp] theorem State.setCore_actCore (s : State) (c : Nat) (k : Core) : (s.setCore c k).actCore = s.actCore := rfl
@[simp] theorem State.setCore_actBank (s : State) (c : Nat) (k : Core) : (s.setCore c k).actBank = s.actBank := rfl
@[simp] theorem State.setCore_actGang (s : State) (c : Nat) (k : Core) : (s.setCore c k).actGang = s.actGang := rfl
@[simp] theorem State.setCore_actLen (s : State) (c : Nat) (k : Core) : (s.setCore c k).actLen = s.actLen := rfl
@[simp] theorem State.setCore_stepwise (s : State) (c : Nat) (k : Core) : (s.setCore c k).stepwise = s.stepwise := rfl
@[simp] theorem State.setCore_rr (s : State) (c : Nat) (k : Core) : (s.setCore c k).rr = s.rr := rfl
@[simp] theorem State.setCore_draws (s : State) (c : Nat) (k : Core) : (s.setCore c k).draws = s.draws := rfl
@[simp] theorem State.setCore_now (s : State) (c : Nat) (k : Core) : (s.setCore c k).now = s.now := rfl
@[simp] theorem State.setCore_mem (s : State) (c : Nat) (k : Core) : (s.setCore c k).mem = s.mem := rfl
@[simp] theorem State.setCore_side (s : State) (c : Nat) (k : Core) : (s.setCore c k).side = s.side := rfl
@[simp] theorem State.setCore_msc (s : State) (c : Nat) (k : Core) : (s.setCore c k).msc = s.msc := rfl
@[simp] theorem State.setCore_rlines (s : State) (c : Nat) (k : Core) : (s.setCore c k).rlines = s.rlines := rfl
@[simp] theorem State.setCore_remoteResv (s : State) (c : Nat) (k : Core) : (s.setCore c k).remoteResv = s.remoteResv := rfl
@[simp] theorem State.setCore_rown (s : State) (c : Nat) (k : Core) : (s.setCore c k).rown = s.rown := rfl
@[simp] theorem State.setCore_rshr (s : State) (c : Nat) (k : Core) : (s.setCore c k).rshr = s.rshr := rfl
@[simp] theorem State.setCore_invals (s : State) (c : Nat) (k : Core) : (s.setCore c k).invals = s.invals := rfl
@[simp] theorem State.setCore_recalls (s : State) (c : Nat) (k : Core) : (s.setCore c k).recalls = s.recalls := rfl
@[simp] theorem State.setCore_walkData (s : State) (c : Nat) (k : Core) : (s.setCore c k).walkData = s.walkData := rfl
@[simp] theorem State.setCore_touched (s : State) (c : Nat) (k : Core) : (s.setCore c k).touched = s.touched := rfl
@[simp] theorem State.setCore_hctrs (s : State) (c : Nat) (k : Core) : (s.setCore c k).hctrs = s.hctrs := rfl
@[simp] theorem State.setCore_bar (s : State) (c : Nat) (k : Core) : (s.setCore c k).bar = s.bar := rfl
@[simp] theorem State.setCore_sched (s : State) (c : Nat) (k : Core) : (s.setCore c k).sched = s.sched := rfl
@[simp] theorem State.setCore_fen (s : State) (c : Nat) (k : Core) : (s.setCore c k).fen = s.fen := rfl
@[simp] theorem State.setCore_flash (s : State) (c : Nat) (k : Core) : (s.setCore c k).flash = s.flash := rfl
@[simp] theorem State.setCore_power (s : State) (c : Nat) (k : Core) : (s.setCore c k).power = s.power := rfl
@[simp] theorem State.setCore_hostq (s : State) (c : Nat) (k : Core) : (s.setCore c k).hostq = s.hostq := rfl
@[simp] theorem State.setCore_hostReq (s : State) (c : Nat) (k : Core) : (s.setCore c k).hostReq = s.hostReq := rfl
@[simp] theorem State.setCore_hostGot (s : State) (c : Nat) (k : Core) : (s.setCore c k).hostGot = s.hostGot := rfl
@[simp] theorem State.setCore_remoteQ (s : State) (c : Nat) (k : Core) : (s.setCore c k).remoteQ = s.remoteQ := rfl
@[simp] theorem State.setCore_out (s : State) (c : Nat) (k : Core) : (s.setCore c k).out = s.out := rfl
@[simp] theorem State.setCore_firsts (s : State) (c : Nat) (k : Core) : (s.setCore c k).firsts = s.firsts := rfl
@[simp] theorem State.setCore_late (s : State) (c : Nat) (k : Core) : (s.setCore c k).late = s.late := rfl
@[simp] theorem State.setCore_heldOut (s : State) (c : Nat) (k : Core) : (s.setCore c k).heldOut = s.heldOut := rfl
@[simp] theorem State.setCore_finds (s : State) (c : Nat) (k : Core) : (s.setCore c k).finds = s.finds := rfl

@[simp] theorem State.setHart_agenda (s : State) (c b : Nat) (h : Hart) : (s.setHart c b h).agenda = s.agenda := rfl
@[simp] theorem State.setHart_actCore (s : State) (c b : Nat) (h : Hart) : (s.setHart c b h).actCore = s.actCore := rfl
@[simp] theorem State.setHart_actBank (s : State) (c b : Nat) (h : Hart) : (s.setHart c b h).actBank = s.actBank := rfl
@[simp] theorem State.setHart_actGang (s : State) (c b : Nat) (h : Hart) : (s.setHart c b h).actGang = s.actGang := rfl
@[simp] theorem State.setHart_actLen (s : State) (c b : Nat) (h : Hart) : (s.setHart c b h).actLen = s.actLen := rfl
@[simp] theorem State.setHart_stepwise (s : State) (c b : Nat) (h : Hart) : (s.setHart c b h).stepwise = s.stepwise := rfl
@[simp] theorem State.setHart_rr (s : State) (c b : Nat) (h : Hart) : (s.setHart c b h).rr = s.rr := rfl
@[simp] theorem State.setHart_draws (s : State) (c b : Nat) (h : Hart) : (s.setHart c b h).draws = s.draws := rfl
@[simp] theorem State.setHart_now (s : State) (c b : Nat) (h : Hart) : (s.setHart c b h).now = s.now := rfl
@[simp] theorem State.setHart_mem (s : State) (c b : Nat) (h : Hart) : (s.setHart c b h).mem = s.mem := rfl
@[simp] theorem State.setHart_side (s : State) (c b : Nat) (h : Hart) : (s.setHart c b h).side = s.side := rfl
@[simp] theorem State.setHart_msc (s : State) (c b : Nat) (h : Hart) : (s.setHart c b h).msc = s.msc := rfl
@[simp] theorem State.setHart_rlines (s : State) (c b : Nat) (h : Hart) : (s.setHart c b h).rlines = s.rlines := rfl
@[simp] theorem State.setHart_remoteResv (s : State) (c b : Nat) (h : Hart) : (s.setHart c b h).remoteResv = s.remoteResv := rfl
@[simp] theorem State.setHart_rown (s : State) (c b : Nat) (h : Hart) : (s.setHart c b h).rown = s.rown := rfl
@[simp] theorem State.setHart_rshr (s : State) (c b : Nat) (h : Hart) : (s.setHart c b h).rshr = s.rshr := rfl
@[simp] theorem State.setHart_invals (s : State) (c b : Nat) (h : Hart) : (s.setHart c b h).invals = s.invals := rfl
@[simp] theorem State.setHart_recalls (s : State) (c b : Nat) (h : Hart) : (s.setHart c b h).recalls = s.recalls := rfl
@[simp] theorem State.setHart_walkData (s : State) (c b : Nat) (h : Hart) : (s.setHart c b h).walkData = s.walkData := rfl
@[simp] theorem State.setHart_touched (s : State) (c b : Nat) (h : Hart) : (s.setHart c b h).touched = s.touched := rfl
@[simp] theorem State.setHart_hctrs (s : State) (c b : Nat) (h : Hart) : (s.setHart c b h).hctrs = s.hctrs := rfl
@[simp] theorem State.setHart_bar (s : State) (c b : Nat) (h : Hart) : (s.setHart c b h).bar = s.bar := rfl
@[simp] theorem State.setHart_sched (s : State) (c b : Nat) (h : Hart) : (s.setHart c b h).sched = s.sched := rfl
@[simp] theorem State.setHart_fen (s : State) (c b : Nat) (h : Hart) : (s.setHart c b h).fen = s.fen := rfl
@[simp] theorem State.setHart_flash (s : State) (c b : Nat) (h : Hart) : (s.setHart c b h).flash = s.flash := rfl
@[simp] theorem State.setHart_power (s : State) (c b : Nat) (h : Hart) : (s.setHart c b h).power = s.power := rfl
@[simp] theorem State.setHart_hostq (s : State) (c b : Nat) (h : Hart) : (s.setHart c b h).hostq = s.hostq := rfl
@[simp] theorem State.setHart_hostReq (s : State) (c b : Nat) (h : Hart) : (s.setHart c b h).hostReq = s.hostReq := rfl
@[simp] theorem State.setHart_hostGot (s : State) (c b : Nat) (h : Hart) : (s.setHart c b h).hostGot = s.hostGot := rfl
@[simp] theorem State.setHart_remoteQ (s : State) (c b : Nat) (h : Hart) : (s.setHart c b h).remoteQ = s.remoteQ := rfl
@[simp] theorem State.setHart_out (s : State) (c b : Nat) (h : Hart) : (s.setHart c b h).out = s.out := rfl
@[simp] theorem State.setHart_firsts (s : State) (c b : Nat) (h : Hart) : (s.setHart c b h).firsts = s.firsts := rfl
@[simp] theorem State.setHart_late (s : State) (c b : Nat) (h : Hart) : (s.setHart c b h).late = s.late := rfl
@[simp] theorem State.setHart_heldOut (s : State) (c b : Nat) (h : Hart) : (s.setHart c b h).heldOut = s.heldOut := rfl
@[simp] theorem State.setHart_finds (s : State) (c b : Nat) (h : Hart) : (s.setHart c b h).finds = s.finds := rfl

@[simp] theorem State.setBank_agenda (s : State) (c b : Nat) (x : Bank) : (s.setBank c b x).agenda = s.agenda := rfl
@[simp] theorem State.setBank_actCore (s : State) (c b : Nat) (x : Bank) : (s.setBank c b x).actCore = s.actCore := rfl
@[simp] theorem State.setBank_actBank (s : State) (c b : Nat) (x : Bank) : (s.setBank c b x).actBank = s.actBank := rfl
@[simp] theorem State.setBank_actGang (s : State) (c b : Nat) (x : Bank) : (s.setBank c b x).actGang = s.actGang := rfl
@[simp] theorem State.setBank_actLen (s : State) (c b : Nat) (x : Bank) : (s.setBank c b x).actLen = s.actLen := rfl
@[simp] theorem State.setBank_stepwise (s : State) (c b : Nat) (x : Bank) : (s.setBank c b x).stepwise = s.stepwise := rfl
@[simp] theorem State.setBank_rr (s : State) (c b : Nat) (x : Bank) : (s.setBank c b x).rr = s.rr := rfl
@[simp] theorem State.setBank_draws (s : State) (c b : Nat) (x : Bank) : (s.setBank c b x).draws = s.draws := rfl
@[simp] theorem State.setBank_now (s : State) (c b : Nat) (x : Bank) : (s.setBank c b x).now = s.now := rfl
@[simp] theorem State.setBank_mem (s : State) (c b : Nat) (x : Bank) : (s.setBank c b x).mem = s.mem := rfl
@[simp] theorem State.setBank_side (s : State) (c b : Nat) (x : Bank) : (s.setBank c b x).side = s.side := rfl
@[simp] theorem State.setBank_msc (s : State) (c b : Nat) (x : Bank) : (s.setBank c b x).msc = s.msc := rfl
@[simp] theorem State.setBank_rlines (s : State) (c b : Nat) (x : Bank) : (s.setBank c b x).rlines = s.rlines := rfl
@[simp] theorem State.setBank_remoteResv (s : State) (c b : Nat) (x : Bank) : (s.setBank c b x).remoteResv = s.remoteResv := rfl
@[simp] theorem State.setBank_rown (s : State) (c b : Nat) (x : Bank) : (s.setBank c b x).rown = s.rown := rfl
@[simp] theorem State.setBank_rshr (s : State) (c b : Nat) (x : Bank) : (s.setBank c b x).rshr = s.rshr := rfl
@[simp] theorem State.setBank_invals (s : State) (c b : Nat) (x : Bank) : (s.setBank c b x).invals = s.invals := rfl
@[simp] theorem State.setBank_recalls (s : State) (c b : Nat) (x : Bank) : (s.setBank c b x).recalls = s.recalls := rfl
@[simp] theorem State.setBank_walkData (s : State) (c b : Nat) (x : Bank) : (s.setBank c b x).walkData = s.walkData := rfl
@[simp] theorem State.setBank_touched (s : State) (c b : Nat) (x : Bank) : (s.setBank c b x).touched = s.touched := rfl
@[simp] theorem State.setBank_hctrs (s : State) (c b : Nat) (x : Bank) : (s.setBank c b x).hctrs = s.hctrs := rfl
@[simp] theorem State.setBank_bar (s : State) (c b : Nat) (x : Bank) : (s.setBank c b x).bar = s.bar := rfl
@[simp] theorem State.setBank_sched (s : State) (c b : Nat) (x : Bank) : (s.setBank c b x).sched = s.sched := rfl
@[simp] theorem State.setBank_fen (s : State) (c b : Nat) (x : Bank) : (s.setBank c b x).fen = s.fen := rfl
@[simp] theorem State.setBank_flash (s : State) (c b : Nat) (x : Bank) : (s.setBank c b x).flash = s.flash := rfl
@[simp] theorem State.setBank_power (s : State) (c b : Nat) (x : Bank) : (s.setBank c b x).power = s.power := rfl
@[simp] theorem State.setBank_hostq (s : State) (c b : Nat) (x : Bank) : (s.setBank c b x).hostq = s.hostq := rfl
@[simp] theorem State.setBank_hostReq (s : State) (c b : Nat) (x : Bank) : (s.setBank c b x).hostReq = s.hostReq := rfl
@[simp] theorem State.setBank_hostGot (s : State) (c b : Nat) (x : Bank) : (s.setBank c b x).hostGot = s.hostGot := rfl
@[simp] theorem State.setBank_remoteQ (s : State) (c b : Nat) (x : Bank) : (s.setBank c b x).remoteQ = s.remoteQ := rfl
@[simp] theorem State.setBank_out (s : State) (c b : Nat) (x : Bank) : (s.setBank c b x).out = s.out := rfl
@[simp] theorem State.setBank_firsts (s : State) (c b : Nat) (x : Bank) : (s.setBank c b x).firsts = s.firsts := rfl
@[simp] theorem State.setBank_late (s : State) (c b : Nat) (x : Bank) : (s.setBank c b x).late = s.late := rfl
@[simp] theorem State.setBank_heldOut (s : State) (c b : Nat) (x : Bank) : (s.setBank c b x).heldOut = s.heldOut := rfl
@[simp] theorem State.setBank_finds (s : State) (c b : Nat) (x : Bank) : (s.setBank c b x).finds = s.finds := rfl

@[simp] theorem State.setGang_agenda (s : State) (c g : Nat) (x : Gang) : (s.setGang c g x).agenda = s.agenda := rfl
@[simp] theorem State.setGang_actCore (s : State) (c g : Nat) (x : Gang) : (s.setGang c g x).actCore = s.actCore := rfl
@[simp] theorem State.setGang_actBank (s : State) (c g : Nat) (x : Gang) : (s.setGang c g x).actBank = s.actBank := rfl
@[simp] theorem State.setGang_actGang (s : State) (c g : Nat) (x : Gang) : (s.setGang c g x).actGang = s.actGang := rfl
@[simp] theorem State.setGang_actLen (s : State) (c g : Nat) (x : Gang) : (s.setGang c g x).actLen = s.actLen := rfl
@[simp] theorem State.setGang_stepwise (s : State) (c g : Nat) (x : Gang) : (s.setGang c g x).stepwise = s.stepwise := rfl
@[simp] theorem State.setGang_rr (s : State) (c g : Nat) (x : Gang) : (s.setGang c g x).rr = s.rr := rfl
@[simp] theorem State.setGang_draws (s : State) (c g : Nat) (x : Gang) : (s.setGang c g x).draws = s.draws := rfl
@[simp] theorem State.setGang_now (s : State) (c g : Nat) (x : Gang) : (s.setGang c g x).now = s.now := rfl
@[simp] theorem State.setGang_mem (s : State) (c g : Nat) (x : Gang) : (s.setGang c g x).mem = s.mem := rfl
@[simp] theorem State.setGang_side (s : State) (c g : Nat) (x : Gang) : (s.setGang c g x).side = s.side := rfl
@[simp] theorem State.setGang_msc (s : State) (c g : Nat) (x : Gang) : (s.setGang c g x).msc = s.msc := rfl
@[simp] theorem State.setGang_rlines (s : State) (c g : Nat) (x : Gang) : (s.setGang c g x).rlines = s.rlines := rfl
@[simp] theorem State.setGang_remoteResv (s : State) (c g : Nat) (x : Gang) : (s.setGang c g x).remoteResv = s.remoteResv := rfl
@[simp] theorem State.setGang_rown (s : State) (c g : Nat) (x : Gang) : (s.setGang c g x).rown = s.rown := rfl
@[simp] theorem State.setGang_rshr (s : State) (c g : Nat) (x : Gang) : (s.setGang c g x).rshr = s.rshr := rfl
@[simp] theorem State.setGang_invals (s : State) (c g : Nat) (x : Gang) : (s.setGang c g x).invals = s.invals := rfl
@[simp] theorem State.setGang_recalls (s : State) (c g : Nat) (x : Gang) : (s.setGang c g x).recalls = s.recalls := rfl
@[simp] theorem State.setGang_walkData (s : State) (c g : Nat) (x : Gang) : (s.setGang c g x).walkData = s.walkData := rfl
@[simp] theorem State.setGang_touched (s : State) (c g : Nat) (x : Gang) : (s.setGang c g x).touched = s.touched := rfl
@[simp] theorem State.setGang_hctrs (s : State) (c g : Nat) (x : Gang) : (s.setGang c g x).hctrs = s.hctrs := rfl
@[simp] theorem State.setGang_bar (s : State) (c g : Nat) (x : Gang) : (s.setGang c g x).bar = s.bar := rfl
@[simp] theorem State.setGang_sched (s : State) (c g : Nat) (x : Gang) : (s.setGang c g x).sched = s.sched := rfl
@[simp] theorem State.setGang_fen (s : State) (c g : Nat) (x : Gang) : (s.setGang c g x).fen = s.fen := rfl
@[simp] theorem State.setGang_flash (s : State) (c g : Nat) (x : Gang) : (s.setGang c g x).flash = s.flash := rfl
@[simp] theorem State.setGang_power (s : State) (c g : Nat) (x : Gang) : (s.setGang c g x).power = s.power := rfl
@[simp] theorem State.setGang_hostq (s : State) (c g : Nat) (x : Gang) : (s.setGang c g x).hostq = s.hostq := rfl
@[simp] theorem State.setGang_hostReq (s : State) (c g : Nat) (x : Gang) : (s.setGang c g x).hostReq = s.hostReq := rfl
@[simp] theorem State.setGang_hostGot (s : State) (c g : Nat) (x : Gang) : (s.setGang c g x).hostGot = s.hostGot := rfl
@[simp] theorem State.setGang_remoteQ (s : State) (c g : Nat) (x : Gang) : (s.setGang c g x).remoteQ = s.remoteQ := rfl
@[simp] theorem State.setGang_out (s : State) (c g : Nat) (x : Gang) : (s.setGang c g x).out = s.out := rfl
@[simp] theorem State.setGang_firsts (s : State) (c g : Nat) (x : Gang) : (s.setGang c g x).firsts = s.firsts := rfl
@[simp] theorem State.setGang_late (s : State) (c g : Nat) (x : Gang) : (s.setGang c g x).late = s.late := rfl
@[simp] theorem State.setGang_heldOut (s : State) (c g : Nat) (x : Gang) : (s.setGang c g x).heldOut = s.heldOut := rfl
@[simp] theorem State.setGang_finds (s : State) (c g : Nat) (x : Gang) : (s.setGang c g x).finds = s.finds := rfl

@[simp] theorem State.setTile_agenda (s : State) (c q : Nat) (x : Tile) : (s.setTile c q x).agenda = s.agenda := rfl
@[simp] theorem State.setTile_actCore (s : State) (c q : Nat) (x : Tile) : (s.setTile c q x).actCore = s.actCore := rfl
@[simp] theorem State.setTile_actBank (s : State) (c q : Nat) (x : Tile) : (s.setTile c q x).actBank = s.actBank := rfl
@[simp] theorem State.setTile_actGang (s : State) (c q : Nat) (x : Tile) : (s.setTile c q x).actGang = s.actGang := rfl
@[simp] theorem State.setTile_actLen (s : State) (c q : Nat) (x : Tile) : (s.setTile c q x).actLen = s.actLen := rfl
@[simp] theorem State.setTile_stepwise (s : State) (c q : Nat) (x : Tile) : (s.setTile c q x).stepwise = s.stepwise := rfl
@[simp] theorem State.setTile_rr (s : State) (c q : Nat) (x : Tile) : (s.setTile c q x).rr = s.rr := rfl
@[simp] theorem State.setTile_draws (s : State) (c q : Nat) (x : Tile) : (s.setTile c q x).draws = s.draws := rfl
@[simp] theorem State.setTile_now (s : State) (c q : Nat) (x : Tile) : (s.setTile c q x).now = s.now := rfl
@[simp] theorem State.setTile_mem (s : State) (c q : Nat) (x : Tile) : (s.setTile c q x).mem = s.mem := rfl
@[simp] theorem State.setTile_side (s : State) (c q : Nat) (x : Tile) : (s.setTile c q x).side = s.side := rfl
@[simp] theorem State.setTile_msc (s : State) (c q : Nat) (x : Tile) : (s.setTile c q x).msc = s.msc := rfl
@[simp] theorem State.setTile_rlines (s : State) (c q : Nat) (x : Tile) : (s.setTile c q x).rlines = s.rlines := rfl
@[simp] theorem State.setTile_remoteResv (s : State) (c q : Nat) (x : Tile) : (s.setTile c q x).remoteResv = s.remoteResv := rfl
@[simp] theorem State.setTile_rown (s : State) (c q : Nat) (x : Tile) : (s.setTile c q x).rown = s.rown := rfl
@[simp] theorem State.setTile_rshr (s : State) (c q : Nat) (x : Tile) : (s.setTile c q x).rshr = s.rshr := rfl
@[simp] theorem State.setTile_invals (s : State) (c q : Nat) (x : Tile) : (s.setTile c q x).invals = s.invals := rfl
@[simp] theorem State.setTile_recalls (s : State) (c q : Nat) (x : Tile) : (s.setTile c q x).recalls = s.recalls := rfl
@[simp] theorem State.setTile_walkData (s : State) (c q : Nat) (x : Tile) : (s.setTile c q x).walkData = s.walkData := rfl
@[simp] theorem State.setTile_touched (s : State) (c q : Nat) (x : Tile) : (s.setTile c q x).touched = s.touched := rfl
@[simp] theorem State.setTile_hctrs (s : State) (c q : Nat) (x : Tile) : (s.setTile c q x).hctrs = s.hctrs := rfl
@[simp] theorem State.setTile_bar (s : State) (c q : Nat) (x : Tile) : (s.setTile c q x).bar = s.bar := rfl
@[simp] theorem State.setTile_sched (s : State) (c q : Nat) (x : Tile) : (s.setTile c q x).sched = s.sched := rfl
@[simp] theorem State.setTile_fen (s : State) (c q : Nat) (x : Tile) : (s.setTile c q x).fen = s.fen := rfl
@[simp] theorem State.setTile_flash (s : State) (c q : Nat) (x : Tile) : (s.setTile c q x).flash = s.flash := rfl
@[simp] theorem State.setTile_power (s : State) (c q : Nat) (x : Tile) : (s.setTile c q x).power = s.power := rfl
@[simp] theorem State.setTile_hostq (s : State) (c q : Nat) (x : Tile) : (s.setTile c q x).hostq = s.hostq := rfl
@[simp] theorem State.setTile_hostReq (s : State) (c q : Nat) (x : Tile) : (s.setTile c q x).hostReq = s.hostReq := rfl
@[simp] theorem State.setTile_hostGot (s : State) (c q : Nat) (x : Tile) : (s.setTile c q x).hostGot = s.hostGot := rfl
@[simp] theorem State.setTile_remoteQ (s : State) (c q : Nat) (x : Tile) : (s.setTile c q x).remoteQ = s.remoteQ := rfl
@[simp] theorem State.setTile_out (s : State) (c q : Nat) (x : Tile) : (s.setTile c q x).out = s.out := rfl
@[simp] theorem State.setTile_firsts (s : State) (c q : Nat) (x : Tile) : (s.setTile c q x).firsts = s.firsts := rfl
@[simp] theorem State.setTile_late (s : State) (c q : Nat) (x : Tile) : (s.setTile c q x).late = s.late := rfl
@[simp] theorem State.setTile_heldOut (s : State) (c q : Nat) (x : Tile) : (s.setTile c q x).heldOut = s.heldOut := rfl
@[simp] theorem State.setTile_finds (s : State) (c q : Nat) (x : Tile) : (s.setTile c q x).finds = s.finds := rfl

@[simp] theorem State.setReg_agenda (s : State) (c b r : Nat) (x : VReg) : (s.setReg c b r x).agenda = s.agenda := rfl
@[simp] theorem State.setReg_actCore (s : State) (c b r : Nat) (x : VReg) : (s.setReg c b r x).actCore = s.actCore := rfl
@[simp] theorem State.setReg_actBank (s : State) (c b r : Nat) (x : VReg) : (s.setReg c b r x).actBank = s.actBank := rfl
@[simp] theorem State.setReg_actGang (s : State) (c b r : Nat) (x : VReg) : (s.setReg c b r x).actGang = s.actGang := rfl
@[simp] theorem State.setReg_actLen (s : State) (c b r : Nat) (x : VReg) : (s.setReg c b r x).actLen = s.actLen := rfl
@[simp] theorem State.setReg_stepwise (s : State) (c b r : Nat) (x : VReg) : (s.setReg c b r x).stepwise = s.stepwise := rfl
@[simp] theorem State.setReg_rr (s : State) (c b r : Nat) (x : VReg) : (s.setReg c b r x).rr = s.rr := rfl
@[simp] theorem State.setReg_draws (s : State) (c b r : Nat) (x : VReg) : (s.setReg c b r x).draws = s.draws := rfl
@[simp] theorem State.setReg_now (s : State) (c b r : Nat) (x : VReg) : (s.setReg c b r x).now = s.now := rfl
@[simp] theorem State.setReg_mem (s : State) (c b r : Nat) (x : VReg) : (s.setReg c b r x).mem = s.mem := rfl
@[simp] theorem State.setReg_side (s : State) (c b r : Nat) (x : VReg) : (s.setReg c b r x).side = s.side := rfl
@[simp] theorem State.setReg_msc (s : State) (c b r : Nat) (x : VReg) : (s.setReg c b r x).msc = s.msc := rfl
@[simp] theorem State.setReg_rlines (s : State) (c b r : Nat) (x : VReg) : (s.setReg c b r x).rlines = s.rlines := rfl
@[simp] theorem State.setReg_remoteResv (s : State) (c b r : Nat) (x : VReg) : (s.setReg c b r x).remoteResv = s.remoteResv := rfl
@[simp] theorem State.setReg_rown (s : State) (c b r : Nat) (x : VReg) : (s.setReg c b r x).rown = s.rown := rfl
@[simp] theorem State.setReg_rshr (s : State) (c b r : Nat) (x : VReg) : (s.setReg c b r x).rshr = s.rshr := rfl
@[simp] theorem State.setReg_invals (s : State) (c b r : Nat) (x : VReg) : (s.setReg c b r x).invals = s.invals := rfl
@[simp] theorem State.setReg_recalls (s : State) (c b r : Nat) (x : VReg) : (s.setReg c b r x).recalls = s.recalls := rfl
@[simp] theorem State.setReg_walkData (s : State) (c b r : Nat) (x : VReg) : (s.setReg c b r x).walkData = s.walkData := rfl
@[simp] theorem State.setReg_touched (s : State) (c b r : Nat) (x : VReg) : (s.setReg c b r x).touched = s.touched := rfl
@[simp] theorem State.setReg_hctrs (s : State) (c b r : Nat) (x : VReg) : (s.setReg c b r x).hctrs = s.hctrs := rfl
@[simp] theorem State.setReg_bar (s : State) (c b r : Nat) (x : VReg) : (s.setReg c b r x).bar = s.bar := rfl
@[simp] theorem State.setReg_sched (s : State) (c b r : Nat) (x : VReg) : (s.setReg c b r x).sched = s.sched := rfl
@[simp] theorem State.setReg_fen (s : State) (c b r : Nat) (x : VReg) : (s.setReg c b r x).fen = s.fen := rfl
@[simp] theorem State.setReg_flash (s : State) (c b r : Nat) (x : VReg) : (s.setReg c b r x).flash = s.flash := rfl
@[simp] theorem State.setReg_power (s : State) (c b r : Nat) (x : VReg) : (s.setReg c b r x).power = s.power := rfl
@[simp] theorem State.setReg_hostq (s : State) (c b r : Nat) (x : VReg) : (s.setReg c b r x).hostq = s.hostq := rfl
@[simp] theorem State.setReg_hostReq (s : State) (c b r : Nat) (x : VReg) : (s.setReg c b r x).hostReq = s.hostReq := rfl
@[simp] theorem State.setReg_hostGot (s : State) (c b r : Nat) (x : VReg) : (s.setReg c b r x).hostGot = s.hostGot := rfl
@[simp] theorem State.setReg_remoteQ (s : State) (c b r : Nat) (x : VReg) : (s.setReg c b r x).remoteQ = s.remoteQ := rfl
@[simp] theorem State.setReg_out (s : State) (c b r : Nat) (x : VReg) : (s.setReg c b r x).out = s.out := rfl
@[simp] theorem State.setReg_firsts (s : State) (c b r : Nat) (x : VReg) : (s.setReg c b r x).firsts = s.firsts := rfl
@[simp] theorem State.setReg_late (s : State) (c b r : Nat) (x : VReg) : (s.setReg c b r x).late = s.late := rfl
@[simp] theorem State.setReg_heldOut (s : State) (c b r : Nat) (x : VReg) : (s.setReg c b r x).heldOut = s.heldOut := rfl
@[simp] theorem State.setReg_finds (s : State) (c b r : Nat) (x : VReg) : (s.setReg c b r x).finds = s.finds := rfl

@[simp] theorem State.setCt_agenda (s : State) (c : Nat) (x : Ct) : (s.setCt c x).agenda = s.agenda := rfl
@[simp] theorem State.setCt_actCore (s : State) (c : Nat) (x : Ct) : (s.setCt c x).actCore = s.actCore := rfl
@[simp] theorem State.setCt_actBank (s : State) (c : Nat) (x : Ct) : (s.setCt c x).actBank = s.actBank := rfl
@[simp] theorem State.setCt_actGang (s : State) (c : Nat) (x : Ct) : (s.setCt c x).actGang = s.actGang := rfl
@[simp] theorem State.setCt_actLen (s : State) (c : Nat) (x : Ct) : (s.setCt c x).actLen = s.actLen := rfl
@[simp] theorem State.setCt_stepwise (s : State) (c : Nat) (x : Ct) : (s.setCt c x).stepwise = s.stepwise := rfl
@[simp] theorem State.setCt_rr (s : State) (c : Nat) (x : Ct) : (s.setCt c x).rr = s.rr := rfl
@[simp] theorem State.setCt_draws (s : State) (c : Nat) (x : Ct) : (s.setCt c x).draws = s.draws := rfl
@[simp] theorem State.setCt_now (s : State) (c : Nat) (x : Ct) : (s.setCt c x).now = s.now := rfl
@[simp] theorem State.setCt_mem (s : State) (c : Nat) (x : Ct) : (s.setCt c x).mem = s.mem := rfl
@[simp] theorem State.setCt_side (s : State) (c : Nat) (x : Ct) : (s.setCt c x).side = s.side := rfl
@[simp] theorem State.setCt_msc (s : State) (c : Nat) (x : Ct) : (s.setCt c x).msc = s.msc := rfl
@[simp] theorem State.setCt_rlines (s : State) (c : Nat) (x : Ct) : (s.setCt c x).rlines = s.rlines := rfl
@[simp] theorem State.setCt_remoteResv (s : State) (c : Nat) (x : Ct) : (s.setCt c x).remoteResv = s.remoteResv := rfl
@[simp] theorem State.setCt_rown (s : State) (c : Nat) (x : Ct) : (s.setCt c x).rown = s.rown := rfl
@[simp] theorem State.setCt_rshr (s : State) (c : Nat) (x : Ct) : (s.setCt c x).rshr = s.rshr := rfl
@[simp] theorem State.setCt_invals (s : State) (c : Nat) (x : Ct) : (s.setCt c x).invals = s.invals := rfl
@[simp] theorem State.setCt_recalls (s : State) (c : Nat) (x : Ct) : (s.setCt c x).recalls = s.recalls := rfl
@[simp] theorem State.setCt_walkData (s : State) (c : Nat) (x : Ct) : (s.setCt c x).walkData = s.walkData := rfl
@[simp] theorem State.setCt_touched (s : State) (c : Nat) (x : Ct) : (s.setCt c x).touched = s.touched := rfl
@[simp] theorem State.setCt_hctrs (s : State) (c : Nat) (x : Ct) : (s.setCt c x).hctrs = s.hctrs := rfl
@[simp] theorem State.setCt_bar (s : State) (c : Nat) (x : Ct) : (s.setCt c x).bar = s.bar := rfl
@[simp] theorem State.setCt_sched (s : State) (c : Nat) (x : Ct) : (s.setCt c x).sched = s.sched := rfl
@[simp] theorem State.setCt_fen (s : State) (c : Nat) (x : Ct) : (s.setCt c x).fen = s.fen := rfl
@[simp] theorem State.setCt_flash (s : State) (c : Nat) (x : Ct) : (s.setCt c x).flash = s.flash := rfl
@[simp] theorem State.setCt_power (s : State) (c : Nat) (x : Ct) : (s.setCt c x).power = s.power := rfl
@[simp] theorem State.setCt_hostq (s : State) (c : Nat) (x : Ct) : (s.setCt c x).hostq = s.hostq := rfl
@[simp] theorem State.setCt_hostReq (s : State) (c : Nat) (x : Ct) : (s.setCt c x).hostReq = s.hostReq := rfl
@[simp] theorem State.setCt_hostGot (s : State) (c : Nat) (x : Ct) : (s.setCt c x).hostGot = s.hostGot := rfl
@[simp] theorem State.setCt_remoteQ (s : State) (c : Nat) (x : Ct) : (s.setCt c x).remoteQ = s.remoteQ := rfl
@[simp] theorem State.setCt_out (s : State) (c : Nat) (x : Ct) : (s.setCt c x).out = s.out := rfl
@[simp] theorem State.setCt_firsts (s : State) (c : Nat) (x : Ct) : (s.setCt c x).firsts = s.firsts := rfl
@[simp] theorem State.setCt_late (s : State) (c : Nat) (x : Ct) : (s.setCt c x).late = s.late := rfl
@[simp] theorem State.setCt_heldOut (s : State) (c : Nat) (x : Ct) : (s.setCt c x).heldOut = s.heldOut := rfl
@[simp] theorem State.setCt_finds (s : State) (c : Nat) (x : Ct) : (s.setCt c x).finds = s.finds := rfl

@[simp] theorem State.setCluster_agenda (s : State) (n : Nat) (x : Cluster) : (s.setCluster n x).agenda = s.agenda := rfl
@[simp] theorem State.setCluster_actCore (s : State) (n : Nat) (x : Cluster) : (s.setCluster n x).actCore = s.actCore := rfl
@[simp] theorem State.setCluster_actBank (s : State) (n : Nat) (x : Cluster) : (s.setCluster n x).actBank = s.actBank := rfl
@[simp] theorem State.setCluster_actGang (s : State) (n : Nat) (x : Cluster) : (s.setCluster n x).actGang = s.actGang := rfl
@[simp] theorem State.setCluster_actLen (s : State) (n : Nat) (x : Cluster) : (s.setCluster n x).actLen = s.actLen := rfl
@[simp] theorem State.setCluster_stepwise (s : State) (n : Nat) (x : Cluster) : (s.setCluster n x).stepwise = s.stepwise := rfl
@[simp] theorem State.setCluster_rr (s : State) (n : Nat) (x : Cluster) : (s.setCluster n x).rr = s.rr := rfl
@[simp] theorem State.setCluster_draws (s : State) (n : Nat) (x : Cluster) : (s.setCluster n x).draws = s.draws := rfl
@[simp] theorem State.setCluster_now (s : State) (n : Nat) (x : Cluster) : (s.setCluster n x).now = s.now := rfl
@[simp] theorem State.setCluster_mem (s : State) (n : Nat) (x : Cluster) : (s.setCluster n x).mem = s.mem := rfl
@[simp] theorem State.setCluster_side (s : State) (n : Nat) (x : Cluster) : (s.setCluster n x).side = s.side := rfl
@[simp] theorem State.setCluster_msc (s : State) (n : Nat) (x : Cluster) : (s.setCluster n x).msc = s.msc := rfl
@[simp] theorem State.setCluster_rlines (s : State) (n : Nat) (x : Cluster) : (s.setCluster n x).rlines = s.rlines := rfl
@[simp] theorem State.setCluster_remoteResv (s : State) (n : Nat) (x : Cluster) : (s.setCluster n x).remoteResv = s.remoteResv := rfl
@[simp] theorem State.setCluster_rown (s : State) (n : Nat) (x : Cluster) : (s.setCluster n x).rown = s.rown := rfl
@[simp] theorem State.setCluster_rshr (s : State) (n : Nat) (x : Cluster) : (s.setCluster n x).rshr = s.rshr := rfl
@[simp] theorem State.setCluster_invals (s : State) (n : Nat) (x : Cluster) : (s.setCluster n x).invals = s.invals := rfl
@[simp] theorem State.setCluster_recalls (s : State) (n : Nat) (x : Cluster) : (s.setCluster n x).recalls = s.recalls := rfl
@[simp] theorem State.setCluster_walkData (s : State) (n : Nat) (x : Cluster) : (s.setCluster n x).walkData = s.walkData := rfl
@[simp] theorem State.setCluster_touched (s : State) (n : Nat) (x : Cluster) : (s.setCluster n x).touched = s.touched := rfl
@[simp] theorem State.setCluster_cores (s : State) (n : Nat) (x : Cluster) : (s.setCluster n x).cores = s.cores := rfl
@[simp] theorem State.setCluster_hctrs (s : State) (n : Nat) (x : Cluster) : (s.setCluster n x).hctrs = s.hctrs := rfl
@[simp] theorem State.setCluster_bar (s : State) (n : Nat) (x : Cluster) : (s.setCluster n x).bar = s.bar := rfl
@[simp] theorem State.setCluster_sched (s : State) (n : Nat) (x : Cluster) : (s.setCluster n x).sched = s.sched := rfl
@[simp] theorem State.setCluster_fen (s : State) (n : Nat) (x : Cluster) : (s.setCluster n x).fen = s.fen := rfl
@[simp] theorem State.setCluster_flash (s : State) (n : Nat) (x : Cluster) : (s.setCluster n x).flash = s.flash := rfl
@[simp] theorem State.setCluster_hostq (s : State) (n : Nat) (x : Cluster) : (s.setCluster n x).hostq = s.hostq := rfl
@[simp] theorem State.setCluster_hostReq (s : State) (n : Nat) (x : Cluster) : (s.setCluster n x).hostReq = s.hostReq := rfl
@[simp] theorem State.setCluster_hostGot (s : State) (n : Nat) (x : Cluster) : (s.setCluster n x).hostGot = s.hostGot := rfl
@[simp] theorem State.setCluster_remoteQ (s : State) (n : Nat) (x : Cluster) : (s.setCluster n x).remoteQ = s.remoteQ := rfl
@[simp] theorem State.setCluster_out (s : State) (n : Nat) (x : Cluster) : (s.setCluster n x).out = s.out := rfl
@[simp] theorem State.setCluster_firsts (s : State) (n : Nat) (x : Cluster) : (s.setCluster n x).firsts = s.firsts := rfl
@[simp] theorem State.setCluster_late (s : State) (n : Nat) (x : Cluster) : (s.setCluster n x).late = s.late := rfl
@[simp] theorem State.setCluster_heldOut (s : State) (n : Nat) (x : Cluster) : (s.setCluster n x).heldOut = s.heldOut := rfl
@[simp] theorem State.setCluster_finds (s : State) (n : Nat) (x : Cluster) : (s.setCluster n x).finds = s.finds := rfl

@[simp] theorem State.setLayer_agenda (s : State) (n : Nat) (x : Layer) : (s.setLayer n x).agenda = s.agenda := rfl
@[simp] theorem State.setLayer_actCore (s : State) (n : Nat) (x : Layer) : (s.setLayer n x).actCore = s.actCore := rfl
@[simp] theorem State.setLayer_actBank (s : State) (n : Nat) (x : Layer) : (s.setLayer n x).actBank = s.actBank := rfl
@[simp] theorem State.setLayer_actGang (s : State) (n : Nat) (x : Layer) : (s.setLayer n x).actGang = s.actGang := rfl
@[simp] theorem State.setLayer_actLen (s : State) (n : Nat) (x : Layer) : (s.setLayer n x).actLen = s.actLen := rfl
@[simp] theorem State.setLayer_stepwise (s : State) (n : Nat) (x : Layer) : (s.setLayer n x).stepwise = s.stepwise := rfl
@[simp] theorem State.setLayer_rr (s : State) (n : Nat) (x : Layer) : (s.setLayer n x).rr = s.rr := rfl
@[simp] theorem State.setLayer_draws (s : State) (n : Nat) (x : Layer) : (s.setLayer n x).draws = s.draws := rfl
@[simp] theorem State.setLayer_now (s : State) (n : Nat) (x : Layer) : (s.setLayer n x).now = s.now := rfl
@[simp] theorem State.setLayer_mem (s : State) (n : Nat) (x : Layer) : (s.setLayer n x).mem = s.mem := rfl
@[simp] theorem State.setLayer_side (s : State) (n : Nat) (x : Layer) : (s.setLayer n x).side = s.side := rfl
@[simp] theorem State.setLayer_msc (s : State) (n : Nat) (x : Layer) : (s.setLayer n x).msc = s.msc := rfl
@[simp] theorem State.setLayer_rlines (s : State) (n : Nat) (x : Layer) : (s.setLayer n x).rlines = s.rlines := rfl
@[simp] theorem State.setLayer_remoteResv (s : State) (n : Nat) (x : Layer) : (s.setLayer n x).remoteResv = s.remoteResv := rfl
@[simp] theorem State.setLayer_rown (s : State) (n : Nat) (x : Layer) : (s.setLayer n x).rown = s.rown := rfl
@[simp] theorem State.setLayer_rshr (s : State) (n : Nat) (x : Layer) : (s.setLayer n x).rshr = s.rshr := rfl
@[simp] theorem State.setLayer_invals (s : State) (n : Nat) (x : Layer) : (s.setLayer n x).invals = s.invals := rfl
@[simp] theorem State.setLayer_recalls (s : State) (n : Nat) (x : Layer) : (s.setLayer n x).recalls = s.recalls := rfl
@[simp] theorem State.setLayer_walkData (s : State) (n : Nat) (x : Layer) : (s.setLayer n x).walkData = s.walkData := rfl
@[simp] theorem State.setLayer_touched (s : State) (n : Nat) (x : Layer) : (s.setLayer n x).touched = s.touched := rfl
@[simp] theorem State.setLayer_cores (s : State) (n : Nat) (x : Layer) : (s.setLayer n x).cores = s.cores := rfl
@[simp] theorem State.setLayer_hctrs (s : State) (n : Nat) (x : Layer) : (s.setLayer n x).hctrs = s.hctrs := rfl
@[simp] theorem State.setLayer_bar (s : State) (n : Nat) (x : Layer) : (s.setLayer n x).bar = s.bar := rfl
@[simp] theorem State.setLayer_sched (s : State) (n : Nat) (x : Layer) : (s.setLayer n x).sched = s.sched := rfl
@[simp] theorem State.setLayer_fen (s : State) (n : Nat) (x : Layer) : (s.setLayer n x).fen = s.fen := rfl
@[simp] theorem State.setLayer_power (s : State) (n : Nat) (x : Layer) : (s.setLayer n x).power = s.power := rfl
@[simp] theorem State.setLayer_hostq (s : State) (n : Nat) (x : Layer) : (s.setLayer n x).hostq = s.hostq := rfl
@[simp] theorem State.setLayer_hostReq (s : State) (n : Nat) (x : Layer) : (s.setLayer n x).hostReq = s.hostReq := rfl
@[simp] theorem State.setLayer_hostGot (s : State) (n : Nat) (x : Layer) : (s.setLayer n x).hostGot = s.hostGot := rfl
@[simp] theorem State.setLayer_remoteQ (s : State) (n : Nat) (x : Layer) : (s.setLayer n x).remoteQ = s.remoteQ := rfl
@[simp] theorem State.setLayer_out (s : State) (n : Nat) (x : Layer) : (s.setLayer n x).out = s.out := rfl
@[simp] theorem State.setLayer_firsts (s : State) (n : Nat) (x : Layer) : (s.setLayer n x).firsts = s.firsts := rfl
@[simp] theorem State.setLayer_late (s : State) (n : Nat) (x : Layer) : (s.setLayer n x).late = s.late := rfl
@[simp] theorem State.setLayer_heldOut (s : State) (n : Nat) (x : Layer) : (s.setLayer n x).heldOut = s.heldOut := rfl
@[simp] theorem State.setLayer_finds (s : State) (n : Nat) (x : Layer) : (s.setLayer n x).finds = s.finds := rfl

@[simp] theorem State.setQ_agenda (s : State) (q : Nat) (x : QBlock) : (s.setQ q x).agenda = s.agenda := rfl
@[simp] theorem State.setQ_actCore (s : State) (q : Nat) (x : QBlock) : (s.setQ q x).actCore = s.actCore := rfl
@[simp] theorem State.setQ_actBank (s : State) (q : Nat) (x : QBlock) : (s.setQ q x).actBank = s.actBank := rfl
@[simp] theorem State.setQ_actGang (s : State) (q : Nat) (x : QBlock) : (s.setQ q x).actGang = s.actGang := rfl
@[simp] theorem State.setQ_actLen (s : State) (q : Nat) (x : QBlock) : (s.setQ q x).actLen = s.actLen := rfl
@[simp] theorem State.setQ_stepwise (s : State) (q : Nat) (x : QBlock) : (s.setQ q x).stepwise = s.stepwise := rfl
@[simp] theorem State.setQ_rr (s : State) (q : Nat) (x : QBlock) : (s.setQ q x).rr = s.rr := rfl
@[simp] theorem State.setQ_draws (s : State) (q : Nat) (x : QBlock) : (s.setQ q x).draws = s.draws := rfl
@[simp] theorem State.setQ_now (s : State) (q : Nat) (x : QBlock) : (s.setQ q x).now = s.now := rfl
@[simp] theorem State.setQ_mem (s : State) (q : Nat) (x : QBlock) : (s.setQ q x).mem = s.mem := rfl
@[simp] theorem State.setQ_side (s : State) (q : Nat) (x : QBlock) : (s.setQ q x).side = s.side := rfl
@[simp] theorem State.setQ_msc (s : State) (q : Nat) (x : QBlock) : (s.setQ q x).msc = s.msc := rfl
@[simp] theorem State.setQ_rlines (s : State) (q : Nat) (x : QBlock) : (s.setQ q x).rlines = s.rlines := rfl
@[simp] theorem State.setQ_remoteResv (s : State) (q : Nat) (x : QBlock) : (s.setQ q x).remoteResv = s.remoteResv := rfl
@[simp] theorem State.setQ_rown (s : State) (q : Nat) (x : QBlock) : (s.setQ q x).rown = s.rown := rfl
@[simp] theorem State.setQ_rshr (s : State) (q : Nat) (x : QBlock) : (s.setQ q x).rshr = s.rshr := rfl
@[simp] theorem State.setQ_invals (s : State) (q : Nat) (x : QBlock) : (s.setQ q x).invals = s.invals := rfl
@[simp] theorem State.setQ_recalls (s : State) (q : Nat) (x : QBlock) : (s.setQ q x).recalls = s.recalls := rfl
@[simp] theorem State.setQ_walkData (s : State) (q : Nat) (x : QBlock) : (s.setQ q x).walkData = s.walkData := rfl
@[simp] theorem State.setQ_touched (s : State) (q : Nat) (x : QBlock) : (s.setQ q x).touched = s.touched := rfl
@[simp] theorem State.setQ_cores (s : State) (q : Nat) (x : QBlock) : (s.setQ q x).cores = s.cores := rfl
@[simp] theorem State.setQ_hctrs (s : State) (q : Nat) (x : QBlock) : (s.setQ q x).hctrs = s.hctrs := rfl
@[simp] theorem State.setQ_sched (s : State) (q : Nat) (x : QBlock) : (s.setQ q x).sched = s.sched := rfl
@[simp] theorem State.setQ_fen (s : State) (q : Nat) (x : QBlock) : (s.setQ q x).fen = s.fen := rfl
@[simp] theorem State.setQ_flash (s : State) (q : Nat) (x : QBlock) : (s.setQ q x).flash = s.flash := rfl
@[simp] theorem State.setQ_power (s : State) (q : Nat) (x : QBlock) : (s.setQ q x).power = s.power := rfl
@[simp] theorem State.setQ_hostq (s : State) (q : Nat) (x : QBlock) : (s.setQ q x).hostq = s.hostq := rfl
@[simp] theorem State.setQ_hostReq (s : State) (q : Nat) (x : QBlock) : (s.setQ q x).hostReq = s.hostReq := rfl
@[simp] theorem State.setQ_hostGot (s : State) (q : Nat) (x : QBlock) : (s.setQ q x).hostGot = s.hostGot := rfl
@[simp] theorem State.setQ_remoteQ (s : State) (q : Nat) (x : QBlock) : (s.setQ q x).remoteQ = s.remoteQ := rfl
@[simp] theorem State.setQ_out (s : State) (q : Nat) (x : QBlock) : (s.setQ q x).out = s.out := rfl
@[simp] theorem State.setQ_firsts (s : State) (q : Nat) (x : QBlock) : (s.setQ q x).firsts = s.firsts := rfl
@[simp] theorem State.setQ_late (s : State) (q : Nat) (x : QBlock) : (s.setQ q x).late = s.late := rfl
@[simp] theorem State.setQ_heldOut (s : State) (q : Nat) (x : QBlock) : (s.setQ q x).heldOut = s.heldOut := rfl
@[simp] theorem State.setQ_finds (s : State) (q : Nat) (x : QBlock) : (s.setQ q x).finds = s.finds := rfl

@[simp] theorem State.send_agenda (s : State) (m : Out) : (s.send m).agenda = s.agenda := by
  unfold State.send; split <;> rfl
@[simp] theorem State.send_actCore (s : State) (m : Out) : (s.send m).actCore = s.actCore := by
  unfold State.send; split <;> rfl
@[simp] theorem State.send_actBank (s : State) (m : Out) : (s.send m).actBank = s.actBank := by
  unfold State.send; split <;> rfl
@[simp] theorem State.send_actGang (s : State) (m : Out) : (s.send m).actGang = s.actGang := by
  unfold State.send; split <;> rfl
@[simp] theorem State.send_actLen (s : State) (m : Out) : (s.send m).actLen = s.actLen := by
  unfold State.send; split <;> rfl
@[simp] theorem State.send_stepwise (s : State) (m : Out) : (s.send m).stepwise = s.stepwise := by
  unfold State.send; split <;> rfl
@[simp] theorem State.send_rr (s : State) (m : Out) : (s.send m).rr = s.rr := by
  unfold State.send; split <;> rfl
@[simp] theorem State.send_draws (s : State) (m : Out) : (s.send m).draws = s.draws := by
  unfold State.send; split <;> rfl
@[simp] theorem State.send_now (s : State) (m : Out) : (s.send m).now = s.now := by
  unfold State.send; split <;> rfl
@[simp] theorem State.send_mem (s : State) (m : Out) : (s.send m).mem = s.mem := by
  unfold State.send; split <;> rfl
@[simp] theorem State.send_side (s : State) (m : Out) : (s.send m).side = s.side := by
  unfold State.send; split <;> rfl
@[simp] theorem State.send_msc (s : State) (m : Out) : (s.send m).msc = s.msc := by
  unfold State.send; split <;> rfl
@[simp] theorem State.send_rlines (s : State) (m : Out) : (s.send m).rlines = s.rlines := by
  unfold State.send; split <;> rfl
@[simp] theorem State.send_remoteResv (s : State) (m : Out) : (s.send m).remoteResv = s.remoteResv := by
  unfold State.send; split <;> rfl
@[simp] theorem State.send_rown (s : State) (m : Out) : (s.send m).rown = s.rown := by
  unfold State.send; split <;> rfl
@[simp] theorem State.send_rshr (s : State) (m : Out) : (s.send m).rshr = s.rshr := by
  unfold State.send; split <;> rfl
@[simp] theorem State.send_invals (s : State) (m : Out) : (s.send m).invals = s.invals := by
  unfold State.send; split <;> rfl
@[simp] theorem State.send_recalls (s : State) (m : Out) : (s.send m).recalls = s.recalls := by
  unfold State.send; split <;> rfl
@[simp] theorem State.send_walkData (s : State) (m : Out) : (s.send m).walkData = s.walkData := by
  unfold State.send; split <;> rfl
@[simp] theorem State.send_touched (s : State) (m : Out) : (s.send m).touched = s.touched := by
  unfold State.send; split <;> rfl
@[simp] theorem State.send_cores (s : State) (m : Out) : (s.send m).cores = s.cores := by
  unfold State.send; split <;> rfl
@[simp] theorem State.send_hctrs (s : State) (m : Out) : (s.send m).hctrs = s.hctrs := by
  unfold State.send; split <;> rfl
@[simp] theorem State.send_bar (s : State) (m : Out) : (s.send m).bar = s.bar := by
  unfold State.send; split <;> rfl
@[simp] theorem State.send_sched (s : State) (m : Out) : (s.send m).sched = s.sched := by
  unfold State.send; split <;> rfl
@[simp] theorem State.send_fen (s : State) (m : Out) : (s.send m).fen = s.fen := by
  unfold State.send; split <;> rfl
@[simp] theorem State.send_flash (s : State) (m : Out) : (s.send m).flash = s.flash := by
  unfold State.send; split <;> rfl
@[simp] theorem State.send_power (s : State) (m : Out) : (s.send m).power = s.power := by
  unfold State.send; split <;> rfl
@[simp] theorem State.send_hostq (s : State) (m : Out) : (s.send m).hostq = s.hostq := by
  unfold State.send; split <;> rfl
@[simp] theorem State.send_hostReq (s : State) (m : Out) : (s.send m).hostReq = s.hostReq := by
  unfold State.send; split <;> rfl
@[simp] theorem State.send_hostGot (s : State) (m : Out) : (s.send m).hostGot = s.hostGot := by
  unfold State.send; split <;> rfl
@[simp] theorem State.send_remoteQ (s : State) (m : Out) : (s.send m).remoteQ = s.remoteQ := by
  unfold State.send; split <;> rfl
@[simp] theorem State.send_firsts (s : State) (m : Out) : (s.send m).firsts = s.firsts := by
  unfold State.send; split <;> rfl
@[simp] theorem State.send_late (s : State) (m : Out) : (s.send m).late = s.late := by
  unfold State.send; split <;> rfl
@[simp] theorem State.send_finds (s : State) (m : Out) : (s.send m).finds = s.finds := by
  unfold State.send; split <;> rfl

/-! ## Fields of a core -/

@[simp] theorem Core.setHart_st (k : Core) (b : Nat) (h : Hart) : (k.setHart b h).st = k.st := rfl
@[simp] theorem Core.setHart_task (k : Core) (b : Nat) (h : Hart) : (k.setHart b h).task = k.task := rfl
@[simp] theorem Core.setHart_ctx (k : Core) (b : Nat) (h : Hart) : (k.setHart b h).ctx = k.ctx := rfl
@[simp] theorem Core.setHart_asid (k : Core) (b : Nat) (h : Hart) : (k.setHart b h).asid = k.asid := rfl
@[simp] theorem Core.setHart_gen (k : Core) (b : Nat) (h : Hart) : (k.setHart b h).gen = k.gen := rfl
@[simp] theorem Core.setHart_flags (k : Core) (b : Nat) (h : Hart) : (k.setHart b h).flags = k.flags := rfl
@[simp] theorem Core.setHart_clk (k : Core) (b : Nat) (h : Hart) : (k.setHart b h).clk = k.clk := rfl
@[simp] theorem Core.setHart_instret (k : Core) (b : Nat) (h : Hart) : (k.setHart b h).instret = k.instret := rfl
@[simp] theorem Core.setHart_ct (k : Core) (b : Nat) (h : Hart) : (k.setHart b h).ct = k.ct := rfl
@[simp] theorem Core.setHart_gangs (k : Core) (b : Nat) (h : Hart) : (k.setHart b h).gangs = k.gangs := rfl
@[simp] theorem Core.setHart_banks (k : Core) (b : Nat) (h : Hart) : (k.setHart b h).banks = k.banks := rfl
@[simp] theorem Core.setHart_evq (k : Core) (b : Nat) (h : Hart) : (k.setHart b h).evq = k.evq := rfl
@[simp] theorem Core.setHart_ctrs (k : Core) (b : Nat) (h : Hart) : (k.setHart b h).ctrs = k.ctrs := rfl
@[simp] theorem Core.setHart_tiles (k : Core) (b : Nat) (h : Hart) : (k.setHart b h).tiles = k.tiles := rfl
@[simp] theorem Core.setHart_engine (k : Core) (b : Nat) (h : Hart) : (k.setHart b h).engine = k.engine := rfl
@[simp] theorem Core.setHart_stage (k : Core) (b : Nat) (h : Hart) : (k.setHart b h).stage = k.stage := rfl
@[simp] theorem Core.setHart_reds (k : Core) (b : Nat) (h : Hart) : (k.setHart b h).reds = k.reds := rfl
@[simp] theorem Core.setHart_saved (k : Core) (b : Nat) (h : Hart) : (k.setHart b h).saved = k.saved := rfl
@[simp] theorem Core.setHart_nextCtx (k : Core) (b : Nat) (h : Hart) : (k.setHart b h).nextCtx = k.nextCtx := rfl
@[simp] theorem Core.setHart_trace (k : Core) (b : Nat) (h : Hart) : (k.setHart b h).trace = k.trace := rfl
@[simp] theorem Core.setHart_traceOn (k : Core) (b : Nat) (h : Hart) : (k.setHart b h).traceOn = k.traceOn := rfl
@[simp] theorem Core.setHart_traceTrigger (k : Core) (b : Nat) (h : Hart) : (k.setHart b h).traceTrigger = k.traceTrigger := rfl
@[simp] theorem Core.setHart_traceLeft (k : Core) (b : Nat) (h : Hart) : (k.setHart b h).traceLeft = k.traceLeft := rfl
@[simp] theorem Core.setHart_rowTlb (k : Core) (b : Nat) (h : Hart) : (k.setHart b h).rowTlb = k.rowTlb := rfl
@[simp] theorem Core.setHart_colTlb (k : Core) (b : Nat) (h : Hart) : (k.setHart b h).colTlb = k.colTlb := rfl
@[simp] theorem Core.setHart_ringq (k : Core) (b : Nat) (h : Hart) : (k.setHart b h).ringq = k.ringq := rfl
@[simp] theorem Core.setHart_ringReq (k : Core) (b : Nat) (h : Hart) : (k.setHart b h).ringReq = k.ringReq := rfl
@[simp] theorem Core.setHart_ringGot (k : Core) (b : Nat) (h : Hart) : (k.setHart b h).ringGot = k.ringGot := rfl
@[simp] theorem Core.setHart_saveLeft (k : Core) (b : Nat) (h : Hart) : (k.setHart b h).saveLeft = k.saveLeft := rfl
@[simp] theorem Core.setHart_saveReq (k : Core) (b : Nat) (h : Hart) : (k.setHart b h).saveReq = k.saveReq := rfl
@[simp] theorem Core.setHart_saveGot (k : Core) (b : Nat) (h : Hart) : (k.setHart b h).saveGot = k.saveGot := rfl

@[simp] theorem Core.setBank_st (k : Core) (b : Nat) (x : Bank) : (k.setBank b x).st = k.st := rfl
@[simp] theorem Core.setBank_task (k : Core) (b : Nat) (x : Bank) : (k.setBank b x).task = k.task := rfl
@[simp] theorem Core.setBank_ctx (k : Core) (b : Nat) (x : Bank) : (k.setBank b x).ctx = k.ctx := rfl
@[simp] theorem Core.setBank_asid (k : Core) (b : Nat) (x : Bank) : (k.setBank b x).asid = k.asid := rfl
@[simp] theorem Core.setBank_gen (k : Core) (b : Nat) (x : Bank) : (k.setBank b x).gen = k.gen := rfl
@[simp] theorem Core.setBank_flags (k : Core) (b : Nat) (x : Bank) : (k.setBank b x).flags = k.flags := rfl
@[simp] theorem Core.setBank_clk (k : Core) (b : Nat) (x : Bank) : (k.setBank b x).clk = k.clk := rfl
@[simp] theorem Core.setBank_instret (k : Core) (b : Nat) (x : Bank) : (k.setBank b x).instret = k.instret := rfl
@[simp] theorem Core.setBank_ct (k : Core) (b : Nat) (x : Bank) : (k.setBank b x).ct = k.ct := rfl
@[simp] theorem Core.setBank_gangs (k : Core) (b : Nat) (x : Bank) : (k.setBank b x).gangs = k.gangs := rfl
@[simp] theorem Core.setBank_harts (k : Core) (b : Nat) (x : Bank) : (k.setBank b x).harts = k.harts := rfl
@[simp] theorem Core.setBank_evq (k : Core) (b : Nat) (x : Bank) : (k.setBank b x).evq = k.evq := rfl
@[simp] theorem Core.setBank_ctrs (k : Core) (b : Nat) (x : Bank) : (k.setBank b x).ctrs = k.ctrs := rfl
@[simp] theorem Core.setBank_tiles (k : Core) (b : Nat) (x : Bank) : (k.setBank b x).tiles = k.tiles := rfl
@[simp] theorem Core.setBank_engine (k : Core) (b : Nat) (x : Bank) : (k.setBank b x).engine = k.engine := rfl
@[simp] theorem Core.setBank_stage (k : Core) (b : Nat) (x : Bank) : (k.setBank b x).stage = k.stage := rfl
@[simp] theorem Core.setBank_reds (k : Core) (b : Nat) (x : Bank) : (k.setBank b x).reds = k.reds := rfl
@[simp] theorem Core.setBank_saved (k : Core) (b : Nat) (x : Bank) : (k.setBank b x).saved = k.saved := rfl
@[simp] theorem Core.setBank_nextCtx (k : Core) (b : Nat) (x : Bank) : (k.setBank b x).nextCtx = k.nextCtx := rfl
@[simp] theorem Core.setBank_trace (k : Core) (b : Nat) (x : Bank) : (k.setBank b x).trace = k.trace := rfl
@[simp] theorem Core.setBank_traceOn (k : Core) (b : Nat) (x : Bank) : (k.setBank b x).traceOn = k.traceOn := rfl
@[simp] theorem Core.setBank_traceTrigger (k : Core) (b : Nat) (x : Bank) : (k.setBank b x).traceTrigger = k.traceTrigger := rfl
@[simp] theorem Core.setBank_traceLeft (k : Core) (b : Nat) (x : Bank) : (k.setBank b x).traceLeft = k.traceLeft := rfl
@[simp] theorem Core.setBank_rowTlb (k : Core) (b : Nat) (x : Bank) : (k.setBank b x).rowTlb = k.rowTlb := rfl
@[simp] theorem Core.setBank_colTlb (k : Core) (b : Nat) (x : Bank) : (k.setBank b x).colTlb = k.colTlb := rfl
@[simp] theorem Core.setBank_ringq (k : Core) (b : Nat) (x : Bank) : (k.setBank b x).ringq = k.ringq := rfl
@[simp] theorem Core.setBank_ringReq (k : Core) (b : Nat) (x : Bank) : (k.setBank b x).ringReq = k.ringReq := rfl
@[simp] theorem Core.setBank_ringGot (k : Core) (b : Nat) (x : Bank) : (k.setBank b x).ringGot = k.ringGot := rfl
@[simp] theorem Core.setBank_saveLeft (k : Core) (b : Nat) (x : Bank) : (k.setBank b x).saveLeft = k.saveLeft := rfl
@[simp] theorem Core.setBank_saveReq (k : Core) (b : Nat) (x : Bank) : (k.setBank b x).saveReq = k.saveReq := rfl
@[simp] theorem Core.setBank_saveGot (k : Core) (b : Nat) (x : Bank) : (k.setBank b x).saveGot = k.saveGot := rfl

@[simp] theorem Core.setGang_st (k : Core) (g : Nat) (x : Gang) : (k.setGang g x).st = k.st := rfl
@[simp] theorem Core.setGang_task (k : Core) (g : Nat) (x : Gang) : (k.setGang g x).task = k.task := rfl
@[simp] theorem Core.setGang_ctx (k : Core) (g : Nat) (x : Gang) : (k.setGang g x).ctx = k.ctx := rfl
@[simp] theorem Core.setGang_asid (k : Core) (g : Nat) (x : Gang) : (k.setGang g x).asid = k.asid := rfl
@[simp] theorem Core.setGang_gen (k : Core) (g : Nat) (x : Gang) : (k.setGang g x).gen = k.gen := rfl
@[simp] theorem Core.setGang_flags (k : Core) (g : Nat) (x : Gang) : (k.setGang g x).flags = k.flags := rfl
@[simp] theorem Core.setGang_clk (k : Core) (g : Nat) (x : Gang) : (k.setGang g x).clk = k.clk := rfl
@[simp] theorem Core.setGang_instret (k : Core) (g : Nat) (x : Gang) : (k.setGang g x).instret = k.instret := rfl
@[simp] theorem Core.setGang_ct (k : Core) (g : Nat) (x : Gang) : (k.setGang g x).ct = k.ct := rfl
@[simp] theorem Core.setGang_harts (k : Core) (g : Nat) (x : Gang) : (k.setGang g x).harts = k.harts := rfl
@[simp] theorem Core.setGang_banks (k : Core) (g : Nat) (x : Gang) : (k.setGang g x).banks = k.banks := rfl
@[simp] theorem Core.setGang_evq (k : Core) (g : Nat) (x : Gang) : (k.setGang g x).evq = k.evq := rfl
@[simp] theorem Core.setGang_ctrs (k : Core) (g : Nat) (x : Gang) : (k.setGang g x).ctrs = k.ctrs := rfl
@[simp] theorem Core.setGang_tiles (k : Core) (g : Nat) (x : Gang) : (k.setGang g x).tiles = k.tiles := rfl
@[simp] theorem Core.setGang_engine (k : Core) (g : Nat) (x : Gang) : (k.setGang g x).engine = k.engine := rfl
@[simp] theorem Core.setGang_stage (k : Core) (g : Nat) (x : Gang) : (k.setGang g x).stage = k.stage := rfl
@[simp] theorem Core.setGang_reds (k : Core) (g : Nat) (x : Gang) : (k.setGang g x).reds = k.reds := rfl
@[simp] theorem Core.setGang_saved (k : Core) (g : Nat) (x : Gang) : (k.setGang g x).saved = k.saved := rfl
@[simp] theorem Core.setGang_nextCtx (k : Core) (g : Nat) (x : Gang) : (k.setGang g x).nextCtx = k.nextCtx := rfl
@[simp] theorem Core.setGang_trace (k : Core) (g : Nat) (x : Gang) : (k.setGang g x).trace = k.trace := rfl
@[simp] theorem Core.setGang_traceOn (k : Core) (g : Nat) (x : Gang) : (k.setGang g x).traceOn = k.traceOn := rfl
@[simp] theorem Core.setGang_traceTrigger (k : Core) (g : Nat) (x : Gang) : (k.setGang g x).traceTrigger = k.traceTrigger := rfl
@[simp] theorem Core.setGang_traceLeft (k : Core) (g : Nat) (x : Gang) : (k.setGang g x).traceLeft = k.traceLeft := rfl
@[simp] theorem Core.setGang_rowTlb (k : Core) (g : Nat) (x : Gang) : (k.setGang g x).rowTlb = k.rowTlb := rfl
@[simp] theorem Core.setGang_colTlb (k : Core) (g : Nat) (x : Gang) : (k.setGang g x).colTlb = k.colTlb := rfl
@[simp] theorem Core.setGang_ringq (k : Core) (g : Nat) (x : Gang) : (k.setGang g x).ringq = k.ringq := rfl
@[simp] theorem Core.setGang_ringReq (k : Core) (g : Nat) (x : Gang) : (k.setGang g x).ringReq = k.ringReq := rfl
@[simp] theorem Core.setGang_ringGot (k : Core) (g : Nat) (x : Gang) : (k.setGang g x).ringGot = k.ringGot := rfl
@[simp] theorem Core.setGang_saveLeft (k : Core) (g : Nat) (x : Gang) : (k.setGang g x).saveLeft = k.saveLeft := rfl
@[simp] theorem Core.setGang_saveReq (k : Core) (g : Nat) (x : Gang) : (k.setGang g x).saveReq = k.saveReq := rfl
@[simp] theorem Core.setGang_saveGot (k : Core) (g : Nat) (x : Gang) : (k.setGang g x).saveGot = k.saveGot := rfl

@[simp] theorem Core.setTile_st (k : Core) (q : Nat) (x : Tile) : (k.setTile q x).st = k.st := rfl
@[simp] theorem Core.setTile_task (k : Core) (q : Nat) (x : Tile) : (k.setTile q x).task = k.task := rfl
@[simp] theorem Core.setTile_ctx (k : Core) (q : Nat) (x : Tile) : (k.setTile q x).ctx = k.ctx := rfl
@[simp] theorem Core.setTile_asid (k : Core) (q : Nat) (x : Tile) : (k.setTile q x).asid = k.asid := rfl
@[simp] theorem Core.setTile_gen (k : Core) (q : Nat) (x : Tile) : (k.setTile q x).gen = k.gen := rfl
@[simp] theorem Core.setTile_flags (k : Core) (q : Nat) (x : Tile) : (k.setTile q x).flags = k.flags := rfl
@[simp] theorem Core.setTile_clk (k : Core) (q : Nat) (x : Tile) : (k.setTile q x).clk = k.clk := rfl
@[simp] theorem Core.setTile_instret (k : Core) (q : Nat) (x : Tile) : (k.setTile q x).instret = k.instret := rfl
@[simp] theorem Core.setTile_ct (k : Core) (q : Nat) (x : Tile) : (k.setTile q x).ct = k.ct := rfl
@[simp] theorem Core.setTile_gangs (k : Core) (q : Nat) (x : Tile) : (k.setTile q x).gangs = k.gangs := rfl
@[simp] theorem Core.setTile_harts (k : Core) (q : Nat) (x : Tile) : (k.setTile q x).harts = k.harts := rfl
@[simp] theorem Core.setTile_banks (k : Core) (q : Nat) (x : Tile) : (k.setTile q x).banks = k.banks := rfl
@[simp] theorem Core.setTile_evq (k : Core) (q : Nat) (x : Tile) : (k.setTile q x).evq = k.evq := rfl
@[simp] theorem Core.setTile_ctrs (k : Core) (q : Nat) (x : Tile) : (k.setTile q x).ctrs = k.ctrs := rfl
@[simp] theorem Core.setTile_engine (k : Core) (q : Nat) (x : Tile) : (k.setTile q x).engine = k.engine := rfl
@[simp] theorem Core.setTile_stage (k : Core) (q : Nat) (x : Tile) : (k.setTile q x).stage = k.stage := rfl
@[simp] theorem Core.setTile_reds (k : Core) (q : Nat) (x : Tile) : (k.setTile q x).reds = k.reds := rfl
@[simp] theorem Core.setTile_saved (k : Core) (q : Nat) (x : Tile) : (k.setTile q x).saved = k.saved := rfl
@[simp] theorem Core.setTile_nextCtx (k : Core) (q : Nat) (x : Tile) : (k.setTile q x).nextCtx = k.nextCtx := rfl
@[simp] theorem Core.setTile_trace (k : Core) (q : Nat) (x : Tile) : (k.setTile q x).trace = k.trace := rfl
@[simp] theorem Core.setTile_traceOn (k : Core) (q : Nat) (x : Tile) : (k.setTile q x).traceOn = k.traceOn := rfl
@[simp] theorem Core.setTile_traceTrigger (k : Core) (q : Nat) (x : Tile) : (k.setTile q x).traceTrigger = k.traceTrigger := rfl
@[simp] theorem Core.setTile_traceLeft (k : Core) (q : Nat) (x : Tile) : (k.setTile q x).traceLeft = k.traceLeft := rfl
@[simp] theorem Core.setTile_rowTlb (k : Core) (q : Nat) (x : Tile) : (k.setTile q x).rowTlb = k.rowTlb := rfl
@[simp] theorem Core.setTile_colTlb (k : Core) (q : Nat) (x : Tile) : (k.setTile q x).colTlb = k.colTlb := rfl
@[simp] theorem Core.setTile_ringq (k : Core) (q : Nat) (x : Tile) : (k.setTile q x).ringq = k.ringq := rfl
@[simp] theorem Core.setTile_ringReq (k : Core) (q : Nat) (x : Tile) : (k.setTile q x).ringReq = k.ringReq := rfl
@[simp] theorem Core.setTile_ringGot (k : Core) (q : Nat) (x : Tile) : (k.setTile q x).ringGot = k.ringGot := rfl
@[simp] theorem Core.setTile_saveLeft (k : Core) (q : Nat) (x : Tile) : (k.setTile q x).saveLeft = k.saveLeft := rfl
@[simp] theorem Core.setTile_saveReq (k : Core) (q : Nat) (x : Tile) : (k.setTile q x).saveReq = k.saveReq := rfl
@[simp] theorem Core.setTile_saveGot (k : Core) (q : Nat) (x : Tile) : (k.setTile q x).saveGot = k.saveGot := rfl

/-! ## Fields of a bank -/

@[simp] theorem Bank.setReg_owner (b : Bank) (r : Nat) (x : VReg) : (b.setReg r x).owner = b.owner := rfl
@[simp] theorem Bank.setReg_masks (b : Bank) (r : Nat) (x : VReg) : (b.setReg r x).masks = b.masks := rfl
@[simp] theorem Bank.setReg_sags (b : Bank) (r : Nat) (x : VReg) : (b.setReg r x).sags = b.sags := rfl
@[simp] theorem Bank.setReg_spareLanes (b : Bank) (r : Nat) (x : VReg) : (b.setReg r x).spareLanes = b.spareLanes := rfl

@[simp] theorem Bank.setSag_owner (b : Bank) (k : Nat) (x : Sag) : (b.setSag k x).owner = b.owner := rfl
@[simp] theorem Bank.setSag_regs (b : Bank) (k : Nat) (x : Sag) : (b.setSag k x).regs = b.regs := rfl
@[simp] theorem Bank.setSag_masks (b : Bank) (k : Nat) (x : Sag) : (b.setSag k x).masks = b.masks := rfl
@[simp] theorem Bank.setSag_spareLanes (b : Bank) (k : Nat) (x : Sag) : (b.setSag k x).spareLanes = b.spareLanes := rfl

/-! ## What an update sets -/

@[simp] theorem State.core_setCore (s : State) (c : Nat) (k : Core) : (s.setCore c k).core c = k := by
  simp [State.core, State.setCore]

theorem State.core_setCore_of_ne (s : State) {c c' : Nat} (k : Core) (h : c' ≠ c) :
    (s.setCore c k).core c' = s.core c' := by
  simp [State.core, State.setCore, Tab.get_put_of_ne _ _ _ h]

@[simp] theorem State.setCore_setCore (s : State) (c : Nat) (k k' : Core) :
    (s.setCore c k).setCore c k' = s.setCore c k' := by
  simp [State.setCore]

@[simp] theorem Core.hart_setHart (k : Core) (b : Nat) (h : Hart) : (k.setHart b h).hart b = h := by
  simp [Core.hart, Core.setHart]

theorem Core.hart_setHart_of_ne (k : Core) {b b' : Nat} (h : Hart) (n : b' ≠ b) : (k.setHart b h).hart b' = k.hart b' := by
  simp [Core.hart, Core.setHart, Tab.get_put_of_ne _ _ _ n]

@[simp] theorem Core.setHart_setHart (k : Core) (b : Nat) (h h' : Hart) : (k.setHart b h).setHart b h' = k.setHart b h' := by
  simp [Core.setHart]

@[simp] theorem Core.bank_setBank (k : Core) (b : Nat) (x : Bank) : (k.setBank b x).bank b = x := by
  simp [Core.bank, Core.setBank]

theorem Core.bank_setBank_of_ne (k : Core) {b b' : Nat} (x : Bank) (n : b' ≠ b) : (k.setBank b x).bank b' = k.bank b' := by
  simp [Core.bank, Core.setBank, Tab.get_put_of_ne _ _ _ n]

@[simp] theorem Core.setBank_setBank (k : Core) (b : Nat) (x y : Bank) : (k.setBank b x).setBank b y = k.setBank b y := by
  simp [Core.setBank]

@[simp] theorem Core.bank_setHart (k : Core) (b b' : Nat) (h : Hart) : (k.setHart b h).bank b' = k.bank b' := rfl
@[simp] theorem Core.hart_setBank (k : Core) (b b' : Nat) (x : Bank) : (k.setBank b x).hart b' = k.hart b' := rfl
@[simp] theorem Core.gang_setHart (k : Core) (b g : Nat) (h : Hart) : (k.setHart b h).gang g = k.gang g := rfl
@[simp] theorem Core.gang_setBank (k : Core) (b g : Nat) (x : Bank) : (k.setBank b x).gang g = k.gang g := rfl
@[simp] theorem Core.hart_setGang (k : Core) (b g : Nat) (x : Gang) : (k.setGang g x).hart b = k.hart b := rfl
@[simp] theorem Core.bank_setGang (k : Core) (b g : Nat) (x : Gang) : (k.setGang g x).bank b = k.bank b := rfl
@[simp] theorem Core.tile_setHart (k : Core) (b q : Nat) (h : Hart) : (k.setHart b h).tile q = k.tile q := rfl
@[simp] theorem Core.tile_setBank (k : Core) (b q : Nat) (x : Bank) : (k.setBank b x).tile q = k.tile q := rfl
@[simp] theorem Core.hart_setTile (k : Core) (b q : Nat) (x : Tile) : (k.setTile q x).hart b = k.hart b := rfl
@[simp] theorem Core.bank_setTile (k : Core) (b q : Nat) (x : Tile) : (k.setTile q x).bank b = k.bank b := rfl
@[simp] theorem Core.gang_setTile (k : Core) (g q : Nat) (x : Tile) : (k.setTile q x).gang g = k.gang g := rfl
@[simp] theorem Core.gang_setGang (k : Core) (g : Nat) (x : Gang) : (k.setGang g x).gang g = x := by
  simp [Core.gang, Core.setGang]
@[simp] theorem Core.tile_setTile (k : Core) (q : Nat) (x : Tile) : (k.setTile q x).tile q = x := by
  simp [Core.tile, Core.setTile]

@[simp] theorem Bank.reg_setReg (x : Bank) (r : Nat) (v : VReg) : (x.setReg r v).reg r = v := by
  simp [Bank.reg, Bank.setReg]

theorem Bank.reg_setReg_of_ne (x : Bank) {r r' : Nat} (v : VReg) (n : r' ≠ r) : (x.setReg r v).reg r' = x.reg r' := by
  simp [Bank.reg, Bank.setReg, Tab.get_put_of_ne _ _ _ n]

@[simp] theorem Bank.setReg_setReg (x : Bank) (r : Nat) (v w : VReg) : (x.setReg r v).setReg r w = x.setReg r w := by
  simp [Bank.setReg]

@[simp] theorem Bank.reg_setSag (x : Bank) (k r : Nat) (v : Sag) : (x.setSag k v).reg r = x.reg r := rfl
@[simp] theorem Bank.sag_setReg (x : Bank) (k r : Nat) (v : VReg) : (x.setReg r v).sag k = x.sag k := rfl
@[simp] theorem Bank.sag_setSag (x : Bank) (k : Nat) (v : Sag) : (x.setSag k v).sag k = v := by
  simp [Bank.sag, Bank.setSag]

/-! ## Harts, banks and registers of the state -/

@[simp] theorem State.hart_setHart (s : State) (c b : Nat) (h : Hart) : (s.setHart c b h).hart c b = h := by
  simp [State.hart, State.setHart]

theorem State.hart_setHart_of_ne (s : State) {c b c' b' : Nat} (h : Hart) (n : ¬(c' = c ∧ b' = b)) :
    (s.setHart c b h).hart c' b' = s.hart c' b' := by
  unfold State.hart State.setHart
  by_cases hc : c' = c
  · subst hc
    rw [State.core_setCore, Core.hart_setHart_of_ne _ _ (fun hb => n ⟨rfl, hb⟩)]
  · rw [State.core_setCore_of_ne _ _ hc]

@[simp] theorem State.setHart_setHart (s : State) (c b : Nat) (h h' : Hart) :
    (s.setHart c b h).setHart c b h' = s.setHart c b h' := by
  simp [State.setHart]

@[simp] theorem State.core_setHart (s : State) (c b : Nat) (h : Hart) :
    (s.setHart c b h).core c = (s.core c).setHart b h := by
  simp [State.setHart]

theorem State.core_setHart_of_ne (s : State) {c c' : Nat} (b : Nat) (h : Hart) (n : c' ≠ c) :
    (s.setHart c b h).core c' = s.core c' := State.core_setCore_of_ne s _ n

@[simp] theorem State.bank_setHart (s : State) (c b c' b' : Nat) (h : Hart) :
    (s.setHart c b h).bank c' b' = s.bank c' b' := by
  unfold State.bank
  by_cases hc : c' = c
  · subst hc; simp
  · rw [State.core_setHart_of_ne _ _ _ hc]

@[simp] theorem State.reg_setHart (s : State) (c b c' b' r : Nat) (h : Hart) :
    (s.setHart c b h).reg c' b' r = s.reg c' b' r := by
  simp [State.reg]

@[simp] theorem State.gang_setHart (s : State) (c b c' g : Nat) (h : Hart) :
    (s.setHart c b h).gang c' g = s.gang c' g := by
  unfold State.gang
  by_cases hc : c' = c
  · subst hc; simp
  · rw [State.core_setHart_of_ne _ _ _ hc]

@[simp] theorem State.tile_setHart (s : State) (c b c' q : Nat) (h : Hart) :
    (s.setHart c b h).tile c' q = s.tile c' q := by
  unfold State.tile
  by_cases hc : c' = c
  · subst hc; simp
  · rw [State.core_setHart_of_ne _ _ _ hc]

@[simp] theorem State.ct_setHart (s : State) (c b c' : Nat) (h : Hart) : (s.setHart c b h).ct c' = s.ct c' := by
  unfold State.ct
  by_cases hc : c' = c
  · subst hc; simp
  · rw [State.core_setHart_of_ne _ _ _ hc]

@[simp] theorem State.bank_setBank (s : State) (c b : Nat) (x : Bank) : (s.setBank c b x).bank c b = x := by
  simp [State.bank, State.setBank]

theorem State.bank_setBank_of_ne (s : State) {c b c' b' : Nat} (x : Bank) (n : ¬(c' = c ∧ b' = b)) :
    (s.setBank c b x).bank c' b' = s.bank c' b' := by
  unfold State.bank State.setBank
  by_cases hc : c' = c
  · subst hc
    rw [State.core_setCore, Core.bank_setBank_of_ne _ _ (fun hb => n ⟨rfl, hb⟩)]
  · rw [State.core_setCore_of_ne _ _ hc]

@[simp] theorem State.setBank_setBank (s : State) (c b : Nat) (x y : Bank) :
    (s.setBank c b x).setBank c b y = s.setBank c b y := by
  simp [State.setBank]

@[simp] theorem State.core_setBank (s : State) (c b : Nat) (x : Bank) :
    (s.setBank c b x).core c = (s.core c).setBank b x := by
  simp [State.setBank]

theorem State.core_setBank_of_ne (s : State) {c c' : Nat} (b : Nat) (x : Bank) (n : c' ≠ c) :
    (s.setBank c b x).core c' = s.core c' := State.core_setCore_of_ne s _ n

@[simp] theorem State.hart_setBank (s : State) (c b c' b' : Nat) (x : Bank) :
    (s.setBank c b x).hart c' b' = s.hart c' b' := by
  unfold State.hart
  by_cases hc : c' = c
  · subst hc; simp
  · rw [State.core_setBank_of_ne _ _ _ hc]

@[simp] theorem State.gang_setBank (s : State) (c b c' g : Nat) (x : Bank) :
    (s.setBank c b x).gang c' g = s.gang c' g := by
  unfold State.gang
  by_cases hc : c' = c
  · subst hc; simp
  · rw [State.core_setBank_of_ne _ _ _ hc]

@[simp] theorem State.ct_setBank (s : State) (c b c' : Nat) (x : Bank) : (s.setBank c b x).ct c' = s.ct c' := by
  unfold State.ct
  by_cases hc : c' = c
  · subst hc; simp
  · rw [State.core_setBank_of_ne _ _ _ hc]

@[simp] theorem State.reg_setReg (s : State) (c b r : Nat) (x : VReg) : (s.setReg c b r x).reg c b r = x := by
  simp [State.reg, State.setReg]

theorem State.reg_setReg_of_ne (s : State) (c b : Nat) {r r' : Nat} (x : VReg) (n : r' ≠ r) :
    (s.setReg c b r x).reg c b r' = s.reg c b r' := by
  simp [State.reg, State.setReg, Bank.reg_setReg_of_ne _ _ n]

theorem State.reg_setReg_of_bank (s : State) {c b c' b' : Nat} (r r' : Nat) (x : VReg) (n : ¬(c' = c ∧ b' = b)) :
    (s.setReg c b r x).reg c' b' r' = s.reg c' b' r' := by
  simp [State.reg, State.setReg, State.bank_setBank_of_ne _ _ n]

@[simp] theorem State.setReg_setReg (s : State) (c b r : Nat) (x y : VReg) :
    (s.setReg c b r x).setReg c b r y = s.setReg c b r y := by
  simp [State.setReg]

@[simp] theorem State.hart_setReg (s : State) (c b r c' b' : Nat) (x : VReg) :
    (s.setReg c b r x).hart c' b' = s.hart c' b' := by
  simp [State.setReg]

@[simp] theorem State.gang_setReg (s : State) (c b r c' g : Nat) (x : VReg) :
    (s.setReg c b r x).gang c' g = s.gang c' g := by
  simp [State.setReg]

@[simp] theorem State.ct_setReg (s : State) (c b r c' : Nat) (x : VReg) : (s.setReg c b r x).ct c' = s.ct c' := by
  simp [State.setReg]

@[simp] theorem State.ct_setCt (s : State) (c : Nat) (x : Ct) : (s.setCt c x).ct c = x := by
  simp [State.ct, State.setCt]

@[simp] theorem State.setCt_setCt (s : State) (c : Nat) (x y : Ct) : (s.setCt c x).setCt c y = s.setCt c y := by
  simp [State.setCt]

@[simp] theorem State.core_setCt (s : State) (c : Nat) (x : Ct) : (s.setCt c x).core c = { s.core c with ct := x } := by
  simp [State.setCt]

@[simp] theorem State.hart_setCt (s : State) (c c' b : Nat) (x : Ct) : (s.setCt c x).hart c' b = s.hart c' b := by
  unfold State.hart State.setCt
  by_cases hc : c' = c
  · subst hc; rw [State.core_setCore]; rfl
  · rw [State.core_setCore_of_ne _ _ hc]

@[simp] theorem State.bank_setCt (s : State) (c c' b : Nat) (x : Ct) : (s.setCt c x).bank c' b = s.bank c' b := by
  unfold State.bank State.setCt
  by_cases hc : c' = c
  · subst hc; rw [State.core_setCore]; rfl
  · rw [State.core_setCore_of_ne _ _ hc]

@[simp] theorem State.tile_setTile (s : State) (c q : Nat) (x : Tile) : (s.setTile c q x).tile c q = x := by
  simp [State.tile, State.setTile]

@[simp] theorem State.hart_setTile (s : State) (c q c' b : Nat) (x : Tile) : (s.setTile c q x).hart c' b = s.hart c' b := by
  unfold State.hart State.setTile
  by_cases hc : c' = c
  · subst hc; simp
  · rw [State.core_setCore_of_ne _ _ hc]

/-- An update of a hart and one of a bank are made in either order. -/
theorem State.setHart_setBank (s : State) (c b b' : Nat) (h : Hart) (x : Bank) :
    (s.setHart c b h).setBank c b' x = (s.setBank c b' x).setHart c b h := by
  simp [State.setHart, State.setBank, Core.setHart, Core.setBank]

theorem State.setHart_setReg (s : State) (c b r : Nat) (h : Hart) (x : VReg) :
    (s.setHart c b h).setReg c b r x = (s.setReg c b r x).setHart c b h := by
  simp [State.setReg, State.setHart_setBank]

end Sys2Proof.Machine
end

