-- ==== Sys2Proof/Laws/Words.lean ====
section
/-! SUPPORT. A hart's word from its issue to its retirement, where nothing stops it. -/

namespace Sys2Proof.Machine

theorem Op.exec_split (o : Op) {s : State} (h : s.actGang = none) :
    o.exec s = .next (o.execSplit s s.actCore s.actBank) := by
  simp [Op.exec, h]

@[simp] theorem State.traceAdd_off {s : State} {c : Nat} (b kind value : Nat) (h : (s.core c).traceOn = false) :
    s.traceAdd c b kind value = s := by
  simp [State.traceAdd, h]

theorem State.ringWrite_off {s : State} {c : Nat} (b word : Nat) (h : (s.ct c).ring.getLsbD 63 = false) :
    s.ringWrite c b word = s := by
  simp only [State.ringWrite, h, Bool.not_false, Bool.true_or, if_true]

/-- With nothing in flight behind it, a hart's present word gives way to nothing. -/
theorem State.promote_alone {s : State} {c b : Nat} (h : (s.hart c b).young = []) : s.promote c b = s := by
  unfold State.promote; rw [h]

/-- A block inside the 48-bit space is no far fetch. -/
theorem State.farFetch_near (s : State) (c b : Nat) {va : Option Nat} (h : ∀ a, va = some a → a < 2 ^ 48) :
    s.farFetch c b va = s := by
  cases va with
  | none => rfl
  | some a => simp only [State.farFetch, if_pos (h a rfl)]

/-- Where a word goes stays inside the 48-bit space. -/
def Hart.Near (h : Hart) (go : Go) : Prop := ∀ a, h.leaves go = some a → a < 2 ^ 48

/-- A word that does not jump stays inside it, where its block is not the last. -/
theorem Hart.near_of_inside {h : Hart} (go : Go) (hj : ∀ va, go ≠ .jump va) (hi : h.blockVa + 64 < 2 ^ 48) : h.Near go := by
  intro a ha
  cases go with
  | jump va => exact absurd rfl (hj va)
  | park => simp [Hart.leaves] at ha
  | next => simp only [Hart.leaves] at ha; split_ifs at ha; simp at ha; omega
  | rep n => simp only [Hart.leaves] at ha; split_ifs at ha; simp at ha; omega

@[simp] theorem Hart.leaves_clean (h : Hart) (go : Go) : h.clean.leaves go = h.leaves go := by cases go <;> rfl

@[simp] theorem Hart.young_advance (h : Hart) (go : Go) : (h.advance go).young = h.young := by
  cases go with
  | next => simp only [Hart.advance, Hart.blockEnd, Hart.parkNow, Hart.goTo]; split_ifs <;> rfl
  | jump va => rfl
  | park => rfl
  | rep n =>
    simp only [Hart.advance, Hart.blockEnd, Hart.parkNow, Hart.goTo]
    split
    · rfl
    · split_ifs <;> rfl

/-- With neither ring nor trace, and no word behind it, a retirement only moves the hart on. -/
theorem State.retire_quiet {s : State} {c : Nat} (b word : Nat) (acted : Bool) {go : Go}
    (ht : (s.core c).traceOn = false) (hr : (s.ct c).ring.getLsbD 63 = false) (hy : (s.hart c b).young = [])
    (hn : (s.hart c b).Near go) : s.retire c b word acted go = s.retired c b go := by
  have h1 : s.retireNotes c b word acted go = s := by
    unfold State.retireNotes
    have : (if acted = true then s.ringWrite c b word else s) = s := by
      split_ifs
      · exact State.ringWrite_off _ _ hr
      · rfl
    simp only [this]
    cases (s.hart c b).note.first <;> cases go <;> simp [ht]
  have h2 : (((s.hart c b).clean.advance go)).young = [] := by rw [Hart.young_advance]; exact hy
  have h3 : (s.setHart c b ((s.hart c b).clean.advance go)).promote c b = s.setHart c b ((s.hart c b).clean.advance go) :=
    State.promote_alone (by simpa using h2)
  simp only [State.retire, h1, h3, State.retired]
  exact State.farFetch_near _ _ _ (by rw [Hart.leaves_clean]; exact hn)

theorem Ready.acts_eq {s : State} {c b : Nat} {o : Op} (h : Ready s c b o.p) : s.acts c b o = true := by
  unfold State.acts
  cases hp : o.p
  · rfl
  · simp [h.acts hp]

theorem Ready.ownBank {s : State} {c b : Nat} {p : Bool} (h : Ready s c b p) : s.ownBank c b = some s := by
  have := h.owned
  unfold State.bank at this
  simp [State.ownBank, this]

/-- The mark that a word's issue leaves on its hart until it retires. -/
def State.marked (s : State) (c b : Nat) (n : Note) : State :=
  s.setHart c b { s.hart c b with note := n, latchOwned := false }

/-- The word as it runs on a ready hart. -/
theorem Op.run_ready (o : Op) {s : State} {c b : Nat} (h : Ready s c b o.p) :
    o.run s s c b = match (o.act s s c b).walks s c b with
      | .work s' => if s'.stepwise then .wait (s'.marked c b (o.note s c b))
          else o.settle true c b pollFuel (s'.marked c b (o.note s c b))
      | .ok s' g => .ok (s'.marked c b (o.note s c b)) g
      | .wait s' => .wait (s'.marked c b (o.note s c b))
      | .trap s' x y z => .trap (s'.marked c b (o.note s c b)) x y z := by
  have h1 : (if o.touch then s.ownBank c b else some s) = some s := by
    split_ifs
    · exact h.ownBank
    · rfl
  simp only [Op.run, h.idle, h.acts_eq, h1]
  rfl

/-- A hart that a word has marked retires as if it had not. -/
theorem State.retired_marked (s : State) (c b : Nat) (n : Note) (go : Go) :
    (s.marked c b n).retired c b go = s.retired c b go := by
  simp [State.retired, State.marked, Hart.clean]

theorem State.marked_quiet (s : State) (c b : Nat) (n : Note) :
    ((s.marked c b n).core c).traceOn = (s.core c).traceOn ∧ (s.marked c b n).ct c = s.ct c := by
  simp [State.marked]

/-- Where a hart stands that a word has marked. -/
theorem State.marked_stands (s : State) (c b : Nat) (n : Note) (go : Go) :
    ((s.marked c b n).hart c b).young = (s.hart c b).young ∧
      ((s.marked c b n).hart c b).leaves go = (s.hart c b).leaves go := by
  cases go <;> simp [State.marked, Hart.leaves, Hart.wordIdx, Hart.blockLen, Hart.blockVa, Hart.passesLeft]

/-- A word that completes at once on a ready hart. -/
theorem Op.exec_ok (o : Op) {s s' : State} {c b : Nat} {g : Go} (h : Ready s c b o.p) (hl : o.lock = false)
    (ha : o.act s s c b = .ok s' g) (ht : (s'.core c).traceOn = false) (hr : (s'.ct c).ring.getLsbD 63 = false)
    (hy : (s'.hart c b).young = []) (hn : (s'.hart c b).Near (o.goes g)) :
    o.exec s = .next (s'.retired c b (o.goes g)) := by
  have hq := State.marked_quiet s' c b (o.note s c b)
  have hm := State.marked_stands s' c b (o.note s c b) (o.goes g)
  rw [Op.exec_split o h.gang, h.core, h.bank]
  simp only [Op.execSplit, hl, Op.run_ready o h, ha, HRes.walks]
  rw [State.retire_quiet _ _ _ (by rw [hq.1, ht]) (by rw [hq.2, hr]) (by rw [hm.1, hy])
    (by unfold Hart.Near; rw [hm.2]; exact hn), State.retired_marked]
  simp

/-- A word that changes only its hart, and leaves where it stands alone. -/
theorem hartOp_exec (i : Instr) (p : Bool) (f : Hart → Hart) {s : State} {c b : Nat} (h : Ready s c b p)
    (hy : (f (s.hart c b)).young = (s.hart c b).young) (hv : (f (s.hart c b)).blockVa = (s.hart c b).blockVa) :
    (hartOp i p f).exec s = .next (s.hartDone c b f) := by
  rw [Op.exec_ok (hartOp i p f) (s' := s.setHart c b (f (s.hart c b))) (g := .next) h rfl rfl
    (by simpa using h.noTrace) (by simpa using h.noRing) (by simpa [hy] using h.alone)
    (by simpa using Hart.near_of_inside (h := f (s.hart c b)) _ (by simp [Op.goes, hartOp]) (by rw [hv]; exact h.inside))]
  simp [State.retired, State.hartDone, Op.goes, hartOp]

/-- A word that traps on a ready hart: the shared operation of hart faults. -/
theorem Op.exec_trap (o : Op) {s s' : State} {c b cause detail egi : Nat} (h : Ready s c b o.p) (hl : o.lock = false)
    (ha : o.act s s c b = .trap s' cause detail egi) (hw : cause ≠ walkWait) :
    o.exec s = .next ((s'.marked c b (o.note s c b)).hartFault c b cause detail egi) := by
  rw [Op.exec_split o h.gang, h.core, h.bank]
  simp only [Op.execSplit, hl, Op.run_ready o h, ha, HRes.walks, if_neg hw]
  rfl

/-- A word that waits on a ready hart. -/
theorem Op.exec_wait (o : Op) {s s' : State} {c b : Nat} (h : Ready s c b o.p) (hl : o.lock = false)
    (ha : o.act s s c b = .wait s') : o.exec s = .next (s'.marked c b (o.note s c b)) := by
  rw [Op.exec_split o h.gang, h.core, h.bank]
  simp only [Op.execSplit, hl, Op.run_ready o h, ha, HRes.walks]
  rfl

/-- R248: a word that must stand in full lockstep faults on a split hart. -/
theorem Op.exec_lock (o : Op) {s : State} (h : s.actGang = none) (hl : o.lock = true) :
    o.exec s = .next (s.hartFault s.actCore s.actBank 0x0c (gangDetail
      ((((s.core s.actCore).gangOf s.actBank).map fun g => ((s.core s.actCore).gang g).members.toNat).getD 0) o.word) 0) := by
  rw [Op.exec_split o h]
  simp [Op.execSplit, hl]

/-- A word that goes on does not jump. -/
theorem Op.goes_next (o : Op) (va : Nat) : o.goes .next ≠ .jump va := by
  cases h : o.rep <;> simp [Op.goes, h]

/-- R166: a word whose predicate is false retires without effect. -/
theorem Op.exec_skip (o : Op) {s : State} {c b : Nat} (h : Ready s c b false) (hl : o.lock = false) (hp : o.p = true)
    (hh : (s.hart c b).hp = false) : o.exec s = .next (s.retired c b (o.goes .next)) := by
  rw [Op.exec_split o h.gang, h.core, h.bank]
  have ha : s.acts c b o = false := by simp [State.acts, hp, hh]
  simp only [Op.execSplit, hl, Op.run, h.idle, ha]
  rw [if_neg (by simp)]
  simp only [Bool.not_false, if_true]
  rw [State.retire_quiet _ _ _ h.noTrace h.noRing h.alone (Hart.near_of_inside _ o.goes_next h.inside)]

/-- A release of an agent with no posted write to the host needs no zero-length read (R390). -/
theorem State.hostSettled_of_not_posted (s : State) (need : Bool) (w : Waiter) (va : Nat)
    (h : need = true → s.posted w = false) : s.hostSettled need w va = .done s 0 none := by
  cases need <;> simp_all [State.hostSettled]

end Sys2Proof.Machine
end

