-- ==== Sys2Proof/Laws/Lane.lean ====
section
/-! SUPPORT. Lane operations: the commit buffer brings every group to its registers in ascending order, whatever the
order of computing and rechecking (R13, R197). -/

namespace Sys2Proof.Machine

/-! ## What committing leaves alone in its core -/

/-- Two states whose cores `c` agree in what a word's quiet retirement and its commits read besides registers: where each hart
stands among it. -/
structure SameCore (c : Nat) (s t : State) : Prop where
  trace : (t.core c).traceOn = (s.core c).traceOn
  flags : (t.core c).flags = (s.core c).flags
  ct : t.ct c = s.ct c
  stepwise : t.stepwise = s.stepwise
  stands : ∀ b, (t.hart c b).young = (s.hart c b).young ∧ ∀ go, (t.hart c b).leaves go = (s.hart c b).leaves go

theorem SameCore.refl (c : Nat) (s : State) : SameCore c s s := ⟨rfl, rfl, rfl, rfl, fun _ => ⟨rfl, fun _ => rfl⟩⟩

theorem SameCore.trans {c : Nat} {s t u : State} (h : SameCore c s t) (k : SameCore c t u) : SameCore c s u :=
  ⟨k.trace.trans h.trace, k.flags.trans h.flags, k.ct.trans h.ct, k.stepwise.trans h.stepwise,
    fun b => ⟨(k.stands b).1.trans (h.stands b).1, fun go => ((k.stands b).2 go).trans ((h.stands b).2 go)⟩⟩

theorem sameCore_setHart {s : State} {c b : Nat} {h : Hart} (hy : h.young = (s.hart c b).young)
    (hl : ∀ go, h.leaves go = (s.hart c b).leaves go) : SameCore c s (s.setHart c b h) := by
  refine ⟨by simp, by simp, by simp, by simp, fun e => ?_⟩
  by_cases he : e = b
  · subst he; simpa using ⟨hy, hl⟩
  · rw [State.hart_setHart_of_ne _ _ fun x => he x.2]
    exact ⟨rfl, fun _ => rfl⟩

theorem sameCore_setBank (s : State) (c b : Nat) (x : Bank) : SameCore c s (s.setBank c b x) :=
  ⟨by simp, by simp, by simp, by simp, by simp⟩

/-- What a lane operation's end writes in its hart leaves where the hart stands. -/
theorem AtEnd.onHart_stands (f : AtEnd) (h : Hart) :
    (f.onHart h).young = h.young ∧ ∀ go, (f.onHart h).leaves go = h.leaves go := by
  have : ∀ (r : Nat) (v : Word) (k : Hart), (k.setG r v).young = k.young ∧ ∀ go, (k.setG r v).leaves go = k.leaves go := by
    intro r v k
    unfold Hart.setG
    split_ifs
    · exact ⟨rfl, fun _ => rfl⟩
    · exact ⟨rfl, fun go => by cases go <;> rfl⟩
  unfold AtEnd.onHart
  cases f.gd with
  | none => exact ⟨rfl, fun go => by cases go <;> rfl⟩
  | some e => exact ⟨(this ..).1, fun go => ((this ..).2 go).trans (by cases go <;> rfl)⟩

theorem sameCore_setReg (s : State) (c b r : Nat) (x : VReg) : SameCore c s (s.setReg c b r x) :=
  sameCore_setBank s c b _

theorem sameCore_dropStage (s : State) (c b r : Nat) : SameCore c s (s.dropStage c b r) := by
  unfold State.dropStage
  split
  · split_ifs
    · exact ⟨by simp, by simp, by simp [State.ct], rfl, fun e => by simp [State.hart, Core.hart]⟩
    · exact SameCore.refl c s
  · exact SameCore.refl c s

theorem sameCore_commitReg (s : State) (c b w r : Nat) (g : Grp) : SameCore c s (s.commitReg c b w r g) :=
  (sameCore_setReg s c b r _).trans (sameCore_dropStage _ c b r)

theorem sameCore_commitGrp (s : State) (c b : Nat) (op : LaneOp) (g : Grp) : SameCore c s (s.commitGrp c b op g) := by
  have h1 : SameCore c s (s.commitRegs c b op g) := by
    unfold State.commitRegs
    cases op.d with
    | none => exact SameCore.refl c s
    | some d =>
      cases op.d2 with
      | none => exact sameCore_commitReg ..
      | some e => exact (sameCore_commitReg ..).trans (sameCore_commitReg ..)
  have h2 : SameCore c (s.commitRegs c b op g) ((s.commitRegs c b op g).commitMask c b op g) := by
    unfold State.commitMask
    cases op.m with
    | none => exact SameCore.refl c _
    | some m => exact sameCore_setBank ..
  exact (h1.trans h2).trans (sameCore_setHart rfl fun go => by cases go <;> rfl)

theorem sameCore_foldl {α : Type} (f : State → α → State) (c : Nat) (hf : ∀ s a, SameCore c s (f s a)) (l : List α)
    (s : State) : SameCore c s (l.foldl f s) := by
  induction l generalizing s with
  | nil => exact SameCore.refl c s
  | cons a l ih => exact (hf s a).trans (ih _)

theorem sameCore_endDests (s : State) (c b : Nat) (op : LaneOp) : SameCore c s (s.endDests c b op) :=
  sameCore_foldl _ c (fun t r => sameCore_setReg t c b r _) _ s

theorem sameCore_apply (f : AtEnd) (c b : Nat) (s : State) : SameCore c s (f.apply c b s) := by
  have h2 : ∀ t : State, SameCore c t (f.onW7 c b t) := by
    intro t
    unfold AtEnd.onW7
    cases f.w7 with
    | none => exact SameCore.refl c t
    | some v => exact (sameCore_setReg ..).trans (sameCore_dropStage ..)
  have h3 : ∀ t : State, SameCore c t (f.onTile c t) := by
    intro t
    unfold AtEnd.onTile
    cases f.zeroTile with
    | none => exact SameCore.refl c t
    | some q => exact ⟨by simp [State.setTile], by simp [State.setTile], by simp [State.setTile, State.ct], rfl, by simp⟩
  have hh := f.onHart_stands (s.hart c b)
  exact ((sameCore_setHart hh.1 hh.2).trans (h2 _)).trans (h3 _)

/-! ## Commits and a hart's other fields are independent -/

/-- Hart (c, b) changed by `m`. -/
def State.mapHart (s : State) (c b : Nat) (m : Hart → Hart) : State := s.setHart c b (m (s.hart c b))

/-- A change of a hart that neither a group's flags and draws nor a word's end looks at. -/
structure Apart (m : Hart → Hart) : Prop where
  group : ∀ (h : Hart) (fl : BitVec 4) (x : List (Nat × Nat)),
    m { h with flags := h.flags ||| fl, drawn := h.drawn ++ x } =
      { m h with flags := (m h).flags ||| fl, drawn := (m h).drawn ++ x }
  atEnd : ∀ (f : AtEnd) (h : Hart), f.onHart (m h) = m (f.onHart h)

theorem apart_pend (p : Option Pend) : Apart fun h => { h with pend := p } where
  group _ _ _ := rfl
  atEnd f h := by
    unfold AtEnd.onHart
    cases f.gd with
    | none => rfl
    | some e => simp only [Hart.setG]; split_ifs <;> rfl

theorem apart_mark (n : Note) : Apart fun h => { h with note := n, latchOwned := false } where
  group _ _ _ := rfl
  atEnd f h := by
    unfold AtEnd.onHart
    cases f.gd with
    | none => rfl
    | some e => simp only [Hart.setG]; split_ifs <;> rfl

theorem State.setPend_eq (s : State) (c b : Nat) (p : Option Pend) :
    s.setPend c b p = s.mapHart c b fun h => { h with pend := p } := rfl

theorem State.marked_eq (s : State) (c b : Nat) (n : Note) :
    s.marked c b n = s.mapHart c b fun h => { h with note := n, latchOwned := false } := rfl

theorem State.setPend_setPend (s : State) (c b : Nat) (p q : Option Pend) :
    (s.setPend c b p).setPend c b q = s.setPend c b q := by
  simp [State.setPend]

@[simp] theorem State.pend_setPend (s : State) (c b : Nat) (p : Option Pend) :
    ((s.setPend c b p).hart c b).pend = p := by
  simp [State.setPend]

@[simp] theorem State.reg_setPend (s : State) (c b r c' b' : Nat) (p : Option Pend) :
    (s.setPend c b p).reg c' b' r = s.reg c' b' r := by
  simp [State.setPend]

@[simp] theorem State.bank_setPend (s : State) (c b c' b' : Nat) (p : Option Pend) :
    (s.setPend c b p).bank c' b' = s.bank c' b' := by
  simp [State.setPend]

@[simp] theorem State.reg_mapHart (s : State) (c b r c' b' : Nat) (m : Hart → Hart) :
    (s.mapHart c b m).reg c' b' r = s.reg c' b' r := by
  simp [State.mapHart]

@[simp] theorem State.bank_mapHart (s : State) (c b c' b' : Nat) (m : Hart → Hart) :
    (s.mapHart c b m).bank c' b' = s.bank c' b' := by
  simp [State.mapHart]

theorem State.setReg_mapHart (s : State) (c b r : Nat) (m : Hart → Hart) (x : VReg) :
    (s.mapHart c b m).setReg c b r x = (s.setReg c b r x).mapHart c b m := by
  simp [State.mapHart, State.setHart_setReg]

theorem State.setBank_mapHart (s : State) (c b : Nat) (m : Hart → Hart) (x : Bank) :
    (s.mapHart c b m).setBank c b x = (s.setBank c b x).mapHart c b m := by
  simp [State.mapHart, State.setHart_setBank]

theorem State.dropStage_mapHart (s : State) (c b r : Nat) (m : Hart → Hart) :
    (s.mapHart c b m).dropStage c b r = (s.dropStage c b r).mapHart c b m := by
  unfold State.dropStage State.mapHart
  simp only [State.core_setHart, Core.setHart_stage]
  split
  · split_ifs
    · simp [State.setHart, State.hart, Core.setHart, Core.hart]
    · rfl
  · rfl

theorem State.commitReg_mapHart (s : State) (c b w r : Nat) (g : Grp) (m : Hart → Hart) :
    (s.mapHart c b m).commitReg c b w r g = (s.commitReg c b w r g).mapHart c b m := by
  simp [State.commitReg, State.setReg_mapHart, State.dropStage_mapHart]

theorem State.commitGrp_mapHart (s : State) (c b : Nat) (op : LaneOp) (g : Grp) {m : Hart → Hart} (hm : Apart m) :
    (s.mapHart c b m).commitGrp c b op g = (s.commitGrp c b op g).mapHart c b m := by
  have h1 : (s.mapHart c b m).commitRegs c b op g = (s.commitRegs c b op g).mapHart c b m := by
    unfold State.commitRegs
    cases op.d with
    | none => rfl
    | some d => cases op.d2 <;> simp [State.commitReg_mapHart]
  have h2 : ∀ t : State, (t.mapHart c b m).commitMask c b op g = (t.commitMask c b op g).mapHart c b m := by
    intro t
    unfold State.commitMask
    cases op.m <;> simp [State.setBank_mapHart]
  simp only [State.commitGrp, h1, h2]
  simp [State.joinGrp, State.mapHart, hm.group]

theorem State.foldl_mapHart {α : Type} (f : State → α → State) (c b : Nat) (m : Hart → Hart)
    (hf : ∀ s a, f (s.mapHart c b m) a = (f s a).mapHart c b m) (l : List α) (s : State) :
    l.foldl f (s.mapHart c b m) = (l.foldl f s).mapHart c b m := by
  induction l generalizing s with
  | nil => rfl
  | cons a l ih => simp only [List.foldl_cons, hf, ih]

theorem State.endDests_mapHart (s : State) (c b : Nat) (op : LaneOp) (m : Hart → Hart) :
    (s.mapHart c b m).endDests c b op = (s.endDests c b op).mapHart c b m :=
  State.foldl_mapHart _ c b m (fun t r => by simp [State.endWrite, State.setReg_mapHart]) _ s

theorem AtEnd.apply_mapHart (f : AtEnd) (c b : Nat) (s : State) {m : Hart → Hart} (hm : Apart m) :
    f.apply c b (s.mapHart c b m) = (f.apply c b s).mapHart c b m := by
  have h0 : (s.mapHart c b m).setHart c b (f.onHart ((s.mapHart c b m).hart c b)) =
      (s.setHart c b (f.onHart (s.hart c b))).mapHart c b m := by
    simp [State.mapHart, hm.atEnd]
  have h1 : ∀ t : State, f.onW7 c b (t.mapHart c b m) = (f.onW7 c b t).mapHart c b m := by
    intro t
    unfold AtEnd.onW7
    cases f.w7 <;> simp [State.setReg_mapHart, State.dropStage_mapHart]
  have h2 : ∀ t : State, f.onTile c (t.mapHart c b m) = (f.onTile c t).mapHart c b m := by
    intro t
    unfold AtEnd.onTile
    cases f.zeroTile with
    | none => rfl
    | some q => simp [State.mapHart, State.setTile, State.setHart, State.hart, Core.setHart, Core.setTile, Core.hart, State.tile, Core.tile]
  simp only [AtEnd.apply, h0, h1, h2]

theorem State.committed_mapHart (s : State) (c b : Nat) (op : LaneOp) (gs : List Grp) {m : Hart → Hart} (hm : Apart m) :
    (s.mapHart c b m).committed c b op gs = (s.committed c b op gs).mapHart c b m := by
  unfold State.committed
  rw [State.foldl_mapHart _ c b m (fun t g => State.commitGrp_mapHart t c b op g hm), State.endDests_mapHart,
    AtEnd.apply_mapHart _ _ _ _ hm]

theorem sameCore_committed (s : State) (c b : Nat) (op : LaneOp) (gs : List Grp) :
    SameCore c s (s.committed c b op gs) :=
  ((sameCore_foldl _ c (fun t g => sameCore_commitGrp t c b op g) gs s).trans (sameCore_endDests _ c b op)).trans
    (sameCore_apply op.fin c b _)

/-! ## The commit buffer -/

/-- A lane operation whose groups agree at every recheck ends with all of them committed in ascending order. -/
theorem Op.settle_lane (o : Op) (ho : o.poll = lanePoll) (c b : Nat) (op : LaneOp) (hop : op.again = false)
    (hfin : op.fin.trap = none) (hleft : op.left = []) (n : Nat) (todo buf : List Grp) (s : State)
    (hp : (s.hart c b).pend = some (.lane { op with todo := todo, buf := buf }))
    (hn : 2 * todo.length + buf.length + 1 < n) (hb : buf.length ≤ Config.commitBufferSize)
    (hne : ¬(todo = [] ∧ buf = []))
    (hpol : (s.core c).idlePolicy = false) (ht : (s.core c).traceOn = false) :
    o.settle true c b n s = .ok ((s.committed c b op (buf ++ todo)).setPend c b none) .next := by
  have step : ∀ (n : Nat) (s s' : State) (q : LaneOp), (s.hart c b).pend = some (.lane q) →
      s.laneCycle c b q true = s' → o.settle true c b (n + 1) s = o.settle true c b n s' := by
    intro n s s' q hq hs
    simp only [Op.settle, hq, Op.pollOne, ho, lanePoll, if_true, hs, HRes.walks]
  have fin : ∀ (n : Nat) (s : State) (q : LaneOp), q.fin = op.fin → q.d = op.d → q.d2 = op.d2 → q.m = op.m →
      (s.core c).traceOn = false →
      o.settle true c b (n + 1) (s.endLane c b q) =
        .ok ((s.committed c b op []).setPend c b none) .next := by
    intro n s q h1 h2 h3 h4 h5
    have e1 : s.endDests c b q = s.endDests c b op := by simp [State.endDests, LaneOp.dests, h1, h2, h3]
    have e2 : (s.endDests c b op).traceMask c b q.m = s.endDests c b op := by
      have : ((s.endDests c b op).core c).traceOn = false := (sameCore_endDests s c b op).trace.trans h5
      unfold State.traceMask
      cases q.m with
      | none => rfl
      | some m => exact State.traceAdd_off _ _ _ this
    have e3 : s.endLane c b q = (op.fin.apply c b (s.endDests c b op)).setPend c b (some .done) := by
      unfold State.endLane State.retireLane
      simp only [e1, h1, hfin, e2]
    simp only [e3, Op.settle, State.pend_setPend, Op.pollOne, State.setPend_setPend, HRes.walks]
    rfl
  induction n generalizing todo buf s with
  | zero => omega
  | succ n ih =>
    -- a recheck of the oldest group
    have recheck : ∀ (g : Grp) (rest : List Grp), buf = g :: rest →
        s.laneCycle c b { op with todo := todo, buf := buf } true =
          (s.commitGrp c b op g).setLane c b { op with todo := todo, buf := rest } →
        o.settle true c b (n + 1) s = .ok ((s.committed c b op (buf ++ todo)).setPend c b none) .next := by
      intro g rest hbuf hc
      rw [step n s _ _ hp hc]
      have hk := sameCore_commitGrp s c b op g
      subst hbuf
      unfold State.setLane
      by_cases he : todo = [] ∧ rest = []
      · rw [if_pos ⟨he.1, he.2, hleft⟩]
        obtain ⟨rfl, rfl⟩ := he
        obtain ⟨m, rfl⟩ : ∃ m, n = m + 1 := ⟨n - 1, by simp at hn; omega⟩
        rw [fin m (s.commitGrp c b op g) { op with todo := [], buf := [] } rfl rfl rfl rfl (hk.trace.trans ht)]
        rfl
      · rw [if_neg fun h => he ⟨h.1, h.2.1⟩]
        have := ih todo rest ((s.commitGrp c b op g).setPend c b (some (.lane { op with todo := todo, buf := rest })))
          (State.pend_setPend ..) (by simp at hn; omega) (by simp at hb; omega) he
          (by simpa [State.setPend, Core.idlePolicy, hk.flags] using hpol)
          (by simpa [State.setPend, hk.trace] using ht)
        rw [this, State.setPend_eq (s.commitGrp c b op g), State.committed_mapHart _ _ _ _ _ (apart_pend _),
          ← State.setPend_eq, State.setPend_setPend]
        rfl
    cases todo with
    | nil =>
      cases buf with
      | nil => exact absurd ⟨rfl, rfl⟩ hne
      | cons g rest =>
        refine recheck g rest rfl ?_
        simp [State.laneCycle, hop]
        rfl
    | cons g t =>
      by_cases hlen : buf.length < Config.commitBufferSize
      · have hc : s.laneCycle c b { op with todo := g :: t, buf := buf } true =
            s.setPend c b (some (.lane { op with todo := t, buf := buf ++ [g] })) := by
          simp [State.laneCycle, hop, hlen, State.setLane]
        rw [step n s _ _ hp hc]
        have := ih t (buf ++ [g]) (s.setPend c b (some (.lane { op with todo := t, buf := buf ++ [g] })))
          (State.pend_setPend ..) (by simp at hn ⊢; omega) (by simp; omega) (by simp)
          (by simpa [State.setPend, Core.idlePolicy] using hpol) (by simpa [State.setPend] using ht)
        rw [this, State.setPend_eq s, State.committed_mapHart _ _ _ _ _ (apart_pend _), ← State.setPend_eq,
          State.setPend_setPend]
        simp
      · cases buf with
        | nil => simp [Config.commitBufferSize] at hlen
        | cons h rest =>
          refine recheck h rest rfl ?_
          simp only [State.laneCycle, hop]
          rw [if_neg (by simp), if_neg hlen, if_neg (by simp [hpol])]
          rfl

/-! ## Vector words -/

/-- The groups of a plan lie within the register, so none is cut off. -/
theorem groupsFrom_lt (lo w : Nat) (es : List ElemRes) :
    (groupsFrom lo w es).filter (fun g => decide (g.g < 32)) = groupsFrom lo w es := by
  refine List.filter_eq_self.2 fun g hg => ?_
  obtain ⟨i, hi, h⟩ := List.mem_filterMap.1 hg
  have hlt := List.mem_range.1 hi
  split_ifs at h
  simp at h
  subst h
  simpa using hlt

theorem groupsFrom_length (lo w : Nat) (es : List ElemRes) : (groupsFrom lo w es).length ≤ 32 :=
  (List.length_filterMap_le _ _).trans (by simp)

theorem State.retired_mapPend (s : State) (c b : Nat) (p : Option Pend) (go : Go) :
    (s.setPend c b p).retired c b go = s.retired c b go := by
  simp [State.retired, State.setPend, Hart.clean]

theorem sameCore_tagged (q : Plan) (s : State) (c b : Nat) : SameCore c s (q.tagged s c b) := by
  unfold Plan.tagged
  cases q.retag with
  | none => exact SameCore.refl c s
  | some r => exact sameCore_setReg ..

theorem sameCore_opened (q : Plan) (s : State) (c b : Nat) : SameCore c s (q.opened s c b) := by
  have h1 : SameCore c s (match q.lane.d with
      | some d => (q.tagged s c b).beginWrite c b d q.view.egi
      | none => q.tagged s c b) := by
    cases q.lane.d with
    | none => exact sameCore_tagged ..
    | some d => exact (sameCore_tagged q s c b).trans (sameCore_setReg ..)
  unfold Plan.opened
  simp only
  split_ifs
  · exact h1.trans (sameCore_setReg ..)
  · exact h1

/-- A plan that nothing stops is issued with all its groups. -/
theorem Plan.start_work {q : Plan} {s : State} {c b : Nat} (h : q.Runs s c b) :
    q.start s c b = .work ((q.opened s c b).setLane c b
      { q.laneOp with todo := groupsFrom q.view.egi q.lane.w q.es }) := by
  have hn : (if q.view.rm.nantrap then nanGroup q.view.egi q.lane.w q.es else none) = none := by
    split_ifs with hx
    · exact h.noNan hx
    · rfl
  have hl := h.lines
  unfold Plan.start
  simp only [h.takes, h.ready, h.noLate, State.issueLane, hn, hl, groupsFrom_lt, Plan.opened]
  rfl

/-- A vector word whose operands are permitted and that nothing stops, on a ready hart: every group is committed, in
ascending order, and the word retires. -/
theorem LaneWord.exec_runs (x : LaneWord) {s : State} {c b : Nat} (h : Ready s c b x.p) (hg : x.g = false)
    (hc : firstRefused (x.checks s s c b) = none) (hr : x.refuse s s c b = none) (hq : (x.plan s s c b).Runs s c b)
    (hpol : (s.core c).idlePolicy = false) : x.exec s = .next (s.laneDone c b (x.plan s s c b)) := by
  generalize hQ : x.plan s s c b = q at hq ⊢
  have ha : x.op.act s s c b = .work ((q.opened s c b).setLane c b
      { q.laneOp with todo := groupsFrom q.view.egi q.lane.w q.es }) := by
    simp only [LaneWord.op, LaneWord.act, hc, hr, hQ]
    exact Plan.start_work hq
  have ho := sameCore_opened q s c b
  have key : ∀ w : State, (q.opened s c b).setLane c b
        { q.laneOp with todo := groupsFrom q.view.egi q.lane.w q.es } = w →
      w.stepwise = false ∧ x.op.settle true c b pollFuel (w.marked c b (x.op.note s c b)) =
        .ok ((((q.opened s c b).committed c b q.laneOp (groupsFrom q.view.egi q.lane.w q.es)).setPend c b none).marked
          c b (x.op.note s c b)) .next := by
    intro w hw
    by_cases he : groupsFrom q.view.egi q.lane.w q.es = []
    · have h1 : w = ((q.opened s c b).committed c b q.laneOp []).setPend c b (some .done) := by
        rw [← hw, State.setLane, if_pos ⟨he, rfl, rfl⟩, State.endLane, State.retireLane]
        have h2 : ((q.opened s c b).endDests c b q.laneOp).traceMask c b q.lane.m =
            (q.opened s c b).endDests c b q.laneOp := by
          have ht := (ho.trans (sameCore_endDests (q.opened s c b) c b q.laneOp)).trace.trans h.noTrace
          unfold State.traceMask
          cases q.lane.m with
          | none => rfl
          | some m => exact State.traceAdd_off _ _ _ ht
        have h3 : (q.opened s c b).endDests c b { q.laneOp with todo := groupsFrom q.view.egi q.lane.w q.es } =
            (q.opened s c b).endDests c b q.laneOp := rfl
        rw [h3]
        have h4 : q.laneOp.fin.trap = none := hq.noTrap
        have h5 : q.laneOp.m = q.lane.m := rfl
        simp only [h4, h5, h2]
        rfl
      have hk := ho.trans (sameCore_committed (q.opened s c b) c b q.laneOp [])
      refine ⟨?_, ?_⟩
      · rw [h1]; exact hk.stepwise.trans h.whole
      · rw [h1, he]
        simp [pollFuel, Op.settle, State.marked, State.setPend, Op.pollOne, HRes.walks]
    · have h1 : w = (q.opened s c b).setPend c b
          (some (.lane { q.laneOp with todo := groupsFrom q.view.egi q.lane.w q.es })) := by
        rw [← hw, State.setLane, if_neg (fun hh => he hh.1)]
      refine ⟨by rw [h1]; exact ho.stepwise.trans h.whole, ?_⟩
      have hl := groupsFrom_length q.view.egi q.lane.w q.es
      have := Op.settle_lane x.op rfl c b q.laneOp rfl hq.noTrap rfl pollFuel (groupsFrom q.view.egi q.lane.w q.es) []
        (w.marked c b (x.op.note s c b)) (by rw [h1]; simp [State.marked]; rfl)
        (by simp [pollFuel]; omega) (by simp) (by simp [he])
        (by rw [h1]; simpa [State.marked, State.setPend, Core.idlePolicy, ho.flags] using hpol)
        (by rw [h1]; simpa [State.marked, State.setPend, ho.trace] using h.noTrace)
      rw [this, h1, State.marked_eq, State.committed_mapHart _ _ _ _ _ (apart_mark _), State.setPend_eq (q.opened s c b),
        State.committed_mapHart _ _ _ _ _ (apart_pend _)]
      simp [State.mapHart, State.marked, State.setPend]
  obtain ⟨h1, h2⟩ := key _ rfl
  have hk := ho.trans (sameCore_committed (q.opened s c b) c b q.laneOp (groupsFrom q.view.egi q.lane.w q.es))
  have hrun : x.op.run s s c b = .ok ((((q.opened s c b).committed c b q.laneOp
      (groupsFrom q.view.egi q.lane.w q.es)).setPend c b none).marked c b (x.op.note s c b)) .next := by
    rw [Op.run_ready x.op h, ha]
    simp only [HRes.walks, h1, h2, Bool.false_eq_true, if_false]
  have hlock : x.op.lock = false := hg
  unfold LaneWord.exec
  rw [Op.exec_split _ h.gang, h.core, h.bank]
  simp only [Op.execSplit, hlock, hrun, Bool.false_eq_true, if_false]
  have hs := hk.stands b
  have hm := State.marked_stands (((q.opened s c b).committed c b q.laneOp
    (groupsFrom q.view.egi q.lane.w q.es)).setPend c b none) c b (x.op.note s c b) (x.op.goes .next)
  have hp : ∀ (t : State) (go : Go), ((t.setPend c b none).hart c b).young = (t.hart c b).young ∧
      ((t.setPend c b none).hart c b).leaves go = (t.hart c b).leaves go := fun t go => by
    cases go <;> simp [State.setPend, Hart.leaves, Hart.wordIdx, Hart.blockLen, Hart.blockVa, Hart.passesLeft]
  rw [State.retire_quiet _ _ _ (by simpa [State.marked, State.setPend, hk.trace] using h.noTrace)
    (by simpa [State.marked, State.setPend, hk.ct] using h.noRing) (by rw [hm.1, (hp _ .next).1, hs.1]; exact h.alone)
    (by unfold Hart.Near; rw [hm.2, (hp _ _).2, hs.2]; exact Hart.near_of_inside _ x.op.goes_next h.inside),
    State.retired_marked, State.retired_mapPend]
  rfl

theorem LaneWord.Goes.exec {x : LaneWord} {s : State} {c b : Nat} (h : x.Goes s c b) : x.exec s = .next (x.done s c b) :=
  x.exec_runs h.ready h.alone h.permitted h.accepted h.runs h.full

end Sys2Proof.Machine
end

