-- ==== Sys2Proof/Laws/Mem.lean ====
section
/-! SUPPORT. Byte memory: every operation keeps the canonical form, a read after a write gives the bytes written, and
every other byte stays. -/

namespace Sys2Proof.Machine

/-! ## The canonical form -/

/-- The canonical form without its boolean: addresses strictly rising, no entry that reads as an unlisted byte. -/
theorem Mem.wf_iff (m : Mem) :
    m.wf = true ↔ m.Pairwise (fun a b => a.1 < b.1) ∧ ∀ e ∈ m, e.2 ≠ unlisted := by
  induction m with
  | nil => simp [Mem.wf]
  | cons e t ih => match t with
    | [] => simp [Mem.wf]
    | f :: t =>
      simp only [Mem.wf, Bool.and_eq_true, bne_iff_ne, decide_eq_true_eq, ih, List.pairwise_cons, List.forall_mem_cons]
      exact ⟨fun h => ⟨⟨⟨h.1.2, fun c hc => h.1.2.trans (h.2.1.1 c hc)⟩, h.2.1⟩, h.1.1, h.2.2⟩,
        fun h => ⟨⟨h.2.1, h.1.1.1⟩, h.1.2, h.2.2⟩⟩

/-- What setting a byte leaves listed. -/
theorem Mem.mem_set {m : Mem} {a : Nat} {x : Byte} {e : Host.Cell} (h : e ∈ m.set a x) :
    e ∈ m ∨ (e = (a, x) ∧ x ≠ unlisted) := by
  induction m with
  | nil => simp only [Mem.set] at h; split_ifs at h <;> simp_all
  | cons f t ih =>
    simp only [Mem.set] at h
    split_ifs at h <;> simp only [List.mem_cons] at h ⊢ <;> tauto

/-- Setting a byte keeps the canonical form. -/
theorem Mem.wf_set {m : Mem} (h : m.wf = true) (a : Nat) (x : Byte) : (m.set a x).wf = true := by
  rw [Mem.wf_iff] at h ⊢
  refine ⟨?_, fun e he => (Mem.mem_set he).elim (h.2 e) fun k => k.1 ▸ k.2⟩
  replace h := h.1
  induction m with
  | nil => simp only [Mem.set]; split_ifs <;> simp
  | cons f t ih =>
    obtain ⟨low, rise⟩ := List.pairwise_cons.1 h
    simp only [Mem.set]
    split_ifs with h1 h2 h3 h4
    · exact h
    · exact h.cons (List.forall_mem_cons.2 ⟨h1, fun e he => h1.trans (low e he)⟩)
    · exact rise
    · exact rise.cons (h3 ▸ low)
    · refine (ih rise).cons fun e he => (Mem.mem_set he).elim (low e) fun k => ?_
      rw [k.1]; show f.1 < a; omega


/-- Writing bytes keeps the canonical form. -/
theorem Mem.wf_write {m : Mem} (h : m.wf = true) (a n v : Nat) : (m.write a n v).wf = true := by
  induction n generalizing m a v with
  | zero => exact h
  | succ n ih => exact ih (Mem.wf_set h a _) _ _

/-- The cells of a row are in canonical form, and lie within it. -/
theorem rowCells_spec (a k v : Nat) :
    (rowCells a k v).Pairwise (fun x y => x.1 < y.1) ∧
      ∀ e ∈ rowCells a k v, e.2 ≠ unlisted ∧ a ≤ e.1 ∧ e.1 < a + 2 ^ k := by
  induction k generalizing a v with
  | zero =>
    unfold rowCells
    by_cases h : v % 256 = 0
    · simp [h]
    · have hz : BitVec.ofNat 8 v ≠ unlisted := fun hz => h (by simpa [unlisted] using congrArg BitVec.toNat hz)
      simpa [h] using hz
  | succ k ih =>
    unfold rowCells
    by_cases h : v = 0
    · simp [h]
    · have lo := ih a (v % 2 ^ (8 * 2 ^ k))
      have hi := ih (a + 2 ^ k) (v / 2 ^ (8 * 2 ^ k))
      have pos := Nat.two_pow_pos k
      simp only [if_neg h, List.pairwise_append, List.forall_mem_append]
      exact ⟨⟨lo.1, hi.1, fun x hx y hy => (lo.2 x hx).2.2.trans_le (hi.2 y hy).2.1⟩,
        fun e he => ⟨(lo.2 e he).1, (lo.2 e he).2.1, by have := (lo.2 e he).2.2; omega⟩,
        fun e he => ⟨(hi.2 e he).1, by have := (hi.2 e he).2.1; omega, by have := (hi.2 e he).2.2; omega⟩⟩

/-- Placing a row keeps the canonical form. -/
theorem Mem.wf_place {m : Mem} (h : m.wf = true) (a k v : Nat) : (m.place a k v).wf = true := by
  rw [Mem.wf_iff] at h ⊢
  have row := rowCells_spec a k v
  have below : ∀ x ∈ m.filter (fun c => decide (c.1 < a)), x.1 < a := fun x hx => by simpa using (List.mem_filter.1 hx).2
  have above : ∀ x ∈ m.filter (fun c => decide (a + 2 ^ k ≤ c.1)), a + 2 ^ k ≤ x.1 := fun x hx => by
    simpa using (List.mem_filter.1 hx).2
  have kept : ∀ p : Host.Cell → Bool, ∀ x ∈ m.filter p, x.2 ≠ unlisted := fun p x hx => h.2 x (List.mem_of_mem_filter hx)
  simp only [Mem.place, List.pairwise_append, List.forall_mem_append]
  refine ⟨⟨h.1.filter _, ⟨row.1, h.1.filter _, fun x hx y hy => (row.2 x hx).2.2.trans_le (above y hy)⟩, fun x hx => ⟨?_, ?_⟩⟩,
    kept _, fun x hx => (row.2 x hx).1, kept _⟩
  · exact fun y hy => (below x hx).trans_le (row.2 y hy).2.1
  · exact fun y hy => ((below x hx).trans_le (Nat.le_add_right _ _)).trans_le (above y hy)

/-! ## Reading after writing -/

/-- Where no entry lists an address, it reads as unlisted. -/
theorem Mem.get_of_absent {m : Mem} {a : Nat} (h : ∀ e ∈ m, e.1 ≠ a) : m.get a = unlisted := by
  induction m with
  | nil => rfl
  | cons e t ih =>
    obtain ⟨here, rest⟩ := List.forall_mem_cons.1 h
    simpa [Mem.get, here] using ih rest

/-- The byte set is read back, where the addresses rise. -/
theorem Mem.get_set_self {m : Mem} (h : m.wf = true) (a : Nat) (x : Byte) : (m.set a x).get a = x := by
  replace h := ((Mem.wf_iff m).1 h).1
  induction m with
  | nil => simp only [Mem.set]; split_ifs with hx <;> simp [Mem.get, hx]
  | cons f t ih =>
    obtain ⟨low, rise⟩ := List.pairwise_cons.1 h
    simp only [Mem.set]
    split_ifs with h1 h2 h3 h4
    · rw [h2]
      exact Mem.get_of_absent (List.forall_mem_cons.2 ⟨h1.ne', fun e he => (h1.trans (low e he)).ne'⟩)
    · simp [Mem.get]
    · rw [h4]
      exact Mem.get_of_absent fun e he => h3 ▸ (low e he).ne'
    · simp [Mem.get]
    · simpa [Mem.get, h3] using ih rise

/-- A byte set elsewhere leaves this one. -/
theorem Mem.get_set_of_ne (m : Mem) {a b : Nat} (x : Byte) (h : b ≠ a) : (m.set a x).get b = m.get b := by
  induction m with
  | nil => simp only [Mem.set]; split_ifs <;> simp [Mem.get, h.symm]
  | cons f t ih => simp only [Mem.set]; split_ifs with h1 h2 h3 h4 <;> simp_all [Mem.get, Ne.symm h]

/-- Bytes outside the written range stay. -/
theorem Mem.get_write_outside (m : Mem) (a n v b : Nat) (h : b < a ∨ a + n ≤ b) : (m.write a n v).get b = m.get b := by
  induction n generalizing m a v with
  | zero => rfl
  | succ n ih =>
    rw [Mem.write, ih _ _ _ (by omega), Mem.get_set_of_ne _ _ (by omega)]

/-- Each byte of the written range is the number's byte there (R5). -/
theorem Mem.get_write_inside {m : Mem} (hm : m.wf = true) (a n v i : Nat) (h : i < n) :
    (m.write a n v).get (a + i) = BitVec.ofNat 8 (v / 256 ^ i) := by
  induction n generalizing m a v i with
  | zero => omega
  | succ n ih =>
    rw [Mem.write]
    cases i with
    | zero => rw [Mem.get_write_outside _ _ _ _ _ (by omega)]; simpa using Mem.get_set_self hm a _
    | succ i =>
      have := ih (Mem.wf_set hm a (BitVec.ofNat 8 v)) (a + 1) (v / 256) i (by omega)
      rw [show a + (i + 1) = a + 1 + i by omega, this, Nat.div_div_eq_div_mul, pow_succ, mul_comm]

/-- Reading back what was written. -/
theorem Mem.read_write {m : Mem} (hm : m.wf = true) (a n v : Nat) : (m.write a n v).read a n = v % 256 ^ n := by
  have key : ∀ (n : Nat) (M : Mem) (b w : Nat), (∀ i, i < n → M.get (b + i) = BitVec.ofNat 8 (w / 256 ^ i)) →
      M.read b n = w % 256 ^ n := by
    intro n
    induction n with
    | zero => intros; simp [Mem.read, Nat.mod_one]
    | succ n ih =>
      intro M b w hw
      have h0 := hw 0 (by omega)
      have hr := ih M (b + 1) (w / 256) fun i hi => by
        have := hw (i + 1) (by omega)
        rw [show b + 1 + i = b + (i + 1) by omega, this, Nat.div_div_eq_div_mul, pow_succ, mul_comm]
      simp only [Nat.add_zero, pow_zero, Nat.div_one] at h0
      simp only [Mem.read, hr, h0, BitVec.toNat_ofNat]
      rw [show (256 : Nat) ^ (n + 1) = 256 * 256 ^ n by ring, Nat.mod_mul]
  exact key n _ a v fun i hi => Mem.get_write_inside hm a n v i hi

end Sys2Proof.Machine
end

