-- ==== Sys2Proof/Laws/PerInstr.lean ====
section
/-! SUPPORT. A fact about every instruction's word: it fits the 32 bits of a word (R163, R123). -/

namespace Sys2Proof

theorem bnat_le (b : Bool) : bnat b ≤ 1 := by cases b <;> decide

theorem S3.enc_le (o : S3) : o.enc ≤ 67092608 := by
  have := o.d.isLt
  have := o.a.isLt
  have := o.b.isLt
  have := bnat_le o.p
  simp only [S3.enc]; omega

theorem SI.enc_le (o : SI) : o.enc ≤ 67108863 := by
  have := o.d.isLt
  have := o.a.isLt
  have := o.i.isLt
  simp only [SI.enc]; omega

theorem SH.enc_le (o : SH) : o.enc ≤ 66846783 := by
  have := o.d.isLt
  have := o.a.isLt
  have := o.s.isLt
  simp only [SH.enc]; omega

theorem LI.enc_le (o : LI) : o.enc ≤ 67108863 := by
  have := o.d.isLt
  have := o.i.isLt
  simp only [LI.enc]; omega

theorem BR.enc_le (o : BR) : o.enc ≤ 66879487 := by
  have := o.a.isLt
  have := o.b.isLt
  have := o.o.isLt
  simp only [BR.enc]; omega

theorem JL.enc_le (o : JL) : o.enc ≤ 67108863 := by
  have := o.l.isLt
  have := o.o.isLt
  simp only [JL.enc]; omega

theorem R1.enc_le (o : R1) : o.enc ≤ 62914688 := by
  have := o.r.isLt
  have := bnat_le o.p
  simp only [R1.enc]; omega

theorem P0.enc_le (o : P0) : o.enc ≤ 128 := by
  have := bnat_le o.p
  simp only [P0.enc]; omega

theorem N10.enc_le (o : N10) : o.enc ≤ 262016 := by
  have := o.n.isLt
  have := bnat_le o.p
  simp only [N10.enc]; omega

theorem PS.enc_le (o : PS) : o.enc ≤ 66848512 := by
  have := o.a.isLt
  have := o.b.isLt
  have := o.c.isLt
  simp only [PS.enc]; omega

theorem LK.enc_le (o : LK) : o.enc ≤ 62915456 := by
  have := o.r.isLt
  have := o.k.isLt
  have := bnat_le o.p
  simp only [LK.enc]; omega

theorem RT.enc_le (o : RT) : o.enc ≤ 62918528 := by
  have := o.r.isLt
  have := o.t.isLt
  have := bnat_le o.p
  simp only [RT.enc]; omega

theorem SV.enc_le (o : SV) : o.enc ≤ 66854784 := by
  have := o.d.isLt
  have := o.a.isLt
  have := o.t.isLt
  have := bnat_le o.g
  have := bnat_le o.p
  simp only [SV.enc]; omega

theorem RM.enc_le (o : RM) : o.enc ≤ 16256 := by
  have := o.r.isLt
  have := bnat_le o.e
  have := bnat_le o.n
  have := bnat_le o.s
  have := bnat_le o.p
  simp only [RM.enc]; omega

theorem R2.enc_le (o : R2) : o.enc ≤ 66846848 := by
  have := o.d.isLt
  have := o.a.isLt
  have := bnat_le o.p
  simp only [R2.enc]; omega

theorem RW.enc_le (o : RW) : o.enc ≤ 33293440 := by
  have := o.k.isLt
  have := o.a.isLt
  have := bnat_le o.g
  have := bnat_le o.p
  simp only [RW.enc]; omega

theorem KG.enc_le (o : KG) : o.enc ≤ 29361280 := by
  have := o.k.isLt
  have := bnat_le o.g
  have := bnat_le o.p
  simp only [KG.enc]; omega

theorem KN.enc_le (o : KN) : o.enc ≤ 29474944 := by
  have := o.k.isLt
  have := o.n.isLt
  have := bnat_le o.p
  simp only [KN.enc]; omega

theorem HD.enc_le (o : HD) : o.enc ≤ 16760960 := by
  have := o.n.isLt
  have := o.a.isLt
  have := o.b.isLt
  have := bnat_le o.p
  simp only [HD.enc]; omega

theorem HK.enc_le (o : HK) : o.enc ≤ 30147712 := by
  have := o.k.isLt
  have := o.n.isLt
  have := bnat_le o.g
  have := bnat_le o.p
  simp only [HK.enc]; omega

theorem HP.enc_le (o : HP) : o.enc ≤ 16515200 := by
  have := o.n.isLt
  have := o.r.isLt
  have := bnat_le o.p
  simp only [HP.enc]; omega

theorem V3.enc_le (o : V3) : o.enc ≤ 67108736 := by
  have := o.d.isLt
  have := o.a.isLt
  have := o.b.isLt
  have := o.m.isLt
  have := o.f.isLt
  have := bnat_le o.g
  have := bnat_le o.p
  simp only [V3.enc]; omega

theorem V2.enc_le (o : V2) : o.enc ≤ 66862208 := by
  have := o.d.isLt
  have := o.a.isLt
  have := o.m.isLt
  have := bnat_le o.g
  have := bnat_le o.p
  simp only [V2.enc]; omega

theorem VS.enc_le (o : VS) : o.enc ≤ 63176576 := by
  have := o.d.isLt
  have := o.b.isLt
  have := o.m.isLt
  have := o.f.isLt
  have := bnat_le o.g
  have := bnat_le o.p
  simp only [VS.enc]; omega

theorem VE.enc_le (o : VE) : o.enc ≤ 67093632 := by
  have := o.d.isLt
  have := o.a.isLt
  have := o.b.isLt
  have := bnat_le o.g
  have := bnat_le o.p
  simp only [VE.enc]; omega

theorem TW.enc_le (o : TW) : o.enc ≤ 67093248 := by
  have := o.d.isLt
  have := o.a.isLt
  have := o.b.isLt
  have := o.f.isLt
  simp only [TW.enc]; omega

theorem TX.enc_le (o : TX) : o.enc ≤ 66846720 := by
  have := o.d.isLt
  have := o.a.isLt
  simp only [TX.enc]; omega

theorem VC.enc_le (o : VC) : o.enc ≤ 67107968 := by
  have := o.d.isLt
  have := o.a.isLt
  have := o.b.isLt
  have := o.m.isLt
  have := bnat_le o.g
  have := bnat_le o.p
  simp only [VC.enc]; omega

theorem VF.enc_le (o : VF) : o.enc ≤ 67106944 := by
  have := o.d.isLt
  have := o.a.isLt
  have := o.b.isLt
  have := o.m.isLt
  have := bnat_le o.p
  simp only [VF.enc]; omega

theorem XF.enc_le (o : XF) : o.enc ≤ 67108736 := by
  have := o.a.isLt
  have := o.b.isLt
  have := o.s.isLt
  have := o.n.isLt
  have := bnat_le o.p
  simp only [XF.enc]; omega

theorem XW.enc_le (o : XW) : o.enc ≤ 63111296 := by
  have := o.d.isLt
  have := o.s.isLt
  have := bnat_le o.p
  simp only [XW.enc]; omega

theorem VM.enc_le (o : VM) : o.enc ≤ 33554304 := by
  have := o.d.isLt
  have := o.a.isLt
  have := o.b.isLt
  have := o.m.isLt
  have := o.f.isLt
  have := bnat_le o.g
  have := bnat_le o.p
  simp only [VM.enc]; omega

theorem VX.enc_le (o : VX) : o.enc ≤ 66911360 := by
  have := o.d.isLt
  have := o.a.isLt
  have := o.t.isLt
  have := o.m.isLt
  have := bnat_le o.g
  have := bnat_le o.p
  simp only [VX.enc]; omega

theorem VI.enc_le (o : VI) : o.enc ≤ 64764032 := by
  have := o.d.isLt
  have := o.a.isLt
  have := o.m.isLt
  have := bnat_le o.p
  simp only [VI.enc]; omega

theorem M3.enc_le (o : M3) : o.enc ≤ 31309952 := by
  have := o.d.isLt
  have := o.a.isLt
  have := o.b.isLt
  have := bnat_le o.p
  simp only [M3.enc]; omega

theorem M2.enc_le (o : M2) : o.enc ≤ 31195264 := by
  have := o.d.isLt
  have := o.a.isLt
  have := bnat_le o.p
  simp only [M2.enc]; omega

theorem M4.enc_le (o : M4) : o.enc ≤ 64749696 := by
  have := o.d.isLt
  have := o.a.isLt
  have := bnat_le o.p
  simp only [M4.enc]; omega

theorem MK.enc_le (o : MK) : o.enc ≤ 31441792 := by
  have := o.d.isLt
  have := o.a.isLt
  have := o.k.isLt
  have := o.f.isLt
  have := bnat_le o.p
  simp only [MK.enc]; omega

theorem M1.enc_le (o : M1) : o.enc ≤ 29360256 := by
  have := o.d.isLt
  have := bnat_le o.p
  simp only [M1.enc]; omega

theorem MV.enc_le (o : MV) : o.enc ≤ 33292416 := by
  have := o.d.isLt
  have := o.a.isLt
  have := bnat_le o.p
  simp only [MV.enc]; omega

theorem X3.enc_le (o : X3) : o.enc ≤ 67043456 := by
  have := o.q.isLt
  have := o.a.isLt
  have := o.b.isLt
  have := bnat_le o.p
  simp only [X3.enc]; omega

theorem XS.enc_le (o : XS) : o.enc ≤ 67107968 := by
  have := o.q.isLt
  have := o.a.isLt
  have := o.b.isLt
  have := o.x.isLt
  have := bnat_le o.s
  have := bnat_le o.n
  have := bnat_le o.p
  simp only [XS.enc]; omega

theorem XZ.enc_le (o : XZ) : o.enc ≤ 50332800 := by
  have := o.q.isLt
  have := bnat_le o.i
  have := bnat_le o.p
  simp only [XZ.enc]; omega

theorem XD.enc_le (o : XD) : o.enc ≤ 66062464 := by
  have := o.q.isLt
  have := o.d.isLt
  have := bnat_le o.z
  have := bnat_le o.p
  simp only [XD.enc]; omega

theorem XDW.enc_le (o : XDW) : o.enc ≤ 67045504 := by
  have := o.q.isLt
  have := o.d.isLt
  have := o.e.isLt
  have := bnat_le o.z
  have := bnat_le o.p
  simp only [XDW.enc]; omega

theorem XL.enc_le (o : XL) : o.enc ≤ 66060416 := by
  have := o.q.isLt
  have := o.a.isLt
  have := bnat_le o.p
  simp only [XL.enc]; omega

theorem XQ.enc_le (o : XQ) : o.enc ≤ 50331776 := by
  have := o.q.isLt
  have := bnat_le o.p
  simp only [XQ.enc]; omega

theorem TD.enc_le (o : TD) : o.enc ≤ 31309952 := by
  have := o.d.isLt
  have := o.k.isLt
  have := o.a.isLt
  have := bnat_le o.p
  simp only [TD.enc]; omega

theorem TM.enc_le (o : TM) : o.enc ≤ 31441024 := by
  have := o.d.isLt
  have := o.a.isLt
  have := o.s.isLt
  have := bnat_le o.p
  simp only [TM.enc]; omega

theorem TS.enc_le (o : TS) : o.enc ≤ 31441024 := by
  have := o.d.isLt
  have := o.k.isLt
  have := o.r.isLt
  have := bnat_le o.p
  simp only [TS.enc]; omega

theorem RD.enc_le (o : RD) : o.enc ≤ 67107584 := by
  have := o.d.isLt
  have := o.a.isLt
  have := o.b.isLt
  have := o.o.isLt
  have := o.s.isLt
  simp only [RD.enc]; omega

theorem CN.enc_le (o : CN) : o.enc ≤ 66977664 := by
  have := o.d.isLt
  have := o.b.isLt
  have := o.i.isLt
  have := bnat_le o.h
  have := bnat_le o.p
  simp only [CN.enc]; omega

theorem FN.enc_le (o : FN) : o.enc ≤ 3968 := by
  have := o.s.isLt
  have := o.k.isLt
  have := bnat_le o.p
  simp only [FN.enc]; omega

theorem LDo.enc_le (o : LDo) : o.enc ≤ 67108863 := by
  have := o.d.isLt
  have := o.a.isLt
  have := o.o.isLt
  have := o.w.isLt
  have := bnat_le o.q
  have := bnat_le o.u
  simp only [LDo.enc]; omega

theorem STo.enc_le (o : STo) : o.enc ≤ 67108859 := by
  have := o.d.isLt
  have := o.a.isLt
  have := o.o.isLt
  have := o.w.isLt
  have := bnat_le o.q
  simp only [STo.enc]; omega

theorem AM.enc_le (o : AM) : o.enc ≤ 67108480 := by
  have := o.d.isLt
  have := o.a.isLt
  have := o.b.isLt
  have := o.s.isLt
  have := o.o.isLt
  have := bnat_le o.w
  have := bnat_le o.p
  simp only [AM.enc]; omega

theorem XH.enc_le (o : XH) : o.enc ≤ 33537920 := by
  have := o.b.isLt
  have := o.a.isLt
  have := o.g.isLt
  have := o.d.isLt
  simp only [XH.enc]; omega

theorem CtM.encLoad_le (o : CtM) : o.encLoad ≤ 4294967171 := by
  have := o.f3.isLt
  have := o.r.isLt
  have := o.a.isLt
  have := o.i.isLt
  simp only [CtM.encLoad]; omega

theorem CtM.encStore_le (o : CtM) : o.encStore ≤ 4294967203 := by
  have := o.f3.isLt
  have := o.r.isLt
  have := o.a.isLt
  have := o.i.isLt
  simp only [CtM.encStore]; omega

theorem CtA.enc_le (o : CtA) : o.enc ≤ 4294950831 := by
  have := o.f5.isLt
  have := o.d.isLt
  have := o.a.isLt
  have := o.b.isLt
  have := bnat_le o.d64
  have := bnat_le o.rl
  have := bnat_le o.aq
  simp only [CtA.enc]; omega

/-- The word of an instruction is a 32-bit word. -/
def Laws.FitsWord.Statement (i : Instr) : Prop := ∀ w, encode i = some w → w < 2 ^ 32

theorem Laws.FitsWord.of_none {w : Nat} (h : (none : Option Nat) = some w) : w < 2 ^ 32 := nomatch h
theorem Laws.FitsWord.of_some {n w : Nat} (h : some n = some w) (hn : n < 2 ^ 32) : w < 2 ^ 32 := Option.some.inj h ▸ hn
theorem Laws.FitsWord.add (o) : Laws.FitsWord.Statement (.add o) := by
  intro w h; have := o.enc_le; exact Laws.FitsWord.of_some h (by omega)
theorem Laws.FitsWord.sub (o) : Laws.FitsWord.Statement (.sub o) := by
  intro w h; have := o.enc_le; exact Laws.FitsWord.of_some h (by omega)
theorem Laws.FitsWord.and (o) : Laws.FitsWord.Statement (.and o) := by
  intro w h; have := o.enc_le; exact Laws.FitsWord.of_some h (by omega)
theorem Laws.FitsWord.or (o) : Laws.FitsWord.Statement (.or o) := by
  intro w h; have := o.enc_le; exact Laws.FitsWord.of_some h (by omega)
theorem Laws.FitsWord.xor (o) : Laws.FitsWord.Statement (.xor o) := by
  intro w h; have := o.enc_le; exact Laws.FitsWord.of_some h (by omega)
theorem Laws.FitsWord.sll (o) : Laws.FitsWord.Statement (.sll o) := by
  intro w h; have := o.enc_le; exact Laws.FitsWord.of_some h (by omega)
theorem Laws.FitsWord.srl (o) : Laws.FitsWord.Statement (.srl o) := by
  intro w h; have := o.enc_le; exact Laws.FitsWord.of_some h (by omega)
theorem Laws.FitsWord.sra (o) : Laws.FitsWord.Statement (.sra o) := by
  intro w h; have := o.enc_le; exact Laws.FitsWord.of_some h (by omega)
theorem Laws.FitsWord.mul (o) : Laws.FitsWord.Statement (.mul o) := by
  intro w h; have := o.enc_le; exact Laws.FitsWord.of_some h (by omega)
theorem Laws.FitsWord.mulh (o) : Laws.FitsWord.Statement (.mulh o) := by
  intro w h; have := o.enc_le; exact Laws.FitsWord.of_some h (by omega)
theorem Laws.FitsWord.mulhu (o) : Laws.FitsWord.Statement (.mulhu o) := by
  intro w h; have := o.enc_le; exact Laws.FitsWord.of_some h (by omega)
theorem Laws.FitsWord.div (o) : Laws.FitsWord.Statement (.div o) := by
  intro w h; have := o.enc_le; exact Laws.FitsWord.of_some h (by omega)
theorem Laws.FitsWord.divu (o) : Laws.FitsWord.Statement (.divu o) := by
  intro w h; have := o.enc_le; exact Laws.FitsWord.of_some h (by omega)
theorem Laws.FitsWord.rem (o) : Laws.FitsWord.Statement (.rem o) := by
  intro w h; have := o.enc_le; exact Laws.FitsWord.of_some h (by omega)
theorem Laws.FitsWord.remu (o) : Laws.FitsWord.Statement (.remu o) := by
  intro w h; have := o.enc_le; exact Laws.FitsWord.of_some h (by omega)
theorem Laws.FitsWord.min (o) : Laws.FitsWord.Statement (.min o) := by
  intro w h; have := o.enc_le; exact Laws.FitsWord.of_some h (by omega)
theorem Laws.FitsWord.max (o) : Laws.FitsWord.Statement (.max o) := by
  intro w h; have := o.enc_le; exact Laws.FitsWord.of_some h (by omega)
theorem Laws.FitsWord.minu (o) : Laws.FitsWord.Statement (.minu o) := by
  intro w h; have := o.enc_le; exact Laws.FitsWord.of_some h (by omega)
theorem Laws.FitsWord.maxu (o) : Laws.FitsWord.Statement (.maxu o) := by
  intro w h; have := o.enc_le; exact Laws.FitsWord.of_some h (by omega)
theorem Laws.FitsWord.slt (o) : Laws.FitsWord.Statement (.slt o) := by
  intro w h; have := o.enc_le; exact Laws.FitsWord.of_some h (by omega)
theorem Laws.FitsWord.sltu (o) : Laws.FitsWord.Statement (.sltu o) := by
  intro w h; have := o.enc_le; exact Laws.FitsWord.of_some h (by omega)
theorem Laws.FitsWord.addi (o) : Laws.FitsWord.Statement (.addi o) := by
  intro w h; have := o.enc_le; exact Laws.FitsWord.of_some h (by omega)
theorem Laws.FitsWord.andi (o) : Laws.FitsWord.Statement (.andi o) := by
  intro w h; have := o.enc_le; exact Laws.FitsWord.of_some h (by omega)
theorem Laws.FitsWord.ori (o) : Laws.FitsWord.Statement (.ori o) := by
  intro w h; have := o.enc_le; exact Laws.FitsWord.of_some h (by omega)
theorem Laws.FitsWord.xori (o) : Laws.FitsWord.Statement (.xori o) := by
  intro w h; have := o.enc_le; exact Laws.FitsWord.of_some h (by omega)
theorem Laws.FitsWord.slli (o) : Laws.FitsWord.Statement (.slli o) := by
  intro w h; have := o.enc_le; exact Laws.FitsWord.of_some h (by omega)
theorem Laws.FitsWord.srli (o) : Laws.FitsWord.Statement (.srli o) := by
  intro w h; have := o.enc_le; exact Laws.FitsWord.of_some h (by omega)
theorem Laws.FitsWord.srai (o) : Laws.FitsWord.Statement (.srai o) := by
  intro w h; have := o.enc_le; exact Laws.FitsWord.of_some h (by omega)
theorem Laws.FitsWord.limm (o) : Laws.FitsWord.Statement (.limm o) := by
  intro w h; have := o.enc_le; exact Laws.FitsWord.of_some h (by omega)
theorem Laws.FitsWord.lshi (o) : Laws.FitsWord.Statement (.lshi o) := by
  intro w h; have := o.enc_le; exact Laws.FitsWord.of_some h (by omega)
theorem Laws.FitsWord.beq (o) : Laws.FitsWord.Statement (.beq o) := by
  intro w h; have := o.enc_le; exact Laws.FitsWord.of_some h (by omega)
theorem Laws.FitsWord.bne (o) : Laws.FitsWord.Statement (.bne o) := by
  intro w h; have := o.enc_le; exact Laws.FitsWord.of_some h (by omega)
theorem Laws.FitsWord.blt (o) : Laws.FitsWord.Statement (.blt o) := by
  intro w h; have := o.enc_le; exact Laws.FitsWord.of_some h (by omega)
theorem Laws.FitsWord.bge (o) : Laws.FitsWord.Statement (.bge o) := by
  intro w h; have := o.enc_le; exact Laws.FitsWord.of_some h (by omega)
theorem Laws.FitsWord.bltu (o) : Laws.FitsWord.Statement (.bltu o) := by
  intro w h; have := o.enc_le; exact Laws.FitsWord.of_some h (by omega)
theorem Laws.FitsWord.bgeu (o) : Laws.FitsWord.Statement (.bgeu o) := by
  intro w h; have := o.enc_le; exact Laws.FitsWord.of_some h (by omega)
theorem Laws.FitsWord.jal (o) : Laws.FitsWord.Statement (.jal o) := by
  intro w h; have := o.enc_le; exact Laws.FitsWord.of_some h (by omega)
theorem Laws.FitsWord.jalr (o) : Laws.FitsWord.Statement (.jalr o) := by
  intro w h; have := o.enc_le; exact Laws.FitsWord.of_some h (by omega)
theorem Laws.FitsWord.bfetch (o) : Laws.FitsWord.Statement (.bfetch o) := by
  intro w h; have := o.enc_le; exact Laws.FitsWord.of_some h (by omega)
theorem Laws.FitsWord.stop (o) : Laws.FitsWord.Statement (.stop o) := by
  intro w h; have := o.enc_le; exact Laws.FitsWord.of_some h (by omega)
theorem Laws.FitsWord.repb (o) : Laws.FitsWord.Statement (.repb o) := by
  intro w h; have := o.enc_le; exact Laws.FitsWord.of_some h (by omega)
theorem Laws.FitsWord.yield (o) : Laws.FitsWord.Statement (.yield o) := by
  intro w h; have := o.enc_le; exact Laws.FitsWord.of_some h (by omega)
theorem Laws.FitsWord.pset (o) : Laws.FitsWord.Statement (.pset o) := by
  intro w h; have := o.enc_le; exact Laws.FitsWord.of_some h (by omega)
theorem Laws.FitsWord.psetB0 (a) : Laws.FitsWord.Statement (.psetB0 a) := by
  intro w h; have := a.isLt; exact Laws.FitsWord.of_some h (by omega)
theorem Laws.FitsWord.pnot : Laws.FitsWord.Statement (.pnot) := by
  intro w h; exact Laws.FitsWord.of_some h (by omega)
theorem Laws.FitsWord.xsend (o) : Laws.FitsWord.Statement (.xsend o) := by
  intro w h; have := o.enc_le; exact Laws.FitsWord.of_some h (by omega)
theorem Laws.FitsWord.xrecv (o) : Laws.FitsWord.Statement (.xrecv o) := by
  intro w h; have := o.enc_le; exact Laws.FitsWord.of_some h (by omega)
theorem Laws.FitsWord.xpeek (o) : Laws.FitsWord.Statement (.xpeek o) := by
  intro w h; have := o.enc_le; exact Laws.FitsWord.of_some h (by omega)
theorem Laws.FitsWord.nop (o) : Laws.FitsWord.Statement (.nop o) := by
  intro w h; have := o.enc_le; exact Laws.FitsWord.of_some h (by omega)
theorem Laws.FitsWord.hrd (o) : Laws.FitsWord.Statement (.hrd o) := by
  intro w h; have := o.enc_le; exact Laws.FitsWord.of_some h (by omega)
theorem Laws.FitsWord.hwr (o) : Laws.FitsWord.Statement (.hwr o) := by
  intro w h; have := o.enc_le; exact Laws.FitsWord.of_some h (by omega)
theorem Laws.FitsWord.evt (o) : Laws.FitsWord.Statement (.evt o) := by
  intro w h; have := o.enc_le; exact Laws.FitsWord.of_some h (by omega)
theorem Laws.FitsWord.trapi (o) : Laws.FitsWord.Statement (.trapi o) := by
  intro w h; have := o.enc_le; exact Laws.FitsWord.of_some h (by omega)
theorem Laws.FitsWord.brk (o) : Laws.FitsWord.Statement (.brk o) := by
  intro w h; have := o.enc_le; exact Laws.FitsWord.of_some h (by omega)
theorem Laws.FitsWord.vcfg (o) : Laws.FitsWord.Statement (.vcfg o) := by
  intro w h; have := o.enc_le; exact Laws.FitsWord.of_some h (by omega)
theorem Laws.FitsWord.setvl (o) : Laws.FitsWord.Statement (.setvl o) := by
  intro w h; have := o.enc_le; exact Laws.FitsWord.of_some h (by omega)
theorem Laws.FitsWord.setrm (o) : Laws.FitsWord.Statement (.setrm o) := by
  intro w h; have := o.enc_le; exact Laws.FitsWord.of_some h (by omega)
theorem Laws.FitsWord.mmode (o) : Laws.FitsWord.Statement (.mmode o) := by
  intro w h; have := o.enc_le; exact Laws.FitsWord.of_some h (by omega)
theorem Laws.FitsWord.mmodeOff (o) : Laws.FitsWord.Statement (.mmodeOff o) := by
  intro w h; have := o.enc_le; exact Laws.FitsWord.of_some h (by omega)
theorem Laws.FitsWord.mmodeRd (o) : Laws.FitsWord.Statement (.mmodeRd o) := by
  intro w h; have := o.enc_le; exact Laws.FitsWord.of_some h (by omega)
theorem Laws.FitsWord.vtag (o) : Laws.FitsWord.Statement (.vtag o) := by
  intro w h; have := o.enc_le; exact Laws.FitsWord.of_some h (by omega)
theorem Laws.FitsWord.vtagRd (o) : Laws.FitsWord.Statement (.vtagRd o) := by
  intro w h; have := o.enc_le; exact Laws.FitsWord.of_some h (by omega)
theorem Laws.FitsWord.act (o) : Laws.FitsWord.Statement (.act o) := by
  intro w h; have := o.enc_le; exact Laws.FitsWord.of_some h (by omega)
theorem Laws.FitsWord.wb (o) : Laws.FitsWord.Statement (.wb o) := by
  intro w h; have := o.enc_le; exact Laws.FitsWord.of_some h (by omega)
theorem Laws.FitsWord.wbp (o) : Laws.FitsWord.Statement (.wbp o) := by
  intro w h; have := o.enc_le; exact Laws.FitsWord.of_some h (by omega)
theorem Laws.FitsWord.pre (o) : Laws.FitsWord.Statement (.pre o) := by
  intro w h; have := o.enc_le; exact Laws.FitsWord.of_some h (by omega)
theorem Laws.FitsWord.ref (o) : Laws.FitsWord.Statement (.ref o) := by
  intro w h; have := o.enc_le; exact Laws.FitsWord.of_some h (by omega)
theorem Laws.FitsWord.sdef (o) : Laws.FitsWord.Statement (.sdef o) := by
  intro w h; have := o.enc_le; exact Laws.FitsWord.of_some h (by omega)
theorem Laws.FitsWord.sld (o) : Laws.FitsWord.Statement (.sld o) := by
  intro w h; have := o.enc_le; exact Laws.FitsWord.of_some h (by omega)
theorem Laws.FitsWord.sst (o) : Laws.FitsWord.Statement (.sst o) := by
  intro w h; have := o.enc_le; exact Laws.FitsWord.of_some h (by omega)
theorem Laws.FitsWord.spos (o) : Laws.FitsWord.Statement (.spos o) := by
  intro w h; have := o.enc_le; exact Laws.FitsWord.of_some h (by omega)
theorem Laws.FitsWord.sposRd (o) : Laws.FitsWord.Statement (.sposRd o) := by
  intro w h; have := o.enc_le; exact Laws.FitsWord.of_some h (by omega)
theorem Laws.FitsWord.vmov (o) : Laws.FitsWord.Statement (.vmov o) := by
  intro w h; have := o.enc_le; exact Laws.FitsWord.of_some h (by omega)
theorem Laws.FitsWord.vsplat (o) : Laws.FitsWord.Statement (.vsplat o) := by
  intro w h; have := o.enc_le; exact Laws.FitsWord.of_some h (by omega)
theorem Laws.FitsWord.vextr (o) : Laws.FitsWord.Statement (.vextr o) := by
  intro w h; have := o.enc_le; exact Laws.FitsWord.of_some h (by omega)
theorem Laws.FitsWord.vinsr (o) : Laws.FitsWord.Statement (.vinsr o) := by
  intro w h; have := o.enc_le; exact Laws.FitsWord.of_some h (by omega)
theorem Laws.FitsWord.twrot (o) : Laws.FitsWord.Statement (.twrot o) := by
  intro w h; have := o.enc_le; exact Laws.FitsWord.of_some h (by omega)
theorem Laws.FitsWord.twbfly (o) : Laws.FitsWord.Statement (.twbfly o) := by
  intro w h; have := o.enc_le; exact Laws.FitsWord.of_some h (by omega)
theorem Laws.FitsWord.twbcast (o) : Laws.FitsWord.Statement (.twbcast o) := by
  intro w h; have := o.enc_le; exact Laws.FitsWord.of_some h (by omega)
theorem Laws.FitsWord.twxpose (o) : Laws.FitsWord.Statement (.twxpose o) := by
  intro w h; have := o.enc_le; exact Laws.FitsWord.of_some h (by omega)
theorem Laws.FitsWord.shsnd (o) : Laws.FitsWord.Statement (.shsnd o) := by
  intro w h; have := o.enc_le; exact Laws.FitsWord.of_some h (by omega)
theorem Laws.FitsWord.shrcv (o) : Laws.FitsWord.Statement (.shrcv o) := by
  intro w h; have := o.enc_le; exact Laws.FitsWord.of_some h (by omega)
theorem Laws.FitsWord.ldg (o) : Laws.FitsWord.Statement (.ldg o) := by
  intro w h; have := o.enc_le; exact Laws.FitsWord.of_some h (by omega)
theorem Laws.FitsWord.ldgff (o) : Laws.FitsWord.Statement (.ldgff o) := by
  intro w h; have := o.enc_le; exact Laws.FitsWord.of_some h (by omega)
theorem Laws.FitsWord.sts (o) : Laws.FitsWord.Statement (.sts o) := by
  intro w h; have := o.enc_le; exact Laws.FitsWord.of_some h (by omega)
theorem Laws.FitsWord.lds (o) : Laws.FitsWord.Statement (.lds o) := by
  intro w h; have := o.enc_le; exact Laws.FitsWord.of_some h (by omega)
theorem Laws.FitsWord.stst (o) : Laws.FitsWord.Statement (.stst o) := by
  intro w h; have := o.enc_le; exact Laws.FitsWord.of_some h (by omega)
theorem Laws.FitsWord.xfer (o) : Laws.FitsWord.Statement (.xfer o) := by
  intro w h; have := o.enc_le; exact Laws.FitsWord.of_some h (by omega)
theorem Laws.FitsWord.xwait (o) : Laws.FitsWord.Statement (.xwait o) := by
  intro w h; have := o.enc_le; exact Laws.FitsWord.of_some h (by omega)
theorem Laws.FitsWord.vadd (o) : Laws.FitsWord.Statement (.vadd o) := by
  intro w h; have := o.enc_le; exact Laws.FitsWord.of_some h (by omega)
theorem Laws.FitsWord.vsub (o) : Laws.FitsWord.Statement (.vsub o) := by
  intro w h; have := o.enc_le; exact Laws.FitsWord.of_some h (by omega)
theorem Laws.FitsWord.vmul (o) : Laws.FitsWord.Statement (.vmul o) := by
  intro w h; have := o.enc_le; exact Laws.FitsWord.of_some h (by omega)
theorem Laws.FitsWord.vmulh (o) : Laws.FitsWord.Statement (.vmulh o) := by
  intro w h; have := o.enc_le; exact Laws.FitsWord.of_some h (by omega)
theorem Laws.FitsWord.vdiv (o) : Laws.FitsWord.Statement (.vdiv o) := by
  intro w h; have := o.enc_le; exact Laws.FitsWord.of_some h (by omega)
theorem Laws.FitsWord.vrem (o) : Laws.FitsWord.Statement (.vrem o) := by
  intro w h; have := o.enc_le; exact Laws.FitsWord.of_some h (by omega)
theorem Laws.FitsWord.vmin (o) : Laws.FitsWord.Statement (.vmin o) := by
  intro w h; have := o.enc_le; exact Laws.FitsWord.of_some h (by omega)
theorem Laws.FitsWord.vmax (o) : Laws.FitsWord.Statement (.vmax o) := by
  intro w h; have := o.enc_le; exact Laws.FitsWord.of_some h (by omega)
theorem Laws.FitsWord.vabsd (o) : Laws.FitsWord.Statement (.vabsd o) := by
  intro w h; have := o.enc_le; exact Laws.FitsWord.of_some h (by omega)
theorem Laws.FitsWord.vand (o) : Laws.FitsWord.Statement (.vand o) := by
  intro w h; have := o.enc_le; exact Laws.FitsWord.of_some h (by omega)
theorem Laws.FitsWord.vor (o) : Laws.FitsWord.Statement (.vor o) := by
  intro w h; have := o.enc_le; exact Laws.FitsWord.of_some h (by omega)
theorem Laws.FitsWord.vxor (o) : Laws.FitsWord.Statement (.vxor o) := by
  intro w h; have := o.enc_le; exact Laws.FitsWord.of_some h (by omega)
theorem Laws.FitsWord.vsll (o) : Laws.FitsWord.Statement (.vsll o) := by
  intro w h; have := o.enc_le; exact Laws.FitsWord.of_some h (by omega)
theorem Laws.FitsWord.vsrl (o) : Laws.FitsWord.Statement (.vsrl o) := by
  intro w h; have := o.enc_le; exact Laws.FitsWord.of_some h (by omega)
theorem Laws.FitsWord.vsra (o) : Laws.FitsWord.Statement (.vsra o) := by
  intro w h; have := o.enc_le; exact Laws.FitsWord.of_some h (by omega)
theorem Laws.FitsWord.vfma (o) : Laws.FitsWord.Statement (.vfma o) := by
  intro w h; have := o.enc_le; exact Laws.FitsWord.of_some h (by omega)
theorem Laws.FitsWord.vfms (o) : Laws.FitsWord.Statement (.vfms o) := by
  intro w h; have := o.enc_le; exact Laws.FitsWord.of_some h (by omega)
theorem Laws.FitsWord.vfnma (o) : Laws.FitsWord.Statement (.vfnma o) := by
  intro w h; have := o.enc_le; exact Laws.FitsWord.of_some h (by omega)
theorem Laws.FitsWord.vminadd (o) : Laws.FitsWord.Statement (.vminadd o) := by
  intro w h; have := o.enc_le; exact Laws.FitsWord.of_some h (by omega)
theorem Laws.FitsWord.vneg (o) : Laws.FitsWord.Statement (.vneg o) := by
  intro w h; have := o.enc_le; exact Laws.FitsWord.of_some h (by omega)
theorem Laws.FitsWord.vabs (o) : Laws.FitsWord.Statement (.vabs o) := by
  intro w h; have := o.enc_le; exact Laws.FitsWord.of_some h (by omega)
theorem Laws.FitsWord.vnot (o) : Laws.FitsWord.Statement (.vnot o) := by
  intro w h; have := o.enc_le; exact Laws.FitsWord.of_some h (by omega)
theorem Laws.FitsWord.vclz (o) : Laws.FitsWord.Statement (.vclz o) := by
  intro w h; have := o.enc_le; exact Laws.FitsWord.of_some h (by omega)
theorem Laws.FitsWord.vpopc (o) : Laws.FitsWord.Statement (.vpopc o) := by
  intro w h; have := o.enc_le; exact Laws.FitsWord.of_some h (by omega)
theorem Laws.FitsWord.vsqrt (o) : Laws.FitsWord.Statement (.vsqrt o) := by
  intro w h; have := o.enc_le; exact Laws.FitsWord.of_some h (by omega)
theorem Laws.FitsWord.vrcp (o) : Laws.FitsWord.Statement (.vrcp o) := by
  intro w h; have := o.enc_le; exact Laws.FitsWord.of_some h (by omega)
theorem Laws.FitsWord.vrsqrt (o) : Laws.FitsWord.Statement (.vrsqrt o) := by
  intro w h; have := o.enc_le; exact Laws.FitsWord.of_some h (by omega)
theorem Laws.FitsWord.vexp2 (o) : Laws.FitsWord.Statement (.vexp2 o) := by
  intro w h; have := o.enc_le; exact Laws.FitsWord.of_some h (by omega)
theorem Laws.FitsWord.vlog2 (o) : Laws.FitsWord.Statement (.vlog2 o) := by
  intro w h; have := o.enc_le; exact Laws.FitsWord.of_some h (by omega)
theorem Laws.FitsWord.vtanh (o) : Laws.FitsWord.Statement (.vtanh o) := by
  intro w h; have := o.enc_le; exact Laws.FitsWord.of_some h (by omega)
theorem Laws.FitsWord.vcmpEq (o) : Laws.FitsWord.Statement (.vcmpEq o) := by
  intro w h; have := o.enc_le; exact Laws.FitsWord.of_some h (by omega)
theorem Laws.FitsWord.vcmpNe (o) : Laws.FitsWord.Statement (.vcmpNe o) := by
  intro w h; have := o.enc_le; exact Laws.FitsWord.of_some h (by omega)
theorem Laws.FitsWord.vcmpLt (o) : Laws.FitsWord.Statement (.vcmpLt o) := by
  intro w h; have := o.enc_le; exact Laws.FitsWord.of_some h (by omega)
theorem Laws.FitsWord.vcmpLe (o) : Laws.FitsWord.Statement (.vcmpLe o) := by
  intro w h; have := o.enc_le; exact Laws.FitsWord.of_some h (by omega)
theorem Laws.FitsWord.vcmpGt (o) : Laws.FitsWord.Statement (.vcmpGt o) := by
  intro w h; have := o.enc_le; exact Laws.FitsWord.of_some h (by omega)
theorem Laws.FitsWord.vcmpGe (o) : Laws.FitsWord.Statement (.vcmpGe o) := by
  intro w h; have := o.enc_le; exact Laws.FitsWord.of_some h (by omega)
theorem Laws.FitsWord.vcmpUnord (o) : Laws.FitsWord.Statement (.vcmpUnord o) := by
  intro w h; have := o.enc_le; exact Laws.FitsWord.of_some h (by omega)
theorem Laws.FitsWord.vadc (o) : Laws.FitsWord.Statement (.vadc o) := by
  intro w h; have := o.enc_le; exact Laws.FitsWord.of_some h (by omega)
theorem Laws.FitsWord.vsbc (o) : Laws.FitsWord.Statement (.vsbc o) := by
  intro w h; have := o.enc_le; exact Laws.FitsWord.of_some h (by omega)
theorem Laws.FitsWord.vaddm (o) : Laws.FitsWord.Statement (.vaddm o) := by
  intro w h; have := o.enc_le; exact Laws.FitsWord.of_some h (by omega)
theorem Laws.FitsWord.vcvt (o) : Laws.FitsWord.Statement (.vcvt o) := by
  intro w h; have := o.enc_le; exact Laws.FitsWord.of_some h (by omega)
theorem Laws.FitsWord.vcvtmxImp (o) : Laws.FitsWord.Statement (.vcvtmxImp o) := by
  intro w h; have := o.enc_le; exact Laws.FitsWord.of_some h (by omega)
theorem Laws.FitsWord.vcvtmxExp (o) : Laws.FitsWord.Statement (.vcvtmxExp o) := by
  intro w h; have := o.enc_le; exact Laws.FitsWord.of_some h (by omega)
theorem Laws.FitsWord.vquant (o) : Laws.FitsWord.Statement (.vquant o) := by
  intro w h; have := o.enc_le; exact Laws.FitsWord.of_some h (by omega)
theorem Laws.FitsWord.vsel (o) : Laws.FitsWord.Statement (.vsel o) := by
  intro w h; have := o.enc_le; exact Laws.FitsWord.of_some h (by omega)
theorem Laws.FitsWord.vslup (o) : Laws.FitsWord.Statement (.vslup o) := by
  intro w h; have := o.enc_le; exact Laws.FitsWord.of_some h (by omega)
theorem Laws.FitsWord.vsldn (o) : Laws.FitsWord.Statement (.vsldn o) := by
  intro w h; have := o.enc_le; exact Laws.FitsWord.of_some h (by omega)
theorem Laws.FitsWord.vgathr (o) : Laws.FitsWord.Statement (.vgathr o) := by
  intro w h; have := o.enc_le; exact Laws.FitsWord.of_some h (by omega)
theorem Laws.FitsWord.vcmprs (o) : Laws.FitsWord.Statement (.vcmprs o) := by
  intro w h; have := o.enc_le; exact Laws.FitsWord.of_some h (by omega)
theorem Laws.FitsWord.vexpnd (o) : Laws.FitsWord.Statement (.vexpnd o) := by
  intro w h; have := o.enc_le; exact Laws.FitsWord.of_some h (by omega)
theorem Laws.FitsWord.vrev (o) : Laws.FitsWord.Statement (.vrev o) := by
  intro w h; have := o.enc_le; exact Laws.FitsWord.of_some h (by omega)
theorem Laws.FitsWord.vredSum (o) : Laws.FitsWord.Statement (.vredSum o) := by
  intro w h; have := o.enc_le; exact Laws.FitsWord.of_some h (by omega)
theorem Laws.FitsWord.vredMax (o) : Laws.FitsWord.Statement (.vredMax o) := by
  intro w h; have := o.enc_le; exact Laws.FitsWord.of_some h (by omega)
theorem Laws.FitsWord.vredMin (o) : Laws.FitsWord.Statement (.vredMin o) := by
  intro w h; have := o.enc_le; exact Laws.FitsWord.of_some h (by omega)
theorem Laws.FitsWord.vredAnd (o) : Laws.FitsWord.Statement (.vredAnd o) := by
  intro w h; have := o.enc_le; exact Laws.FitsWord.of_some h (by omega)
theorem Laws.FitsWord.vredOr (o) : Laws.FitsWord.Statement (.vredOr o) := by
  intro w h; have := o.enc_le; exact Laws.FitsWord.of_some h (by omega)
theorem Laws.FitsWord.vredXor (o) : Laws.FitsWord.Statement (.vredXor o) := by
  intro w h; have := o.enc_le; exact Laws.FitsWord.of_some h (by omega)
theorem Laws.FitsWord.vredSexp (o) : Laws.FitsWord.Statement (.vredSexp o) := by
  intro w h; have := o.enc_le; exact Laws.FitsWord.of_some h (by omega)
theorem Laws.FitsWord.vhist (o) : Laws.FitsWord.Statement (.vhist o) := by
  intro w h; have := o.enc_le; exact Laws.FitsWord.of_some h (by omega)
theorem Laws.FitsWord.vhmerge (o) : Laws.FitsWord.Statement (.vhmerge o) := by
  intro w h; have := o.enc_le; exact Laws.FitsWord.of_some h (by omega)
theorem Laws.FitsWord.vfirst (o) : Laws.FitsWord.Statement (.vfirst o) := by
  intro w h; have := o.enc_le; exact Laws.FitsWord.of_some h (by omega)
theorem Laws.FitsWord.viota (o) : Laws.FitsWord.Statement (.viota o) := by
  intro w h; have := o.enc_le; exact Laws.FitsWord.of_some h (by omega)
theorem Laws.FitsWord.mand (o) : Laws.FitsWord.Statement (.mand o) := by
  intro w h; have := o.enc_le; exact Laws.FitsWord.of_some h (by omega)
theorem Laws.FitsWord.mor (o) : Laws.FitsWord.Statement (.mor o) := by
  intro w h; have := o.enc_le; exact Laws.FitsWord.of_some h (by omega)
theorem Laws.FitsWord.mxor (o) : Laws.FitsWord.Statement (.mxor o) := by
  intro w h; have := o.enc_le; exact Laws.FitsWord.of_some h (by omega)
theorem Laws.FitsWord.mandn (o) : Laws.FitsWord.Statement (.mandn o) := by
  intro w h; have := o.enc_le; exact Laws.FitsWord.of_some h (by omega)
theorem Laws.FitsWord.mnot (o) : Laws.FitsWord.Statement (.mnot o) := by
  intro w h; have := o.enc_le; exact Laws.FitsWord.of_some h (by omega)
theorem Laws.FitsWord.mpopc (o) : Laws.FitsWord.Statement (.mpopc o) := by
  intro w h; have := o.enc_le; exact Laws.FitsWord.of_some h (by omega)
theorem Laws.FitsWord.mshl (o) : Laws.FitsWord.Statement (.mshl o) := by
  intro w h; have := o.enc_le; exact Laws.FitsWord.of_some h (by omega)
theorem Laws.FitsWord.mshr (o) : Laws.FitsWord.Statement (.mshr o) := by
  intro w h; have := o.enc_le; exact Laws.FitsWord.of_some h (by omega)
theorem Laws.FitsWord.mset (o) : Laws.FitsWord.Statement (.mset o) := by
  intro w h; have := o.enc_le; exact Laws.FitsWord.of_some h (by omega)
theorem Laws.FitsWord.mclr (o) : Laws.FitsWord.Statement (.mclr o) := by
  intro w h; have := o.enc_le; exact Laws.FitsWord.of_some h (by omega)
theorem Laws.FitsWord.mfromv (o) : Laws.FitsWord.Statement (.mfromv o) := by
  intro w h; have := o.enc_le; exact Laws.FitsWord.of_some h (by omega)
theorem Laws.FitsWord.mtov (o) : Laws.FitsWord.Statement (.mtov o) := by
  intro w h; have := o.enc_le; exact Laws.FitsWord.of_some h (by omega)
theorem Laws.FitsWord.mop (o) : Laws.FitsWord.Statement (.mop o) := by
  intro w h; have := o.enc_le; exact Laws.FitsWord.of_some h (by omega)
theorem Laws.FitsWord.mops (o) : Laws.FitsWord.Statement (.mops o) := by
  intro w h; have := o.enc_le; exact Laws.FitsWord.of_some h (by omega)
theorem Laws.FitsWord.mzero (o) : Laws.FitsWord.Statement (.mzero o) := by
  intro w h; have := o.enc_le; exact Laws.FitsWord.of_some h (by omega)
theorem Laws.FitsWord.mdrain (o) : Laws.FitsWord.Statement (.mdrain o) := by
  intro w h; have := o.enc_le; exact Laws.FitsWord.of_some h (by omega)
theorem Laws.FitsWord.mdrainW (o) : Laws.FitsWord.Statement (.mdrainW o) := by
  intro w h; have := o.enc_le; exact Laws.FitsWord.of_some h (by omega)
theorem Laws.FitsWord.mldacc (o) : Laws.FitsWord.Statement (.mldacc o) := by
  intro w h; have := o.enc_le; exact Laws.FitsWord.of_some h (by omega)
theorem Laws.FitsWord.mldaccW (o) : Laws.FitsWord.Statement (.mldaccW o) := by
  intro w h; have := o.enc_le; exact Laws.FitsWord.of_some h (by omega)
theorem Laws.FitsWord.mtile (o) : Laws.FitsWord.Statement (.mtile o) := by
  intro w h; have := o.enc_le; exact Laws.FitsWord.of_some h (by omega)
theorem Laws.FitsWord.mtileRel (o) : Laws.FitsWord.Statement (.mtileRel o) := by
  intro w h; have := o.enc_le; exact Laws.FitsWord.of_some h (by omega)
theorem Laws.FitsWord.tdot (o) : Laws.FitsWord.Statement (.tdot o) := by
  intro w h; have := o.enc_le; exact Laws.FitsWord.of_some h (by omega)
theorem Laws.FitsWord.tdotm (o) : Laws.FitsWord.Statement (.tdotm o) := by
  intro w h; have := o.enc_le; exact Laws.FitsWord.of_some h (by omega)
theorem Laws.FitsWord.tstk (o) : Laws.FitsWord.Statement (.tstk o) := by
  intro w h; have := o.enc_le; exact Laws.FitsWord.of_some h (by omega)
theorem Laws.FitsWord.red (o) : Laws.FitsWord.Statement (.red o) := by
  intro w h; have := o.enc_le; exact Laws.FitsWord.of_some h (by omega)
theorem Laws.FitsWord.barrive (o) : Laws.FitsWord.Statement (.barrive o) := by
  intro w h; have := o.enc_le; exact Laws.FitsWord.of_some h (by omega)
theorem Laws.FitsWord.barwait (o) : Laws.FitsWord.Statement (.barwait o) := by
  intro w h; have := o.enc_le; exact Laws.FitsWord.of_some h (by omega)
theorem Laws.FitsWord.semwait (o) : Laws.FitsWord.Statement (.semwait o) := by
  intro w h; have := o.enc_le; exact Laws.FitsWord.of_some h (by omega)
theorem Laws.FitsWord.sempost (o) : Laws.FitsWord.Statement (.sempost o) := by
  intro w h; have := o.enc_le; exact Laws.FitsWord.of_some h (by omega)
theorem Laws.FitsWord.fence (o) : Laws.FitsWord.Statement (.fence o) := by
  intro w h; have := o.enc_le; exact Laws.FitsWord.of_some h (by omega)
theorem Laws.FitsWord.ld (o) : Laws.FitsWord.Statement (.ld o) := by
  intro w h; have := o.enc_le; exact Laws.FitsWord.of_some h (by omega)
theorem Laws.FitsWord.st (o) : Laws.FitsWord.Statement (.st o) := by
  intro w h; have := o.enc_le; exact Laws.FitsWord.of_some h (by omega)
theorem Laws.FitsWord.amoadd (o) : Laws.FitsWord.Statement (.amoadd o) := by
  intro w h; have := o.enc_le; exact Laws.FitsWord.of_some h (by omega)
theorem Laws.FitsWord.amoswap (o) : Laws.FitsWord.Statement (.amoswap o) := by
  intro w h; have := o.enc_le; exact Laws.FitsWord.of_some h (by omega)
theorem Laws.FitsWord.amocas (o) : Laws.FitsWord.Statement (.amocas o) := by
  intro w h; have := o.enc_le; exact Laws.FitsWord.of_some h (by omega)
theorem Laws.FitsWord.amomin (o) : Laws.FitsWord.Statement (.amomin o) := by
  intro w h; have := o.enc_le; exact Laws.FitsWord.of_some h (by omega)
theorem Laws.FitsWord.amomax (o) : Laws.FitsWord.Statement (.amomax o) := by
  intro w h; have := o.enc_le; exact Laws.FitsWord.of_some h (by omega)
theorem Laws.FitsWord.amoand (o) : Laws.FitsWord.Statement (.amoand o) := by
  intro w h; have := o.enc_le; exact Laws.FitsWord.of_some h (by omega)
theorem Laws.FitsWord.amoor (o) : Laws.FitsWord.Statement (.amoor o) := by
  intro w h; have := o.enc_le; exact Laws.FitsWord.of_some h (by omega)
theorem Laws.FitsWord.amoxor (o) : Laws.FitsWord.Statement (.amoxor o) := by
  intro w h; have := o.enc_le; exact Laws.FitsWord.of_some h (by omega)
theorem Laws.FitsWord.gdef (o) : Laws.FitsWord.Statement (.gdef o) := by
  intro w h; have := o.enc_le; exact Laws.FitsWord.of_some h (by omega)
theorem Laws.FitsWord.bcast (o) : Laws.FitsWord.Statement (.bcast o) := by
  intro w h; have := o.enc_le; exact Laws.FitsWord.of_some h (by omega)
theorem Laws.FitsWord.bcastn (o) : Laws.FitsWord.Statement (.bcastn o) := by
  intro w h; have := o.enc_le; exact Laws.FitsWord.of_some h (by omega)
theorem Laws.FitsWord.gwait (o) : Laws.FitsWord.Statement (.gwait o) := by
  intro w h; have := o.enc_le; exact Laws.FitsWord.of_some h (by omega)
theorem Laws.FitsWord.gset (o) : Laws.FitsWord.Statement (.gset o) := by
  intro w h; have := o.enc_le; exact Laws.FitsWord.of_some h (by omega)
theorem Laws.FitsWord.hget (o) : Laws.FitsWord.Statement (.hget o) := by
  intro w h; have := o.enc_le; exact Laws.FitsWord.of_some h (by omega)
theorem Laws.FitsWord.hstat (o) : Laws.FitsWord.Statement (.hstat o) := by
  intro w h; have := o.enc_le; exact Laws.FitsWord.of_some h (by omega)
theorem Laws.FitsWord.hresume (o) : Laws.FitsWord.Statement (.hresume o) := by
  intro w h; have := o.enc_le; exact Laws.FitsWord.of_some h (by omega)
theorem Laws.FitsWord.hkill (o) : Laws.FitsWord.Statement (.hkill o) := by
  intro w h; have := o.enc_le; exact Laws.FitsWord.of_some h (by omega)
theorem Laws.FitsWord.evwait (o) : Laws.FitsWord.Statement (.evwait o) := by
  intro w h; have := o.enc_le; exact Laws.FitsWord.of_some h (by omega)
theorem Laws.FitsWord.evpoll (o) : Laws.FitsWord.Statement (.evpoll o) := by
  intro w h; have := o.enc_le; exact Laws.FitsWord.of_some h (by omega)
theorem Laws.FitsWord.launch (o) : Laws.FitsWord.Statement (.launch o) := by
  intro w h; have := o.enc_le; exact Laws.FitsWord.of_some h (by omega)
theorem Laws.FitsWord.capq (o) : Laws.FitsWord.Statement (.capq o) := by
  intro w h; have := o.enc_le; exact Laws.FitsWord.of_some h (by omega)
theorem Laws.FitsWord.capack (o) : Laws.FitsWord.Statement (.capack o) := by
  intro w h; have := o.enc_le; exact Laws.FitsWord.of_some h (by omega)
theorem Laws.FitsWord.taskend : Laws.FitsWord.Statement (.taskend) := by
  intro w h; exact Laws.FitsWord.of_some h (by omega)
theorem Laws.FitsWord.ctbarArrive (o) : Laws.FitsWord.Statement (.ctbarArrive o) := by
  intro w h; have := o.enc_le; exact Laws.FitsWord.of_some h (by omega)
theorem Laws.FitsWord.ctbarWait (o) : Laws.FitsWord.Statement (.ctbarWait o) := by
  intro w h; have := o.enc_le; exact Laws.FitsWord.of_some h (by omega)
theorem Laws.FitsWord.ctbarSemwait (o) : Laws.FitsWord.Statement (.ctbarSemwait o) := by
  intro w h; have := o.enc_le; exact Laws.FitsWord.of_some h (by omega)
theorem Laws.FitsWord.ctbarSempost (o) : Laws.FitsWord.Statement (.ctbarSempost o) := by
  intro w h; have := o.enc_le; exact Laws.FitsWord.of_some h (by omega)
theorem Laws.FitsWord.ctbarSet (o) : Laws.FitsWord.Statement (.ctbarSet o) := by
  intro w h; have := o.enc_le; exact Laws.FitsWord.of_some h (by omega)
theorem Laws.FitsWord.ctLoad (o) : Laws.FitsWord.Statement (.ctLoad o) := by
  intro w h; have := o.encLoad_le; exact Laws.FitsWord.of_some h (by omega)
theorem Laws.FitsWord.ctStore (o) : Laws.FitsWord.Statement (.ctStore o) := by
  intro w h; have := o.encStore_le; exact Laws.FitsWord.of_some h (by omega)
theorem Laws.FitsWord.ctAmo (o) : Laws.FitsWord.Statement (.ctAmo o) := by
  intro w h; have := o.enc_le; exact Laws.FitsWord.of_some h (by omega)
theorem Laws.FitsWord.ctLr (o) : Laws.FitsWord.Statement (.ctLr o) := by
  intro w h; have := o.enc_le; exact Laws.FitsWord.of_some h (by omega)
theorem Laws.FitsWord.ctSc (o) : Laws.FitsWord.Statement (.ctSc o) := by
  intro w h; have := o.enc_le; exact Laws.FitsWord.of_some h (by omega)
theorem Laws.FitsWord.ctFence (o) : Laws.FitsWord.Statement (.ctFence o) := by
  intro w h; have := o.fm.isLt; have := o.pred.isLt; have := o.succ.isLt; exact Laws.FitsWord.of_some h (by omega)
theorem Laws.FitsWord.ctFenceI : Laws.FitsWord.Statement (.ctFenceI) := by
  intro w h; exact Laws.FitsWord.of_some h (by omega)
theorem Laws.FitsWord.ctEcall : Laws.FitsWord.Statement (.ctEcall) := by
  intro w h; exact Laws.FitsWord.of_some h (by omega)
theorem Laws.FitsWord.ctEbreak : Laws.FitsWord.Statement (.ctEbreak) := by
  intro w h; exact Laws.FitsWord.of_some h (by omega)
theorem Laws.FitsWord.ctWfi : Laws.FitsWord.Statement (.ctWfi) := by
  intro w h; exact Laws.FitsWord.of_some h (by omega)
theorem Laws.FitsWord.ctCsrAccess (o) : Laws.FitsWord.Statement (.ctCsrAccess o) := by
  intro w h; have := o.f3.isLt; have := o.d.isLt; have := o.a.isLt; have := o.csr.isLt; exact Laws.FitsWord.of_some h (by omega)
theorem Laws.FitsWord.ctMret : Laws.FitsWord.Statement (.ctMret) := by
  intro w h; exact Laws.FitsWord.of_some h (by omega)
theorem Laws.FitsWord.machineExternalInterrupt (x0) : Laws.FitsWord.Statement (.machineExternalInterrupt x0) :=
  fun _ h => Laws.FitsWord.of_none h
theorem Laws.FitsWord.latchOwnedTrap (x0) (x1) : Laws.FitsWord.Statement (.latchOwnedTrap x0 x1) :=
  fun _ h => Laws.FitsWord.of_none h
theorem Laws.FitsWord.unload (x0) : Laws.FitsWord.Statement (.unload x0) :=
  fun _ h => Laws.FitsWord.of_none h
theorem Laws.FitsWord.load (x0) : Laws.FitsWord.Statement (.load x0) :=
  fun _ h => Laws.FitsWord.of_none h
theorem Laws.FitsWord.banksave (x0) : Laws.FitsWord.Statement (.banksave x0) :=
  fun _ h => Laws.FitsWord.of_none h
theorem Laws.FitsWord.bankrestore (x0) : Laws.FitsWord.Statement (.bankrestore x0) :=
  fun _ h => Laws.FitsWord.of_none h
theorem Laws.FitsWord.hmsaveOpComplete (x0) : Laws.FitsWord.Statement (.hmsaveOpComplete x0) :=
  fun _ h => Laws.FitsWord.of_none h
theorem Laws.FitsWord.logAppend (x0) (x1) : Laws.FitsWord.Statement (.logAppend x0 x1) :=
  fun _ h => Laws.FitsWord.of_none h
theorem Laws.FitsWord.quiesce (x0) : Laws.FitsWord.Statement (.quiesce x0) :=
  fun _ h => Laws.FitsWord.of_none h
theorem Laws.FitsWord.retain (x0) : Laws.FitsWord.Statement (.retain x0) :=
  fun _ h => Laws.FitsWord.of_none h
theorem Laws.FitsWord.gate (x0) : Laws.FitsWord.Statement (.gate x0) :=
  fun _ h => Laws.FitsWord.of_none h
theorem Laws.FitsWord.release (x0) : Laws.FitsWord.Statement (.release x0) :=
  fun _ h => Laws.FitsWord.of_none h
theorem Laws.FitsWord.wake (x0) : Laws.FitsWord.Statement (.wake x0) :=
  fun _ h => Laws.FitsWord.of_none h
theorem Laws.FitsWord.clusterCmdComplete (x0) (x1) : Laws.FitsWord.Statement (.clusterCmdComplete x0 x1) :=
  fun _ h => Laws.FitsWord.of_none h
theorem Laws.FitsWord.registerWrite (x0) (x1) (x2) : Laws.FitsWord.Statement (.registerWrite x0 x1 x2) :=
  fun _ h => Laws.FitsWord.of_none h
theorem Laws.FitsWord.sqDoorbell (x0) (x1) (x2) : Laws.FitsWord.Statement (.sqDoorbell x0 x1 x2) :=
  fun _ h => Laws.FitsWord.of_none h
theorem Laws.FitsWord.sqcfgWrite (x0) (x1) (x2) : Laws.FitsWord.Statement (.sqcfgWrite x0 x1 x2) :=
  fun _ h => Laws.FitsWord.of_none h
theorem Laws.FitsWord.cqcfgWrite (x0) (x1) (x2) : Laws.FitsWord.Statement (.cqcfgWrite x0 x1 x2) :=
  fun _ h => Laws.FitsWord.of_none h
theorem Laws.FitsWord.cqheadWrite (x0) (x1) (x2) : Laws.FitsWord.Statement (.cqheadWrite x0 x1 x2) :=
  fun _ h => Laws.FitsWord.of_none h
theorem Laws.FitsWord.heldRecordWrite (x0) : Laws.FitsWord.Statement (.heldRecordWrite x0) :=
  fun _ h => Laws.FitsWord.of_none h
theorem Laws.FitsWord.protectedWrite (x0) (x1) : Laws.FitsWord.Statement (.protectedWrite x0 x1) :=
  fun _ h => Laws.FitsWord.of_none h
theorem Laws.FitsWord.hostWindowWrite (x0) (x1) : Laws.FitsWord.Statement (.hostWindowWrite x0 x1) :=
  fun _ h => Laws.FitsWord.of_none h
theorem Laws.FitsWord.hostWindowRead (x0) (x1) : Laws.FitsWord.Statement (.hostWindowRead x0 x1) :=
  fun _ h => Laws.FitsWord.of_none h
theorem Laws.FitsWord.hostAtomicop (x0) (x1) (x2) (x3) (x4) : Laws.FitsWord.Statement (.hostAtomicop x0 x1 x2 x3 x4) :=
  fun _ h => Laws.FitsWord.of_none h
theorem Laws.FitsWord.acceptRecord : Laws.FitsWord.Statement (.acceptRecord) :=
  fun _ h => Laws.FitsWord.of_none h
theorem Laws.FitsWord.launchPacketReceive (x0) (x1) : Laws.FitsWord.Statement (.launchPacketReceive x0 x1) :=
  fun _ h => Laws.FitsWord.of_none h
theorem Laws.FitsWord.spanArrival (x0) (x1) : Laws.FitsWord.Statement (.spanArrival x0 x1) :=
  fun _ h => Laws.FitsWord.of_none h
theorem Laws.FitsWord.startReceive (x0) (x1) : Laws.FitsWord.Statement (.startReceive x0 x1) :=
  fun _ h => Laws.FitsWord.of_none h
theorem Laws.FitsWord.spanRefusalReport (x0) (x1) (x2) : Laws.FitsWord.Statement (.spanRefusalReport x0 x1 x2) :=
  fun _ h => Laws.FitsWord.of_none h
theorem Laws.FitsWord.spanLinkLoss (x0) (x1) (x2) : Laws.FitsWord.Statement (.spanLinkLoss x0 x1 x2) :=
  fun _ h => Laws.FitsWord.of_none h
theorem Laws.FitsWord.waitConditionsMet (x0) : Laws.FitsWord.Statement (.waitConditionsMet x0) :=
  fun _ h => Laws.FitsWord.of_none h
theorem Laws.FitsWord.rangeFlushStart : Laws.FitsWord.Statement (.rangeFlushStart) :=
  fun _ h => Laws.FitsWord.of_none h
theorem Laws.FitsWord.rangeFlushComplete : Laws.FitsWord.Statement (.rangeFlushComplete) :=
  fun _ h => Laws.FitsWord.of_none h
theorem Laws.FitsWord.schedulerDecision : Laws.FitsWord.Statement (.schedulerDecision) :=
  fun _ h => Laws.FitsWord.of_none h
theorem Laws.FitsWord.ageLimitExpiry (x0) : Laws.FitsWord.Statement (.ageLimitExpiry x0) :=
  fun _ h => Laws.FitsWord.of_none h
theorem Laws.FitsWord.latestStartExpiry (x0) : Laws.FitsWord.Statement (.latestStartExpiry x0) :=
  fun _ h => Laws.FitsWord.of_none h
theorem Laws.FitsWord.taskFaultEnd (x0) (x1) (x2) : Laws.FitsWord.Statement (.taskFaultEnd x0 x1 x2) :=
  fun _ h => Laws.FitsWord.of_none h
theorem Laws.FitsWord.watchdogExpiry (x0) : Laws.FitsWord.Statement (.watchdogExpiry x0) :=
  fun _ h => Laws.FitsWord.of_none h
theorem Laws.FitsWord.periodBoundary : Laws.FitsWord.Statement (.periodBoundary) :=
  fun _ h => Laws.FitsWord.of_none h
theorem Laws.FitsWord.owedIncrement (x0) (x1) (x2) : Laws.FitsWord.Statement (.owedIncrement x0 x1 x2) :=
  fun _ h => Laws.FitsWord.of_none h
theorem Laws.FitsWord.hwRefreshRow (x0) (x1) (x2) : Laws.FitsWord.Statement (.hwRefreshRow x0 x1 x2) :=
  fun _ h => Laws.FitsWord.of_none h
theorem Laws.FitsWord.forcedRefreshRow (x0) (x1) (x2) : Laws.FitsWord.Statement (.forcedRefreshRow x0 x1 x2) :=
  fun _ h => Laws.FitsWord.of_none h
theorem Laws.FitsWord.scrubRow (x0) (x1) (x2) (x3) (x4) : Laws.FitsWord.Statement (.scrubRow x0 x1 x2 x3 x4) :=
  fun _ h => Laws.FitsWord.of_none h
theorem Laws.FitsWord.scoreDecay : Laws.FitsWord.Statement (.scoreDecay) :=
  fun _ h => Laws.FitsWord.of_none h
theorem Laws.FitsWord.coreLeaseStart (x0) (x1) : Laws.FitsWord.Statement (.coreLeaseStart x0 x1) :=
  fun _ h => Laws.FitsWord.of_none h
theorem Laws.FitsWord.leaseEfftime (x0) : Laws.FitsWord.Statement (.leaseEfftime x0) :=
  fun _ h => Laws.FitsWord.of_none h
theorem Laws.FitsWord.leaseEnd (x0) (x1) : Laws.FitsWord.Statement (.leaseEnd x0 x1) :=
  fun _ h => Laws.FitsWord.of_none h
theorem Laws.FitsWord.fenStepStart (x0) : Laws.FitsWord.Statement (.fenStepStart x0) :=
  fun _ h => Laws.FitsWord.of_none h
theorem Laws.FitsWord.fenStepEnd (x0) (x1) (x2) : Laws.FitsWord.Statement (.fenStepEnd x0 x1 x2) :=
  fun _ h => Laws.FitsWord.of_none h
theorem Laws.FitsWord.remapCopyComplete (x0) : Laws.FitsWord.Statement (.remapCopyComplete x0) :=
  fun _ h => Laws.FitsWord.of_none h
theorem Laws.FitsWord.shrinkComplete (x0) : Laws.FitsWord.Statement (.shrinkComplete x0) :=
  fun _ h => Laws.FitsWord.of_none h
theorem Laws.FitsWord.eventRecordEnter (x0) : Laws.FitsWord.Statement (.eventRecordEnter x0) :=
  fun _ h => Laws.FitsWord.of_none h
theorem Laws.FitsWord.governorCheck (x0) : Laws.FitsWord.Statement (.governorCheck x0) :=
  fun _ h => Laws.FitsWord.of_none h
theorem Laws.FitsWord.powerTripStart : Laws.FitsWord.Statement (.powerTripStart) :=
  fun _ h => Laws.FitsWord.of_none h
theorem Laws.FitsWord.powerTripEnd : Laws.FitsWord.Statement (.powerTripEnd) :=
  fun _ h => Laws.FitsWord.of_none h
theorem Laws.FitsWord.sensorRead (x0) : Laws.FitsWord.Statement (.sensorRead x0) :=
  fun _ h => Laws.FitsWord.of_none h
theorem Laws.FitsWord.coldReset : Laws.FitsWord.Statement (.coldReset) :=
  fun _ h => Laws.FitsWord.of_none h
theorem Laws.FitsWord.warmReset : Laws.FitsWord.Statement (.warmReset) :=
  fun _ h => Laws.FitsWord.of_none h
theorem Laws.FitsWord.laneGroupCycle (x0) (x1) (x2) : Laws.FitsWord.Statement (.laneGroupCycle x0 x1 x2) :=
  fun _ h => Laws.FitsWord.of_none h
theorem Laws.FitsWord.actSenseComplete (x0) (x1) : Laws.FitsWord.Statement (.actSenseComplete x0 x1) :=
  fun _ h => Laws.FitsWord.of_none h
theorem Laws.FitsWord.wbCaptureComplete (x0) (x1) : Laws.FitsWord.Statement (.wbCaptureComplete x0 x1) :=
  fun _ h => Laws.FitsWord.of_none h
theorem Laws.FitsWord.rowWriteComplete (x0) (x1) : Laws.FitsWord.Statement (.rowWriteComplete x0 x1) :=
  fun _ h => Laws.FitsWord.of_none h
theorem Laws.FitsWord.sagBusyEnd (x0) (x1) (x2) : Laws.FitsWord.Statement (.sagBusyEnd x0 x1 x2) :=
  fun _ h => Laws.FitsWord.of_none h
theorem Laws.FitsWord.blockStart (x0) (x1) : Laws.FitsWord.Statement (.blockStart x0 x1) :=
  fun _ h => Laws.FitsWord.of_none h
theorem Laws.FitsWord.blockRetire (x0) (x1) : Laws.FitsWord.Statement (.blockRetire x0 x1) :=
  fun _ h => Laws.FitsWord.of_none h
theorem Laws.FitsWord.splitBlockFetch (x0) (x1) : Laws.FitsWord.Statement (.splitBlockFetch x0 x1) :=
  fun _ h => Laws.FitsWord.of_none h
theorem Laws.FitsWord.engineTakeUp (x0) : Laws.FitsWord.Statement (.engineTakeUp x0) :=
  fun _ h => Laws.FitsWord.of_none h
theorem Laws.FitsWord.engineOpComplete (x0) (x1) (x2) : Laws.FitsWord.Statement (.engineOpComplete x0 x1 x2) :=
  fun _ h => Laws.FitsWord.of_none h
theorem Laws.FitsWord.sergeTransferComplete (x0) (x1) : Laws.FitsWord.Statement (.sergeTransferComplete x0 x1) :=
  fun _ h => Laws.FitsWord.of_none h
theorem Laws.FitsWord.gatherDataArrival (x0) (x1) : Laws.FitsWord.Statement (.gatherDataArrival x0 x1) :=
  fun _ h => Laws.FitsWord.of_none h
theorem Laws.FitsWord.semGrant (x0) (x1) (x2) : Laws.FitsWord.Statement (.semGrant x0 x1 x2) :=
  fun _ h => Laws.FitsWord.of_none h
theorem Laws.FitsWord.counterWaitMet (x0) (x1) (x2) : Laws.FitsWord.Statement (.counterWaitMet x0 x1 x2) :=
  fun _ h => Laws.FitsWord.of_none h
theorem Laws.FitsWord.xferComplete (x0) (x1) (x2) : Laws.FitsWord.Statement (.xferComplete x0 x1 x2) :=
  fun _ h => Laws.FitsWord.of_none h
theorem Laws.FitsWord.remoteReadRequest (x0) (x1) : Laws.FitsWord.Statement (.remoteReadRequest x0 x1) :=
  fun _ h => Laws.FitsWord.of_none h
theorem Laws.FitsWord.remoteOwnershipRequest (x0) (x1) : Laws.FitsWord.Statement (.remoteOwnershipRequest x0 x1) :=
  fun _ h => Laws.FitsWord.of_none h
theorem Laws.FitsWord.remoteWriteBack (x0) (x1) (x2) (x3) (x4) : Laws.FitsWord.Statement (.remoteWriteBack x0 x1 x2 x3 x4) :=
  fun _ h => Laws.FitsWord.of_none h
theorem Laws.FitsWord.recallRequest (x0) (x1) (x2) : Laws.FitsWord.Statement (.recallRequest x0 x1 x2) :=
  fun _ h => Laws.FitsWord.of_none h
theorem Laws.FitsWord.remoteAnswer (x0) (x1) (x2) (x3) (x4) (x5) : Laws.FitsWord.Statement (.remoteAnswer x0 x1 x2 x3 x4 x5) :=
  fun _ h => Laws.FitsWord.of_none h
theorem Laws.FitsWord.recallTimeout (x0) : Laws.FitsWord.Statement (.recallTimeout x0) :=
  fun _ h => Laws.FitsWord.of_none h
theorem Laws.FitsWord.hostCompletion (x0) (x1) (x2) (x3) : Laws.FitsWord.Statement (.hostCompletion x0 x1 x2 x3) :=
  fun _ h => Laws.FitsWord.of_none h
theorem Laws.FitsWord.hostCompletionTimeout (x0) : Laws.FitsWord.Statement (.hostCompletionTimeout x0) :=
  fun _ h => Laws.FitsWord.of_none h
theorem Laws.FitsWord.dcacheEviction (x0) (x1) : Laws.FitsWord.Statement (.dcacheEviction x0 x1) :=
  fun _ h => Laws.FitsWord.of_none h
theorem Laws.FitsWord.status : Laws.FitsWord.Statement (.status) :=
  fun _ h => Laws.FitsWord.of_none h
theorem Laws.FitsWord.readLog : Laws.FitsWord.Statement (.readLog) :=
  fun _ h => Laws.FitsWord.of_none h
theorem Laws.FitsWord.readRetire : Laws.FitsWord.Statement (.readRetire) :=
  fun _ h => Laws.FitsWord.of_none h
theorem Laws.FitsWord.setPlimit (x0) : Laws.FitsWord.Statement (.setPlimit x0) :=
  fun _ h => Laws.FitsWord.of_none h
theorem Laws.FitsWord.setMode (x0) : Laws.FitsWord.Statement (.setMode x0) :=
  fun _ h => Laws.FitsWord.of_none h
theorem Laws.FitsWord.armRetention (x0) : Laws.FitsWord.Statement (.armRetention x0) :=
  fun _ h => Laws.FitsWord.of_none h
theorem Laws.FitsWord.attest (x0) : Laws.FitsWord.Statement (.attest x0) :=
  fun _ h => Laws.FitsWord.of_none h
theorem Laws.FitsWord.debugCmd (x0) (x1) (x2) (x3) : Laws.FitsWord.Statement (.debugCmd x0 x1 x2 x3) :=
  fun _ h => Laws.FitsWord.of_none h
theorem Laws.FitsWord.fwUpdate (x0) (x1) (x2) : Laws.FitsWord.Statement (.fwUpdate x0 x1 x2) :=
  fun _ h => Laws.FitsWord.of_none h
theorem Laws.FitsWord.twillTransferComplete (x0) (x1) : Laws.FitsWord.Statement (.twillTransferComplete x0 x1) :=
  fun _ h => Laws.FitsWord.of_none h
theorem Laws.FitsWord.redCombineComplete (x0) (x1) (x2) : Laws.FitsWord.Statement (.redCombineComplete x0 x1 x2) :=
  fun _ h => Laws.FitsWord.of_none h
theorem Laws.FitsWord.columnAccessComplete (x0) (x1) : Laws.FitsWord.Statement (.columnAccessComplete x0 x1) :=
  fun _ h => Laws.FitsWord.of_none h
theorem Laws.FitsWord.mscEviction (x0) : Laws.FitsWord.Statement (.mscEviction x0) :=
  fun _ h => Laws.FitsWord.of_none h
theorem Laws.FitsWord.remoteAmoRequest (x0) (x1) (x2) (x3) (x4) (x5) : Laws.FitsWord.Statement (.remoteAmoRequest x0 x1 x2 x3 x4 x5) :=
  fun _ h => Laws.FitsWord.of_none h
theorem Laws.FitsWord.remoteForwardRequest (x0) (x1) : Laws.FitsWord.Statement (.remoteForwardRequest x0 x1) :=
  fun _ h => Laws.FitsWord.of_none h

end Sys2Proof
end

