-- ==== Sys2Proof/Tests/Slice0.lean ====
section
/-! SUPPORT. Own tests: ill-formed terms, words from the spec's encodings, the spec's worked examples, and for every
statement with hypotheses a state that meets them. -/

namespace Sys2Proof.Tests

-- One theorem at a time: the kernel evaluations of this file are many.
set_option Elab.async false

open Sys2Proof Sys2Proof.Machine

/-! ## Ill-formed terms: each check of WellFormed refuses one -/

theorem test_wf_gang_and_predicate : Instr.wf (.vadd ⟨1, 2, 3, 0, true, 0, true⟩) = false := by decide +kernel
theorem test_wf_form_3 : Instr.wf (.vadd ⟨1, 2, 3, 0, false, 3, false⟩) = false := by decide +kernel
theorem test_wf_gp_unary : Instr.wf (.vneg ⟨1, 2, 0, true, true⟩) = false := by decide +kernel
theorem test_wf_compare_form_3 : Instr.wf (.vcmpEq ⟨1, 2, 3, 0, false, 3, false⟩) = false := by decide +kernel
theorem test_wf_gather_gp : Instr.wf (.ldg ⟨1, 2, 3, 0, true, true⟩) = false := by decide +kernel
theorem test_wf_repb : Instr.wf (.repb ⟨5, true⟩) = false := by decide +kernel
theorem test_wf_pset : Instr.wf (.pset ⟨1, 2, 7⟩) = false := by decide +kernel
theorem test_wf_link : Instr.wf (.xsend ⟨1, 3, false⟩) = false := by decide +kernel
theorem test_wf_sreg : Instr.wf (.hrd ⟨1, 11, false⟩) = false := by decide +kernel
theorem test_wf_rmode : Instr.wf (.setrm ⟨false, false, false, 6, false⟩) = false := by decide +kernel
theorem test_wf_row : Instr.wf (.act ⟨1, 2, true, true⟩) = false := by decide +kernel
theorem test_wf_pre : Instr.wf (.pre ⟨1, true, true⟩) = false := by decide +kernel
theorem test_wf_strip : Instr.wf (.sld ⟨1, 2, true, true⟩) = false := by decide +kernel
theorem test_wf_splat : Instr.wf (.vsplat ⟨1, 2, 0, false, 0, false⟩) = false := by decide +kernel
theorem test_wf_element : Instr.wf (.vextr ⟨1, 2, 3, true, true⟩) = false := by decide +kernel
theorem test_wf_twill : Instr.wf (.twrot ⟨1, 2, 3, 0⟩) = false := by decide +kernel
theorem test_wf_carry_mask : Instr.wf (.vadc ⟨1, 2, 3, 0, false, 0, false⟩) = false := by decide +kernel
theorem test_wf_mx : Instr.wf (.vcvtmxImp ⟨1, 2, 0, 0, true, true⟩) = false := by decide +kernel
theorem test_wf_slide : Instr.wf (.vslup ⟨1, 2, 3, 0, false, 0, false⟩) = false := by decide +kernel
theorem test_wf_mask_shift : Instr.wf (.mshl ⟨1, 2, 3, 3, false⟩) = false := by decide +kernel
theorem test_wf_red_op : Instr.wf (.red ⟨1, 2, 3, 7, 0⟩) = false := by decide +kernel
theorem test_wf_red_pair : Instr.wf (.red ⟨15, 2, 3, 6, 1⟩) = false := by decide +kernel
theorem test_wf_counter : Instr.wf (.barrive ⟨1, 2, false, 64, false⟩) = false := by decide +kernel
theorem test_wf_fence : Instr.wf (.fence ⟨3, 0, false⟩) = false := by decide +kernel
theorem test_wf_load : Instr.wf (.ld ⟨1, 2, 0, false, true, 3⟩) = false := by decide +kernel
theorem test_wf_amo : Instr.wf (.amoadd ⟨1, 2, 3, 3, 0, false, false⟩) = false := by decide +kernel
theorem test_wf_bcast : Instr.wf (.bcast ⟨1, 2, 0, 3⟩) = false := by decide +kernel
theorem test_wf_gset : Instr.wf (.gset ⟨1, 2, 0, 3⟩) = false := by decide +kernel
theorem test_wf_hget : Instr.wf (.hget ⟨0, 2, 1, 3⟩) = false := by decide +kernel
theorem test_wf_hkill : Instr.wf (.hkill ⟨0, 2, 0, 3⟩) = false := by decide +kernel
theorem test_wf_ctbar : Instr.wf (.ctbarArrive ⟨1, 2, 1, 3⟩) = false := by decide +kernel
theorem test_wf_ct_load : Instr.wf (.ctLoad ⟨7, 1, 2, 0⟩) = false := by decide +kernel
theorem test_wf_ct_store : Instr.wf (.ctStore ⟨4, 1, 2, 0⟩) = false := by decide +kernel
theorem test_wf_ct_amo : Instr.wf (.ctAmo ⟨2, true, false, false, 1, 2, 3⟩) = false := by decide +kernel
theorem test_wf_csr : Instr.wf (.ctCsrAccess ⟨0x300, 1, 0, 1⟩) = false := by decide +kernel

/-! ## Words from the spec's encodings -/

/-- What each word stands for, from the derivations the spec gives: R146, R169, R223, R227, R246 of chapters 05 to 13, and the
tables of words in chapters 08, 11, 17 and 18. -/
def specWordsScalar : List (Nat × Instr) :=
  [(0x04cc8000, .add ⟨3, 3, 2, false⟩), (0x06ab000f, .min ⟨10, 10, 12, false⟩), (0x088bffff, .addi ⟨2, 2, -1⟩),
   (0x20808000, .bne ⟨2, 0, 0⟩), (0x22690000, .blt ⟨9, 10, 0⟩), (0x22c00002, .beq ⟨11, 0, 2⟩),
   (0x205cfffd, .bne ⟨1, 7, -3⟩), (0x2c400000, .bfetch ⟨1, false⟩), (0x2c000001, .stop ⟨false⟩),
   (0x30c00200, .xsend ⟨3, 2, false⟩), (0x34000000, .nop ⟨false⟩)]

def specWordsRows : List (Nat × Instr) :=
  [(0x40480601, .setvl ⟨1, 2, false, 6, false⟩), (0x40800103, .mmode ⟨2, false⟩), (0x40000003, .mmodeOff ⟨false⟩),
   (0x41000203, .mmodeRd ⟨4, false⟩), (0x44900000, .act ⟨2, 4, false, false⟩), (0x4541c004, .ref ⟨5, 7, false⟩),
   (0x48114000, .sdef ⟨0, 4, 5, false⟩), (0x48800401, .sld ⟨2, 0, true, false⟩), (0x48cc0002, .sst ⟨3, 3, false, false⟩),
   (0x48180003, .spos ⟨0, 6, false⟩), (0x52600202, .twbcast ⟨9, 8, 0, 2⟩), (0x5a0e4403, .lds ⟨8, 3, 9, 0, true, false⟩),
   (0x5b9a0004, .stst ⟨14, 6, 8, 0, false, false⟩)]

def specWordsVector : List (Nat × Instr) :=
  [(0x6048c000, .vadd ⟨1, 2, 3, 0, false, 0, false⟩), (0x60cf1000, .vadd ⟨3, 3, 12, 2, false, 0, false⟩),
   (0x62494180, .vadd ⟨9, 2, 5, 0, false, 1, true⟩), (0x604b4200, .vadd ⟨1, 2, 13, 0, false, 2, false⟩),
   (0x6bb64100, .vfma ⟨14, 13, 9, 0, false, 1, false⟩), (0x6bbc5203, .vminadd ⟨14, 15, 1, 2, false, 2, false⟩),
   (0x70a34105, .vcmpGe ⟨2, 8, 13, 0, false, 1, false⟩), (0x70ab0102, .vcmpLt ⟨2, 10, 12, 0, false, 1, false⟩),
   (0x76268802, .vaddm ⟨8, 9, 10, 1, false, 0, false⟩), (0x76200a00, .vadc ⟨8, 8, 0, 1, false, 2, false⟩),
   (0x7b2c0002, .vquant ⟨12, 11, 0, false, false⟩), (0x7fb05201, .vslup ⟨14, 12, 1, 2, false, 2, false⟩),
   (0x7ea44102, .vsldn ⟨10, 9, 1, 0, false, 1, false⟩), (0x7f2e0003, .vgathr ⟨12, 11, 8, 0, false, false⟩)]

def specWordsOthers : List (Nat × Instr) :=
  [(0x84444206, .mshl ⟨1, 1, 1, 2, false⟩), (0x84c40005, .mpopc ⟨3, 1, false⟩), (0xa1890000, .mop ⟨1, 8, 9, false⟩),
   (0xa0abcc01, .mops ⟨0, 10, 11, 12, true, true, false⟩), (0xa0230403, .mdrainW ⟨0, 2, 3, false, false⟩),
   (0xa1000405, .mtileRel ⟨1, false⟩), (0xa6a14001, .tdotm ⟨2, 0, 5, false⟩), (0xa54e4103, .red ⟨5, 3, 9, 0, 1⟩),
   (0xc0480500, .barrive ⟨1, 2, false, 5, false⟩), (0xc0d00501, .barwait ⟨3, 4, false, 5, false⟩),
   (0xc3780002, .semwait ⟨13, 14, false, 0, false⟩), (0xc0490c03, .sempost ⟨1, 2, true, 12, false⟩),
   (0xc0000504, .fence ⟨1, 1, false⟩), (0xc0000b04, .fence ⟨2, 3, false⟩),
   (0xc5580103, .ld ⟨5, 6, 16, false, false, 3⟩), (0xc4c8000b, .ld ⟨3, 2, 0, true, false, 3⟩),
   (0xc958000b, .st ⟨5, 6, 0, true, 3⟩), (0xcc48ec00, .amoadd ⟨1, 2, 3, 2, 3, false, false⟩)]

theorem test_specWordsScalar : ∀ x ∈ specWordsScalar, decodeHart x.1 = .ok x.2 := by decide +kernel
theorem test_specWordsRows : ∀ x ∈ specWordsRows, decodeHart x.1 = .ok x.2 := by decide +kernel
theorem test_specWordsVector : ∀ x ∈ specWordsVector, decodeHart x.1 = .ok x.2 := by decide +kernel
theorem test_specWordsOthers : ∀ x ∈ specWordsOthers, decodeHart x.1 = .ok x.2 := by decide +kernel

/-- R146, and the RISC-V base for the rest (log 10). -/
theorem test_control_thread_words : decodeCt 0x0205278b = some (.bcast ⟨0, 10, 2, 15⟩) ∧
    decodeCt 0x00c5950b = some (.gdef ⟨12, 11, 1, 10⟩) ∧ decodeCt 0x00000073 = some .ctEcall ∧
    decodeCt 0x30200073 = some .ctMret ∧ decodeCt 0x0000100f = some .ctFenceI := by decide +kernel

/-- R172: the words refused at orders 1, 2, 3 and 5. -/
theorem test_refused_words : decodeHart 0 = .illegal ∧ decodeHart 0xffffffff = .illegal ∧ decodeHart 0xfcc00000 = .header ∧
    decodeHart 0x04000015 = .illegal ∧ decodeHart 0x18030000 = .illegal ∧ decodeHart 0x6048c300 = .reserved ∧
    decodeHart 0x34000b01 = .reserved ∧ decodeHart 0x04cc8100 = .reserved := by decide +kernel

/-! ## Small states, and the spec's worked examples -/

/-- Core 0 runs with one hart, on bank 0, and nothing else has happened since reset. -/
def oneHart (h : Hart) (b : Bank := {}) (k : Core := {}) : State :=
  { State.reset with cores := [(0, { k with st := .running, harts := [(0, h)], banks := [(0, b)] })] }

/-- A split hart with the given scalar registers. -/
def split (g : Tab Word) : Hart := { st := .split, g := g, vl := 4 }

/-- A lane-file or latch register of the given tag and contents. -/
def holding (tag : BitVec 4) (bits : Nat) : VReg := { tag := tag, bits := bits, valid := true, latch := .opened }

/-- The instruction answers a next state that passes. -/
def gives (r : Res) (f : State → Bool) : Bool :=
  match r with
  | .next t => f t
  | _ => false

/-- R211's example: the first LSHI. -/
theorem test_lshi : gives (exec (.lshi ⟨5, 0x08d159⟩) (oneHart (split [(5, 1)])))
    (fun t => (t.hart 0 0).greg 5 == 0x48d159) = true := by decide +kernel

/-- R209: a zero divisor gives −1, and −2^63 by −1 gives −2^63. -/
theorem test_div : gives (exec (.div ⟨1, 2, 3, false⟩) (oneHart (split [(2, 7)])))
    (fun t => (t.hart 0 0).greg 1 == 0xffffffffffffffff) = true := by decide +kernel
theorem test_div_overflow : gives (exec (.div ⟨1, 2, 3, false⟩) (oneHart (split [(2, 0x8000000000000000), (3, -1)])))
    (fun t => (t.hart 0 0).greg 1 == 0x8000000000000000) = true := by decide +kernel

/-- R169's example: RAW in va is refused with this detail. -/
theorem test_tag_illegal : gives (exec (.vadd ⟨1, 2, 3, 0, false, 0, false⟩)
      (oneHart (split []) { regs := [(1, holding 10 0), (3, holding 10 0)] }))
    (fun t => (t.hart 0 0).st == .faulted && (t.hart 0 0).hcause == 3 && (t.hart 0 0).htval == 0x1f6048c000) = true := by
  decide +kernel

/-- R318's example: the limbs added by the first word, and its carries. -/
theorem test_vaddm : gives (exec (.vaddm ⟨8, 9, 10, 1, false, 0, false⟩) (oneHart { split [] with vl := 3 }
      { regs := [(8, holding 6 0), (9, holding 6 (5 * 2 ^ 128 + 2 ^ 128 - 1)), (10, holding 6 1)] }))
    (fun t => (t.reg 0 0 8).bits % 2 ^ 192 == 5 * 2 ^ 128 + (2 ^ 64 - 1) * 2 ^ 64 && (t.bank 0 0).mask 1 % 8 == 1) = true := by
  decide +kernel

/-- R324's example: VQUANT of 1, −3, 0.75 and 12. -/
theorem test_vquant : gives (exec (.vquant ⟨12, 11, 0, false, false⟩) (oneHart (split [])
      { regs := [(11, holding 12 (0x41400000 * 2 ^ 96 + 0x3f400000 * 2 ^ 64 + 0xc0400000 * 2 ^ 32 + 0x3f800000)),
                 (12, holding 13 0), (15, holding 1 0)] }))
    (fun t => (t.reg 0 0 12).bits % 2 ^ 16 == 0x71b1 && (t.reg 0 0 15).bits % 256 == 0x80) = true := by decide +kernel

/-- R224's example of `tdesc` at 1.8 GHz. -/
theorem test_tdesc : gives (exec (.hrd ⟨1, 8, false⟩) (oneHart (split [])))
    (fun t => (t.hart 0 0).greg 1 == 0x001228200824511b) = true := by decide +kernel

/-- R333: a bit moved to L or beyond is lost. -/
theorem test_mshl : gives (exec (.mshl ⟨1, 1, 1, 2, false⟩) (oneHart (split []) { masks := [(1, 0xc)] }))
    (fun t => (t.bank 0 0).mask 1 == 8) = true := by decide +kernel

/-- R222: TRAPI's detail. -/
theorem test_trapi : gives (exec (.trapi ⟨3, false⟩) (oneHart (split [])))
    (fun t => (t.hart 0 0).hcause == 8 && (t.hart 0 0).htval == 0x334000304) = true := by decide +kernel

/-! ## Witnesses: hart words on scalar state -/

theorem ready_oneHart {h : Hart} {b : Bank} {k : Core} {p : Bool} (hi : h.pend = none) (hp : p = true → h.hp = true)
    (ho : b.owner = k.ctx.toNat) (ht : k.traceOn = false) (hr : k.ct.ring.getLsbD 63 = false)
    (hy : h.young = [] := by rfl) (hv : h.blockVa + 64 < 2 ^ 48 := by
      first | decide | exact (by decide : (split []).blockVa + 64 < 2 ^ 48)) :
    Ready (oneHart h b k) 0 0 p := ⟨rfl, rfl, rfl, hi, hy, hv, hp, ho, rfl, ht, hr⟩

/-- A split hart, alone. -/
theorem ready_split (g : Tab Word) (b : Bank) (p : Bool) (ho : b.owner = 0) : Ready (oneHart (split g) b) 0 0 p :=
  ready_oneHart rfl (fun _ => rfl) ho rfl rfl

theorem witness_ScalarWords : Ready (oneHart (split [(2, 5)])) 0 0 true ∧ Ready (oneHart (split [(2, 5)])) 0 0 false ∧
    fld 0x04000100 26 6 = 1 ∧ fld 0x04000100 8 6 ≠ 0 :=
  ⟨ready_split _ _ _ rfl, ready_split _ _ _ rfl, by decide, by decide⟩

theorem witness_ScalarRegisterWrite : (15 : Nat) ≠ 0 ∧ (0 : Nat) ≠ 15 := by decide

/-- The state with the first 1 GiB mapped to itself (log 15). -/
def mapped (s : State) : State := s.placeSpace 0

/-- A hart at word 1 of a block at `va`. -/
def atBlock (va : Nat) (g : Tab Word) : Hart := { split g with hpc := BitVec.ofNat 48 (va + 4) }

theorem ready_atBlock (va : Nat) (g : Tab Word) (p : Bool) (hv : (atBlock va []).blockVa + 64 < 2 ^ 48 := by decide) :
    Ready (oneHart (atBlock va g)) 0 0 p :=
  ready_oneHart rfl (fun _ => rfl) rfl rfl rfl rfl hv

/-- A NOP at the end of the last block of the address space. -/
theorem witness_LastBlockEnds :
    let s := mapped (oneHart { atBlock (2 ^ 48 - 64) [] with blk := [0xfc400000, 0] })
    let h := s.hart 0 0
    (s.spaceRoot (s.asid 0)).isSome = true ∧ s.actGang = none ∧ s.actCore = 0 ∧ s.actBank = 0 ∧ h.pend = none ∧ h.young = [] ∧
    h.hp = true ∧ s.stepwise = false ∧ (s.core 0).traceOn = false ∧ (s.ct 0).ring.getLsbD 63 = false ∧
    h.blockVa = 2 ^ 48 - 64 ∧ h.wordIdx = h.blockLen ∧ h.bcastKind = false := by
  decide +kernel

/-- A branch not taken, one taken to VA 0, and one taken to the last block of the address space. -/
theorem witness_BranchWords :
    let s := oneHart (atBlock 0x40 [(1, 5)])
    let t := oneHart (atBlock (2 ^ 48 - 128) [(1, 5)])
    Ready s 0 0 false ∧ ((s.hart 0 0).greg 1 == (s.hart 0 0).greg 0) = false ∧ ((s.hart 0 0).greg 1 != (s.hart 0 0).greg 0) = true ∧
    uval 64 (((s.hart 0 0).hpc.toNat / 64 * 64 : Nat) + 64 * (-1 : BitVec 15).toInt) < 2 ^ 48 ∧
    Ready t 0 0 false ∧ uval 64 (((t.hart 0 0).hpc.toNat / 64 * 64 : Nat) + 64 * (1 : BitVec 15).toInt) < 2 ^ 48 :=
  ⟨ready_atBlock _ _ _, by decide +kernel, by decide +kernel, by decide +kernel, ready_atBlock _ _ _, by decide +kernel⟩

theorem witness_JumpWords :
    let s := oneHart (atBlock 0x40 [(1, 0x80)])
    let far (i : BitVec 18) := ((s.hart 0 0).greg 1 + i.signExtend 64).toNat
    Ready s 0 0 true ∧ Ready s 0 0 false ∧
    uval 64 (((s.hart 0 0).hpc.toNat / 64 * 64 : Nat) + 64 * (-1 : BitVec 22).toInt) < 2 ^ 48 ∧
    far 0x3ff80 < 2 ^ 48 ∧ far 0x3ff80 % 64 = 0 ∧ far 1 % 64 ≠ 0 ∧
    ((s.hart 0 0).greg 1).toNat < 2 ^ 48 ∧ ((s.hart 0 0).greg 1).toNat % 64 = 0 ∧
    ((oneHart (atBlock 0x40 [(1, 63)])).hart 0 0).greg 1 = 63 ∧ Ready (oneHart (atBlock 0x40 [(1, 63)])) 0 0 true :=
  ⟨ready_atBlock _ _ _, ready_atBlock _ _ _, by decide +kernel, by decide +kernel, by decide +kernel, by decide +kernel,
    by decide +kernel, by decide +kernel, by decide +kernel, ready_atBlock _ _ _⟩

theorem witness_BlockAndPredicateWords : Ready (oneHart (atBlock 0x40 [(1, 5)])) 0 0 true ∧
    Ready (oneHart (atBlock 0x40 [(1, 5)])) 0 0 false ∧ ((5 : BitVec 3) = 5) := ⟨ready_atBlock _ _ _, ready_atBlock _ _ _, rfl⟩

/-- Three entries in a neighbour's queue leave room; each queue of the hart holds an entry, or one alone is empty. -/
theorem witness_LinkWords :
    let full : Hart := { split [(1, 9)] with fromW := [1], fromE := [2], fromCT := [3], toCT := [4, 5, 6] }
    let s := oneHart full
    Ready s 0 0 true ∧ (s.hart 0 ((s.core 0).east 0)).fromW.length < 4 ∧ (s.hart 0 ((s.core 0).west 0)).fromE.length < 4 ∧
    (s.hart 0 0).toCT.length = 3 ∧ (s.hart 0 0).fromE = [2] ∧ (s.hart 0 0).fromW = [1] ∧ (s.hart 0 0).fromCT = [3] ∧
    (∀ u ∈ [oneHart { full with fromE := [] }, oneHart { full with fromW := [] }, oneHart { full with fromCT := [] }],
      Ready u 0 0 true) ∧ ((oneHart { full with fromE := [] }).hart 0 0).fromW = [1] :=
  ⟨ready_oneHart rfl (fun _ => rfl) rfl rfl rfl, by decide +kernel, by decide +kernel, rfl, rfl, rfl, rfl,
    by
      intro u hu
      simp only [List.mem_cons, List.not_mem_nil, or_false] at hu
      obtain rfl | rfl | rfl := hu <;> exact ready_oneHart rfl (fun _ => rfl) rfl rfl rfl, rfl⟩

/-- A value whose rounding mode field is 5, the largest defined. -/
theorem witness_SystemWords :
    let s := oneHart (split [(1, 5)])
    Ready s 0 0 true ∧ ((s.hart 0 0).greg 1).toNat % 8 = 5 ∧ (∀ x ∈ (s.core 0).engine, x.bank ≠ 0) ∧
    (∀ x ∈ (s.hart 0 0).slots, x.2.busy = false) ∧ (s.core 0).evq.length < 64 :=
  ⟨ready_split _ _ _ rfl, by decide +kernel, by decide +kernel, by decide +kernel, by decide +kernel⟩

theorem witness_HartFaultTaken :
    let s := oneHart (split [])
    (s.hart 0 0).young = [] ∧ (∀ x ∈ (s.core 0).engine, x.bank ≠ 0) ∧ (0x2b : Nat) ≠ 0x86 ∧ (s.core 0).evq.length < 64 ∧ (s.hart 0 0).evWait = [] ∧
      (∀ x ∈ (s.hart 0 0).slots, x.2.busy = false) ∧ (1 : Nat) ≠ 0 := by
  and_intros <;> decide +kernel

/-- R144, R375: the record of a fault waits for a copy of its hart, and for the hart's earlier records. -/
theorem test_fault_record_waits :
    let s := oneHart { split [] with slots := [(0, { busy := true })] }
    let t := (s.hartFault 0 0 0x2b 0 0).hartFault 0 0 0xc1 0 0
    (t.core 0).evq = [] ∧ (t.hart 0 0).evWait.map (·.cause) = [0x2b, 0xc1] ∧ (t.hart 0 0).hcause = 0xc1 := by
  decide +kernel

theorem witness_SoftwareTraps : Ready (oneHart (split [])) 0 0 true := ready_split _ _ _ rfl

/-- The largest bitmap and the first refused; `ml` of 1 and 256, and 0 and 257 refused; no operation in the engine. -/
theorem witness_ConfigWords :
    let s := oneHart (split [(1, 0xffff), (2, 0x10000), (3, 1), (4, 256), (5, 257)])
    let g (r : Nat) := ((s.hart 0 0).greg r).toNat
    Ready s 0 0 true ∧ g 1 < 2 ^ 16 ∧ 2 ^ 16 ≤ g 2 ∧ 1 ≤ g 3 ∧ g 3 ≤ 256 ∧ 1 ≤ g 4 ∧ g 4 ≤ 256 ∧ g 0 = 0 ∧ 256 < g 5 ∧
    (∀ x ∈ (s.core 0).engine, x.bank ≠ 0) := by
  refine ⟨ready_split _ _ _ rfl, ?_⟩
  and_intros <;> decide +kernel

/-! ## Witnesses: rows and strips -/

theorem ready_mem {s : State} {m : Mem} {c b : Nat} {p : Bool} (h : Ready s c b p) : Ready { s with mem := m } c b p :=
  ⟨h.gang, h.core, h.bank, h.idle, h.alone, h.inside, h.acts, h.owned, h.whole, h.noTrace, h.noRing⟩

theorem ready_mapped {s : State} {p : Bool} (h : Ready s 0 0 p) : Ready (mapped s) 0 0 p := by
  unfold mapped State.placeSpace
  exact ready_mem h

/-- Two rows of SAG 2 of bank 0, and a handle at the second of its two rows, the stride being negative. -/
def rowState : State :=
  mapped (oneHart { split [(4, BitVec.ofNat 64 (rowPa 0 0 2 3))] with
      handles := [(1, { base := BitVec.ofNat 64 (rowPa 0 0 2 3), stride := -1, count := 2, pos := 1 })] }
    { regs := [(2, { holding 4 7 with dirty := true, row := some (rowPa 0 0 2 3) })] })

theorem ready_rowState (p : Bool) : Ready rowState 0 0 p := ready_mapped (ready_oneHart rfl (fun _ => rfl) rfl rfl rfl)

theorem witness_RowsOpened :
    let x := (rowState.hart 0 0).handle 1
    let free (v pa : Nat) := rowState.actReady 0 0 v = true ∧ rowState.held 0 0 (.here pa) 8192 false = false ∧
      rowState.tableFull 0 1 = false ∧ pa ∉ rowState.rown
    Ready rowState 0 0 true ∧
    rowState.rowAt 0 0 2 ((rowState.hart 0 0).greg 4).toNat false = .ok (2 ^ 30, rowPa 0 0 2 3) ∧ free 2 (rowPa 0 0 2 3) ∧
    x.count ≠ 0 ∧ rowState.derivedRow 0 0 2 x.base.toNat
      (uval 48 ((x.base.toNat : Int) + x.pos * x.stride.toInt * 2 ^ 18)) false = .ok (rowPa 0 0 2 2) ∧ free 2 (rowPa 0 0 2 2) :=
  ⟨ready_rowState _, by decide +kernel, by decide +kernel, by decide +kernel, by decide +kernel, by decide +kernel⟩

/-- An ACT and a WB of a row of another SAG, from an OPEN latch, and a CLOSED latch. -/
theorem witness_RowCheckOrder :
    let s := rowState
    let va := ((s.hart 0 0).greg 4).toNat
    Ready s 0 0 true ∧ s.rowAt 0 0 5 va false = .error (0x2a, va) ∧ (0x2a : Nat) ≠ walkWait ∧
    (s.reg 0 0 5).latch = .closed ∧ (s.reg 0 0 2).latch ≠ .closed ∧
    s.rowAt 0 0 2 0 true = .error (0x2a, 2 ^ 52) ∧ ((s.hart 0 0).greg 0).toNat = 0 :=
  ⟨ready_rowState _, by decide +kernel, by decide, by decide +kernel, by decide +kernel, by decide +kernel, by decide +kernel⟩

theorem witness_RowsWritten :
    let x := (rowState.hart 0 0).handle 1
    let free (v pa : Nat) := (rowState.reg 0 0 v).latch ≠ .closed ∧ rowState.wbReady 0 0 v = true ∧
      rowState.held 0 0 (.here pa) 8192 true = false ∧ rowState.tableFull 0 1 = false ∧ pa ∉ rowState.rshr ∧ pa ∉ rowState.rown
    Ready rowState 0 0 true ∧
    rowState.rowAt 0 0 2 ((rowState.hart 0 0).greg 4).toNat true = .ok (2 ^ 30, rowPa 0 0 2 3) ∧ free 2 (rowPa 0 0 2 3) ∧
    x.count ≠ 0 ∧ rowState.derivedRow 0 0 2 x.base.toNat
      (uval 48 ((x.base.toNat : Int) + x.pos * x.stride.toInt * 2 ^ 18)) true = .ok (rowPa 0 0 2 2) ∧ free 2 (rowPa 0 0 2 2) :=
  ⟨ready_rowState _, by decide +kernel, by decide +kernel, by decide +kernel, by decide +kernel, by decide +kernel⟩

theorem witness_RowStoreReadsBack : Mem.wf [] = true ∧ 2 ^ 65536 - 1 < 2 ^ 65536 ∧ (8191 : Nat) < 8192 ∧ 16384 + 8192 ≤ 24576 := by
  refine ⟨rfl, by omega, by decide, by decide⟩

/-- A bindable latch; a free SAG; a handle's values at their ends, and the first refused ones. -/
theorem witness_LatchAndHandleWords :
    let s := oneHart { split [(1, 8192), (2, 0x10000), (3, 2 ^ 32 - 1), (4, 2 ^ 48), (5, 2 ^ 32), (6, 0xffff), (7, 1), (8, 2),
      (9, 100)] with handles := [(1, { count := 2 })] }
    let g (r : Nat) := ((s.hart 0 0).greg r).toNat
    Ready s 0 0 true ∧ s.canWrite 0 0 2 = true ∧ s.sagIdle 0 0 2 = true ∧ g 1 % 8192 = 0 ∧ g 1 < 2 ^ 48 ∧
    g 2 / 2 ^ 16 ≠ 0 ∧ g 3 < 2 ^ 32 ∧ g 3 / 2 ^ 16 ≠ 0 ∧ 2 ^ 48 ≤ g 4 ∧ g 9 % 8192 ≠ 0 ∧ 2 ^ 32 ≤ g 5 ∧ g 6 / 2 ^ 16 = 0 ∧
    g 7 < ((s.hart 0 0).handle 1).count.toNat ∧ ((s.hart 0 0).handle 1).count.toNat ≤ g 8 :=
  ⟨ready_oneHart rfl (fun _ => rfl) rfl rfl rfl, by decide +kernel⟩

/-! ## Witnesses: vector words -/

theorem goes_intro {x : LaneWord} {s : State} {c b : Nat} (hr : Ready s c b x.p) (h : x.g = false ∧
    firstRefused (x.checks s s c b) = none ∧ x.refuse s s c b = none ∧
    (let q := x.plan s s c b
     (q.view.out && !q.all) = false ∧ q.ready = true ∧ q.late = none ∧
      (q.tagged s c b).firstLine c b q.lane q.view.egi = none ∧ q.view.rm.nantrap = false ∧ q.fin.trap = none) ∧
    (s.core c).idlePolicy = false) : x.Goes s c b := by
  obtain ⟨hg, hc, hf, ⟨ht, hy, hl, hb, hn, hx⟩, hi⟩ := h
  exact ⟨hr, hg, hc, hf, ⟨ht, hy, hl, hb, fun e => by simp_all, hx⟩, hi⟩

/-- Three registers of one tag, RAW and UI8 ones, and masks, in a hart with scalar registers. -/
def vecState (tag : BitVec 4) (x y z : Nat) : State :=
  oneHart (split [(1, 3), (2, 0)])
    { regs := [(0, { holding 14 1 with row := some (rowPa 0 0 0 5) }), (1, holding tag x), (2, holding tag y), (3, holding tag z), (4, holding 15 0x3412), (5, holding 5 2),
               (6, holding 8 0), (7, holding 13 0), (8, holding 4 3), (9, holding 14 1), (10, holding 4 0),
               (11, holding 0 1), (12, holding 5 2), (15, holding 1 0)],
      masks := [(1, 5), (2, 6)] }

theorem ready_vec (tag : BitVec 4) (x y z : Nat) (p : Bool) : Ready (vecState tag x y z) 0 0 p :=
  ready_oneHart rfl (fun _ => rfl) rfl rfl rfl

theorem witness_ElementMoves :
    let s := vecState 4 1 2 3
    (splatWord ⟨3, 1, 1, false, 1, true⟩).Goes s 0 0 ∧ (insertWord ⟨3, 1, 2, false, true⟩).Goes s 0 0 ∧
    s.canRead 0 0 3 = true ∧ s.consumeFrom 0 0 [] [3] 0 = none ∧ Ready s 0 0 true :=
  ⟨goes_intro (ready_vec _ _ _ _ _) (by decide +kernel), goes_intro (ready_vec _ _ _ _ _) (by decide +kernel),
    by decide +kernel, by decide +kernel, ready_vec _ _ _ _ _⟩

theorem witness_EncodingWords :
    let o : V3 := ⟨3, 1, 2, 1, false, 0, true⟩
    (bitWord (.vand o) o anyTag false fun _ _ a b => a &&& b).Goes (vecState 4 1 2 3) 0 0 ∧
    (carryWord (.vadc o) o fun a b c => a + b + c).Goes (vecState 6 1 2 3) 0 0 :=
  ⟨goes_intro (ready_vec _ _ _ _ _) (by decide +kernel), goes_intro (ready_vec _ _ _ _ _) (by decide +kernel)⟩

theorem witness_ValueWords :
    let o : V3 := ⟨3, 1, 2, 1, false, 0, true⟩
    (valueWord (.vadd o) o (binVal isIFQ isIFQT fun m a b => a.add m.rdn b)).Goes (vecState 12 0x3f800000 0x40000000 0) 0 0 ∧
    (valueWord (.vdiv o) o divOp).Goes (vecState 4 1 2 3) 0 0 :=
  ⟨goes_intro (ready_vec _ _ _ _ _) (by decide +kernel), goes_intro (ready_vec _ _ _ _ _) (by decide +kernel)⟩

theorem witness_UnaryWords :
    let o : V2 := ⟨3, 1, 1, false, true⟩
    (unaryWord (.vneg o) o (unVal XVal.neg)).Goes (vecState 12 0x3f800000 0 0) 0 0 ∧
    (unaryWord (.vclz o) o (countVal clzBits)).Goes (vecState 4 1 2 3) 0 0 :=
  ⟨goes_intro (ready_vec _ _ _ _ _) (by decide +kernel), goes_intro (ready_vec _ _ _ _ _) (by decide +kernel)⟩

theorem witness_CompareAndConvertWords :
    (cmpWord (.vcmpEq ⟨2, 1, 2, 1, false, 0, true⟩) ⟨2, 1, 2, 1, false, 0, true⟩ 0).Goes (vecState 4 1 2 3) 0 0 ∧
    (fromvWord ⟨2, 1, true⟩).Goes (vecState 4 1 2 3) 0 0 ∧ (tovWord ⟨1, 2, true⟩).Goes (vecState 4 1 2 3) 0 0 ∧
    (iotaWord ⟨1, 1, 1, true⟩).Goes (vecState 4 1 2 3) 0 0 ∧ (quantWord ⟨7, 1, 1, false, true⟩).Goes (vecState 12 0 0 0) 0 0 :=
  ⟨goes_intro (ready_vec _ _ _ _ _) (by decide +kernel), goes_intro (ready_vec _ _ _ _ _) (by decide +kernel),
    goes_intro (ready_vec _ _ _ _ _) (by decide +kernel), goes_intro (ready_vec _ _ _ _ _) (by decide +kernel),
    goes_intro (ready_vec _ _ _ _ _) (by decide +kernel)⟩

theorem witness_PermuteWords :
    let o : V3 := ⟨3, 1, 1, 1, false, 1, true⟩
    (permWord (.vslup o) o.d.toNat o.a.toNat o.m.toNat o.g o.p false (amountOf o) fun p =>
        p.local ((p.mine.filter fun j => decide (p.k ≤ j)).map fun j => (j, j - p.k))).Goes (vecState 4 1 2 3) 0 0 ∧
    (gatherRegWord ⟨3, 1, 5, 1, false, true⟩).Goes (vecState 4 1 2 3) 0 0 :=
  ⟨goes_intro (ready_vec _ _ _ _ _) (by decide +kernel), goes_intro (ready_vec _ _ _ _ _) (by decide +kernel)⟩

theorem witness_ReductionAndTernaryWords :
    let s := vecState 4 1 2 3
    (redWord (.vredSum ⟨3, 1, 1, false, true⟩) ⟨3, 1, 1, false, true⟩ sumOp).Goes s 0 0 ∧ (mergeWord ⟨12, 5, true⟩).Goes s 0 0 ∧
    (tdotWord (.tdot ⟨0, 0, 3, true⟩) true 8 11 2 1 fun _ _ _ => 1).Goes s 0 0 ∧ (stuckWord ⟨2, 0, 1, true⟩).Goes s 0 0 :=
  ⟨goes_intro (ready_vec _ _ _ _ _) (by decide +kernel), goes_intro (ready_vec _ _ _ _ _) (by decide +kernel),
    goes_intro (ready_vec _ _ _ _ _) (by decide +kernel), goes_intro (ready_vec _ _ _ _ _) (by decide +kernel)⟩

theorem clear_intro {s : State} {p : Bool} {rs ws : List Nat} (hr : Ready s 0 0 p) (h : (s.hart 0 0).egi = 0 ∧
    (s.core 0).idlePolicy = false ∧ (rmOf (s.hart 0 0).rmode).nantrap = false ∧
    (∀ r ∈ rs, s.canRead 0 0 r = true ∧ (s.reg 0 0 r).conds = []) ∧ ∀ r ∈ ws, s.canWrite 0 0 r = true) : Clear s 0 0 p rs ws :=
  ⟨hr, h.1, h.2.1, h.2.2.1, h.2.2.2.1, h.2.2.2.2⟩

theorem clear_vec (tag : BitVec 4) (x y z : Nat) (p : Bool) (rs ws : List Nat) (h : ((vecState tag x y z).hart 0 0).egi = 0 ∧
    ((vecState tag x y z).core 0).idlePolicy = false ∧ (rmOf ((vecState tag x y z).hart 0 0).rmode).nantrap = false ∧
    (∀ r ∈ rs, (vecState tag x y z).canRead 0 0 r = true ∧ ((vecState tag x y z).reg 0 0 r).conds = []) ∧
    ∀ r ∈ ws, (vecState tag x y z).canWrite 0 0 r = true := by decide +kernel) : Clear (vecState tag x y z) 0 0 p rs ws :=
  clear_intro (ready_vec _ _ _ _ _) h

theorem witness_CompareWordsComplete :
    let s := vecState 4 1 2 3
    Clear s 0 0 true [1, 2] [] ∧ isIF (s.tag 0 0 1) = true ∧ isIF (s.tag 0 0 2) = true ∧
    Clear s 0 0 true [1] [] ∧ isIFR (s.tag 0 0 1) = true := by
  exact ⟨clear_vec _ _ _ _ _ _ _, by decide +kernel, by decide +kernel, clear_vec _ _ _ _ _ _ _, by decide +kernel⟩

/-- Float and integer operands, a sum that the lanes keep, a splat, a ternary source, and a QS4 source with its scales. -/
theorem witness_ValueWordsComplete :
    let s := vecState 12 0x3f800000 0x40000000 0
    let u := vecState 4 1 2 3
    let c (s : State) (k : Nat) : Prop := s.tag 0 0 k = 13 ∨ isIF (s.tag 0 0 k) = true
    (Clear s 0 0 true [1, 2] [3] ∧ Clear s 0 0 true [1, 2, 3] [3] ∧ isIF (s.tag 0 0 3) = true ∧ isIF (s.tag 0 0 1) = true ∧
      isIF (s.tag 0 0 2) = true) ∧
    (Clear u 0 0 true [1, 2] [3] ∧ isI (u.tag 0 0 3) = true ∧ isI (u.tag 0 0 1) = true ∧ isI (u.tag 0 0 2) = true) ∧
    (Clear u 0 0 true [1] [3] ∧ (splatEnc (u.tag 0 0 1) 1 ((u.hart 0 0).greg 1) 1).isSome = true) ∧
    (Clear u 0 0 true [9, 2] [3] ∧ u.tag 0 0 9 = 14) ∧
    (Clear s 0 0 true [7, 2, 15] [3] ∧ s.tag 0 0 7 = 13 ∧ s.tag 0 0 15 = 1 ∧ (3 : BitVec 4) ≠ 15 ∧ c s 7) ∧
    Clear s 0 0 true [2, 1, 15] [7] :=
  ⟨⟨clear_vec _ _ _ _ _ _ _, clear_vec _ _ _ _ _ _ _, by decide +kernel⟩, ⟨clear_vec _ _ _ _ _ _ _, by decide +kernel⟩,
    ⟨clear_vec _ _ _ _ _ _ _, by decide +kernel⟩, ⟨clear_vec _ _ _ _ _ _ _, by decide +kernel⟩,
    ⟨clear_vec _ _ _ _ _ _ _, by decide +kernel⟩, clear_vec _ _ _ _ _ _ _⟩

theorem witness_UnaryWordsComplete :
    let s := vecState 12 0x3f800000 0x40000000 0
    let u := vecState 4 1 2 3
    (Clear s 0 0 true [1] [3] ∧ tagBits (s.tag 0 0 3) = tagBits (s.tag 0 0 1) ∧ isIFQ (s.tag 0 0 3) = true ∧
      isIFQ (s.tag 0 0 1) = true) ∧
    (Clear u 0 0 true [4] [3] ∧ isI (u.tag 0 0 3) = true ∧ u.tag 0 0 4 = 15) ∧
    (Clear s 0 0 true [7, 15] [3] ∧ s.tag 0 0 7 = 13 ∧ s.tag 0 0 15 = 1 ∧ (3 : BitVec 4) ≠ 15) ∧
    (Clear s 0 0 true [1] [9] ∧ s.tag 0 0 9 = 14 ∧ isIFQT (s.tag 0 0 1) = true) :=
  ⟨⟨clear_vec _ _ _ _ _ _ _, by decide +kernel⟩, ⟨clear_vec _ _ _ _ _ _ _, by decide +kernel⟩,
    ⟨clear_vec _ _ _ _ _ _ _, by decide +kernel⟩, clear_vec _ _ _ _ _ _ _, by decide +kernel⟩

/-- Six elements under SR, of which two stand in group 0: the hart restarts at group 1 with the generator's state after each of those. -/
def restartWord : LaneWord := valueWord (.vadd ⟨3, 1, 2, 0, false, 0, true⟩) ⟨3, 1, 2, 0, false, 0, true⟩ (binVal isIFQ isIFQT fun m a b => a.add m.rdn b)

def restartState (egi : BitVec 5) : State :=
  let s := vecState 12 0x3f800000 0x40000000 0
  let s0 := s.setHart 0 0 { s.hart 0 0 with vl := 6, rmode := 5, seed := 1 }
  if egi = 0 then s0 else
    s0.setHart 0 0 { s0.hart 0 0 with
      egi := egi
      drawn := (restartWord.plan s0 s0 0 0).es.filterMap fun e =>
        if groupOf 32 e.i < egi.toNat then e.seed.map fun x => (e.i, x) else none }

theorem ready_restart (egi : BitVec 5) (h : egi = 0 ∨ egi = 1) : Ready (restartState egi) 0 0 true := by
  obtain rfl | rfl := h <;> exact ⟨rfl, rfl, rfl, rfl, rfl, by decide +kernel, fun _ => rfl, rfl, rfl, rfl, rfl⟩

theorem witness_LaneWordsRestart :
    let s := restartState 1
    let h := s.hart 0 0
    let s0 := s.setHart 0 0 { h with egi := 0, drawn := [] }
    (restartWord.plan s s 0 0).lane.d = some 3 ∧ restartWord.Goes s 0 0 ∧ restartWord.Goes s0 0 0 ∧ (rmOf h.rmode).rm = 5 ∧
    h.drawn.map (·.1) = [0, 1] ∧
    ∀ e ∈ (restartWord.plan s0 s0 0 0).es,
      Tab.find h.drawn e.i = if groupOf (restartWord.plan s s 0 0).lane.w e.i < h.egi.toNat then e.seed else none :=
  ⟨by decide +kernel, goes_intro (ready_restart 1 (.inr rfl)) (by decide +kernel),
    goes_intro ⟨rfl, rfl, rfl, rfl, rfl, by decide +kernel, fun _ => rfl, rfl, rfl, rfl, rfl⟩ (by decide +kernel),
    by decide +kernel, by decide +kernel, by decide +kernel⟩

/-- RAW as vd, va and vb; and `w7` as vd of a sum with a QS4 source. -/
theorem witness_LaneWordsRefused :
    let s := vecState 12 0x3f800000 0x40000000 0
    let x (o : V3) : LaneWord := valueWord (.vadd o) o (binVal isIFQ isIFQT fun m a b => a.add m.rdn b)
    let tags (o : V3) (num : Nat) := (num, 15, false) ∈ (x o).checks s s 0 0 ∧
      ∀ y ∈ (x o).checks s s 0 0, y.2.2 = false → num < y.1 ∨ y = (num, 15, false)
    let o : V3 := ⟨15, 7, 2, 0, false, 0, true⟩
    Ready s 0 0 true ∧ tags ⟨4, 1, 2, 0, false, 0, true⟩ 0 ∧ tags ⟨3, 4, 4, 0, false, 0, true⟩ 1 ∧ tags ⟨3, 1, 4, 0, false, 0, true⟩ 2 ∧
    (∀ y ∈ (x o).checks s s 0 0, y.2.2 = true) ∧ (x o).refuse s s 0 0 = some (4, 0) :=
  ⟨ready_vec _ _ _ _ _, by decide +kernel, by decide +kernel, by decide +kernel, by decide +kernel, by decide +kernel⟩

theorem witness_ValueTagsRefused :
    let s := vecState 12 0x3f800000 0x40000000 0
    let u := s.setReg 0 0 15 { holding 12 0 with valid := true }
    Ready s 0 0 true ∧ isIFQ (s.tag 0 0 4) = false ∧ isIFQT (s.tag 0 0 4) = false ∧ isIFQ (s.tag 0 0 3) = true ∧
    isIFQT (s.tag 0 0 1) = true ∧ isQ (s.tag 0 0 7) = true ∧ isIFQT (s.tag 0 0 7) = true ∧ s.tag 0 0 15 = 1 ∧
    isIFQ (s.tag 0 0 15) = true ∧ Ready u 0 0 true ∧ u.tag 0 0 15 ≠ 1 ∧ u.tag 0 0 15 ≠ 15 ∧ isQ (u.tag 0 0 7) = true :=
  ⟨ready_vec _ _ _ _ _, by decide +kernel, by decide +kernel, by decide +kernel, by decide +kernel, by decide +kernel,
    by decide +kernel, by decide +kernel, by decide +kernel, ⟨rfl, rfl, rfl, rfl, rfl, by decide +kernel, fun _ => rfl, rfl, rfl, rfl, rfl⟩,
    by decide +kernel, by decide +kernel, by decide +kernel⟩

theorem witness_ConversionWordsComplete :
    let s := vecState 12 0x3f800000 0x40000000 0
    s.tag 0 0 15 = 1 ∧
    (Clear s 0 0 true [4, 15] [1] ∧ isIF (s.tag 0 0 1) = true ∧ s.tag 0 0 4 = 15) ∧
    Clear s 0 0 true [1] [4, 15] ∧ (Clear s 0 0 true [1] [7, 15] ∧ s.tag 0 0 7 = 13) ∧
    (Clear s 0 0 true [] [5] ∧ isI (s.tag 0 0 5) = true) ∧ Clear s 0 0 true [] [1] ∧ isIFR (s.tag 0 0 1) = true :=
  ⟨by decide +kernel, ⟨clear_vec _ _ _ _ _ _ _, by decide +kernel, by decide +kernel⟩, clear_vec _ _ _ _ _ _ _,
    ⟨clear_vec _ _ _ _ _ _ _, by decide +kernel⟩, ⟨clear_vec _ _ _ _ _ _ _, by decide +kernel⟩, clear_vec _ _ _ _ _ _ _,
    by decide +kernel⟩

theorem witness_PermuteWordsComplete :
    let s := vecState 4 1 2 3
    Clear s 0 0 true [1] [3] ∧ tagBits (s.tag 0 0 3) = tagBits (s.tag 0 0 1) ∧ ((7 : BitVec 4).getLsbD 3 = false) ∧
    Clear s 0 0 true [1, 5] [3] ∧ isI (s.tag 0 0 5) = true :=
  ⟨clear_vec _ _ _ _ _ _ _, by decide +kernel, by decide, clear_vec _ _ _ _ _ _ _, by decide +kernel⟩

/-- Integers, a destination and a source of UI32, FP32; and one OPEN latch with a row, which g1 selects. -/
theorem witness_ReductionWordsComplete :
    let s := vecState 4 1 2 3
    let u := vecState 12 0x3f800000 0x40000000 0
    let m := s.setHart 0 0 { s.hart 0 0 with g := [(1, 1)] }
    let open_ (s : State) (x : Nat) := s.tag 0 0 x = 14 ∧ (s.reg 0 0 x).latch ≠ .closed ∧ (s.reg 0 0 x).row ≠ none
    (Clear s 0 0 true [1] [3] ∧ isIF (s.tag 0 0 3) = true ∧ isI (s.tag 0 0 1) = true ∧
      tagBits (s.tag 0 0 3) = tagBits (s.tag 0 0 1)) ∧
    (Clear u 0 0 true [1] [3] ∧ u.tag 0 0 3 = 12 ∧ isF (u.tag 0 0 1) = true) ∧
    (Clear s 0 0 true [1] [5] ∧ s.tag 0 0 5 = 5) ∧ (Clear s 0 0 true [5] [12] ∧ s.tag 0 0 12 = 5) ∧
    (Clear s 0 0 true [0, 11, 8] [8] ∧ s.tag 0 0 8 = 4 ∧ s.tag 0 0 11 = 0 ∧ open_ s 0) ∧
    (Clear m 0 0 true (selected 1 ++ [11, 8]) [8] ∧ ((m.hart 0 0).greg 1).toNat = 1 ∧ m.tag 0 0 8 = 4 ∧ m.tag 0 0 11 = 0 ∧
      ∀ x ∈ selected 1, open_ m x) ∧
    (Clear s 0 0 true [] [10] ∧ s.canRead 0 0 0 = true ∧ (s.openRow 0 0 0).isSome = true) :=
  ⟨⟨clear_vec _ _ _ _ _ _ _, by decide +kernel⟩, ⟨clear_vec _ _ _ _ _ _ _, by decide +kernel⟩,
    ⟨clear_vec _ _ _ _ _ _ _, by decide +kernel⟩, ⟨clear_vec _ _ _ _ _ _ _, by decide +kernel⟩,
    ⟨clear_vec _ _ _ _ _ _ _, by decide +kernel⟩,
    ⟨clear_intro ⟨rfl, rfl, rfl, rfl, rfl, by decide +kernel, fun _ => rfl, rfl, rfl, rfl, rfl⟩ (by decide +kernel), by decide +kernel⟩,
    clear_vec _ _ _ _ _ _ _, by decide +kernel⟩

theorem witness_MaskWords : Ready (vecState 4 1 2 3) 0 0 true ∧ ((1 : BitVec 2) = 1 ∨ (8 : BitVec 4).getLsbD 3 = false) ∧
    ((2 : BitVec 2) = 1 ∨ (7 : BitVec 4).getLsbD 3 = false) := ⟨ready_vec _ _ _ _ _, .inl rfl, .inr rfl⟩

/-! ## Witnesses: lane operations, conversions, gangs -/

/-- A plan that writes two elements of `w0`, at both ends of the row, and a bit of `m1`. -/
def aPlan : Plan :=
  { ready := true, lane := { word := 0, d := some 8, w := 32, m := some 1 }
    view := { n := 2048, first := 0, mask := 0, mtag := 4, rm := rmOf 0, seed := 1, w7 := 0, egi := 0, out := false,
              drawn := [] }
    es := [{ i := 0, enc := some (2 ^ 32 - 1) }, { i := 2047, enc := some 7, mbit := some (2047, true) }] }

theorem witness_LaneResultsLand : 0 < aPlan.lane.w ∧ aPlan.view.egi = 0 ∧ aPlan.fin.w7 = none ∧ aPlan.fin.zeroTile = none ∧
    (aPlan.es.map fun e => e.i).Nodup ∧ (∀ e ∈ aPlan.es, ∀ x, e.enc = some x → x < 2 ^ aPlan.lane.w) ∧
    aPlan.lane.d = some 8 ∧ aPlan.lane.m = some 1 ∧ (∀ e ∈ aPlan.es, ∀ x, e.mbit = some x → x.1 = e.i) := by
  refine ⟨by decide, rfl, rfl, rfl, by decide, ?_, rfl, rfl, ?_⟩ <;> simp [aPlan]

theorem witness_LaneFrame : aPlan.fin.zeroTile = none ∧ (∀ r, aPlan.retag = some r → aPlan.lane.d = some r) ∧
    aPlan.lane.d ≠ some 7 ∧ aPlan.lane.m ≠ some 2 ∧ aPlan.fin.vl = none ∧ aPlan.fin.seed = none ∧
    aPlan.fin.gd.map (·.1) ≠ some 1 := by simp [aPlan]

theorem witness_ConvertInteger : (7 : Nat) < 8 ∧ ((-(2 ^ (tagBits 0 - 1) : Nat) : Int) ≤ -128 ∧ (-128 : Int) ≤ (2 ^ (tagBits 0 - 1) : Nat) - 1) ∧
    ¬((-(2 ^ (tagBits 0 - 1) : Nat) : Int) ≤ 128 ∧ (128 : Int) ≤ (2 ^ (tagBits 0 - 1) : Nat) - 1) ∧ (rmOf 8).sat = true := by decide

theorem witness_RepresentableUnchanged : fmtE4M3 ∈ [fmtFP32, fmtFP16, fmtBF16, fmtE5M2, fmtE4M3, fmtE2M1] ∧
    0x7e < 2 ^ (1 + fmtE4M3.e + fmtE4M3.f) ∧ (fmtE4M3.value 0x7e).isFin = true := by decide

theorem witness_TreeSumsIntegers : ([1, -2, 3] : List Int).length ≤ 2 ^ 21 := by decide

theorem witness_RedAddsIntegers :
    let ps : List RedPart := [⟨0, 0, 31, 0, 0, -1, 0⟩, ⟨0, 0, 2, 0, 0, 5, 0⟩]
    (1 : Nat) < 2 ∧ (∀ p ∈ ps, p.core = 0 ∧ p.bank < 32) ∧ (ps.map fun p => p.bank).Nodup := by decide

/-- A gang of the first `n` banks of core 0, at word 1 of a block of two words; hart 1's predicate is 0. -/
def gangRun (n : Nat) : Running := { words := [0xfc800000, 0, 0], va := 0x40, seq := 0, pos := 1, parts := List.range n }

def gangState (n : Nat) : State :=
  let h (b : Nat) (p : Bool) : Nat × Hart :=
    (b, { Hart.init b with st := .member, hp := p, g := [(2, 5), (3, BitVec.ofNat 64 b)], hpc := 0x44, vl := 4 })
  let k (b : Nat) : Nat × Bank := (b, { regs := [(2, holding 4 (b + 10))] })
  { State.reset with
    actGang := some 0
    cores := [(0, { ({} : Core) with
      st := .running
      gangs := [(0, { members := BitVec.ofNat 32 (2 ^ n - 1), nextSeq := 1, run := some (gangRun n) })]
      harts := (List.range n).map fun b => h b (b != 1)
      banks := (List.range n).map k })] }

theorem lockstep_three : Lockstep (gangState 3) 0 0 (gangRun 3) := by
  constructor <;> decide +kernel

theorem lockstep_two : Lockstep (gangState 2) 0 0 (gangRun 2) := by
  constructor <;> decide +kernel

theorem witness_LockstepScalarWord : Lockstep (gangState 3) 0 0 (gangRun 3) ∧ (2 : Nat) ∈ (gangRun 3).parts ∧
    3 ∉ (gangRun 3).parts ∧ ((gangState 3).hart 0 1).hp = false := ⟨lockstep_three, by decide, by decide, by decide +kernel⟩

/-- Two members, whose `vl` of 4 the first alone reaches. -/
theorem witness_LockstepVectorWord :
    let s := gangState 3
    Lockstep s 0 0 (gangRun 3) ∧ isIF 4 = true ∧ (s.core 0).idlePolicy = false ∧ 1 * capOf 4 ≥ (s.hart 0 1).vl.toNat ∧
    0 * capOf 4 < (s.hart 0 0).vl.toNat ∧
    ∀ b ∈ (gangRun 3).parts, s.tag 0 b 2 = 4 ∧ s.canRead 0 b 2 = true ∧ s.canWrite 0 b 2 = true ∧ (s.reg 0 b 2).conds = [] ∧
      (s.hart 0 b).egi = 0 ∧ (rmOf (s.hart 0 b).rmode).nantrap = false :=
  ⟨lockstep_three, by decide +kernel⟩

/-- Three members whose g4 names row 3 of SAG 3 of bank 0: each opens that row of its own bank. -/
def gangRows : State :=
  let s := mapped (gangState 3)
  [0, 1, 2].foldl (fun s b => s.setHart 0 b ((s.hart 0 b).setG 4 (BitVec.ofNat 64 (rowPa 0 0 3 3)))) s

theorem witness_LockstepRowWord :
    let s := gangRows
    Lockstep s 0 0 (gangRun 3) ∧ s.tableFull 0 (gangRun 3).parts.length = false ∧
    ∀ b ∈ (gangRun 3).parts, s.actReady 0 b 3 = true ∧ s.held 0 b (.here (rowPa 0 b 3 3)) 8192 false = false ∧
      rowPa 0 b 3 3 ∉ s.rown ∧ let va := ((s.hart 0 b).greg 4).toNat
      s.rowAt 0 b 3 (va - va / 2 ^ 13 % 32 * 2 ^ 13 + b * 2 ^ 13) false = .ok (2 ^ 30, rowPa 0 b 3 3) := by
  refine ⟨?_, by decide +kernel, by decide +kernel⟩
  constructor <;> decide +kernel

theorem witness_GangWordOnSplitHart :
    let s := oneHart (split [])
    s.actGang = none ∧ (∀ y ∈ (s.core s.actCore).engine, y.bank ≠ s.actBank) ∧ (s.hart s.actCore s.actBank).young = [] ∧
    (⟨1, 2, 3, 0, true, 0, false⟩ : V3).g = true ∧ (⟨1, 2, 3, 0, 0⟩ : RD).s = 0 := by
  and_intros <;> decide +kernel

/-- Three members, with amounts inside and past the ranks, and two members for TWXPOSE. -/
theorem witness_TwillWords :
    let free (n : Nat) := (10 : Nat) ≠ 2 ∧ ∀ b ∈ (gangRun n).parts, (gangState n).canRead 0 b 2 = true ∧
      (gangState n).canWrite 0 b 10 = true ∧ ((gangState n).reg 0 b 2).conds = []
    Lockstep (gangState 3) 0 0 (gangRun 3) ∧ free 3 ∧ (0 ≤ (2 : Int) ∧ (2 : Int) < 3) ∧ (1 ^^^ 3 < 3) ∧ ¬(0 ^^^ 3 < 3) ∧
    Lockstep (gangState 2) 0 0 (gangRun 2) ∧ free 2 ∧ 2 ^ (gangRun 2).parts.length.log2 = (gangRun 2).parts.length := by
  refine ⟨lockstep_three, by decide +kernel, by decide, by decide, by decide, lockstep_two, by decide +kernel, by decide⟩

/-! ## Witnesses: moves between banks and cores, memory -/

theorem unserved_fresh {s : State} (h : s.flash.layers = []) (pa : Nat) : s.unserved pa = false := by
  have h2 : fld 0x76543210 (4 * (paCore pa % 8)) 4 ≠ 15 := by
    have h3 : paCore pa % 8 < 8 := Nat.mod_lt _ (by decide)
    generalize paCore pa % 8 = x at h3
    interval_cases x <;> decide
  simp [State.unserved, State.layer, h, Tab.get, Tab.find, h2]

/-- No latch of a bank is being opened, and no row of it is under a destructive step. -/
def calm (x : Bank) : Bool := (x.sags.all fun e => e.2.testing.isEmpty) && x.regs.all fun e => e.2.latch != .opening

theorem get_all {α : Type} {p : α → Bool} {d : α} (hd : p d = true) (k : Nat) :
    ∀ {t : Tab α}, (t.all fun e => p e.2) = true → p (t.get k d) = true
  | [], _ => hd
  | (j, x) :: t, h => by
    rw [List.all_cons, Bool.and_eq_true] at h
    by_cases hj : j = k
    · simpa [Tab.get, Tab.find, hj] using h.1
    · simpa [Tab.get, Tab.find, hj] using get_all (t := t) hd k h.2

/-- Where no cluster, step, layer or sideband has changed since reset and every bank is calm, every line of this module is
ordinary. -/
theorem plain_fresh {s : State} (hc : s.power.clusters = []) (hs : s.fen.steps = []) (hl : s.flash.layers = [])
    (hd : s.side = []) (hb : (s.cores.all fun e => e.2.banks.all fun x => calm x.2) = true) (pa : Nat)
    (hr : s.flash.retiredBuses = [] := by rfl) (hi : s.invals = [] := by rfl) : Plain s pa := by
  have hk : ∀ c b, calm (s.bank c b) = true := fun c b =>
    get_all (p := calm) (by rfl) b (get_all (p := fun k : Core => k.banks.all fun x => calm x.2) (by rfl) c hb)
  refine ⟨?_, unserved_fresh hl pa, ?_, ?_, ?_, ?_, by simp [State.unacked, hi]⟩
  · simp [State.asleep, State.clusterOff, State.clusterAt, State.busDown, State.sliceHeld, hc, hs, hr, Tab.get, Tab.find]
  · have h := hk (paCore pa) (paBank pa)
    rw [calm, Bool.and_eq_true] at h
    have h2 := get_all (p := fun x : VReg => x.latch != .opening) (d := {}) (by rfl) (paSag pa) h.2
    simp only [bne_iff_ne, ne_eq] at h2
    have h3 : (s.reg (paCore pa) (paBank pa) (paSag pa)).latch ≠ .opening := h2
    simp [State.sensing, h3]
  · have h := hk (paCore pa) (paBank pa)
    rw [calm, Bool.and_eq_true] at h
    have h2 := get_all (p := fun x : Sag => x.testing.isEmpty) (d := {}) (by rfl) (paSag pa) h.1
    simp only [List.isEmpty_iff] at h2
    simp [State.rowTested, Bank.sag, h2]
  · simp [State.sideOf, hd, Tab.get, Tab.find, Side.cond]
  · simp [State.sideOf, hd, Tab.get, Tab.find]

/-- At the start of a period in which nothing has been charged, every class has budget (R101 to R104). -/
theorem affords_fresh {s : State} (hn : s.now = 0) (hf : s.fen = {}) (x : Nat) :
    s.affords x .fabric 1 = true ∧ s.affords x .hostDma 1 = true := by
  simp [State.affords, State.spentBy, State.cost, State.heldTo, State.periodPos, State.allowance, State.units, State.periodClk,
    hn, hf, Tab.get, Tab.find, Class.idx]

/-- A hart alone, on a bank as at reset, with 1 GiB mapped. -/
def memState (h : Hart) : State := mapped (oneHart h)

theorem plain_memState (h : Hart) (pa : Nat) : Plain (memState h) pa := plain_fresh rfl rfl rfl rfl rfl pa

theorem ready_memState (g : Tab Word) (p : Bool) : Ready (memState (split g)) 0 0 p := ready_mapped (ready_split _ _ _ rfl)

/-- Hart 0 sends to hart 1 of its core on channel 3, which waits to receive; and the other way round. -/
def sergeState (pend : Pend) : State :=
  { State.reset with cores := [(0, { ({} : Core) with
      st := .running, harts := [(0, split [(1, 0x18400)]), (1, { split [] with pend := some pend })]
      banks := [(0, { regs := [(2, holding 4 5)] })] })] }

theorem witness_SergeWords :
    let s := sergeState (.recv 9 0 0 3)
    let u := sergeState (.send 9 0 0 3)
    (Ready s 0 0 true ∧ s.peer 0 0 ((s.hart 0 0).greg 1).toNat = some (0, 1, 3) ∧ s.canRead 0 0 2 = true ∧
      (s.reg 0 0 2).conds = [] ∧ (s.hart 0 0).aheadSent = false ∧ (s.hart 0 1).pend = some (.recv 9 0 0 3)) ∧
    (Ready u 0 0 true ∧ u.peer 0 0 ((u.hart 0 0).greg 1).toNat = some (0, 1, 3) ∧ u.canWrite 0 0 2 = true ∧
      (u.hart 0 0).aheadRecv = none ∧ (u.hart 0 1).pend = some (.send 9 0 0 3) ∧ (u.reg 0 1 9).conds = [] ∧
      ∀ q, decodeHart (u.nextWord 0 0) ≠ .ok (.shsnd q)) := by
  refine ⟨⟨⟨rfl, rfl, rfl, rfl, rfl, by decide, fun _ => rfl, rfl, rfl, rfl, rfl⟩, by decide +kernel⟩,
    ⟨rfl, rfl, rfl, rfl, rfl, by decide, fun _ => rfl, rfl, rfl, rfl, rfl⟩, by decide +kernel, by decide +kernel, rfl, rfl, rfl, fun q => ?_⟩
  have h : decodeHart ((sergeState (.send 9 0 0 3)).nextWord 0 0) = .illegal := by decide +kernel
  rw [h]; simp

/-- R254: two harts that both send first exchange their rows, where a NOP stands between `shsnd v2, g1` and
`shrcv v3, g1`; a word that writes g1 there holds the `shrcv` back. -/
theorem test_serge_ahead :
    let snd := 0x15 * 2 ^ 26 + 2 * 2 ^ 22 + 2 ^ 18
    let rcv := 0x15 * 2 ^ 26 + 3 * 2 ^ 22 + 2 ^ 18 + 1
    let at_ (mid : Nat) : State := { State.reset with cores := [(0, { ({} : Core) with
      st := .running
      harts := [(0, { split [(1, 0x18400)] with hpc := 4, blk := [0xfcc00000, snd, mid, rcv], pend := some (.send 2 0 1 3) }),
        (1, { split [] with pend := some (.send 9 0 0 3) })]
      banks := [(1, { regs := [(9, holding 4 5)] })] })] }
    (((at_ (0x0d * 2 ^ 26)).sergeMove [] 0 1).map fun s => (s.hart 0 0).aheadRecv) = some (some 5) ∧
      ((at_ (2 * 2 ^ 26 + 2 ^ 22)).sergeMove [] 0 1).isNone = true := by
  decide +kernel

/-- A hart that covers one element: stride 4, base 0x100000. -/
def gatherState (vl : Nat) (stride : Word) : State :=
  mapped (oneHart { split [(1, 0x100000), (2, stride)] with vl := BitVec.ofNat 21 vl }
    { regs := [(3, holding 4 9), (5, holding 4 (2 ^ 30 * 2 ^ 32))] })

theorem plain_gather (vl : Nat) (st : Word) (pa : Nat) : Plain (gatherState vl st) pa := plain_fresh rfl rfl rfl rfl rfl pa

theorem ready_gather (vl : Nat) (st : Word) (p : Bool) : Ready (gatherState vl st) 0 0 p :=
  ready_mapped (ready_oneHart rfl (fun _ => rfl) rfl rfl rfl)

theorem active_lt {v : View} {k : Nat} (h : v.active k = true) : k < v.n := by
  simp [View.active] at h; exact h.1

/-- One element that loads; and, for LDGFF, element 0 inside the mapped GiB and element 1 past it. -/
theorem witness_GatherWords :
    let s := gatherState 1 4
    let f := gform ⟨3, 1, 2, 0, false, true⟩ false false
    let v := s.view 0 0 f.g (f.cov s 0 0) (s.tag 0 0 f.d) f.m
    let u := gatherState 2 4
    let h : GForm := ⟨3, 1, 5, 0, false, true, false⟩
    let w := u.view 0 0 h.g (h.cov u 0 0) (u.tag 0 0 h.d) h.m
    (Ready s 0 0 true ∧ Reaches s 0 0 ∧ f.g = false ∧ firstRefused (f.checks s s 0 0) = none ∧ s.canWrite 0 0 f.d = true ∧ f.indexed = false ∧
      (s.hart 0 0).egi = 0 ∧ (s.hart 0 0).hostGot = [] ∧ f.waits s 0 0 (f.elems s 0 0 v) = false ∧
      (∀ k, v.active k = true → s.colElem 0 (f.va s 0 0 v.first k) (f.size s 0 0) false = .ok (.here 0x100000) ∧
        Plain s 0x100000)) ∧
    (Ready u 0 0 true ∧ Reaches u 0 0 ∧ h.g = false ∧ firstRefused (h.checks u u 0 0) = none ∧ u.canWrite 0 0 h.d = true ∧ h.d ≠ h.b ∧
      u.canRead 0 0 h.b = true ∧ u.consumeFrom 0 0 [] [h.b] 0 = none ∧ (u.hart 0 0).egi = 0 ∧ (u.hart 0 0).hostGot = [] ∧
      h.waits u 0 0 (h.elems u 0 0 w) = false ∧ w.active 1 = true ∧ w.active 0 = true ∧
      (∀ k, k < 1 → w.active k = true → u.colElem 0 (h.va u 0 0 w.first k) (h.size u 0 0) false = .ok (.here 0x100000) ∧
        Plain u 0x100000) ∧
      (∃ e, u.colElem 0 (h.va u 0 0 w.first 1) (h.size u 0 0) false = .error e) ∧
      ∀ k d, w.active k = true → u.colElem 0 (h.va u 0 0 w.first k) (h.size u 0 0) false ≠ .error (walkWait, d)) := by
  refine ⟨⟨ready_gather _ _ _, ⟨by decide +kernel, by decide +kernel⟩, rfl, by decide +kernel, by decide +kernel, rfl, rfl, rfl, by decide +kernel, fun k hk => ?_⟩,
    ready_gather _ _ _, ⟨by decide +kernel, by decide +kernel⟩, rfl, by decide +kernel, by decide +kernel, by decide,
    by decide +kernel, by decide +kernel, rfl, rfl, by decide +kernel, by decide +kernel, by decide +kernel, fun k hk _ => ?_,
    ⟨(0x20, 0x9000100100000), by decide +kernel⟩, fun k d hk => ?_⟩
  · have h1 := active_lt hk
    have h2 : ((gatherState 1 4).view 0 0 false ((gform ⟨3, 1, 2, 0, false, true⟩ false false).cov (gatherState 1 4) 0 0)
      ((gatherState 1 4).tag 0 0 3) 0).n = 1 := by decide +kernel
    have h3 : k < 1 := h2 ▸ h1
    obtain rfl : k = 0 := by omega
    exact ⟨by decide +kernel, plain_gather _ _ _⟩
  · obtain rfl : k = 0 := by omega
    exact ⟨by decide +kernel, plain_gather _ _ _⟩
  · have h1 := active_lt hk
    have h2 : ((gatherState 2 4).view 0 0 false ((⟨3, 1, 5, 0, false, true, false⟩ : GForm).cov (gatherState 2 4) 0 0)
      ((gatherState 2 4).tag 0 0 3) 0).n = 2 := by decide +kernel
    have h3 : k < 2 := h2 ▸ h1
    obtain rfl | rfl : k = 0 ∨ k = 1 := by omega
    · rw [show (gatherState 2 4).colElem 0 _ _ false = .ok (.here 0x100000) from by decide +kernel]; simp
    · rw [show (gatherState 2 4).colElem 0 _ _ false = .error (0x20, 0x9000100100000) from by decide +kernel]; simp [walkWait]

theorem witness_ScatterWords :
    let s := gatherState 1 4
    let free (f : GForm) :=
      let v := s.view 0 0 f.g (f.cov s 0 0) (s.tag 0 0 f.d) f.m
      f.g = false ∧ firstRefused (f.checks s s 0 0) = none ∧ s.canRead 0 0 f.d = true ∧ s.canRead 0 0 f.b = true ∧
      s.consumeFrom 0 0 [f.d] (if f.indexed then [f.b] else []) 0 = none ∧ f.waits s 0 0 (f.elems s 0 0 v) = false ∧
      ∀ k, v.active k = true → s.colElem 0 (f.va s 0 0 v.first k) (f.size s 0 0) true = .ok (.here 0x100000) ∧ Plain s 0x100000
    Ready s 0 0 true ∧ Reaches s 0 0 ∧ s.mem.wf = true ∧ (gform ⟨3, 1, 5, 0, false, true⟩ true true).indexed = true ∧
    free (gform ⟨3, 1, 2, 0, false, true⟩ false true) ∧ free (gform ⟨3, 1, 5, 0, false, true⟩ true true) := by
  refine ⟨ready_gather _ _ _, ⟨by decide +kernel, by decide +kernel⟩, by decide +kernel, rfl,
    ⟨rfl, by decide +kernel, by decide +kernel, by decide +kernel, by decide +kernel, by decide +kernel, fun k hk => ?_⟩,
    rfl, by decide +kernel, by decide +kernel, by decide +kernel, by decide +kernel, by decide +kernel, fun k hk => ?_⟩
  · have h1 := active_lt hk
    have h2 : ((gatherState 1 4).view 0 0 false ((gform ⟨3, 1, 2, 0, false, true⟩ false true).cov (gatherState 1 4) 0 0)
      ((gatherState 1 4).tag 0 0 3) 0).n = 1 := by decide +kernel
    have h3 : k < 1 := h2 ▸ h1
    obtain rfl : k = 0 := by omega
    exact ⟨by decide +kernel, plain_gather _ _ _⟩
  · have h1 := active_lt hk
    have h2 : ((gatherState 1 4).view 0 0 false ((gform ⟨3, 1, 5, 0, false, true⟩ true true).cov (gatherState 1 4) 0 0)
      ((gatherState 1 4).tag 0 0 3) 0).n = 1 := by decide +kernel
    have h3 : k < 1 := h2 ▸ h1
    obtain rfl : k = 0 := by omega
    exact ⟨by decide +kernel, plain_gather _ _ _⟩

/-- A copy of one row to the next, and an idle slot with a status. -/
theorem witness_CopyWords :
    let s := memState { split [(1, 0x100000), (2, 0x102000)] with slots := [(2, { cause := 0x40, unit := 1 })] }
    Ready s 0 0 true ∧ ((s.hart 0 0).greg 1).toNat % 8192 = 0 ∧ ((s.hart 0 0).greg 2).toNat % 8192 = 0 ∧
    s.xferUnits 0 0x100000 0x102000 1 = .ok ([(65, 0x100000)], [(65, 0x102000)]) ∧
    (∀ e ∈ (s.hart 0 0).slots, e.2.busy = false) ∧ ((s.hart 0 0).slot 2).got = [] ∧ s.mem.wf = true ∧
    s.tableFull 0 2 = false ∧ 0x100000 + 8192 ≤ 0x102000 ∧ 0x100000 % 8192 = 0 ∧ 0x102000 % 8192 = 0 ∧ (∀ pa, Plain s pa) ∧
    s.busHeld (.copy 0 0 2) = false ∧ (∀ x, s.affords x .fabric 1 = true) ∧ ((s.hart 0 0).slot 2).busy = false := by
  refine ⟨ready_mapped (ready_oneHart rfl (fun _ => rfl) rfl rfl rfl), ?_⟩
  and_intros <;> first | exact plain_memState _ | exact fun x => (affords_fresh rfl rfl x).1 | decide +kernel

/-- The last doubleword of the mapped GiB; a misaligned load; and a store to a bus address of a window that permits it. -/
def windowState : State :=
  let s := memState (split [(1, 0x3ffffff8), (2, 0x3ffffff9), (3, 0x40000008)])
  let w : DmaWin := { base := 0, limit := 2 ^ 52 - 1, en := true, wr := true, rd := true, fn := 0 }
  { s with mem := s.mem.write (placeTable2 + 8) 8 (0x1ff + 5 * 2 ^ 58), bar := { s.bar with dmawin := [(0, w)] } }

theorem witness_LoadAndStoreWords :
    let s := memState (split [(1, 0x3ffffff8), (2, 0x3ffffff9)])
    let va (r : Nat) := ((s.hart 0 0).greg r + (0 : BitVec 14).signExtend 64).toNat
    let u := windowState
    Ready s 0 0 false ∧ Reaches s 0 0 ∧ va 1 % 8 = 0 ∧ s.colAt 0 false (va 1) 8 true false = .ok (.here 0x3ffffff8) ∧
    s.held 0 0 (.here 0x3ffffff8) 8 false = false ∧ Plain s 0x3ffffff8 ∧ (s.hart 0 0).quiet = true ∧
    s.colAt 0 false (va 1) 8 false true = .ok (.here 0x3ffffff8) ∧ s.held 0 0 (.here 0x3ffffff8) 8 true = false ∧
    s.mem.wf = true ∧ va 2 % 8 ≠ 0 ∧ (s.hart 0 0).posted = false ∧ Ready u 0 0 false ∧ Reaches u 0 0 ∧
    u.colAt 0 false 0x40000008 8 false true = .ok (.host (5 * 2 ^ 40 + 8)) ∧
    u.held 0 0 (.host (5 * 2 ^ 40 + 8)) 8 true = false :=
  ⟨ready_memState _ _, ⟨by decide +kernel, by decide +kernel⟩, by decide +kernel, by decide +kernel, by decide +kernel,
    plain_memState _ _, by decide +kernel, by decide +kernel, by decide +kernel, by decide +kernel, by decide +kernel, rfl,
    ⟨rfl, rfl, rfl, rfl, rfl, by decide, fun _ => rfl, rfl, rfl, rfl, rfl⟩, ⟨by decide +kernel, by decide +kernel⟩,
    by decide +kernel, by decide +kernel⟩

/-- A hart that has posted writes to the host, whose function may read from bus address 8 * 4096 on. -/
def postedState : State :=
  let s := oneHart { split [] with posted := true }
  let w : DmaWin := { base := 8, limit := 9, en := true, rd := true, fn := 0 }
  { s with bar := { s.bar with dmawin := [(0, w)] } }

theorem witness_FenceWord :
    let s := oneHart (split [])
    let u := postedState
    Ready s 0 0 true ∧ (s.hart 0 0).quiet = true ∧ (s.hart 0 0).posted = false ∧ (s.hart 0 0).stores = [] ∧
      Ready u 0 0 true ∧ (u.hart 0 0).quiet = true ∧ (u.hart 0 0).posted = true ∧
      (u.hart 0 0).req = none ∧ (u.hart 0 0).hostGot = [] ∧ u.readWindow (.hart 0 0) = some (8 * 4096) :=
  ⟨ready_split _ _ _ rfl, by decide +kernel, rfl, rfl, ⟨rfl, rfl, rfl, rfl, rfl, by decide, fun _ => rfl, rfl, rfl, rfl, rfl⟩,
    by decide +kernel, rfl, rfl, rfl, by decide +kernel⟩

/-- R90, R390: FENCE.ALL of system scope after a posted write waits for its zero-length read, inside a window with RD, and ends
once that completes. -/
theorem test_fence_settles :
    let o : FN := ⟨2, 3, false⟩
    let s := postedState
    let at_ (f : State → Bool) (r : Res) := gives r f
    at_ (fun t => at_ (fun u => at_ (fun v => !(v.hart 0 0).posted && (v.hart 0 0).hpc != (s.hart 0 0).hpc && v.out.length == 1)
        (exec (.fence o) u))
      (exec (.hostCompletion (.hart 0 0) true false 0) t)) (exec (.fence o) s) = true := by
  decide +kernel

theorem witness_AtomicWords :
    let s := memState (split [(1, 0x3ffffff8)])
    Ready s 0 0 true ∧ Reaches s 0 0 ∧ ((s.hart 0 0).greg 1).toNat % 8 = 0 ∧
    s.colAt 0 false ((s.hart 0 0).greg 1).toNat 8 true true = .ok (.here 0x3ffffff8) ∧
    s.held 0 0 (.here 0x3ffffff8) 8 true = false ∧ (s.hart 0 0).quiet = true ∧ (s.hart 0 0).posted = false ∧
    Plain s 0x3ffffff8 :=
  ⟨ready_memState _ _, ⟨by decide +kernel, by decide +kernel⟩, by decide +kernel, by decide +kernel, by decide +kernel,
    by decide +kernel, rfl, plain_memState _ _⟩

/-! ## Witnesses: counters, reductions between harts, the matrix engine -/

/-- Counter 5 of core 0 and hub counter 9 hold `v`; a semaphore waiter or a barrier waiter may stand in the first. -/
def ctrState (g : Tab Word) (v : BitVec 32) (sems bars : List CtrWait) (pend : Option Pend := none) : State :=
  let s := oneHart (split g) {} { ctrs := [(5, { c0 := v, c1 := v, c2 := v, sems := sems, bars := bars })] }
  let s := s.setHart 0 1 { Hart.init 1 with st := .split, pend := pend }
  { s with hctrs := [(9, { c0 := v, c1 := v, c2 := v })] }

theorem ready_ctr (g : Tab Word) (v : BitVec 32) (sems bars : List CtrWait) (q : Option Pend) (p : Bool) :
    Ready (ctrState g v sems bars q) 0 0 p :=
  ⟨rfl, rfl, rfl, rfl, rfl, (by decide : (split []).blockVa + 64 < 2 ^ 48), fun _ => rfl, rfl, rfl, rfl,
    (rfl : (0 : Word).getLsbD 63 = false)⟩

theorem witness_CounterWords :
    let s := ctrState [(2, 7)] 7 [] []
    let u := ctrState [(2, 7)] 7 [⟨0, some 1, 9, 0⟩] [⟨0, some 1, 9, 0⟩]
    let x := s.ctr false 0 5
    Ready s 0 0 true ∧ x.failed = false ∧ x.c0 = 7 ∧ x.c1 = 7 ∧ x.c2 = 7 ∧ ((s.hart 0 0).greg 2).toNat < 2 ^ 32 ∧
    (s.hart 0 0).quiet = true ∧ x.sems = [] ∧ ((s.hart 0 0).greg 2).toNat ≤ (7 : BitVec 32).toNat ∧
    (s.ctr true 0 9).c0 = 7 ∧
    Ready u 0 0 true ∧ (∀ w ∈ (u.ctr false 0 5).bars, ¬(w.core = 0 ∧ w.bank = some 0)) ∧
    (u.ctr false 0 5).sems = [⟨0, some 1, 9, 0⟩] :=
  ⟨ready_ctr _ _ _ _ _ _, rfl, rfl, rfl, rfl, by decide +kernel, by decide +kernel, rfl, by decide +kernel, rfl,
    ready_ctr _ _ _ _ _ _, by decide +kernel, rfl⟩

theorem witness_CounterVote :
    let two : Ctr := { c0 := 4, c1 := 5, c2 := 5 }
    let three : Ctr := { c0 := 4, c1 := 5, c2 := 6 }
    two.failed = false ∧ (two.c0 = 5 ∧ two.c1 = 5 ∨ two.c0 = 5 ∧ two.c2 = 5 ∨ two.c1 = 5 ∧ two.c2 = 5) ∧
    (three.c0 ≠ three.c1 ∧ three.c0 ≠ three.c2 ∧ three.c1 ≠ three.c2) := by decide

theorem witness_CounterEvents :
    let o : CN := ⟨3, 2, false, 5, false⟩
    let s := ctrState [] 9 [] [⟨0, some 1, 9, 0⟩] (some (.counter (.barwait o)))
    let u := ctrState [] 9 [⟨0, some 1, 9, 0⟩] [] (some (.counter (.semwait o)))
    let x := s.ctr false 0 5
    (x.failed = false ∧ x.c0 = 9 ∧ (s.hart 0 1).pend = some (.counter (.barwait o)) ∧
      x.bars.find? (fun w => decide (w.amount ≤ (9 : BitVec 32).toNat)) = some ⟨0, some 1, 9, 0⟩) ∧
    ((u.hart 0 1).pend = some (.counter (.semwait o)) ∧ (u.ctr false 0 5).sems = [⟨0, some 1, 9, 0⟩] ∧
      9 ≤ (9 : BitVec 32).toNat) ∧ (8 : BitVec 32).toNat < 9 := by
  refine ⟨⟨rfl, rfl, rfl, by decide +kernel⟩, ⟨rfl, rfl, by decide⟩, by decide⟩

/-- Two harts of a core take part in a sum over 64-bit integers at core scope: hart 1 has issued, hart 0 has not. -/
def redState : State :=
  let o : Instr := .red ⟨5, 3, 9, 0, 1⟩
  { State.reset with cores := [(0, { ({} : Core) with
      st := .running
      harts := [(0, split [(3, 10), (9, 3)]), (1, { split [(3, 20), (9, 3)] with pend := some (.red 5 0 1 o) })]
      reds := [(redKey 1 0 0, [⟨0, 0, 1, 0, 3, 20, 0⟩])] })] }

theorem witness_RedWord :
    let s := redState
    let mine : RedPart := ⟨0, 0, 0, 0, 3, 10, 0⟩
    let joined := s.setCore 0 { s.core 0 with
      reds := (s.core 0).reds.put (redKey 1 0 0) ((s.core 0).reds.get (redKey 1 0 0) [] ++ [mine]) }
    let parts := joined.redParts 0 1 (redKey 1 0 0) 0
    Ready s 0 0 false ∧ redRefused 0 1 3 0 = false ∧ mine ∈ parts ∧
    (∀ m ∈ joined.redMembers 0 1 (redKey 1 0 0) parts, ∃ p ∈ parts, p.core = m.1 ∧ p.bank = m.2) ∧
    (∀ p ∈ parts, p.op = 0 ∧ p.desc = 3) ∧ (∀ p ∈ parts, p.core = 0 → p.bank = 0 → p = mine) ∧
    (s.hart 0 1).pend = some (.red 5 0 1 (.red ⟨5, 3, 9, 0, 1⟩)) :=
  ⟨⟨rfl, rfl, rfl, rfl, rfl, by decide, fun _ => rfl, rfl, rfl, rfl, rfl⟩, by decide +kernel, by decide +kernel, by decide +kernel,
    by decide +kernel, by decide +kernel, by decide +kernel⟩

theorem witness_RedInstanceCombines :
    let ps : List RedPart := [⟨0, 0, 1, 0, 3, 20, 0⟩, ⟨0, 0, 0, 0, 3, 10, 0⟩]
    let i : Instr := .red ⟨5, 3, 9, 0, 1⟩
    let s := redState
    let u := (s.setHart 0 0 { s.hart 0 0 with pend := some (.red 5 0 1 i) }).setCore 0
      { (s.setHart 0 0 { s.hart 0 0 with pend := some (.red 5 0 1 i) }).core 0 with reds := [(redKey 1 0 0, ps)] }
    (u.core 0).reds.get (redKey 1 0 0) [] = ps ∧ ps ≠ [] ∧
    (∀ p ∈ ps, p.inst = 0 ∧ p.core = 0 ∧ p.op = 0 ∧ p.desc = 3) ∧ (ps.map fun p => p.bank).Nodup ∧
    (∀ m ∈ u.redMembers 0 1 (redKey 1 0 0) ps, ∃ p ∈ ps, p.core = m.1 ∧ p.bank = m.2) ∧
    (∀ p ∈ ps, (u.hart 0 p.bank).pend = some (.red 5 0 1 i)) := by
  and_intros <;> decide +kernel

/-- A hart in matrix mode of bank 0, with tiles as given. -/
def engState (ml : Nat) (q0 : Tile) (engine : List EngOp := []) (pend : Option Pend := none) : State :=
  oneHart { split [] with mmode := true, ml := ml, pend := pend }
    { regs := [(2, holding 0 0x0201), (3, holding 1 0x0403), (4, holding 4 9), (5, holding 12 0x3f800000), (6, holding 4 0),
               (7, holding 8 0), (8, holding 12 0), (9, holding 12 0), (10, holding 15 (2 ^ 16 - 1))] }
    { tiles := [(0, q0), (1, { owner := some 1 }), (2, { owner := none })], engine := engine }

theorem ready_eng (ml : Nat) (q : Tile) (e : List EngOp) (p : Bool) : Ready (engState ml q e) 0 0 p :=
  ready_oneHart rfl (fun _ => rfl) rfl rfl (rfl : (0 : Word).getLsbD 63 = false)

theorem witness_TileWords :
    let s := engState 2 { owner := some 0 }
    Ready s 0 0 true ∧ (s.tile 0 0).owner = some 0 ∧ (s.tile 0 2).owner = none ∧ (s.tile 0 1).owner = some 1 ∧ (1 : Nat) ≠ 0 ∧
    (s.core 0).engine = [] := ⟨ready_eng _ _ _ _, rfl, rfl, rfl, by decide, rfl⟩

theorem witness_TileMoves :
    let s := engState 2 { owner := some 0 }
    Ready s 0 0 true ∧ (s.hart 0 0).mmode = true ∧ (s.tile 0 0).owner = some 0 ∧ (s.core 0).engine = [] ∧
    firstRefused (loadTags 2 s 0 0) = none ∧ s.canRead 0 0 2 = true ∧ s.consumeFrom 0 0 [] [2] 0 = none ∧
    s.tag 0 0 8 = 12 ∧ s.tag 0 0 9 = s.tag 0 0 8 ∧ s.canRead 0 0 8 = true ∧ s.canRead 0 0 9 = true ∧
    s.consumeFrom 0 0 [] [8, 9] 0 = none ∧
    s.tag 0 0 7 ∈ [0, 1, 2, 3, 8, 9, 10, 11] ∧ s.canWrite 0 0 7 = true ∧ (s.tile 0 0).failed = false ∧ (s.hart 0 0).egi = 0 ∧
    (rmOf (s.hart 0 0).rmode).nantrap = false ∧ s.tag 0 0 8 ∈ [4, 5, 12] ∧ s.canWrite 0 0 8 = true ∧ s.canWrite 0 0 9 = true :=
  ⟨ready_eng _ _ _ _, rfl, rfl, rfl, by decide +kernel⟩

theorem witness_OuterProductWords :
    let s := engState 2 { owner := some 0, si32 := true }
    let u := engState 48 { owner := some 0, si32 := true }
    (Ready s 0 0 true ∧ (s.hart 0 0).mmode = true ∧ (s.tile 0 0).owner = some 0 ∧ (s.tile 0 0).failed = false ∧
      (s.core 0).engine = [] ∧ firstRefused (mopChecks 0 2 3 s 0 0) = none ∧
      kLimit 2 3 none (Instr.mop ⟨0, 2, 3, true⟩).word s 0 0 = none ∧ s.tag 0 0 2 ≠ 13 ∧
      (∀ r ∈ [2, 3], s.canRead 0 0 r = true) ∧ s.consumeFrom 0 0 [] [2, 3] 0 = none ∧ (rmOf (s.hart 0 0).rmode).nantrap = false) ∧
    (Ready u 0 0 true ∧ firstRefused (mopChecks 0 2 3 u 0 0) = none ∧ u.tag 0 0 2 ≠ 13 ∧ (u.core 0).engine = [] ∧
      kLimit 2 3 (some 16) (Instr.mops ⟨0, 2, 3, 10, false, false, true⟩).word u 0 0 = none ∧
      (∀ r ∈ [2, 3, 10], u.canRead 0 0 r = true) ∧
      badBitmap ((u.reg 0 0 10).content 10) 16 (48 / 48) = none ∧
      u.consumeFrom 0 0 [] [2, 3, 10] 0 = none) := by
  refine ⟨⟨ready_eng _ _ _ _, rfl, rfl, rfl, rfl, by decide +kernel⟩, ready_eng _ _ _ _, ?_⟩
  decide +kernel

theorem witness_OuterProductOfIntegers :
    let e : EngOp := { bank := 0, instr := .mop ⟨0, 2, 3, false⟩, ml := 2, rmode := 0, srcA := holding 0 1, srcB := holding 1 2 }
    ({ si32 := true } : Tile).si32 = true ∧ (e.srcA.tag = 0 ∨ e.srcA.tag = 1) ∧ (e.srcB.tag = 0 ∨ e.srcB.tag = 1) ∧
    (63 : Nat) < 64 := by decide

theorem witness_EngineEvents :
    let e : EngOp := { bank := 0, instr := .mop ⟨0, 2, 3, false⟩, ml := 2, rmode := 0 }
    let s := engState 2 { owner := some 0, si32 := true } [e] (some .engine)
    e.instr = .mop ⟨0, 2, 3, false⟩ ∧ e.bank = 0 ∧ (s.core 0).engine = [e] ∧ e.taken = false ∧ (s.tile 0 0).failed = false ∧
    (rmOf e.rmode).nantrap = false ∧ (s.hart 0 0).pend = some .engine ∧ s.consumeFrom 0 0 [] (s.engSources 0 e) 0 = none ∧
    ({ e with taken := true } : EngOp).taken = true ∧
    ((engState 2 { owner := some 0 } [{ e with taken := true }]).core 0).engine = [{ e with taken := true }] := by
  and_intros <;> decide +kernel

/-! ## Witnesses: the control thread -/

/-- The control thread of core 0 runs at 0x1000, with 1 GiB mapped. -/
def ctState (t : Ct) (k : Core := {}) : State :=
  mapped { State.reset with cores := [(0, { k with st := .running, ct := { t with running := true, pc := 0x1000 } })] }

theorem plain_ctState (t : Ct) (k : Core) (hk : k.banks = []) (pa : Nat) : Plain (ctState t k) pa :=
  plain_fresh rfl rfl rfl rfl (by simp [ctState, mapped, State.placeSpace, hk]) pa

theorem witness_ControlThreadGoesOn : (31 : Nat) ≠ 0 ∧ (0 : Nat) ≠ 31 ∧ (1 : Nat) ≠ 0 := by decide

theorem witness_ControlThreadTrap : (0xff : Nat) < 256 := by decide

/-- A quiet gang 1 of hart 2; rs1 names harts 2 and 3 as its members, or a block that the instruction cache holds. -/
theorem witness_GangInstructions :
    let gang : Tab Gang := [(1, { members := 4 })]
    let blk := 0xfc400000 + 0x34000000 * 2 ^ 32
    let s := ctState { x := [(5, 0xc), (6, 0x2000), (7, 8)], icache := [(0x80, blk)] }
      { harts := [(2, { Hart.init 2 with st := .member })], gangs := gang }
    let x := s.gang 0 1
    (s.rs1 ⟨0, 5, 1, 3⟩ < 2 ^ 32 ∧ s.rs2 ⟨0, 5, 1, 3⟩ < 2 ∧ x.queue = [] ∧ x.run = none ∧
      (∀ b ∈ x.banks, (s.hart 0 b).st ≠ .split) ∧
      (∀ b, b < 32 → (0xc : Nat).testBit b = true → (s.core 0).gangOf b = none ∨ (s.core 0).gangOf b = some 1)) ∧
    (s.rs1 ⟨0, 6, 1, 3⟩ % 64 = 0 ∧ x.members ≠ 0 ∧ s.ctLine 0 0x2000 = .done s blk ∧
      headerGood ((blockWords blk).headD 0) = true ∧ (s.gang 0 1).queue.length < 8) ∧
    (0 < (1 : Nat) ∧ s.rs2 ⟨7, 6, 1, 3⟩ ≤ 8 ∧ State.fetchBlocks 0 1 0x2000 s [] = .inr (s, [(blockWords blk, 0x2000)]) ∧
      x.queue.length + 1 ≤ 8) ∧
    (s.gangIdle 0 1 = true) := by
  refine ⟨⟨by decide +kernel, by decide +kernel, rfl, rfl, by decide +kernel, by decide +kernel⟩,
    ⟨by decide +kernel, by decide +kernel, rfl, by decide +kernel, by decide +kernel⟩,
    ⟨by decide, by decide +kernel, rfl, by decide +kernel⟩, by decide +kernel⟩

/-- A faulted hart 2, parked hart 3 with an entry for the control thread, and free hart 0. -/
theorem witness_HartInstructions :
    let s := ctState { x := [(5, 2 + 15 * 2 ^ 8), (6, 2 + 2 ^ 12 + 10 * 2 ^ 8), (7, 3 + 2 ^ 13), (8, 2), (9, 1), (10, 2 ^ 32 - 1)] }
      { harts := [(1, split []), (2, { Hart.init 2 with st := .faulted, hcause := 8 }),
                  (3, { Hart.init 3 with st := .parked, toCT := [9], fromCT := [1, 2, 3] })] }
    let rs (a : BitVec 5) := s.rs1 ⟨0, a, 0, 3⟩
    rs 5 = 2 + 15 * 2 ^ 8 ∧ s.mayAct 0 2 = true ∧ rs 6 = 2 + 10 * 2 ^ 8 + 2 ^ 12 ∧ ((s.hart 0 2).gsetSreg 10 1).isSome = true ∧
    rs 7 = 3 + 2 ^ 13 ∧ (s.hart 0 3).fromCT.length < 4 ∧ (s.hart 0 3).toCT = [9] ∧ rs 8 = 2 ∧ (s.hart 0 2).st = .faulted ∧
    (s.hart 0 2).after = 0 ∧ rs 10 < 2 ^ 32 ∧ (∀ x, x < 32 → (2 ^ 32 - 1 : Nat).testBit x = true → (s.hart 0 x).midway = false) ∧
    (s.hart 0 1).st = .split ∧ (s.hart 0 1).pend = none ∧ (s.hart 0 1).young = [] ∧ (s.core 0).engine = [] := by
  and_intros <;> decide +kernel

/-- A full queue, one record of which is taken, and one of 63 records. -/
theorem witness_EventInstructions :
    let r : EvRec := { cause := 0x88, src := 0, bank := 0, gang := 0, detail := 5, time := 1, hpc := 0, body := 0 }
    let s := ctState { x := [(5, 0x2000)] } { evq := List.replicate 64 r }
    let u := ctState {} { evq := List.replicate 63 r, harts := [(3, { split [] with evWait := [r] })] }
    s.rs1 ⟨0, 5, 0, 3⟩ % 64 = 0 ∧ (s.core 0).evq = r :: List.replicate 63 r ∧
    s.colAt 0 (s.mach 0) 0x2000 64 false true = .ok (.here 0x2000) ∧
    (match s.storeRecord 0 0x2000 r.bits with | .done _ _ => true | _ => false) = true ∧
    ((ctState {}).core 0).evq = [] ∧
    (u.core 0).evq.length = 63 ∧ (u.core 0).st = .running ∧ u.oldestWaiting 0 = some (r, some 3) := by
  and_intros <;> decide +kernel

theorem witness_ControlThreadCounters :
    let s := ctState { x := [(5, 63), (6, 511), (7, 4)] } { ctrs := [(63, { c0 := 9, c1 := 9, c2 := 9 })] }
    s.rs1 ⟨7, 5, 0, 3⟩ = 63 ∧ (63 : Nat) < 64 ∧ s.rs1 ⟨7, 6, 0, 3⟩ = 255 + 256 ∧ (255 : Nat) < 256 ∧
    s.rs2 ⟨7, 5, 0, 3⟩ = (4 : BitVec 32).toNat ∧ (s.ctr false 0 63).failed = false ∧ (s.ctr false 0 63).c0 = 9 ∧
    (s.ctr false 0 63).c1 = 9 ∧ (s.ctr false 0 63).c2 = 9 ∧ (∀ e ∈ (s.ct 0).dcache, e.2.st ≠ .dirty) ∧
    (4 : BitVec 32).toNat ≤ (9 : BitVec 32).toNat ∧ (s.ctr false 0 63).sems = [] := by
  and_intros <;> decide +kernel

/-- A word in the data cache, Dirty in its two lowest bytes; the last doubleword of the mapped GiB is not in it. -/
theorem witness_ControlThreadMemory :
    let x : DWord := ⟨.dirty, 0x1122334455667788, 3, 0xff⟩
    let s := ctState { x := [(5, 0x2000), (6, 0x3ffffff8)], dcache := [(0x2000, x)] }
    let o : CtM := ⟨3, 7, 5, 0⟩
    let q : CtM := ⟨3, 7, 6, 0⟩
    s.ctAddr 0 o % 8 = 0 ∧ s.ctFree 0 = true ∧ s.colAt 0 (s.dataMach 0) 0x2000 8 true false = .ok (.here 0x2000) ∧
    (s.ct 0).dcache.find (dkey 0 (0x2000 / 8 * 8)) = some x ∧ x.has = 0xff ∧
    s.colAt 0 (s.dataMach 0) (s.ctAddr 0 q) 8 true false = .ok (.here 0x3ffffff8) ∧
    s.colAt 0 (s.dataMach 0) (s.ctAddr 0 q) 8 false true = .ok (.here 0x3ffffff8) ∧
    (s.ct 0).dcache.find (dkey 0 (0x3ffffff8 / 8 * 8)) = none ∧ (∀ pa, Plain s pa) ∧ s.mem.wf = true ∧ x.st = .dirty ∧
    (Tab.lines (s.ct 0).dcache).length < Config.dcacheLines ∧ s.busHeld (.ct 0) = false := by
  refine ⟨by decide +kernel, by decide +kernel, by decide +kernel, by decide +kernel, rfl, by decide +kernel, by decide +kernel,
    by decide +kernel, plain_ctState _ _ rfl, by decide +kernel, rfl, by decide +kernel, by decide +kernel⟩

theorem witness_ControlThreadAtomics :
    let s := ctState { x := [(5, 0x3ffffff8)], resv := some (0x3ffffff8 / 64) }
    ((s.ct 0).xreg 5).toNat % 8 = 0 ∧ s.colAt 0 (s.dataMach 0) 0x3ffffff8 8 true true = .ok (.here 0x3ffffff8) ∧
    s.colAt 0 (s.dataMach 0) 0x3ffffff8 8 true false = .ok (.here 0x3ffffff8) ∧
    s.colAt 0 (s.dataMach 0) 0x3ffffff8 8 false true = .ok (.here 0x3ffffff8) ∧ s.ctFree 0 = true ∧ (∀ pa, Plain s pa) ∧
    (∀ e ∈ (s.ct 0).dcache, e.2.st ≠ .dirty) ∧ (s.ct 0).posted = false ∧ (s.ct 0).resv = some (dkey 0 (0x3ffffff8 / 8 * 8) / 64) ∧
    ((ctState {}).ct 0).resv ≠ some (dkey 0 (0x3ffffff8 / 8 * 8) / 64) ∧ s.busHeld (.ct 0) = false := by
  refine ⟨by decide +kernel, by decide +kernel, by decide +kernel, by decide +kernel, by decide +kernel, plain_ctState _ _ rfl,
    by decide +kernel, rfl, by decide +kernel, by decide +kernel, by decide +kernel⟩

theorem witness_ControlThreadSystem :
    let s := ctState { mode := .machine }
    let u := ctState { mode := .user }
    (∀ e ∈ (s.ct 0).dcache, e.2.st ≠ .dirty) ∧ (s.ct 0).posted = false ∧ (s.ct 0).mode = .machine ∧ (u.ct 0).mode = .user ∧
    (s.csr 0 0x341).isSome = true ∧ (s.csr 0 0xb02).isSome = true ∧ fld 0xb02 10 2 ≠ 3 ∧ (1 : BitVec 3).toNat % 4 ≠ 0 ∧ s.csr 0 0x7ff = none ∧
    ¬((u.ct 0).mode = .machine ∨ fld 0x341 8 2 = 0) := by
  and_intros <;> decide +kernel

/-! ## Witnesses: tasks, records and saves -/

/-- A record of the task's fields that matter here. -/
def aRecord (watchdog : Nat) (signal cq : Nat) (prio : Nat := 1) : Record :=
  { version := 1, prio := BitVec.ofNat 8 prio, flags := 2, asid := 0, gen := 5, modmask := 0, coreset := 0x10000, entry := 0x1000,
    arg0 := 10, arg1 := 11, arg2 := 12, arg3 := 13, sp := 0x8000, ranges := 0, nranges := 0, watchdog := BitVec.ofNat 32 watchdog,
    waits := [], signal := BitVec.ofNat 64 signal, cq := BitVec.ofNat 64 cq, usertag := 0x77, savebase := 0x200000, work := 0,
    deadline := 0, rsvZero := true }

/-- A task that runs on core 0 since hub time 0. -/
def aTask (cores : List Nat := [0]) (watchdog : Nat := 0) : Task :=
  { num := 3, source := 0, fn := 0, recd := aRecord watchdog 0 0, cores := cores, stage := .running, runFrom := some 0 }

/-- It runs there, in context 1, on bank 0, at hub time 5 µs. -/
def taskState (t : Task) (k : Core := {}) : State :=
  mapped { State.reset with
    now := 5000
    sched := { tasks := [t] }
    cores := [(0, { k with st := .running, task := some 3, ctx := 1, banks := [(0, { owner := 1, regs := [(9, holding 4 7)] })] })] }

theorem witness_TaskEnds :
    let t := aTask [0] 5
    let s := taskState t
    let u := taskState (aTask [0] 6)
    let v := taskState t { ct := { running := true, mode := .machine, mcause := 24, mtval := 0x24 * 2 ^ 56 } }
    let x := taskState t { ct := { running := true, mode := .machine, mcause := 24, mtval := 0x80 * 2 ^ 56 } }
    Ending s t ∧ t.recd.watchdog ≠ 0 ∧ t.recd.watchdog.toNat * 1000 ≤ s.runTime t ∧
    Ending u (aTask [0] 6) ∧ u.runTime (aTask [0] 6) < 6000 ∧ Ending (taskState (aTask [0] 0)) (aTask [0] 0) ∧
    (Ending v t ∧ v.holds 0 t.num = true ∧ (v.ct 0).disposition = some 0x24) ∧
    (Ending x t ∧ ∀ code, (x.ct 0).disposition ≠ some code) ∧
    t.cores = [s.actCore] ∧ s.holds s.actCore t.num = true ∧ s.blocksRun s.actCore = false ∧ s.splitHarts s.actCore = [] ∧
    (s.ct s.actCore).dcache = [] ∧ s.coreQuiet s.actCore = true ∧ (s.core s.actCore).st = .running := by
  have idle (w : Nat) (x : Ct) : ∀ c ∈ (aTask [0] w).cores, (taskState (aTask [0] w) { ct := x }).holds c 3 = true →
      ((taskState (aTask [0] w) { ct := x }).core c).engine = [] ∧ ∀ b,
        ((taskState (aTask [0] w) { ct := x }).hart c b).pend = none ∧ ((taskState (aTask [0] w) { ct := x }).hart c b).young = [] := by
    intro c hc _
    obtain rfl : c = 0 := by simpa [aTask] using hc
    exact ⟨rfl, fun b => ⟨rfl, rfl⟩⟩
  refine ⟨⟨rfl, rfl, rfl, rfl, rfl, rfl, idle 5 {}, rfl⟩, by decide, by decide +kernel, ⟨rfl, rfl, rfl, rfl, rfl, rfl, idle 6 {}, rfl⟩,
    by decide +kernel, ⟨rfl, rfl, rfl, rfl, rfl, rfl, idle 0 {}, rfl⟩, ⟨⟨rfl, rfl, rfl, rfl, rfl, rfl, idle 5 _, rfl⟩, rfl, by decide +kernel⟩,
    ⟨⟨rfl, rfl, rfl, rfl, rfl, rfl, idle 5 _, rfl⟩, fun code => ?_⟩, rfl, rfl, rfl, by decide +kernel, rfl, rfl, rfl⟩
  rw [show ((taskState (aTask [0] 5) { ct := { running := true, mode := .machine, mcause := 24, mtval := 0x80 * 2 ^ 56 } }).ct 0).disposition =
    none from by decide +kernel]
  simp

/-- A record held for queue 1, whose ring has room at its last entry, with a SIGNAL and a message. -/
def heldState (signal : Nat) : State :=
  { State.reset with
    bar := { q := [(1, { cqEn := true, cqLog := 4, cqBase := 5, cqTail := 15, cqHead := 3 })]
             dmawin := [(0, { limit := 2 ^ 52 - 1, en := true, wr := true })] }
    sched := { held := [{ q := 1, fn := 0, record := 9, signal := BitVec.ofNat 64 signal, cq := 0x2c1 }] }
    hctrs := [(7, { c0 := 4, c1 := 4, c2 := 4 })] }

theorem witness_HeldRecordWritten :
    let s := heldState (7 + 2 ^ 8 + 3 * 2 ^ 32)
    let h : Held := { q := 1, fn := 0, record := 9, signal := BitVec.ofNat 64 (7 + 2 ^ 8 + 3 * 2 ^ 32), cq := 0x2c1 }
    s.sched.held.find? (fun x => x.q == 1) = some h ∧ s.ringFull 1 = false ∧
    s.dmaAllows h.fn ((s.qblock 1).cqBase.toNat * 4096 + 32 * (s.qblock 1).cqTail.toNat) 32 true = true ∧ h.fn = 0 ∧
    h.signal.getLsbD 8 = true ∧ (s.ctr true 0 (fld h.signal.toNat 0 8)).failed = false ∧
    (s.ctr true 0 (fld h.signal.toNat 0 8)).c0 = 4 ∧ (s.ctr true 0 (fld h.signal.toNat 0 8)).c1 = 4 ∧
    (s.ctr true 0 (fld h.signal.toNat 0 8)).c2 = 4 ∧ (0 : Word).getLsbD 8 = false := by
  and_intros <;> decide +kernel

/-- What a core's context 1 left when it was unloaded. -/
def aSaved : Saved :=
  { task := 3, ct := { x := [(4, 44)], pc := 0x1008, mode := .user }, harts := [(2, split [(1, 1)])],
    gangs := [(1, { members := 4 })], ctrs := [(0, { c0 := 1, c1 := 1, c2 := 1 })], evq := [], tiles := [(0, { owner := some 2 })],
    unloadedAt := 4000 }

/-- A core in state `st` whose thread has the given registers. -/
def saveState (st : CoreSt) (x : Ct) (saved : Tab Saved := []) (h : Hart := split []) : State :=
  let s := taskState (aTask)
  s.setCore 0 { s.core 0 with st := st, ct := x, saved := saved, harts := [(2, h)] }

/-- What a restore reads of a save area is good: in the witnesses, of one that the task's space does not map. -/
def areaGood : AreaRead → Bool
  | .good _ => true
  | _ => false

theorem areaGood_eq {r : AreaRead} (h : areaGood r = true) : ∃ u, r = .good u := by
  cases r with
  | good u => exact ⟨u, rfl⟩
  | _ => cases h

theorem witness_PreemptionEvents :
    let s := saveState .running { running := true, req := 1, meie := true, mode := .user }
    let w := (saveState .running { running := true, mode := .user } [] { split [] with latchOwned := true }).setBank 0 2 { owner := 2 }
    let un := saveState .saving { running := true, req := 1, mode := .machine, mepc := 0x1008 }
    let ended (s : State) (op req : Nat) := (s.ct 0).busy = true ∧ (s.ct 0).opDone = true ∧ (s.ct 0).op.toNat = op ∧
      (s.ct 0).req.toNat = req ∧ (s.core 0).saveLeft = []
    let lo : State := { saveState .loading {} [(1, aSaved)] with mem := [] }
    let st := saveState .saving { running := true, req := 1, mode := .machine, mepc := 0x1008, x := [(5, 1)], stash := some [(5, 9)] }
    let ld := saveState .loading { busy := true, opDone := true, op := 2 } [(1, aSaved)]
    s.interruptible 0 = true ∧ w.interruptible 0 = false ∧
    ((w.hart 0 2).latchOwned = true ∧ (w.ct 0).running = true ∧ (w.ct 0).mode = .user ∧ (w.ct 0).ending = false ∧
      w.launching 0 = false ∧ (w.ct 0).midway = false ∧ (∀ e ∈ (w.core 0).harts, e.2.dying = false) ∧ w.ownBank 0 2 = none ∧
      (un.ownBank 0 9).isSome = true) ∧
    ((un.ct 0).busy = false ∧ (un.core 0).st = .saving ∧ un.coreQuiet 0 = true) ∧ (st.ct 0).stash = some [(5, 9)] ∧
    ended (saveState .saving { busy := true, opDone := true, op := 1, req := 1 } [(1, aSaved)]) 1 1 ∧
    ended (saveState .saving { busy := true, opDone := true, op := 1, req := 2 } [(1, aSaved)]) 1 2 ∧
    ((lo.ct 0).busy = false ∧ (lo.core 0).st = .loading ∧
      (∃ u, State.areaRead 0 (lo.core 0).task scalarRegions (lo.issueOp 0 2) = .good u) ∧
      (lo.core 0).saved.find (lo.core 0).ctx.toNat = some aSaved) ∧
    ((ld.ct 0).busy = true ∧ (ld.ct 0).opDone = true ∧ (ld.ct 0).op.toNat = 2 ∧ (ld.core 0).evq.length < 64 ∧
      aSaved.waiting = [] ∧ (ld.core 0).saveLeft = [] ∧ ld.waitingFor 0 = []) ∧
    (codeListed (fld (0x24 * 2 ^ 56 : Word).toNat 56 8) = true ∧ codeListed (fld (0 : Word).toNat 56 8) = false) ∧
    fld (0x24 * 2 ^ 56 + 2 ^ 54 : Word).toNat 54 2 ≠ 3 ∧ s.flash.log.length < 4096 ∧ fld (3 * 2 ^ 54 : Word).toNat 54 2 = 3 := by
  refine ⟨by decide +kernel, by decide +kernel,
    ⟨by decide +kernel, rfl, rfl, rfl, rfl, by decide +kernel, by decide +kernel, by decide +kernel, by decide +kernel⟩,
    ⟨rfl, rfl, by decide +kernel⟩, rfl, ⟨rfl, rfl, rfl, rfl, rfl⟩, ⟨rfl, rfl, rfl, rfl, rfl⟩,
    ⟨rfl, rfl, areaGood_eq (by decide +kernel), by decide +kernel⟩,
    ⟨rfl, rfl, rfl, by decide +kernel, rfl, rfl, rfl⟩, ⟨by decide +kernel, by decide +kernel⟩, by decide, by decide, by decide⟩

/-- A line of a save area that is mapped, and one that is not. -/
theorem witness_SaveLines :
    let s := saveState .saving { busy := true, op := 1 }
    s.areaPlace 0 0 0x200400 64 true = .ok (.here 0x200400) ∧ s.busHeld (.save 0) = false ∧ Plain s 0x200400 ∧
    s.areaPlace 0 0 (2 ^ 40) 64 true = .error (0x20, 2 ^ 40 + 0x15 * 2 ^ 48) ∧ (0x20 : Nat) ≠ walkWait :=
  ⟨by decide +kernel, by decide +kernel, plain_fresh rfl rfl rfl rfl (by decide +kernel) _, by decide +kernel, by decide⟩

/-- Bank 3, of context 2, whose register 1 is an OPEN latch and whose register 9 is written, and slot `slot`, on a core of the
given task. -/
def bankState (slot : BitVec 3) (task : Option Nat := none) : State :=
  let s := { taskState aTask with mem := [] }
  s.setCore 0 { s.core 0 with
    task := task
    ct := { slot := slot, sctx := 2, sbank := 3 }
    saved := [(2, aSaved)]
    banks := [(3, { owner := 2, masks := [(1, 0xf)]
                    regs := [(1, { holding 4 9 with row := some 16384, dirty := true }), (9, { holding 12 7 with latch := .closed })] })] }

theorem latch_bankState (slot : BitVec 3) (r : Nat) :
    ((bankState slot).reg 0 3 r).latch = .opened ∨ ((bankState slot).reg 0 3 r).latch = .closed := by
  by_cases h1 : r = 1
  · subst h1; exact .inl rfl
  · by_cases h9 : r = 9
    · subst h9; exact .inr rfl
    · refine .inr ?_
      have : ((bankState slot).reg 0 3 r) = {} := by
        simp [bankState, State.reg, State.bank, State.core, State.setCore, Core.bank, Bank.reg, Tab.get, Tab.find, Tab.put,
          taskState, mapped, State.placeSpace, Ne.symm h1, Ne.symm h9]
      rw [this]

/-- Save rows and the overflow region, for a task whose space maps no save area. -/
theorem witness_BankSavedAndRestored : ∀ slot ∈ ([0, 3, 4] : List (BitVec 3)),
    let s := bankState slot
    (s.ct 0).busy = false ∧ slot.toNat ≤ 4 ∧ (s.ct 0).sctx.toNat ≠ 0 ∧ (s.bank 0 3).owner = 2 ∧
    (s.core 0).saved.find 2 = some aSaved ∧ (s.bank 0 3).regs.keys.Nodup ∧
    (∀ r, (s.reg 0 3 r).latch = .opened ∨ (s.reg 0 3 r).latch = .closed) ∧ s.stepwise = false ∧
    s.rowsReady 0 3 slot.toNat (s.bank 0 3).regs = true ∧
    gives (exec (.banksave 0) s) (fun t => (t.core 0).saveLeft.isEmpty && gives (exec (.hmsaveOpComplete 0) t) fun u =>
      areaGood (State.areaRead 0 (some 3) (bankPieces slot.toNat 3 (s.bank 0 3).regs) (u.issueOp 0 4))) = true := by
  intro slot h
  simp only [List.mem_cons, List.not_mem_nil, or_false] at h
  obtain rfl | rfl | rfl := h
  all_goals exact ⟨rfl, by decide, (by decide : (2 : BitVec 16).toNat ≠ 0), rfl, rfl, (by decide : ([1, 9] : List Nat).Nodup),
    latch_bankState _, rfl, by decide +kernel, by decide +kernel⟩

/-! ## Witnesses: clusters and the host's accesses -/

/-- A core whose work has ended. -/
def endedCore : Core :=
  { st := .ended, task := some 3
    banks := [(3, { spareLanes := 5, sags := [(2, { owed := 7, ptr := 9 })], regs := [(9, holding 4 7)] })] }

/-- Core 0 of a task of cores 0 and 4 to 7 whose work has ended on cluster 1, in state `st`. -/
def clusterState (st : BitVec 2) (busy : Option Nat := none) : State :=
  { State.reset with
    sched := { tasks := [aTask [0, 4, 5, 6, 7]] }
    cores := (0, { st := .running, task := some 3, ctx := 1, ct := { psel := 1 } }) ::
      [4, 5, 6, 7].map fun (c : Nat) => (c, endedCore)
    power := { clusters := [(1, { state := st, busy := busy })] } }

theorem witness_ClusterCommands :
    ((clusterState 0).core 0).task.bind (clusterState 0).task = some (aTask [0, 4, 5, 6, 7]) ∧
    (∀ st, st < 4 → (clusterState (BitVec.ofNat 2 st)).involved 1 = false ∧ ((clusterState (BitVec.ofNat 2 st)).clusterAt 1).state = BitVec.ofNat 2 st) ∧
    (∀ y ∈ [4, 5, 6, 7], y ∈ (aTask [0, 4, 5, 6, 7]).cores ∧ y ≠ 0 ∧ ((clusterState 0).core y).st = .ended ∧
      (∀ e ∈ ((clusterState 0).core y).banks, e.2.owner = 0) ∧ ((clusterState 0).core y).banks.map (·.1) = [3] ∧
      ((clusterState 0).bank y 3).sags.map (·.1) = [2]) ∧
    ((clusterState 3 (some 5)).core 4).banks.find 3 ≠ none ∧ ((clusterState 3 (some 5)).bank 4 3).sags.find 2 ≠ none ∧
    (clusterState 0).refuseCmd 0 1 1 = none ∧ (clusterState 1).refuseCmd 0 1 2 = none ∧
    (clusterState 2).refuseCmd 0 1 3 = none ∧ (clusterState 1).refuseCmd 0 1 4 = none ∧ (clusterState 2).refuseCmd 0 1 4 = none ∧
    (clusterState 3).refuseCmd 0 1 5 = none ∧ (∀ cmd ∈ [2, 3, 4, 5], (clusterState 0).refuseCmd 0 1 cmd = some 1) ∧
    (clusterState 1).refuseCmd 0 1 1 = some 1 ∧ (clusterState 0).refuseCmd 0 2 1 = some 2 ∧
    (∀ cmd ∈ [1, 2, 3, 4, 5], ((clusterState 0 (some cmd)).clusterAt 1).busy = some cmd) ∧
    ((clusterState 0).clusterAt 1).busy = none ∧ 7 / 4 = 1 ∧ 8 / 4 ≠ 1 ∧ (0 : Nat) ≠ 1 := by
  and_intros <;> decide +kernel

/-- Queue 2 belongs to function 3 and is as given; queue 3 is at its reset. -/
def queueState (en : Bool) (recovery : Bool := false) : State :=
  { State.reset with bar := { ready := true, recovery := recovery,
                              q := [(2, { sqEn := en, sqLog := 4, sqOwner := 3, cqEn := en, cqLog := 4, cqOwner := 3 })] } }

theorem witness_HostRegisterWrites :
    let s := queueState true
    let u := queueState false
    let v (n : Nat) : Word := BitVec.ofNat 64 (2 ^ 63 + n * 2 ^ 52)
    s.bar.rcause ≠ 2 ∧ s.bar.errEn = false ∧ u.bar.rcause ≠ 2 ∧ u.bar.errEn = false ∧ (s.qblock 2).sqOwner.toNat = 3 ∧
    s.bar.recovery = false ∧ (15 : Word).toNat % 65536 < 2 ^ (s.qblock 2).sqLog.toNat ∧
    2 ^ (s.qblock 2).sqLog.toNat ≤ (16 : Word).toNat % 65536 ∧ (queueState true true).bar.recovery = true ∧
    (5 : Nat) ≠ 0 ∧ (s.qblock 2).sqOwner.toNat ≠ 5 ∧ (s.qblock 2).sqEn = true ∧ (s.qblock 2).cqEn = true ∧
    (u.qblock 2).sqEn = false ∧ (u.qblock 2).cqEn = false ∧ (∀ n ∈ [3, 4, 16, 17], (v n).getLsbD 63 = true ∧ fld (v n).toNat 52 5 = n) ∧
    (s.qblock 2).cqOwner.toNat = 3 ∧ (s.qblock 3).cqEn = false ∧ (63 : Nat) < 64 ∧ 0x1800 ≤ 0xffff ∧ 0xffff < 0x10000 ∧
    (s.hostq = [] ∧ s.hostReq = none ∧ s.hostGot = []) := by
  and_intros <;> decide +kernel

/-- The PF, the owner of queue 2 and another VF read, at the ends of what is listed. -/
theorem witness_RegisterReads :
    let s := queueState true
    let at_ (fn off : Nat) : State := { s with agenda := [.outside (.barRead fn off)] }
    s.bar.rcause ≠ 2 ∧ (63 : Nat) < 64 ∧ (s.qblock 2).sqOwner.toNat = 3 ∧ (s.qblock 2).cqOwner.toNat = 3 ∧
    (s.qblock 2).sqOwner.toNat ≠ 5 ∧ (s.qblock 2).cqOwner.toNat ≠ 5 ∧ (3 : Nat) ≠ 0 ∧ (5 : Nat) ≠ 0 ∧
    (at_ 0 0).agenda = [.outside (.barRead 0 0)] ∧ (at_ 3 0x90).agenda = [.outside (.barRead 3 0x90)] ∧
    0x1800 ≤ 0xfff8 ∧ 0xfff8 < 0x10000 ∧ 0x11000 ≤ 0x100000 ∧ 0x1000 ≤ 0x1000 :=
  ⟨by decide, by decide, by decide, by decide, by decide, by decide, by decide, by decide, rfl, rfl, by decide, by decide,
    by decide, by decide⟩

/-- R70: SQHEAD, SQTAIL, CQCFG and CQTAIL as the PF reads them; R8: an unowned half reads 0. -/
theorem test_bar_read :
    let q : QBlock := { sqTail := 3, sqHead := 2, cqTail := 9, cqPhase := true, cqLog := 4, cqEn := true, cqOwner := 3 }
    let s : State := { State.reset with bar := { ready := true, q := [(2, q)] } }
    let v (fn off : Nat) := (s.barRead fn off).out
    v 0 0x10088 = [.barAnswer 3] ∧ v 0 0x10090 = [.barAnswer 2] ∧ v 0 0x100b0 = [.barAnswer 0x10009] ∧
      v 3 0xa0 = [.barAnswer 0x8041800000000000] ∧ v 5 0xa0 = [.barAnswer 0] ∧ v 0 0 = [.barAnswer 1] := by
  decide +kernel

theorem plain_reset (pa : Nat) : Plain State.reset pa :=
  plain_fresh rfl rfl rfl rfl rfl pa

/-- R55: the E2E value of a line of zeros is zero. -/
theorem e2e_zero : e2e 0 = 0 := by
  have h : ∀ n, crcBytes 0x8bb7 n 0 0 = 0 := by
    intro n
    induction n with
    | zero => rfl
    | succ n ih => rw [crcBytes, show crcByte 0x8bb7 0 (0 % 256) = 0 from by decide +kernel]; exact ih
  exact h 64

/-- A protected write of zeros to the line at 0x40, with its right code and with a wrong one. -/
theorem unit_zero : unitGood (BitVec.ofNat 1024 (0x40 * 2 ^ 576)).toNat = true ∧
    unitGood (BitVec.ofNat 1024 (0x40 * 2 ^ 576 + 2 ^ 512)).toNat = false := by
  unfold unitGood
  rw [show fld (BitVec.ofNat 1024 (0x40 * 2 ^ 576)).toNat 0 512 = 0 from by decide +kernel,
    show fld (BitVec.ofNat 1024 (0x40 * 2 ^ 576 + 2 ^ 512)).toNat 0 512 = 0 from by decide +kernel, e2e_zero]
  decide +kernel

/-- The free window, at the last byte of a line, for a whole line, and for the least and the greatest AtomicOp. -/
theorem witness_HostWindowAccesses :
    let s := State.reset
    let u : BitVec 1024 := BitVec.ofNat 1024 (0x40 * 2 ^ 576)
    let v : BitVec 1024 := BitVec.ofNat 1024 (0x40 * 2 ^ 576 + 2 ^ 512)
    (∀ pa, Plain s pa) ∧ (unitGood u.toNat = true ∧ unitGood v.toNat = false) ∧
    s.hostq = [] ∧ s.hostReq = none ∧ s.hostGot = [] ∧ s.mscFree (s.windowPa 0x7f) = true ∧
    s.hostFits (s.windowPa 0x7f) = true ∧ s.windowPa 0x7f % 64 + 1 ≤ 64 ∧
    s.hostFits (s.windowPa 0x40) = true ∧ s.windowPa 0x40 % 64 + 64 ≤ 64 ∧
    s.hostFits (s.windowPa 0x7c) = true ∧ s.windowPa 0x7c % 4 = 0 ∧ s.windowPa 0x40 % 16 = 0 ∧
    s.mem.read (s.windowPa 0x40) 16 = (0 : BitVec 128).toNat % 2 ^ 128 ∧
    fld u.toNat 576 40 % 64 = 0 ∧ s.hostFits (fld u.toNat 576 40) = true := by
  refine ⟨plain_reset, unit_zero, ?_⟩
  decide +kernel

/-! ## Witnesses: acceptance, spans and the scheduler -/

/-- A task record's 256 bytes: VERSION, PRIO 1, MODMASK, CORESET of core 0 alone, ENTRY 0x1000. -/
def recordBytes (version : Nat) (modmask : Nat := 0) : Nat :=
  version + 2 ^ 8 + 5 * 2 ^ 48 + modmask * 2 ^ 64 + 2 ^ 16 * 2 ^ 128 + 0x1000 * 2 ^ 192

/-- A record at 0x3100, the second of the ring of queue 2, and one at 0x7000 for LAUNCH, by core 0. -/
def ringState (version : Nat) (queued : Bool) : State :=
  let s := ctState { x := [(5, 0x7000)] } { task := some 3, ctx := 1 }
  { s with
    mem := (s.mem.write 0x3100 256 (recordBytes version)).write 0x7000 256 (recordBytes version)
    bar := { s.bar with
      q := [(2, { sqEn := queued, sqLog := 4, sqBase := 3, sqHead := 1, sqTail := if queued then 2 else 1,
                  cqEn := true, cqLog := 4, cqBase := 9, cqTail := 15, cqHead := 3 })]
      dmawin := [(0, { limit := 2 ^ 52 - 1, en := true, wr := true })] }
    sched := { s.sched with tasks := [{ aTask with recd := aRecord 0 0 0 }] } }

/-- What the checks of a record find. -/
def accepted : Judged → Bool
  | .accept s cores ranges => cores == [0] && ranges.isEmpty && s.sched.nextNum == 0
  | _ => false
def refused : Judged → Bool
  | .refuse s 1 => !s.noQueue 0 2 && !s.ringFull 2 && !(s.sched.held.any fun h => h.q == 2) &&
      s.dmaAllows 0 ((s.qblock 2).cqBase.toNat * 4096 + 32 * (s.qblock 2).cqTail.toNat) 32 true
  | _ => false
theorem accepted_eq {j : Judged} (h : accepted j = true) : ∃ s, j = .accept s [0] [] := by
  unfold accepted at h
  split at h
  · simp only [Bool.and_eq_true, beq_iff_eq, List.isEmpty_iff] at h
    exact ⟨_, by rw [h.1.1, h.1.2]⟩
  · cases h
theorem refused_eq {j : Judged} (h : refused j = true) : ∃ s, j = .refuse s 1 ∧ s.noQueue 0 2 = false ∧ s.ringFull 2 = false ∧
    (s.sched.held.any fun h => h.q == 2) = false ∧
    s.dmaAllows 0 ((s.qblock 2).cqBase.toNat * 4096 + 32 * (s.qblock 2).cqTail.toNat) 32 true = true := by
  unfold refused at h
  split at h
  · simp only [Bool.and_eq_true, Bool.not_eq_true'] at h
    exact ⟨_, rfl, h.1.1.1, h.1.1.2, h.1.2, h.2⟩
  · cases h

/-- The checks refuse a record with this code. -/
def refusedAs (code : Nat) : Judged → Bool
  | .refuse _ n => n == code
  | _ => false
theorem refused_code {j : Judged} {n : Nat} (h : refusedAs n j = true) : ∃ s, j = .refuse s n := by
  unfold refusedAs at h
  split at h
  · exact ⟨_, by rw [beq_iff_eq.mp h]⟩
  · cases h

/-- A record that passes every check, and one for each that is refused (R62). -/
theorem witness_RecordChecks :
    let s := mapped State.reset
    let r := aRecord 0 0 0
    let page (j : Nat) (b : Word) := s.translate 0 false (b.toNat + j * 2 ^ 21) .col false true
    let well (r : Record) := r.version = 1 ∧ r.rsvZero = true
    let ok (x : Except Cause Loc) (f : Cause → Bool) := match x with | .ok _ => true | .error e => f e
    (¬well { r with version := 2 } ∧ ¬well { r with rsvZero := false } ∧ well r) ∧
    ((s.tableBytes (s.spaceAddr 0) 16).isSome = true ∧ (s.spaceRoot 0).isSome = true ∧ s.asidGranted 0 0 = true ∧
      (s.tableBytes (s.spaceAddr 1) 16).isSome = true ∧ (s.spaceRoot 1).isNone = true) ∧
    (r.modmask = 0 ∧ (2 : Word).getLsbD s.flash.modId.toNat = false ∧ (1 : Word).getLsbD s.flash.modId.toNat = true) ∧
    (bit r.coreset.toNat 63 = false ∧ fld r.coreset.toNat 0 10 = 0 ∧ fld r.coreset.toNat 16 11 = 1 ∧ s.removed 0 = false ∧
      fld (0x3ff + 2 ^ 17 : Word).toNat 16 11 = 2 ∧ bit (2 ^ 63 + 1 : Word).toNat 63 = true ∧ fld (2 ^ 63 + 1 : Word).toNat 0 48 % 128 ≠ 0) ∧
    (match s.coresOf 0 r with | .ok u l => l == [0] && ok (u.translate 0 false r.entry.toNat .fetch false false) (fun _ => false) &&
        (match u.rangesOf 0 r with | .ok _ x => x.isEmpty | _ => false) | _ => false) = true ∧
    (match s.coresOf 0 { r with coreset := 0x20000 + 0x3ff } with | .no _ => true | _ => false) = true ∧
    (ok (s.translate 0 false (2 ^ 40) .fetch false false) fun e => e.1 != walkWait) = true ∧ r.entry.getLsbD 0 = false ∧
    r.nranges = 0 ∧ (match s.rangesOf 0 { r with nranges := 1, ranges := 2 ^ 40 } with | .no _ => true | _ => false) = true ∧
    (r.preempt = true ∧ r.savebase ≠ 0 ∧ r.savebase.toNat % 2 ^ 21 = 0 ∧
      (∀ j, j < 4 → ok (page j r.savebase) (fun _ => false) = true) ∧
      (match page 0 (2 ^ 40) with | .error e => e.1 != walkWait | _ => false) = true) ∧
    r.bounded = false ∧ ({ r with flags := 1 } : Record).bounded = true ∧ r.work = 0 := by
  and_intros <;> decide +kernel

/-- The record that the ring's head names. -/
def ringRecord (s : State) (q : Nat) : Record :=
  record (BitVec.ofNat 2048 (s.mem.read ((s.qblock q).sqBase.toNat * 4096 + 256 * (s.qblock q).sqHead.toNat) 256)).toNat

/-- What a check of the lines of a record finds, where they have been read. -/
def onLines (g : State → Nat → Bool) (x : Lines) : Bool :=
  match x with
  | .got s v => g s v
  | _ => false

theorem onLines_eq {g : State → Nat → Bool} {x : Lines} (h : onLines g x = true) : ∃ s v, x = .got s v ∧ g s v = true := by
  unfold onLines at h
  split at h
  · exact ⟨_, _, rfl, h⟩
  · cases h

/-- The acceptance unit once the head of queue 2 has been read, as the statement has it. -/
def unitAfter (s s1 : State) : State :=
  ((s1.setQ 2 { s1.qblock 2 with
    sqHead := BitVec.ofNat 16 (((s.qblock 2).sqHead.toNat + 1) % 2 ^ (s.qblock 2).sqLog.toNat) }).forget .hub).served 2

/-- The turn of queue 2: its record has been read, and the checks find what `f` says. -/
def ringTurn (s : State) (f : Judged → Prop) : Prop :=
  s.sched.refused = none ∧ s.sched.tasks.length < 4096 ∧ s.sched.serving = none ∧ s.nextRequester = some 2 ∧
  (s.qblock 2).sqOwner.toNat = 0 ∧ ∃ s1 v, State.recordLines .hub ((s.qblock 2).sqBase.toNat * 4096 +
    256 * (s.qblock 2).sqHead.toNat) 4 (s.begin_ 2) = .got s1 v ∧
  f ((unitAfter s s1).judge 0 (record (BitVec.ofNat 2048 v).toNat))

theorem witness_TaskAcceptance_ring :
    ringTurn (ringState 1 true) (fun j => ∃ t, j = .accept t [0] []) ∧
    ringTurn (ringState 2 true) (fun j => ∃ t, j = .refuse t 1 ∧ t.noQueue 0 2 = false ∧ t.ringFull 2 = false ∧
      (t.sched.held.any fun h => h.q == 2) = false ∧
      t.dmaAllows 0 ((t.qblock 2).cqBase.toNat * 4096 + 32 * (t.qblock 2).cqTail.toNat) 32 true = true) := by
  have h (n : Nat) (f : Judged → Bool) : onLines (fun s1 v => f ((unitAfter (ringState n true) s1).judge 0
      (record (BitVec.ofNat 2048 v).toNat))) (State.recordLines .hub (((ringState n true).qblock 2).sqBase.toNat * 4096 +
        256 * ((ringState n true).qblock 2).sqHead.toNat) 4 ((ringState n true).begin_ 2)) = true → _ := onLines_eq
  obtain ⟨s1, v, hv, ha⟩ := h 1 accepted (by decide +kernel)
  obtain ⟨s2, w, hw, hb⟩ := h 2 refused (by decide +kernel)
  exact ⟨⟨by decide +kernel, by decide +kernel, by decide +kernel, by decide +kernel, by decide +kernel, s1, v, hv, accepted_eq ha⟩,
    ⟨by decide +kernel, by decide +kernel, by decide +kernel, by decide +kernel, by decide +kernel, s2, w, hw, refused_eq hb⟩⟩

/-- The state with the LAUNCH of core 0 in service, as the statement has it. -/
def launchState (version : Nat) : State :=
  let s := ringState version false
  { s with
    walkData := []
    sched := { s.sched with
      launches := [⟨0, 0x7000, 3, true⟩], lastAccepted := 64
      serving := some (.reading 64 (s.qblock 64).sqOwner.toNat (s.qblock 64).entry (s.qblock 64).sqEpoch) } }

theorem witness_TaskAcceptance_launch :
    let s := ringState 1 false
    let o : XH := ⟨0, 5, 0, 3⟩
    let r := launchState 1
    s.rs1 o % 256 = 0 ∧ (s.ct 0).dcache = [] ∧ s.sched.launches = [] ∧ s.sched.refused = none ∧ s.sched.tasks.length < 4096 ∧
    s.sched.serving = none ∧
    (∀ n, n < 64 → s.requests n = false) ∧ r.colAt 0 (r.mach 0) 0x7000 256 true false = .ok (.here 0x7000) ∧
    r.fnOf 0 = 0 ∧ o.d ≠ 0 := by
  and_intros <;> decide +kernel

/-- The lines of the record at 0x7000 as the unit reads them, and what the checks find. -/
theorem witness_TaskAcceptance_lines :
    (∃ s v, State.lines (.ct 0) 0x7000 (.here 0x7000) 4 (launchState 1) = .got s v ∧
      accepted ((s.forget (.ct 0)).judge 0 (record (BitVec.ofNat 2048 v).toNat)) = true) ∧
    (∃ s v, State.lines (.ct 0) 0x7000 (.here 0x7000) 4 (launchState 2) = .got s v ∧
      refusedAs 1 ((s.forget (.ct 0)).judge 0 (record (BitVec.ofNat 2048 v).toNat)) = true) := by
  have h (n : Nat) (f : Judged → Bool) : onLines (fun s v => f ((s.forget (.ct 0)).judge 0
      (record (BitVec.ofNat 2048 v).toNat))) (State.lines (.ct 0) 0x7000 (.here 0x7000) 4 (launchState n)) = true → _ := onLines_eq
  exact ⟨h 1 accepted (by decide +kernel), h 2 (refusedAs 1) (by decide +kernel)⟩

/-- A queued task without waits, a task whose turn for the flush has come, and one whose one range is being flushed. -/
theorem witness_TaskAcceptance_stages :
    let w : Word := BitVec.ofNat 64 (7 + 2 ^ 16 + 4 * 2 ^ 32)
    let t : Task := { aTask with stage := .queued, recd := { aRecord 0 0 0 with waits := [w, 0, 0, 0] } }
    let s : State := { State.reset with sched := { tasks := [t] }, hctrs := [(7, { c0 := 4, c1 := 4, c2 := 4 })] }
    let u : Task := { aTask with stage := .toFlush }
    let x : State := { State.reset with sched := { tasks := [u], flushq := [u.num] } }
    let k : Task := { aTask with stage := .flushing, ranges := [(0x8000, 128, false)] }
    let y : State := mapped { State.reset with
      sched := { tasks := [k], flushLeft := [(0x8000, 128)] }, msc := [(0x8040 / 64, some (5, {}))] }
    let z : State := { y with sched := { y.sched with flushLeft := [] } }
    s.task t.num = some t ∧ t.stage = .queued ∧ w.getLsbD 16 = true ∧ (s.ctr true 0 (fld w.toNat 0 8)).failed = false ∧
    (s.ctr true 0 (fld w.toNat 0 8)).c0 = 4 ∧ (s.ctr true 0 (fld w.toNat 0 8)).c1 = 4 ∧ (s.ctr true 0 (fld w.toNat 0 8)).c2 = 4 ∧
    fld w.toNat 32 32 ≤ (4 : BitVec 32).toNat ∧
    x.task u.num = some u ∧ (x.sched.tasks.any fun y => y.stage == .flushing) = false ∧
    x.flushOrder.head? = some u.num ∧
    y.task k.num = some k ∧ (y.sched.tasks.find? fun y => y.stage == .flushing) = some k ∧ k.recd.modmask = 0 ∧
    0x8000 % 2 ^ 21 + 128 ≤ 2 ^ 21 ∧ (match y.translate 0 false 0x8000 .col true false with
      | .ok l => l.home == y.flash.modId.toNat && l.pa == 0x8000 | _ => false) = true ∧
    y.sched.flushLeft = [(0x8000, 128)] ∧ z.sched.flushLeft = [] ∧ (∀ pa, y.sensing pa = false ∧ y.asleep pa = false ∧ y.sliceHeld pa = false) := by
  and_intros <;> first | exact fun pa => ⟨(plain_fresh (by rfl) rfl rfl rfl rfl pa).still,
    (plain_fresh (by rfl) rfl rfl rfl rfl pa).awake, rfl⟩ | decide +kernel

/-- A span's origin at its barrier with two members missing, and a member that waits at the barrier of module 9. -/
def spanState (missing : List Nat) : State :=
  { mapped State.reset with
    sched := { barriers := [⟨5, 3, missing⟩]
               tasks := [{ aTask [0] with stage := .barrier, recd := { aRecord 0 (7 + 2 ^ 8) 0 with modmask := 0xd } },
                         { aTask [1] with num := 4, stage := .barrier, origin := some 9 }] } }

theorem witness_SpanEvents :
    let s := spanState [2, 3]
    let u := spanState [3]
    let b : Barrier := ⟨5, 3, [2, 3]⟩
    let t : Task := { aTask [0] with stage := .barrier, recd := { aRecord 0 (7 + 2 ^ 8) 0 with modmask := 0xd } }
    let k : Task := { aTask [1] with num := 4, stage := .barrier, origin := some 9 }
    let good := BitVec.ofNat 2048 (recordBytes 1 1)
    s.sched.packets = [] ∧ s.sched.serving = none ∧ (∀ m, s.portHeld m = false) ∧ s.sameClk = false ∧ s.barrierOpen 9 6 = false ∧ s.sched.tasks.length < 4096 ∧
    (∃ x, s.judge 0 (record good.toNat) = .accept x [0] []) ∧
    (∃ x, s.judge 0 (record (BitVec.ofNat 2048 (recordBytes 2 1)).toNat) = .refuse x 1) ∧ s.barrierOpen 8 5 = false ∧
    (record good.toNat).gen.toNat = 5 ∧
    s.sched.barriers.find? (fun x => x.gen == 5 && x.missing.contains 2) = some b ∧ s.task b.num = some t ∧
    b.missing.filter (· != 2) ≠ [] ∧
    u.sched.barriers.find? (fun x => x.gen == 5 && x.missing.contains 3) = some ⟨5, 3, [3]⟩ ∧
    ([3] : List Nat).filter (· != 3) = [] ∧
    s.task k.num = some k ∧ k.origin = some 9 ∧ k.recd.gen.toNat = 5 ∧ k.stage = .barrier ∧
    s.sched.barriers.find? (fun x => x.gen == 5 && s.inSpan 2 x) = some b ∧ (∀ c ∈ t.cores, s.holds c t.num = false) ∧
    cqEnabled t.recd.cq = false ∧ 9 ≠ s.flash.modId.toNat ∧ s.flash.log.length < 4096 ∧
    s.sched.tasks.any (fun t => t.origin == some 9 && t.recd.gen.toNat == 5 &&
      (t.stage == .queued || t.stage == .toFlush || t.stage == .flushing || t.stage == .barrier)) = true := by
  refine ⟨rfl, rfl, fun _ => rfl, rfl, by decide +kernel, by decide, accepted_eq (by decide +kernel), ?_, by decide +kernel, by decide +kernel, rfl, rfl,
    by decide, rfl, by decide, rfl, rfl, rfl, rfl, by decide +kernel, by decide +kernel, rfl, by decide, by decide, rfl⟩
  exact (refused_code (by decide +kernel))

/-- A task that waits for free cores 0 and 1023; one with a latest start that has passed; one that runs. -/
theorem witness_SchedulerEvents :
    let t : Task := { aTask [0, 1023] with stage := .ready, runFrom := none }
    let s : State := { State.reset with now := 20000000, sched := { tasks := [t] } }
    let l : Task := { t with latestStart := some 20000000 }
    let u : State := { s with sched := { tasks := [l] } }
    let r := taskState aTask
    s.task t.num = some t ∧ t.waits = true ∧ t.latestStart = none ∧
    u.task l.num = some l ∧ l.waits = true ∧ l.latestStart = some 20000000 ∧ 20000000 ≤ u.now ∧
    s.bar.recovery = false ∧ s.sched.tasks = [t] ∧ t.stage = .ready ∧ t.ends = none ∧ (∀ c ∈ t.cores, s.coreFree c = true) ∧
    ({ s with bar := { s.bar with recovery := true } } : State).bar.recovery = true ∧
    (∀ c ∈ (aTask).cores, r.holds c (aTask).num = true ∧ (r.core c).st = .running) := by
  and_intros <;> decide +kernel

/-! ## Witnesses: refresh, Fen, power and reset -/

/-- SAG 2 of bank 0 of core 0, which runs a task, or none. -/
def sagState (x : Sag) (task : Option Nat := some 3) : State :=
  { State.reset with
    side := [(lineOf (rowPa 0 0 2 3), { badSymbols := 1 }), (lineOf (rowPa 0 0 2 3) + 127, { badSymbols := 3 })]
    cores := [(0, { st := if task.isSome then .running else .free, task := task, banks := [(0, { sags := [(2, x)] })] })] }

theorem witness_RefreshEvents :
    let s := sagState { owed := 63, risen := 1 }
    let at_ (n : Nat) : State := { s with now := riseTime n }
    let h := sagState { owed := 1 } none
    let f := sagState { owed := 96, forced := true }
    let off : State := { at_ 2 with power := { clusters := [(0, { state := 3 })] } }
    s.clusterOn 0 = true ∧ (s.sag 0 0 2).owed = 63 ∧ s.programRefresh 0 = true ∧ (s.core 0).evq.length < 64 ∧ s.waitingFor 0 = [] ∧
    (riseCount (at_ 2).now = (s.sag 0 0 2).risen + 1 ∧ ((s.sag 0 0 2).risen + 1) % 2 = 0 ∧ (at_ 2).clusterOn 0 = true) ∧
    (off.clusterOn 0 = false ∧ riseCount off.now = (off.sag 0 0 2).risen + 1) ∧
    riseCount (at_ 1).now ≤ (s.sag 0 0 2).risen ∧ (s.sag 0 0 2).risen ≤ riseCount (at_ 9).now ∧ (s.sag 0 0 2).owed ≤ 96 ∧
    (h.clusterOn 0 = true ∧ h.hwRefreshes 0 = true ∧ (h.sag 0 0 2).owed ≠ 0 ∧ h.sagIdle 0 0 2 = true ∧
      h.wantsSag 0 0 2 = false ∧ h.affords 0 .refresh 1 = true) ∧
    s.hwRefreshes 0 = false ∧ (f.sag 0 0 2).forced = true ∧ (f.sag 0 0 2).busy = false ∧ (f.sag 0 0 2).step = false ∧
    f.clusterOn 0 = true ∧ s.sagIdle 0 0 2 = true ∧ s.wantsSag 0 0 2 = false ∧
    s.affords 0 .scrub (s.scrubClk (lineOf (rowPa 0 0 2 3)) 3) = true ∧ (511 : Nat) < 512 ∧ s.side.keys.Nodup := by
  refine ⟨rfl, rfl, rfl, by decide, rfl, ⟨by decide +kernel, rfl, rfl⟩, ⟨by decide +kernel, by decide +kernel⟩, by decide +kernel,
    by decide +kernel, by decide +kernel, ⟨rfl, rfl, by decide, rfl, by decide +kernel, by decide +kernel⟩, rfl, rfl, rfl, rfl, rfl,
    rfl, by decide +kernel, by decide +kernel, by decide, by decide +kernel⟩

/-- A task on core 0 at 5 µs, its core with the given score and lease. -/
def fenState (score : Nat) (lease : Option Lease := none) : State :=
  let s := taskState aTask
  { s with fen := { s.fen with scores := [(unitKey 1 0, { value := score }), (unitKey 1 9, { value := score })]
                               leases := match lease with | some x => [(0, x), (9, x)] | none => [] } }

theorem witness_LeaseEvents :
    let s := fenState 256
    let x : Lease := { kind := 1, seq := 4, effTime := 5000 }
    let y : Lease := { kind := 1, seq := 4, effTime := 5001 }
    let z : Lease := { kind := 0, inForce := true }
    (∀ k ∈ [0, 1], s.leaseAllowed 9 k = true) ∧ (fenState 1024).leaseAllowed 9 2 = true ∧ s.fen.leases.find 9 = none ∧
    s.leaseIdle 9 = true ∧ (fenState 255).leaseAllowed 0 1 = false ∧
    (s.leaseAllowed 0 1 = true ∧ s.fen.leases.find 0 = none ∧ (s.core 0).st = .running ∧ (s.ct 0).req = 0 ∧
      (s.core 0).task = some (aTask).num ∧ s.task (aTask).num = some aTask ∧ (aTask).ends = none ∧ s.recipients 0 = [0] ∧
      (s.core 0).evq.length < 64 ∧ s.waitingFor 0 = []) ∧
    ((fenState 256 x).fen.leases.find 0 = some x ∧ x.inForce = false ∧ x.seq ≠ 0 ∧ x.effTime ≤ (fenState 256 x).now ∧
      (aTask).recd.preempt = true ∧ ((fenState 256 x).ct 0).req = 0 ∧ (fenState 256 y).fen.leases.find 0 = some y ∧ (fenState 256 y).now < y.effTime) ∧
    (∀ v ∈ [255, 256, 1023, 1024], (fenState v z).fen.leases.find 9 = some z ∧ ((fenState v z).core 9).st ≠ .saving ∧
      ((fenState v z).ct 9).req = 0) ∧ z.inForce = true ∧ z.seq = 0 := by
  refine ⟨by decide +kernel, by decide +kernel, rfl, rfl, by decide +kernel,
    ⟨by decide +kernel, rfl, rfl, rfl, rfl, rfl, rfl, by decide +kernel, by decide, rfl⟩,
    ⟨rfl, rfl, by decide, by decide, rfl, rfl, rfl, by decide⟩, by decide +kernel, rfl, rfl⟩

/-- A SAG and a bus to test; a destructive step on rows 3 and 511 under way, and one that found a cell failed. -/
theorem witness_TestAndRepairEvents :
    let u : FenUnit := .sag 0 0 2
    let s := sagState {} none
    let w : State := { sagState { step := true, spareRows := 7 } none with fen := { steps := [u] } }
    let busy : State := { sagState { step := true, busy := true } none with fen := { steps := [u] } }
    let d : State := { sagState { step := true, testing := [3, 511] } none with fen := { steps := [u] } }
    let b : State := { State.reset with fen := { steps := [.bus 0 5] } }
    let l : State := { State.reset with flash := { layers := [(2, { remap := some (3, 8) }), (3, { shrink := [7] })] } }
    let far : State := { s with touched := [rowPa 0 0 2 3 / 2 ^ 21] }
    let halted (s : State) (y : Nat) := (s.core y).st ∉ [.running, .loading, .saving] ∧ (s.ct y).req = 0
    s.stepReady u = true ∧ [3, 511, 512].all (s.mayPattern 0 0 2) = true ∧ [3].all (far.mayPattern 0 0 2) = false ∧
    State.reset.stepReady (.bus 0 5) = true ∧ w.stepReady u = false ∧ w.fen.steps.contains u = true ∧
    (w.fen.subs = [] ∧ (w.sag 0 0 2).busy = false ∧ (w.sag 0 0 2).forced = false ∧ w.affords 0 .test 2 = true ∧
      (busy.sag 0 0 2).busy = true ∧ busy.fen.subs = []) ∧
    ((w.sag 0 0 2).spareRows < 8 ∧ w.flash.records.length < 2048 ∧ 65536 < 528 * 65536 ∧ (w.bank 0 0).spareLanes < 2 ∧
      528 * 65536 ≤ 528 * 65536 + 33 * 65536) ∧
    (d.fen.steps.contains u = true ∧ (d.sag 0 0 2).testing = [3, 511] ∧ d.mem.wf = true) ∧ b.fen.steps.contains (.bus 0 5) = true ∧
    ((l.layer 2).remap = some (3, 8) ∧ (3 : Nat) < 8 ∧ (8 : Nat) < 16 ∧ halted l 19) ∧
    ((l.layer 3).shrink = [7] ∧ (7 : Nat) < 8 ∧ (l.layer 3).stopped = [] ∧ (∀ j, j < 8 → halted l (3 * 8 + j)) ∧
      ∀ t ∈ l.sched.tasks, 3 * 8 + 7 ∉ t.cores) ∧
    ((fenState 65535).fen.scores.get (unitKey 1 0) {}).value ≤ 65535 := by
  refine ⟨by decide +kernel, by decide +kernel, by decide +kernel, by decide +kernel, by decide +kernel, by decide,
    by decide +kernel, ⟨by decide +kernel, by decide, by decide, by decide +kernel, by decide⟩,
    ⟨by decide, by decide +kernel, by decide +kernel⟩, by decide, ⟨rfl, by decide, by decide, by decide +kernel, rfl⟩,
    ⟨rfl, by decide, rfl, by decide +kernel, by simp [State.reset]⟩, by decide +kernel⟩

/-- Core 0 of a task of cores 0 and 1 asks about core 1, and acknowledges notice 4 of its own lease, or notice 5 of another
unit. -/
def capState (eff : Nat) : State :=
  let s := ctState { x := [(5, 1), (6, 4), (7, 5), (8, 6)] } { task := some 3, ctx := 1 }
  let n : Notice := { seq := 4, kind := 0, flags := 1, utype := 1, unit := 0, grace := 500, effTime := eff, sentTo := [0, 1] }
  { s with now := 5000
           sched := { tasks := [aTask [0, 1]] }
           fen := { nextSeq := 6, latest := [(1, 3)], notices := [n, { n with seq := 5, utype := 2 }]
                    leases := [(0, { kind := 1, seq := 4, effTime := eff })] } }

theorem witness_CapacityWords :
    let s := capState 5001
    let d : State := { s with fen := { s.fen with acks := [(0, 5)] } }
    let n : Notice := { seq := 4, kind := 0, flags := 1, utype := 1, unit := 0, grace := 500, effTime := 5001, sentTo := [0, 1] }
    let x : Lease := { kind := 1, seq := 4, effTime := 5001 }
    let rs (a : BitVec 5) := s.rs1 ⟨0, a, 0, 3⟩
    rs 5 = 1 ∧ (s.core 0).task = some (aTask [0, 1]).num ∧ s.task (aTask [0, 1]).num = some (aTask [0, 1]) ∧ 1 ∈ (aTask [0, 1]).cores ∧
    rs 8 = 6 ∧ (s.fen.notices.find? fun y => y.seq == 6 && y.sentTo.contains 0) = none ∧
    rs 7 = 5 ∧ (s.fen.notices.find? fun y => y.seq == 5 && y.sentTo.contains 0) = some { n with seq := 5, utype := 2 } ∧
    s.fen.acks.contains (0, 5) = false ∧ d.fen.acks.contains (0, 5) = true ∧ (3 : BitVec 5) ≠ 0 ∧
    rs 6 = 4 ∧ (s.fen.notices.find? fun y => y.seq == 4 && y.sentTo.contains 0) = some n ∧ n.utype = 1 ∧ n.kind = 0 ∧ n.unit = 0 ∧
    s.fen.leases.find 0 = some x ∧ x.seq = 4 ∧ x.inForce = false ∧ s.capackReady 0 = true ∧ s.now < x.effTime ∧
    (s.ct 0).dcache = [] ∧ (s.ct 0).req = 0 ∧ (∃ y ∈ (aTask [0, 1]).cores, y ≠ 0 ∧ y ∉ (aTask [0, 1]).done) := by
  refine ⟨by decide +kernel, rfl, rfl, by decide, by decide +kernel, by decide +kernel, by decide +kernel, by decide +kernel, rfl,
    rfl, by decide, by decide +kernel, by decide +kernel, rfl, rfl, rfl, rfl, rfl, rfl, by decide +kernel, by decide, rfl, rfl,
    1, by decide, by decide, by decide⟩

theorem witness_PowerEvents :
    let at_ (now : Nat) (p : Power) : State := { State.reset with now := now, power := p }
    (at_ 0 { overFor := 20 }).power.powerTrip = none ∧ (8 : Nat) ∉ (at_ 0 {}).power.thermalTrips ∧
    (at_ 0 { overFor := 19 }).power.overFor < 20 ∧
    (at_ 300000 { powerTrip := some 1 }).power.powerTrip = some 1 ∧ (1 + 2) * 100000 ≤ (at_ 300000 {}).now ∧
    (at_ 299999 {}).now < (1 + 2) * 100000 ∧
    ((at_ 100000 { detWanted := true }).now % 100000 = 0 ∧ (at_ 100000 { detWanted := true }).power.detWanted = true) ∧
    ((at_ 100000 { watts := 3201 }).power.plimit < (at_ 100000 { watts := 3201 }).power.watts) ∧
    ((at_ 100000 { watts := 3200 }).power.watts ≤ (at_ 100000 { watts := 3200 }).power.plimit ∧
      (at_ 100000 {}).power.belowAllPeriod = true) ∧
    (at_ 100000 { belowAllPeriod := false }).power.belowAllPeriod = false ∧ (at_ 99999 {}).now % 100000 ≠ 0 ∧
    (List.replicate 288 25)[287]? = some 25 := by decide

/-- The hottest sensor of stack 7 reads 95, 96, 104 and 105. -/
theorem witness_PowerEvents_heat : ∀ r ∈ [95, 96, 104, 105],
    ({ State.reset with power := { sensors := [(sensorNo 7 8 3, { reading := r })] } } : State).stackHottest 7 = r := by
  decide +kernel

theorem witness_Resets :
    let s := State.reset
    let u : State := { s with flash := { s.flash with firmware := [⟨1, false, 0⟩] } }
    let w : State := { s with power := { retention := true }, bar := { replreq := true }, side := [(5, { badSymbols := 1 })] }
    ((bestSlot s.flash.firmware).isSome = true ∧
      (∀ ty, 1 ≤ ty → ty ≤ 3 → (s.config ty).isSome = true) ∧ s.flash.records = [] ∧ s.finds = []) ∧
    s.power.retention = false ∧ w.power.retention = true ∧ w.msc = [] ∧ w.bar.replreq = true ∧
    bestSlot u.flash.firmware = none := by
  refine ⟨⟨rfl, ?_, rfl, rfl⟩, rfl, rfl, rfl, rfl, rfl⟩
  intro ty h1 h2
  obtain rfl | rfl | rfl : ty = 1 ∨ ty = 2 ∨ ty = 3 := by omega
  all_goals rfl

/-! ## Witnesses: the steps of words in progress, blocks, other modules -/

/-- Hart 0 of core 0 with work in flight, hart 1 too, in gang 3 if it has members. -/
def pendState (p : Option Pend) (q : Option Pend := none) (g : Tab Word := []) (slots : Tab XSlot := []) : State :=
  mapped { State.reset with cores := [(0, { ({} : Core) with
    st := .running
    harts := [(0, { split g with pend := p, slots := slots }), (1, { split [] with pend := q })]
    gangs := [(3, { members := 3 })]
    banks := [(0, { regs := [(2, holding 4 7), (9, holding 4 8)] }), (1, { regs := [(9, holding 4 9)] })] })] }

theorem plain_pend (p q : Option Pend) (g : Tab Word) (slots : Tab XSlot) (pa : Nat) : Plain (pendState p q g slots) pa :=
  plain_fresh rfl rfl rfl rfl rfl pa

theorem plain_mem {s : State} {m : Mem} (h : ∀ pa, Plain s pa) (pa : Nat) : Plain { s with mem := m } pa :=
  ⟨(h pa).awake, (h pa).served, (h pa).still, (h pa).untested, (h pa).good, (h pa).home, (h pa).acked⟩

/-- A block at 0x10040 of memory whose header is good, for a hart that has no block. -/
def blockState : State :=
  let s := memState { split [] with hpc := 0x10040 }
  { s with mem := s.mem.write 0x10040 64 (0xfc400000 + 0x34000000 * 2 ^ 32) }

/-- What an access has read is as `f` says, and the line is good. -/
def onDone (f : State → Nat → Bool) : Acc → Bool
  | .done u v none => f u v
  | _ => false

theorem onDone_eq {f : State → Nat → Bool} {a : Acc} (h : onDone f a = true) : ∃ u v, a = .done u v none ∧ f u v = true := by
  cases a with
  | done u v c => cases c with
    | none => exact ⟨u, v, rfl, h⟩
    | some x => cases h
  | wait u => cases h

/-- The page at which a translation of core 0 finds line 0x10040 of memory. -/
def findsBlock (s : State) : Bool :=
  match s.translateOn 0 false (s.hart 0 0).blockVa .fetch false false with
  | .ok l => linePa (lineOf l.pa) == 0x10040
  | _ => false

/-- The block in memory, and in the hart's cache. -/
theorem witness_WordStepEvents_fetch :
    let s := blockState
    let words := blockWords (s.mem.read 0x10040 64)
    let k := s.setHart 0 0 { s.hart 0 0 with cache := [((s.hart 0 0).blockVa, words)] }
    (s.hart 0 0).st = .split ∧ (s.hart 0 0).pend = none ∧ (s.hart 0 0).blk = [] ∧ findsBlock s = true ∧
    Tab.find (s.hart 0 0).cache (s.hart 0 0).blockVa = none ∧
    (∃ u v, s.readHere (.hart 0 0) (s.hart 0 0).blockVa 0x10040 64 = .done u v none ∧ headerGood ((blockWords v).headD 0) = true) ∧
    findsBlock k = true ∧ Tab.find (k.hart 0 0).cache (k.hart 0 0).blockVa = some words ∧ headerGood (words.headD 0) = true :=
  ⟨rfl, rfl, rfl, by decide +kernel, rfl, onDone_eq (f := fun _ v => headerGood ((blockWords v).headD 0)) (by decide +kernel),
    by decide +kernel, rfl, by decide +kernel⟩

/-- A hart at the word `ldg v9, [v2] by g2` of its block, with the groups of the gather that are given. -/
def gatherAt (left : List Nat) (op : LaneOp) : State :=
  let s := pendState (some (.gather left op))
  s.setHart 0 0 { s.hart 0 0 with blk := [0xfcc00000, (encode (.ldg ⟨9, 2, 2, 0, false, false⟩)).getD 0], hpc := 4 }

theorem witness_WordStepEvents :
    let op : LaneOp := { word := 5, d := some 9, todo := [{ g := 1, elems := [(0, 5)] }], buf := [] }
    let done : LaneOp := { op with todo := [], buf := [{ g := 0, elems := [(0, 5)] }, { g := 1, elems := [(1, 5)] }] }
    let p (x : Pend) (y : Option Pend := none) := ((pendState x y).hart 0 0).pend
    let o : LDo := ⟨3, 4, 8, false, false, 3⟩
    let s := pendState (some (.column (.ld o))) none [(4, 0x8000)]
    let x : XSlot := { busy := true, src := [(65, 16384)], dst := [(65, 8192)] }
    let u := pendState none none [] [(1, x)]
    (p (.lane op) = some (.lane op) ∧ ((pendState (some (.lane op))).hart 0 0).young = []) ∧
    op.again = false ∧ op.todo = [{ g := 1, elems := [(0, 5)] }] ∧ op.buf.length < 16 ∧
    done.todo = [] ∧ done.buf.tail ≠ [] ∧ done.again = false ∧ ({ done with again := true } : LaneOp).again = true ∧
    p (.sense 2 16384 none) = some (.sense 2 16384 none) ∧ p (.capture 2 16384 false none) = some (.capture 2 16384 false none) ∧
    p (.capture 2 16384 true none) = some (.capture 2 16384 true none) ∧
    p (.rowWrite 2 16384 7 [] none) = some (.rowWrite 2 16384 7 [] none) ∧
    (((gatherAt [2] op).hart 0 0).pend = some (.gather [2] op) ∧
      decodeHart ((gatherAt [2] op).wordAt 0 0) = .ok (.ldg ⟨9, 2, 2, 0, false, false⟩) ∧ (gatherForm (.ldg ⟨9, 2, 2, 0, false, false⟩)).isSome = true ∧
        op.todo.find? (fun x => x.g == 1) = some { g := 1, elems := [(0, 5)] }) ∧
    ((s.hart 0 0).pend = some (.column (.ld o)) ∧ ((s.hart 0 0).greg 4 + (8 : BitVec 12).signExtend 64).toNat = 0x8008 ∧
      s.colAt 0 false 0x8008 8 true false = .ok (.here 0x8008) ∧ s.busHeld (.hart 0 0) = false ∧ Plain s 0x8008 ∧ o.d ≠ 0) ∧
    (p (.send 2 0 1 3) (some (.recv 9 0 0 3)) = some (.send 2 0 1 3) ∧
      ((pendState (some (.send 2 0 1 3)) (some (.recv 9 0 0 3))).hart 0 1).pend = some (.recv 9 0 0 3) ∧
      ((pendState (some (.send 2 0 1 3)) (some (.recv 9 0 0 3))).reg 0 0 2).conds = []) ∧
    (let t := pendState (some (.twill 0 2 9 1)) (some (.twill 0 2 9 1));
      (t.gang 0 3).banks = [0, 1] ∧ ∀ y ∈ (t.gang 0 3).banks,
        (t.core 0).gangOf y = some 3 ∧ (t.hart 0 y).pend = some (.twill 0 2 9 1) ∧ (t.reg 0 y 9).conds = []) ∧
    (((u.hart 0 0).slot 1) = x ∧ x.pos = 0 ∧ x.got = [] ∧ x.posted = false ∧ 8192 + 8192 ≤ 16384 ∧ 16384 % 8192 = 0 ∧
      u.mem.wf = true ∧ u.busHeld (.copy 0 0 1) = false ∧ (∀ x, u.affords x .fabric 1 = true) ∧ ∀ pa, Plain u pa) := by
  refine ⟨⟨rfl, rfl⟩, rfl, rfl, by decide, rfl, by decide, rfl, rfl, rfl, rfl, rfl, rfl,
    ⟨rfl, by decide +kernel, rfl, rfl⟩,
    ⟨rfl, by decide +kernel, by decide +kernel, by decide +kernel, plain_pend _ _ _ _ _, by decide⟩, ⟨rfl, rfl, rfl⟩, by decide +kernel,
    ⟨rfl, rfl, rfl, rfl, by decide, by decide, by decide +kernel, by decide +kernel,
      fun x => (affords_fresh rfl rfl x).1, plain_pend _ _ _ _⟩⟩

/-- Gang 1 of harts 2, PARKED, and 3, with a block queued; gang 2 runs a block, at word `pos`. -/
def gangsState (pos : Nat) (st : HState := .parked) : State :=
  let words := 0xfc400000 :: List.replicate 15 0
  { State.reset with cores := [(0, { ({} : Core) with
    st := .running
    harts := [(2, { Hart.init 2 with st := st }), (3, Hart.init 3), (6, { Hart.init 6 with st := .member })]
    gangs := [(1, { members := 12, queue := [⟨words, 0x2000, 7⟩] }),
              (2, { members := 64, run := some { words := words, va := 0x2000, seq := 7, pos := pos, parts := [6] } })] })] }

theorem witness_BlockEvents :
    let words := 0xfc400000 :: List.replicate 15 0
    let s := gangsState 1
    let u := gangsState 2
    s.canStart 0 1 = true ∧ (s.gang 0 1).queue = [⟨words, 0x2000, 7⟩] ∧ 1 ≤ headerLen (words.headD 0) ∧
    (gangsState 1 .split).canStart 0 1 = false ∧
    (u.gang 0 2).run = some { words := words, va := 0x2000, seq := 7, pos := 2, parts := [6] } ∧ headerLen (words.headD 0) < 2 ∧
    (∀ b ∈ [6], (u.hart 0 b).quiet = true) ∧ 1 ≤ headerLen (words.headD 0) := by
  and_intros <;> decide +kernel

/-- This module as at reset, with line 0x1000 of it in the given sideband, in a domain of modules. -/
def homeState (x : Side) (domain : BitVec 64 := 0) : State :=
  { State.reset with mem := [(0x40000, 7)], side := [(0x1000, x)], flash := { State.reset.flash with domain := domain } }

theorem plain_home (x : Side) (hg : x.cond = none) (hs : x.state = 0) (pa : Nat) : Plain (homeState x) pa where
  awake := (plain_reset pa).awake
  served := (plain_reset pa).served
  still := (plain_reset pa).still
  untested := (plain_reset pa).untested
  good := by
    by_cases h : 0x1000 = lineOf pa
    · simp [homeState, State.sideOf, Tab.get, Tab.find, h, hg]
    · simp [homeState, State.sideOf, Tab.get, Tab.find, h, Side.cond]
  home := by
    by_cases h : 0x1000 = lineOf pa
    · simp [homeState, State.sideOf, Tab.get, Tab.find, h, hs]
    · simp [homeState, State.sideOf, Tab.get, Tab.find, h]
  acked := (plain_reset pa).acked

theorem witness_HomeRequests :
    let s := homeState { state := 1 }
    let u := homeState {}
    let v := homeState { state := 1 } 0x201
    let m := homeState { state := 4, owner := some 9 }
    let pa := linePa 0x1000
    let free (s : State) (a : Nat) := s.remoteQ = [] ∧ s.firsts = [] ∧ s.affordsAt a .fabric 1 = true ∧ s.portHeld 9 = false ∧
      s.rowWriting a = false ∧ s.unacked (lineOf a) = []
    (free s pa ∧ s.mscFree pa = true ∧ s.asleep pa = false ∧ s.unserved pa = false ∧ s.rowTested pa = false ∧
      (s.sideOf 0x1000).cond = none ∧ (s.sideOf 0x1000).state = 1) ∧
    (free u pa ∧ u.mscFree pa = true ∧ Plain u pa ∧ u.rowHeld pa = false ∧ free u 0x40008 ∧ Plain u 0x40008) ∧
    (free v pa ∧ v.asleep pa = false ∧ v.sensing pa = false ∧ v.rowHeld pa = false ∧ (v.sideOf 0x1000).state = 1 ∧
      v.others ≠ [] ∧ ∀ m ∈ v.others, v.portHeld m = false) ∧
    (free m pa ∧ m.asleep pa = false ∧ m.unserved pa = false ∧ m.sensing pa = false ∧ (m.sideOf 0x1000).state = 4 ∧
      (m.sideOf 0x1000).owner = some (BitVec.ofNat 6 9)) := by
  refine ⟨by decide +kernel, ⟨by decide +kernel, by decide +kernel, plain_home _ rfl rfl _, by decide +kernel, by decide +kernel,
    plain_home _ rfl rfl _⟩, by decide +kernel, by decide +kernel⟩

/-- A line of module 9 held here, and what hart 0 and its word wait for. -/
def heldLine (st : Held4) (r : Option Req := none) : State :=
  let s := pendState (some (.column (.ld ⟨3, 4, 0, false, false, 3⟩)))
  { s.setHart 0 0 { s.hart 0 0 with req := r } with rlines := [(9 * 2 ^ 34 + 0x1000, ⟨st, 5, false, 0⟩)] }

theorem witness_HeldLineEvents :
    let s := heldLine .m
    let rd : Req := ⟨0x8000, 9, linePa 0x2000, false, msgRead⟩
    let iv : Req := ⟨0x8000, 9, linePa 0x2000, false, msgInvalidate⟩
    let ho : Req := ⟨0x8000, 0, 0x5000, true, 16⟩
    let k : State := { heldLine .m iv with invals := [(0x2000, 9)], side := [(0x2000, { state := 1 })] }
    (s.rlines.find (9 * 2 ^ 34 + 0x1000) = some ⟨.m, 5, false, 0⟩ ∧ 0x1000 < 2 ^ 34 ∧ 9 ≠ s.flash.modId.toNat ∧ s.portHeld 9 = false) ∧
    ((heldLine .e).rlines.find (9 * 2 ^ 34 + 0x1000) = some ⟨.e, 5, false, 0⟩) ∧
    (0 = s.flash.modId.toNat ∧ s.sensing (linePa 0x1000) = false) ∧
    (((heldLine .m rd).hart 0 0).req = some rd ∧ (heldLine .m rd).remoteQ = [] ∧ (heldLine .m rd).hostq = []) ∧
    ((k.hart 0 0).req = some iv ∧ k.invals = [(0x2000, 9)] ∧ (k.sideOf 0x2000).state = 1 ∧ k.remoteQ = [] ∧ k.hostq = []) ∧
    (((heldLine .m rd).hart 0 0).pend = some (.column (.ld ⟨3, 4, 0, false, false, 3⟩)) ∧ rd.host = false ∧ rd.invals = false) ∧
    ((k.hart 0 0).pend = some (.column (.ld ⟨3, 4, 0, false, false, 3⟩)) ∧ iv.invals = true ∧ k.unacked iv.invalKey = [9]) ∧
    ((heldLine .m ho).hart 0 0).req = some ho ∧ ho.host = true :=
  ⟨⟨rfl, by decide, by decide, rfl⟩, rfl, ⟨rfl, by decide +kernel⟩, ⟨rfl, rfl, rfl⟩, ⟨rfl, rfl, rfl, rfl, rfl⟩,
    ⟨rfl, rfl, rfl⟩, ⟨rfl, by decide, by decide⟩, rfl, rfl⟩

theorem witness_ManagementCommands :
    let s := State.reset
    let u : State := { s with bar := { rcause := 2 } }
    let a : Slot := ⟨1, true, 5⟩
    let f : State := { s with flash := { s.flash with firmware := [⟨3, true, 7⟩, a], running := some 5 } }
    s.bar.rcause ≠ 2 ∧ 1000 ≤ 1000 ∧ 999 < 1000 ∧ 3200 < 3201 ∧ s.flash.log.length < 4096 ∧ u.bar.rcause = 2 ∧
    f.flash.running = some 5 ∧ a ∈ f.flash.firmware ∧ a.ok = true ∧ a.hash = 5 := by
  refine ⟨by decide, by decide, by decide, by decide, by decide, rfl, rfl, List.mem_cons_of_mem _ (List.mem_cons_self ..), rfl, rfl⟩

/-! ## Witnesses: steps -/

/-- A hart whose block is at 0x10040, of the one word ADD g0, g0, g0, alone on the agenda. -/
def stepBlock : Nat := 0xfc400000 + 0x04000000 * 2 ^ 32

theorem plain_placed {s : State} {m : Mem} {a : List Turn} (h : ∀ pa, Plain s pa) (pa : Nat) :
    Plain { s with mem := m, agenda := a } pa :=
  ⟨(h pa).awake, (h pa).served, (h pa).still, (h pa).untested, (h pa).good, (h pa).home, (h pa).acked⟩

def hartStep (blk : List Nat) (va : BitVec 48) : State :=
  let s := memState { split [] with hpc := va, blk := blk }
  { s with mem := s.mem.write 0x10040 64 stepBlock, agenda := [.hart 0 0 true], bar := { ready := true } }

theorem witness_StepRunsDecoded_hart :
    let words := blockWords stepBlock
    let s := hartStep words 0x10044
    let u := hartStep [] 0x10040
    let k := u.setHart 0 0 { u.hart 0 0 with cache := [((u.hart 0 0).blockVa, words)] }
    let u1 : State := { u with agenda := [], actCore := 0, actBank := 0, actGang := none, stepwise := false }
    (s.agenda = [.hart 0 0 true] ∧ (s.core 0).engine = [] ∧ (∀ e ∈ (s.hart 0 0).slots, e.2.busy = false) ∧
      (s.core 0).st = .running ∧ (s.hart 0 0).st = .split ∧ (s.hart 0 0).pend = none ∧ (s.hart 0 0).young = [] ∧
      (s.hart 0 0).after = 0 ∧ (s.hart 0 0).dying = false ∧ (s.hart 0 0).far = none ∧ (s.hart 0 0).blk = words ∧ words ≠ [] ∧ 1 = (s.hart 0 0).wordIdx ∧
      (s.ct 0).breaks 0 (s.hart 0 0).blockVa 1 false 0 = none ∧ 1 ≤ headerLen (words.headD 0)) ∧
    ((u.hart 0 0).blk = [] ∧ 1 = (if (u.hart 0 0).wordIdx = 0 then 1 else (u.hart 0 0).wordIdx) ∧ findsBlock u = true ∧
      Tab.find (u.hart 0 0).cache (u.hart 0 0).blockVa = none ∧
      ∃ t v, u1.readHere (.hart 0 0) (u.hart 0 0).blockVa 0x10040 64 = .done t v none ∧
        (decide (blockWords v = words) && decide (t.hart 0 0 = u.hart 0 0) && !t.checking 0 &&
          decide ((t.ct 0).bpa = (u.ct 0).bpa) && decide ((t.ct 0).bpm = (u.ct 0).bpm)) = true) ∧
    (findsBlock k = true ∧ Tab.find (k.hart 0 0).cache (k.hart 0 0).blockVa = some words ∧ headerGood (words.headD 0) = true) ∧
    0x04000000 = words.getD 1 0 ∧ endsBlock 0x04000000 = false := by
  refine ⟨⟨rfl, rfl, by decide +kernel, rfl, rfl, rfl, rfl, rfl, rfl, rfl, rfl, by decide +kernel, by decide +kernel, by decide +kernel,
    by decide +kernel⟩, ⟨rfl, by decide +kernel, by decide +kernel, rfl, ?_⟩, ⟨by decide +kernel, rfl, by decide +kernel⟩,
    by decide +kernel, by decide +kernel⟩
  exact onDone_eq (f := fun t v => decide (blockWords v = blockWords stepBlock) &&
    decide (t.hart 0 0 = (hartStep [] 0x10040).hart 0 0) && !t.checking 0 &&
    decide ((t.ct 0).bpa = ((hartStep [] 0x10040).ct 0).bpa) && decide ((t.ct 0).bpm = ((hartStep [] 0x10040).ct 0).bpm))
    (by decide +kernel)

theorem witness_StepRunsDecoded_word : decodeHart 0x04000000 = .ok (.add ⟨0, 0, 0, false⟩) := by decide +kernel

/-- A load whose data has not come, at the word of its hart's block. -/
theorem witness_StepRunsDecoded_inProgress :
    let o : LDo := ⟨3, 4, 8, false, false, 3⟩
    let p := pendState (some (.column (.ld o))) none [(4, 0x8000)]
    let s : State := { p.setHart 0 0 { p.hart 0 0 with blk := [0xfcc00000, (encode (.ld o)).getD 0], hpc := 4 } with
      agenda := [.hart 0 0 false] }
    let s1 : State := { s with agenda := [], actCore := 0, actBank := 0, actGang := none, stepwise := true }
    let s3 := s1.goAhead 0 [0] [] false
    s.agenda = [.hart 0 0 false] ∧ (s3.core 0).st = .running ∧ (s.hart 0 0).st = .split ∧ (s3.hart 0 0).st = .split ∧
    (s3.hart 0 0).pend ≠ none ∧ (s3.hart 0 0).dying = false ∧ (s3.hart 0 0).far = none ∧ decodeHart (s3.wordAt 0 0) = .ok (.ld o) := by
  decide +kernel

/-- A module whose firmware runs: its `checking` flag is clear (R89). -/
theorem witness_StepRunsDecoded_up :
    let s : State := { State.reset with bar := { ready := true } }
    s.checking 0 = false := by decide +kernel

/-- A gang whose one member is at a word with nothing in progress, alone on the agenda, and one whose member has begun it. -/
def gangStep (pend : Option Pend) : State :=
  let r : Running := { words := blockWords stepBlock, va := 0x2000, seq := 7, pos := 1, parts := [6] }
  { State.reset with agenda := [.gang 0 2 true], bar := { ready := true }, cores := [(0, { ({} : Core) with
    st := .running, harts := [(6, { Hart.init 6 with st := .member, pend := pend })]
    gangs := [(2, { members := 64, run := some r })] })] }

theorem witness_StepRunsDecoded_gang : ∀ pend ∈ [none, some Pend.done],
    let words := blockWords stepBlock
    let r : Running := { words := words, va := 0x2000, seq := 7, pos := 1, parts := [6] }
    let s := gangStep pend
    let s2 : State := { s with agenda := [], actCore := 0, actGang := some 2, stepwise := false }
    let t := s2.goAhead 0 r.parts r.done true
    (s.agenda = [.gang 0 2 true] ∧ s.running 0 2 = some r ∧ r.todo ≠ [] ∧ (s.gang 0 2).banks = [6] ∧
      (s.core 0).engine = [] ∧ ∀ e ∈ (s.hart 0 6).slots, e.2.busy = false) ∧
    ((s2.core 0).st = .running ∧ s2.checking 0 = false ∧ r.done = [] ∧ (pend = none → (s.hart 0 6).pend = none) ∧
      (s.hart 0 6).young = []) ∧
    (t.running 0 2 = some r ∧ (t.core 0).st = .running ∧ t.checking 0 = false ∧ (t.hart 0 6).dying = false ∧
      (s2.hart 0 6).dying = false) ∧
    (∀ y ∈ r.todo, (t.ct 0).breaks y r.va 1 r.repact r.repi.toNat = none ∧ (s2.ct 0).breaks y r.va 1 r.repact r.repi.toNat = none) := by
  decide +kernel

theorem witness_StepRunsDecoded_ct :
    let c := ctState {}
    let s : State := { c with agenda := [.ct 0], mem := c.mem.write 0x1000 4 0x10500073 }
    let here : State := { s with agenda := [], actCore := 0 }
    let k : State := s.setCt 0 { s.ct 0 with icache := [(0x1000 / 64, 0x10500073)] }
    s.agenda = [.ct 0] ∧ (s.ct 0).running = true ∧ (s.core 0).st = .running ∧ (s.ct 0).pc.toNat % 64 ≤ 60 ∧
    (match s.translateOn 0 (s.mach 0) (s.ct 0).pc.toNat .fetch false false with
      | .ok l => linePa (lineOf l.pa) == 0x1000
      | _ => false) = true ∧
    (s.ct 0).icache.find ((s.ct 0).pc.toNat / 64) = none ∧
    (∃ u v, here.readHere (.ct 0) (s.ct 0).pc.toNat 0x1000 64 = .done u v none ∧ (fld v 0 32 == 0x10500073 &&
      match u.translateOn 0 (u.mach 0) 0x1002 .fetch false false with
      | .ok _ => true
      | _ => false) = true) ∧
    (k.ct 0).icache.find ((k.ct 0).pc.toNat / 64) = some 0x10500073 ∧ fld 0x10500073 0 32 = 0x10500073 ∧
    0x10500073 % 4 = 3 ∧ (decodeCt 0x10500073).isSome = true ∧
    (expandC 0x9002).isSome = true ∧ 0x9002 % 4 ≠ 3 ∧ ((expandC 0x9002).bind decodeCt).isSome = true :=
  ⟨rfl, rfl, rfl, by decide +kernel, by decide +kernel, rfl, onDone_eq (f := fun u v => fld v 0 32 == 0x10500073 &&
      match u.translateOn 0 (u.mach 0) 0x1002 .fetch false false with
      | .ok _ => true
      | _ => false) (by decide +kernel), by decide +kernel, by decide +kernel,
    by decide, by decide +kernel, by decide +kernel, by decide, by decide +kernel⟩

/-- A turn of something from outside, and hub time. -/
theorem witness_StepRunsDecoded_outside :
    ({ State.reset with agenda := [.outside (.barRead 0 0)] } : State).agenda = [.outside (.barRead 0 0)] ∧
    ({ State.reset with agenda := [.tick 5] } : State).agenda = [.tick 5] := ⟨rfl, rfl⟩

theorem witness_DecodeEncode :
    (Instr.add ⟨3, 5, 5, false⟩).wf = true ∧ encode (.add ⟨3, 5, 5, false⟩) = some 0x04d54000 := by decide +kernel

theorem witness_StepKeepsMemory :
    let s : State := { State.reset with agenda := [.event .ctWfi], mem := [(3, 4)] }
    s.mem.wf = true ∧ gives (step s) (fun t => t.mem == [(3, 4)]) = true := by
  refine ⟨by decide, by decide +kernel⟩

end Sys2Proof.Tests
end

section
/-! # Memory keeps its canonical form (O59)

Memory is written by few functions of the model: those that end in `Mem.write` or `Mem.place`, which keep the form
(`Mem.wf_write`, `Mem.wf_place`). Every function that returns a state has one lemma here, in the order of the model's
files: `f_mem` where it leaves memory as it is, `f_wf` where it may write it and keeps the form. The answers of
several outcomes (`Acc`, `HRes`, `XRes`, …) carry their state by a projection `state`, so that one equation covers
all outcomes. -/

namespace Sys2Proof.Machine

-- One declaration at a time: some seven hundred elaborated side by side need more threads than the check's memory holds.
set_option Elab.async false

/-! ### The state that an answer carries -/

def Acc.state : Acc → State
  | .done s _ _ => s
  | .wait s => s

def HRes.state : HRes → State
  | .ok s _ => s
  | .wait s => s
  | .work s => s
  | .trap s _ _ _ => s

def CtAcc.state : CtAcc → State
  | .done s _ => s
  | .wait s => s
  | .trap s _ _ => s

def XRes.state : XRes → State
  | .done s _ => s
  | .wait s => s
  | .trap s _ _ => s

def Found.state {α : Type} : Found α → State
  | .ok s _ => s
  | .no s => s
  | .wait s => s

def AreaRead.state : AreaRead → State
  | .good s => s
  | .bad s => s
  | .wait s => s

def Next.state : Next → State
  | .run s _ => s
  | .settled s => s

/-! ### Folds over states -/

@[simp] theorem foldl_mem {α : Type} {f : State → α → State} (h : ∀ s a, (f s a).mem = s.mem) (l : List α)
    (s : State) : (l.foldl f s).mem = s.mem := by
  induction l generalizing s with
  | nil => rfl
  | cons a l ih => rw [List.foldl_cons, ih, h]

theorem wf_of_mem {s t : State} (e : t.mem = s.mem) (h : s.mem.wf = true) : t.mem.wf = true := by
  rwa [e]

theorem foldl_wf {α : Type} {f : State → α → State} (hf : ∀ s a, s.mem.wf = true → (f s a).mem.wf = true)
    (l : List α) {s : State} (h : s.mem.wf = true) : (l.foldl f s).mem.wf = true := by
  induction l generalizing s with
  | nil => exact h
  | cons a l ih => exact ih (hf s a h)

/-! ### State -/

@[simp] theorem State.sendAll_mem (s : State) (l : List Out) : (s.sendAll l).mem = s.mem := by
  simp [State.sendAll]

@[simp] theorem State.sendHeld_mem (s : State) : s.sendHeld.mem = s.mem := by
  simp [State.sendHeld]

/-! ### Log -/

@[simp] theorem State.traceMeet_mem (s : State) (c kind value : Nat) : (s.traceMeet c kind value).mem = s.mem := by
  grind [State.traceMeet, State.setCore_mem]

@[simp] theorem State.logEvent_mem (s0 : State) (code src core : Nat) (detail value : Nat) :
    (s0.logEvent code src core detail value).mem = s0.mem := by
  grind [State.logEvent, State.traceMeet_mem]

@[simp] theorem State.logHub_mem (s : State) (code detail : Nat) : (s.logHub code detail).mem = s.mem := by
  simp [State.logHub]

@[simp] theorem State.setScore_mem (s : State) (utype n : Nat) (x : Score) : (s.setScore utype n x).mem = s.mem := rfl

@[simp] theorem State.addScore_mem (s : State) (utype n pts : Nat) : (s.addScore utype n pts).mem = s.mem := rfl

@[simp] theorem State.traceAdd_mem (s0 : State) (c b kind value : Nat) :
    (s0.traceAdd c b kind value).mem = s0.mem := by
  grind [State.traceAdd, State.setCore_mem, State.traceMeet_mem]

/-! ### Budget -/

@[simp] theorem State.charge_mem (s : State) (c : Nat) (k : Class) (clk : Nat) : (s.charge c k clk).mem = s.mem := by
  grind [State.charge]

@[simp] theorem State.chargeMgmt_mem (s : State) (c clk : Nat) : (s.chargeMgmt c clk).mem = s.mem := rfl

/-! ### Sideband -/

@[simp] theorem State.setSide_mem (s : State) (line : Nat) (x : Side) : (s.setSide line x).mem = s.mem := rfl

/-! ### Column -/

@[simp] theorem State.mapRemote_mem (s : State) (src line : Nat) (f : RemoteOp → RemoteOp) :
    (s.mapRemote src line f).mem = s.mem := rfl

@[simp] theorem State.setReq_mem (s : State) (w : Waiter) (r : Option Req) : (s.setReq w r).mem = s.mem := by
  unfold State.setReq; split <;> simp

@[simp] theorem State.setHostData_mem (s : State) (w : Waiter) (t : Tab Nat) : (s.setHostData w t).mem = s.mem := by
  unfold State.setHostData; split <;> simp

@[simp] theorem State.sendInvals_mem (s : State) (kind key : Nat) (ms : List Nat) :
    (s.sendInvals kind key ms).mem = s.mem := by
  simp [State.sendInvals]

@[simp] theorem State.chargeAt_mem (s : State) (pa : Nat) (k : Class) (clk : Nat) :
    (s.chargeAt pa k clk).mem = s.mem := by
  grind [State.chargeAt, State.charge_mem]

@[simp] theorem State.post_mem (s : State) (w : Waiter) (r : Req) (m : Out) : (s.post w r m).mem = s.mem := by
  grind [State.post, State.send_mem, State.setReq_mem, State.sendInvals_mem, State.chargeAt_mem]

@[simp] theorem State.request_mem (s : State) (w : Waiter) (r : Req) (m : Out) : (s.request w r m).mem = s.mem := by
  grind [State.request, State.post_mem]

@[simp] theorem State.keepRequest_mem (s s' : State) (w : Waiter) : (s.keepRequest s' w).mem = s.mem := by
  grind [State.keepRequest, State.post_mem]

@[simp] theorem State.unitWait_mem (s : State) (utype n : Nat) : (s.unitWait utype n).mem = s.mem := by
  grind [State.unitWait]

@[simp] theorem State.unitUsed_mem (s : State) (utype n : Nat) : (s.unitUsed utype n).mem = s.mem := by
  grind [State.unitUsed]

@[simp] theorem State.accessUnits_mem (s : State) (pa : Nat) : (s.accessUnits pa).mem = s.mem := by
  simp [State.accessUnits]

@[simp] theorem State.accessWait_mem (s : State) (w : Waiter) (pa : Nat) : (s.accessWait w pa).mem = s.mem := by
  grind [State.accessWait, State.unitWait_mem]

@[simp] theorem State.revokeWords_mem (s : State) (self : Option Nat) (a n : Nat) :
    (s.revokeWords self a n).mem = s.mem := rfl

@[simp] theorem State.disownLine_mem (s : State) (a : Nat) : (s.disownLine a).mem = s.mem := rfl

@[simp] theorem State.disownLines_mem (s : State) (a n : Nat) : (s.disownLines a n).mem = s.mem := by
  unfold State.disownLines
  refine foldl_mem (fun _ _ => ?_) _ _
  grind [State.disownLine_mem]

@[simp] theorem State.mscEvict_mem (s : State) (key : Nat) : (s.mscEvict key).mem = s.mem := by
  grind [State.mscEvict, State.send_mem, State.disownLine_mem]

@[simp] theorem State.mscRoom_mem (s : State) (key : Nat) : (s.mscRoom key).mem = s.mem := by
  grind [State.mscRoom, State.mscEvict_mem]

@[simp] theorem State.mscFill_mem (s : State) (line : Nat) : (s.mscFill line).mem = s.mem := by
  grind [State.mscFill, State.mscRoom_mem]

@[simp] theorem State.markDirty_mem (s : State) (line : Nat) : (s.markDirty line).mem = s.mem := by
  grind [State.markDirty, State.mscFill_mem]

@[simp] theorem State.touchPage_mem (s : State) (pa : Nat) : (s.touchPage pa).mem = s.mem := by
  grind [State.touchPage]

@[simp] theorem State.mergeData_wf (s : State) (pa n v : Nat) (h : s.mem.wf = true) :
    (s.mergeData pa n v).mem.wf = true := by
  simpa [State.mergeData] using Mem.wf_write h ..

@[simp] theorem State.mergeHere_wf (s : State) (pa n v : Nat) (h : s.mem.wf = true) :
    (s.mergeHere pa n v).mem.wf = true := by
  grind [State.mergeHere, State.logHub_mem, State.mergeData_wf]

@[simp] theorem State.writeHere_wf (s : State) (self : Option Nat) (pa n v : Nat) (h : s.mem.wf = true) :
    (s.writeHere self pa n v).mem.wf = true := by
  simp [State.writeHere, h]

@[simp] theorem State.e2eFound_mem (s : State) (w : Waiter) (pa : Nat) : (s.e2eFound w pa).mem = s.mem := by
  unfold State.e2eFound
  repeat' split
  all_goals simp

theorem State.foundHere_mem (s : State) (w : Waiter) (pa n : Nat) (x : Side) :
    (s.foundHere w pa n x).state.mem = s.mem := by
  grind [State.foundHere, Acc.state, State.accessUnits_mem, State.mscFill_mem, State.e2eFound_mem]

@[simp] theorem State.hadFirst_mem (s : State) (w : Waiter) (line : Nat) : (s.hadFirst w line).mem = s.mem := by
  grind [State.hadFirst]

theorem State.readHere_mem (s : State) (w : Waiter) (va pa n : Nat) : (s.readHere w va pa n).state.mem = s.mem := by
  grind [State.readHere, Acc.state, State.setHostData_mem, State.request_mem, State.accessWait_mem,
    !. State.foundHere_mem, State.hadFirst_mem]

@[simp] theorem State.walkRequest_mem (s : State) (w : Waiter) (detail : Nat) :
    (s.walkRequest w detail).mem = s.mem := by
  simp [State.walkRequest]

theorem State.ownHere_mem (s : State) (w : Waiter) (va pa : Nat) {t : State} (e : s.ownHere w va pa = some t) :
    t.mem = s.mem := by
  grind [State.ownHere, State.request_mem]

@[simp] theorem State.dropShared_mem (s : State) (line : Nat) : (s.dropShared line).mem = s.mem := by
  grind [State.dropShared, State.setSide_mem]

@[simp] theorem State.setPosted_mem (s : State) (w : Waiter) (v : Bool) : (s.setPosted w v).mem = s.mem := by
  unfold State.setPosted; split <;> simp

theorem State.hostSettled_mem (s : State) (need : Bool) (w : Waiter) (va : Nat) :
    (s.hostSettled need w va).state.mem = s.mem := by
  grind [State.hostSettled, Acc.state, State.setHostData_mem, State.request_mem, State.setPosted_mem]

@[simp] theorem State.ownWait_mem (s : State) (w : Waiter) : (s.ownWait w).mem = s.mem := by
  grind [State.ownWait, State.unitWait_mem]

theorem State.load_mem (s : State) (w : Waiter) (va : Nat) (p : Place) (n : Nat) :
    (s.load w va p n).state.mem = s.mem := by
  cases p <;> grind [State.load, Acc.state, State.chargeAt_mem, State.readHere_mem, State.ownWait_mem,
    State.accessWait_mem, State.request_mem, State.setHostData_mem]

theorem State.store_wf (s : State) (w : Waiter) (self : Option Nat) (va : Nat) (p : Place) (n v : Nat)
    (h : s.mem.wf = true) : (s.store w self va p n v).state.mem.wf = true := by
  cases p <;> grind [State.store, Acc.state, State.ownWait_mem, State.touchPage_mem, State.accessWait_mem,
    → State.ownHere_mem, State.hadFirst_mem, State.writeHere_wf, State.dropShared_mem, State.request_mem,
    State.revokeWords_mem, State.setPosted_mem, State.send_mem]

theorem State.atomic_wf (s : State) (w : Waiter) (self : Option Nat) (va : Nat) (p : Place) (n op b x : Nat)
    (sys : Bool) (h : s.mem.wf = true) : (s.atomic w self va p n op b x sys).state.mem.wf = true := by
  cases p <;> grind [State.atomic, Acc.state, State.ownWait_mem, State.touchPage_mem, State.accessWait_mem,
    → State.ownHere_mem, !. State.readHere_mem, State.writeHere_wf, State.dropShared_mem, State.request_mem,
    State.revokeWords_mem, State.setHostData_mem]

/-! ### Latch -/

@[simp] theorem State.sagWait_mem (s : State) (c b k : Nat) : (s.sagWait c b k).mem = s.mem := by
  simp [State.sagWait]

@[simp] theorem State.setSagBusy_mem (s : State) (c b k : Nat) (v : Bool) : (s.setSagBusy c b k v).mem = s.mem := rfl

@[simp] theorem State.useSag_mem (s : State) (c b k : Nat) : (s.useSag c b k).mem = s.mem := by
  simp [State.useSag]

theorem State.recallRead_mem (s : State) (c b k pa : Nat) {t : State} (e : s.recallRead c b k pa = some t) :
    t.mem = s.mem := by
  grind [State.recallRead, State.charge_mem, State.useSag_mem]

@[simp] theorem State.hadRow_mem (s : State) (pa : Nat) : (s.hadRow pa).mem = s.mem := by
  grind [State.hadRow]

theorem State.recallRow_inl {s : State} {c b k va pa : Nat} {t : State} (e : s.recallRow c b k va pa = .inl t) :
    t.mem = s.mem := by
  grind [State.recallRow, → State.recallRead_mem, State.hadRow_mem, State.request_mem]

theorem State.recallRow_inr {s : State} {c b k va pa : Nat} {t : State} (e : s.recallRow c b k va pa = .inr t) :
    t.mem = s.mem := by
  grind [State.recallRow, → State.recallRead_mem, State.hadRow_mem, State.request_mem]

@[simp] theorem State.writeBackRow_mem (s : State) (pa : Nat) : (s.writeBackRow pa).mem = s.mem := rfl

theorem State.rowOut_mem (s : State) (c b va pa : Nat) {t : State} (e : s.rowOut c b va pa = some t) :
    t.mem = s.mem := by
  grind [State.rowOut, State.request_mem]

@[simp] theorem State.discardRow_mem (s : State) (pa : Nat) : (s.discardRow pa).mem = s.mem := by
  simp [State.discardRow]

@[simp] theorem State.putRow_wf (s : State) (pa bits : Nat) (conds : Tab LineCond) (h : s.mem.wf = true) :
    (s.putRow pa bits conds).mem.wf = true := by
  simpa [State.putRow] using Mem.wf_place h ..

@[simp] theorem State.writeRow_wf (s : State) (pa bits : Nat) (conds : Tab LineCond) (h : s.mem.wf = true) :
    (s.writeRow pa bits conds).mem.wf = true := by
  simp [State.writeRow, h]

@[simp] theorem State.endCapture_mem (s : State) (c b k pa : Nat) (close : Bool) :
    (s.endCapture c b k pa close).mem = s.mem := rfl

@[simp] theorem State.closeLatch_mem (s : State) (c b k : Nat) : (s.closeLatch c b k).mem = s.mem := rfl

/-! ### Lanes -/

@[simp] theorem State.beginWrite_mem (s : State) (c b r egi : Nat) : (s.beginWrite c b r egi).mem = s.mem := rfl

@[simp] theorem State.endWrite_mem (s : State) (c b r : Nat) : (s.endWrite c b r).mem = s.mem := rfl

@[simp] theorem State.addUnchecked_mem (s : State) (c : Nat) : (s.addUnchecked c).mem = s.mem := by
  grind [State.addUnchecked]

@[simp] theorem State.dropStage_mem (s : State) (c b r : Nat) : (s.dropStage c b r).mem = s.mem := by
  grind [State.dropStage, State.setCore_mem]

@[simp] theorem State.commitReg_mem (s : State) (c b w r : Nat) (g : Grp) : (s.commitReg c b w r g).mem = s.mem := by
  simp [State.commitReg]

@[simp] theorem State.commitRegs_mem (s : State) (c b : Nat) (op : LaneOp) (g : Grp) :
    (s.commitRegs c b op g).mem = s.mem := by
  grind [State.commitRegs, State.commitReg_mem]

@[simp] theorem State.commitMask_mem (s : State) (c b : Nat) (op : LaneOp) (g : Grp) :
    (s.commitMask c b op g).mem = s.mem := by
  grind [State.commitMask, State.setBank_mem]

@[simp] theorem State.joinGrp_mem (s : State) (c b : Nat) (g : Grp) : (s.joinGrp c b g).mem = s.mem := rfl

@[simp] theorem State.commitGrp_mem (s : State) (c b : Nat) (op : LaneOp) (g : Grp) :
    (s.commitGrp c b op g).mem = s.mem := by
  simp [State.commitGrp]

@[simp] theorem State.commitYoung_mem (s : State) (c b : Nat) (op : LaneOp) (g : Grp) :
    (s.commitYoung c b op g).mem = s.mem := by
  simp [State.commitYoung]

@[simp] theorem State.commitAt_mem (s : State) (c b k : Nat) (op : LaneOp) (g : Grp) :
    (s.commitAt c b k op g).1.mem = s.mem := by
  grind [State.commitAt, State.commitGrp_mem, State.commitYoung_mem]

@[simp] theorem State.captureEffects_mem (s : State) (c b k pa : Nat) : (s.captureEffects c b k pa).mem = s.mem := by
  unfold State.captureEffects
  refine foldl_mem (fun _ _ => ?_) _ _
  grind [State.addScore_mem]

@[simp] theorem State.senseRow_mem (s : State) (c b k pa : Nat) : (s.senseRow c b k pa).mem = s.mem := by
  simp [State.senseRow]

@[simp] theorem State.poisonLine_mem (s : State) (c b r line : Nat) : (s.poisonLine c b r line).mem = s.mem := rfl

@[simp] theorem State.endDests_mem (s : State) (c b : Nat) (op : LaneOp) : (s.endDests c b op).mem = s.mem := by
  unfold State.endDests
  refine foldl_mem (fun _ _ => ?_) _ _
  grind [State.endWrite_mem]

@[simp] theorem State.setYoung_mem (s : State) (c b k : Nat) (f : LaneOp → LaneOp) (live : Bool) :
    (s.setYoung c b k f live).mem = s.mem := rfl

@[simp] theorem State.setWork_mem (s : State) (c b k : Nat) (p : Option Pend) : (s.setWork c b k p).mem = s.mem := rfl

theorem State.withWork_wf (s : State) (c b k : Nat) {f : State → State}
    (hf : ∀ t, t.mem.wf = true → (f t).mem.wf = true) (h : s.mem.wf = true) : (s.withWork c b k f).mem.wf = true := by
  simpa [State.withWork] using hf _ (by simpa using h)

@[simp] theorem State.advanceHandle_mem (s : State) (c b : Nat) (adv : Option Nat) :
    (s.advanceHandle c b adv).mem = s.mem := rfl

theorem State.rowEnd_wf (s : State) (c b : Nat) (p : Pend) {t : State} (e : s.rowEnd c b p = some t)
    (h : s.mem.wf = true) : t.mem.wf = true := by
  unfold State.rowEnd at e
  grind [State.writeRow_wf, State.endCapture_mem, State.senseRow_mem, State.advanceHandle_mem]

@[simp] theorem State.keepWork_mem (s : State) (c b k : Nat) : (s.keepWork c b k).mem = s.mem := by
  grind [State.keepWork, State.senseRow_mem, State.setWork_mem]

@[simp] theorem State.keepOne_mem (s : State) (c b k : Nat) : (s.keepOne c b k).mem = s.mem := by
  unfold State.keepOne; split <;> simp

@[simp] theorem State.keepYoung_mem (s : State) (c b : Nat) : (s.keepYoung c b).mem = s.mem := by
  simp [State.keepYoung]

@[simp] theorem State.squashYoung_mem (s : State) (c b : Nat) : (s.squashYoung c b).mem = s.mem := by
  unfold State.squashYoung
  refine foldl_mem (fun _ _ => ?_) _ _
  grind [State.endDests_mem, State.setYoung_mem, State.keepWork_mem]

theorem State.consumed_inl {s : State} {c b word r line g wh : Nat} {x : Cond} {dirty : Bool} {t : State}
    (e : s.consumed c b word r line g wh x dirty = .inl t) : t.mem = s.mem := by
  grind [State.consumed, State.setHart_mem, State.squashYoung_mem]

theorem State.consumed_inr {s : State} {c b word r line g wh : Nat} {x : Cond} {dirty : Bool} {a : State × Nat × Nat}
    (e : s.consumed c b word r line g wh x dirty = .inr a) : a.1.mem = s.mem := by
  grind [State.consumed, State.poisonLine_mem]

@[simp] theorem State.setPend_mem (s : State) (c b : Nat) (p : Option Pend) : (s.setPend c b p).mem = s.mem := rfl

@[simp] theorem AtEnd.onW7_mem (f : AtEnd) (c b : Nat) (s : State) : (AtEnd.onW7 f c b s).mem = s.mem := by
  grind [AtEnd.onW7, State.setReg_mem, State.dropStage_mem]

@[simp] theorem AtEnd.onTile_mem (f : AtEnd) (c : Nat) (s : State) : (AtEnd.onTile f c s).mem = s.mem := by
  grind [AtEnd.onTile, State.setTile_mem]

@[simp] theorem AtEnd.apply_mem (f : AtEnd) (c b : Nat) (s : State) : (AtEnd.apply f c b s).mem = s.mem := by
  simp [AtEnd.apply]

@[simp] theorem State.traceMask_mem (s : State) (c b : Nat) (m : Option Nat) : (s.traceMask c b m).mem = s.mem := by
  unfold State.traceMask; split <;> simp

@[simp] theorem State.retireLane_mem (s : State) (c b : Nat) (op : LaneOp) : (s.retireLane c b op).mem = s.mem := by
  grind [State.retireLane, State.setPend_mem, AtEnd.apply_mem, State.traceMask_mem]

@[simp] theorem State.endLane_mem (s : State) (c b : Nat) (op : LaneOp) : (s.endLane c b op).mem = s.mem := by
  simp [State.endLane]

@[simp] theorem State.setLane_mem (s : State) (c b : Nat) (op : LaneOp) : (s.setLane c b op).mem = s.mem := by
  grind [State.setLane, State.setPend_mem, State.endLane_mem]

@[simp] theorem State.setGather_mem (s : State) (c b : Nat) (left : List Nat) (op : LaneOp) :
    (s.setGather c b left op).mem = s.mem := by
  grind [State.setGather, State.setPend_mem, State.endLane_mem]

@[simp] theorem State.recheckFail_mem (s : State) (c b : Nat) (op : LaneOp) (g : Grp) :
    (s.recheckFail c b op g).mem = s.mem := by
  simp [State.recheckFail]

@[simp] theorem State.laneCycle_mem (s : State) (c b : Nat) (op : LaneOp) (agree : Bool) :
    (s.laneCycle c b op agree).mem = s.mem := by
  grind [State.laneCycle, State.addScore_mem, State.addUnchecked_mem, State.commitGrp_mem, State.setLane_mem,
    State.recheckFail_mem]

@[simp] theorem State.laneRun_mem (x0 : Nat) (x1 : Nat) (x2 : Nat) (s : State) :
    (State.laneRun x0 x1 x2 s).mem = s.mem := by
  induction x0 generalizing x1 x2 s <;> grind [State.laneRun, State.laneCycle_mem]

@[simp] theorem State.putLane_mem (s : State) (c b k : Nat) (op : LaneOp) : (s.putLane c b k op).mem = s.mem := by
  unfold State.putLane
  repeat' split
  all_goals simp

@[simp] theorem State.recheckFailAt_mem (s : State) (c b k : Nat) (op : LaneOp) (g : Grp) :
    (s.recheckFailAt c b k op g).mem = s.mem := by
  cases k with
  | zero => exact State.recheckFail_mem ..
  | succ k =>
    refine (foldl_mem (fun t j => ?_) _ _).trans (by simp)
    split <;> simp

@[simp] theorem State.recheckOldest_mem (s : State) (c b : Nat) (agree : Bool) :
    (s.recheckOldest c b agree).mem = s.mem := by
  grind [State.recheckOldest, State.addScore_mem, !. State.commitAt_mem, State.putLane_mem, State.recheckFailAt_mem]

@[simp] theorem State.computeNext_mem (s : State) (c b k : Nat) : (s.computeNext c b k).mem = s.mem := by
  grind [State.computeNext, State.putLane_mem]

@[simp] theorem State.commitUnchecked_mem (s : State) (c b : Nat) : (s.commitUnchecked c b).mem = s.mem := by
  grind [State.commitUnchecked, State.addUnchecked_mem, !. State.commitAt_mem, State.putLane_mem]

@[simp] theorem State.laneCycles_mem (s : State) (c b : Nat) (agree : Bool) :
    (s.laneCycles c b agree).mem = s.mem := by
  grind [State.laneCycles, State.recheckOldest_mem, State.computeNext_mem, State.commitUnchecked_mem]

@[simp] theorem State.reopen_mem (s : State) (c b : Nat) (op : LaneOp) : (s.reopen c b op).mem = s.mem := by
  unfold State.reopen
  refine foldl_mem (fun _ _ => ?_) _ _
  grind [State.setReg_mem]

@[simp] theorem State.promote_mem (s : State) (c b : Nat) : (s.promote c b).mem = s.mem := by
  grind [State.promote, State.setHart_mem, State.setPend_mem, State.retireLane_mem, State.reopen_mem]

@[simp] theorem State.gatherStep_mem (s : State) (c b : Nat) (left : List Nat) (op : LaneOp) (g : Nat) :
    (s.gatherStep c b left op g).mem = s.mem := by
  grind [State.gatherStep, State.commitGrp_mem, State.setGather_mem]

@[simp] theorem State.drainLane_mem (s : State) (c b : Nat) (op : LaneOp) : (s.drainLane c b op).mem = s.mem := by
  simp [State.drainLane]

/-! ### Engine -/

@[simp] theorem State.dropHead_mem (s : State) (c : Nat) : (s.dropHead c).mem = s.mem := rfl

@[simp] theorem State.setHead_mem (s : State) (c : Nat) (op : EngOp) : (s.setHead c op).mem = s.mem := rfl

@[simp] theorem State.accepted_mem (s : State) (c b : Nat) : (s.accepted c b).mem = s.mem := by
  grind [State.accepted, State.setPend_mem]

@[simp] theorem State.acceptedIf_mem (s : State) (x : Bool) (c b : Nat) : (s.acceptedIf x c b).mem = s.mem := by
  grind [State.acceptedIf, State.accepted_mem]

@[simp] theorem State.engTrap_mem (s : State) (c b cause detail : Nat) :
    (s.engTrap c b cause detail).mem = s.mem := rfl

@[simp] theorem State.closeDrain_mem (s : State) (c : Nat) (op : EngOp) : (s.closeDrain c op).mem = s.mem := by
  unfold State.closeDrain; split <;> simp

@[simp] theorem State.drainTile_mem (s : State) (c : Nat) (op : EngOp) (d : Nat) (e : Option Nat) (z : Bool) :
    (s.drainTile c op d e z).mem = s.mem := by
  unfold State.drainTile
  extract_lets
  split
  extract_lets
  split <;> rw [State.setLane_mem]

@[simp] theorem State.fillStage_mem (s : State) (c : Nat) (op : EngOp) : (s.fillStage c op).mem = s.mem := by
  grind [State.fillStage, State.setCore_mem]

@[simp] theorem State.engineTake_mem (s : State) (c : Nat) : (s.engineTake c).mem = s.mem := by
  grind [State.engineTake, State.setTile_mem, → State.consumed_inl, → State.consumed_inr, State.dropHead_mem,
    State.setHead_mem, State.accepted_mem, State.engTrap_mem, State.closeDrain_mem, State.drainTile_mem,
    State.fillStage_mem]

@[simp] theorem State.outerEnd_mem (s : State) (c : Nat) (op : EngOp) (mops : Option (Nat × Nat)) (agree again : Bool) :
    (s.outerEnd c op mops agree again).mem = s.mem := by
  grind [State.outerEnd, State.setHart_mem, State.setTile_mem, State.addScore_mem, State.acceptedIf_mem,
    State.engTrap_mem]

@[simp] theorem State.engineEnd_mem (s : State) (c : Nat) (agree again : Bool) :
    (s.engineEnd c agree again).mem = s.mem := by
  grind [State.engineEnd, State.setTile_mem, State.dropHead_mem, State.accepted_mem, State.outerEnd_mem]

@[simp] theorem State.engineWhole_mem (s : State) (c : Nat) : (s.engineWhole c).mem = s.mem := by
  simp [State.engineWhole]

@[simp] theorem State.engineStop_mem (s : State) (c b : Nat) : (s.engineStop c b).mem = s.mem := by
  unfold State.engineStop
  repeat' split
  all_goals simp

/-! ### Ops -/

@[simp] theorem State.drainEvents_mem (x0 : Nat) (x1 : Nat) (s : State) : (State.drainEvents x0 x1 s).mem = s.mem := by
  induction x0 generalizing x1 s <;> grind [State.drainEvents, State.setCore_mem, State.setHart_mem]

@[simp] theorem State.hubRecord_mem (s0 : State) (c : Nat) (r : EvRec) : (s0.hubRecord c r).mem = s0.mem := by
  grind [State.hubRecord, State.setCore_mem, State.traceMeet_mem]

@[simp] theorem State.noFirst_mem (s : State) (w : Waiter) : (s.noFirst w).mem = s.mem := by
  grind [State.noFirst]

@[simp] theorem State.suspend_mem (s0 : State) (c b cause detail egi : Nat) :
    (s0.suspend c b cause detail egi).mem = s0.mem := by
  simp [State.suspend]

@[simp] theorem State.hartFault_mem (s : State) (c b cause detail egi : Nat) :
    (s.hartFault c b cause detail egi).mem = s.mem := by
  grind [State.hartFault, State.setCore_mem, State.setHart_mem, State.suspend_mem]

@[simp] theorem State.ctTrap_mem (s0 : State) (c : Nat) (cause : Nat) (tval : Nat) (epc : Word) :
    (s0.ctTrap c cause tval epc).mem = s0.mem := by
  unfold State.ctTrap; split <;> simp

@[simp] theorem State.ctCause_mem (s : State) (c code detail : Nat) : (s.ctCause c code detail).mem = s.mem := by
  grind [State.ctCause, State.walkRequest_mem, State.ctTrap_mem]

@[simp] theorem State.ctReturn_mem (s : State) (c : Nat) : (s.ctReturn c).mem = s.mem := rfl

@[simp] theorem State.ctDone_mem (s : State) (c r : Nat) (v : Word) : (s.ctDone c r v).mem = s.mem := rfl

@[simp] theorem State.ringNext_mem (s : State) (c : Nat) : (s.ringNext c).mem = s.mem := by
  grind [State.ringNext, State.setCore_mem, State.setHart_mem]

@[simp] theorem State.countLost_mem (s : State) (c : Nat) : (s.countLost c).mem = s.mem := rfl

@[simp] theorem State.ringLost_mem (s : State) (c : Nat) : (s.ringLost c).mem = s.mem := by
  simp [State.ringLost]

@[simp] theorem State.ringStep_wf (s : State) (c : Nat) (h : s.mem.wf = true) : (s.ringStep c).1.mem.wf = true := by
  unfold State.ringStep
  split <;> grind [Acc.state, State.setCt_mem, State.keepRequest_mem, State.walkRequest_mem, State.setPosted_mem,
    !. State.store_wf, State.ringNext_mem, State.ringLost_mem]

@[simp] theorem State.ringRun_wf (x0 : Nat) (x1 : Nat) (s : State) (h : s.mem.wf = true) :
    (State.ringRun x0 x1 s).mem.wf = true := by
  induction x0 generalizing x1 s <;> grind [State.ringRun, !. State.ringStep_wf]

@[simp] theorem State.ringWrite_wf (s : State) (c b word : Nat) (h : s.mem.wf = true) :
    (s.ringWrite c b word).mem.wf = true := by
  grind [State.ringWrite, State.setCore_mem, State.setHart_mem, State.countLost_mem, State.ringRun_wf]

@[simp] theorem State.retireNotes_wf (s : State) (c b word : Nat) (acted : Bool) (g : Go) (h : s.mem.wf = true) :
    (s.retireNotes c b word acted g).mem.wf = true := by
  unfold State.retireNotes
  split <;> grind [State.traceAdd_mem, State.ringWrite_wf]

@[simp] theorem State.farFetch_mem (s : State) (c b : Nat) (va : Option Nat) : (s.farFetch c b va).mem = s.mem := by
  unfold State.farFetch
  repeat' split
  all_goals simp

@[simp] theorem State.farAgain_mem (s : State) (c b : Nat) : (s.farAgain c b).mem = s.mem := by
  simp [State.farAgain]

@[simp] theorem State.retire_wf (s : State) (c b word : Nat) (acted : Bool) (g : Go) (h : s.mem.wf = true) :
    (s.retire c b word acted g).mem.wf = true := by
  simp [State.retire, h]

@[simp] theorem State.withdraw_mem (s : State) (c : Nat) (b : Option Nat) : (s.withdraw c b).mem = s.mem := rfl

@[simp] theorem State.leaveReds_mem (s : State) (c b : Nat) : (s.leaveReds c b).mem = s.mem := rfl

@[simp] theorem State.resenseDone_mem (s : State) (c b k : Nat) : (s.resenseDone c b k).mem = s.mem := by
  simp [State.resenseDone]

@[simp] theorem State.stopWork_wf (s0 : State) (c b : Nat) (h : s0.mem.wf = true) :
    (s0.stopWork c b).1.mem.wf = true := by
  grind [State.stopWork, State.endWrite_mem, → State.rowEnd_wf, State.keepYoung_mem, State.setPend_mem,
    State.endLane_mem, State.laneRun_mem, State.drainLane_mem, State.engineStop_mem, State.withdraw_mem,
    State.leaveReds_mem, State.resenseDone_mem]

/-- What a word does, and how its work goes on, keep memory in its form; then so does its execution (`Op.Keeps.exec`). -/
structure Op.Keeps (o : Op) : Prop where
  act : ∀ (s0 s : State) (c b : Nat), s.mem.wf = true → (o.act s0 s c b).state.mem.wf = true
  poll : ∀ (force : Bool) (s : State) (c b : Nat) (p : Pend),
    s.mem.wf = true → (o.poll force s c b p).state.mem.wf = true

theorem State.ownBank_mem (s : State) (c b : Nat) {t : State} (e : s.ownBank c b = some t) : t.mem = s.mem := by
  grind [State.ownBank, State.setBank_mem]

theorem State.resenseStart_mem (s : State) (c b k : Nat) : (s.resenseStart c b k).state.mem = s.mem := by
  grind [State.resenseStart, HRes.state, State.setReg_mem, State.setSagBusy_mem, State.writeBackRow_mem,
    State.setPend_mem]

theorem State.resensePoll_mem (s : State) (c b k : Nat) (started force : Bool) :
    (s.resensePoll c b k started force).state.mem = s.mem := by
  grind [State.resensePoll, HRes.state, State.setSagBusy_mem, State.resenseDone_mem, !. State.resenseStart_mem]

theorem Op.pollOne_wf {o : Op} (ho : o.Keeps) (force : Bool) (s : State) (c b : Nat) (p : Pend) (h : s.mem.wf = true) :
    (o.pollOne force s c b p).state.mem.wf = true := by
  unfold Op.pollOne
  split
  · rwa [State.resensePoll_mem]
  · exact h
  · exact h
  · exact ho.poll force s c b p h

theorem HRes.walks_wf {r : HRes} (hr : r.state.mem.wf = true) (s : State) (c b : Nat) (h : s.mem.wf = true) :
    (r.walks s c b).state.mem.wf = true := by
  unfold HRes.walks
  split
  · split
    · simpa [HRes.state] using h
    · exact hr
  · exact hr

theorem Op.settle_wf {o : Op} (ho : o.Keeps) (force : Bool) (c b : Nat) (n : Nat) (s : State) (h : s.mem.wf = true) :
    (o.settle force c b n s).state.mem.wf = true := by
  induction n generalizing s with
  | zero => exact h
  | succ n ih =>
    unfold Op.settle
    split
    · exact h
    · next p _ =>
      have one := HRes.walks_wf (Op.pollOne_wf ho force s c b p h) s c b h
      split
      · next heq => exact ih _ (by rwa [heq] at one)
      · exact one

theorem Op.run_wf {o : Op} (ho : o.Keeps) (s0 s : State) (c b : Nat) (h : s.mem.wf = true) :
    (o.run s0 s c b).state.mem.wf = true := by
  have acts : ∀ t : State, t.mem.wf = true → ((o.act s0 t c b).walks t c b).state.mem.wf = true :=
    fun t ht => HRes.walks_wf (ho.act s0 t c b ht) t c b ht
  grind [Op.run, HRes.state, Op.settle_wf, State.setHart_mem, → State.ownBank_mem]

@[simp] theorem State.setRunning_mem (s : State) (c g : Nat) (r : Running) : (s.setRunning c g r).mem = s.mem := rfl

@[simp] theorem State.gangRetire_wf (s : State) (c g b word : Nat) (acted : Bool) (go : Go) (h : s.mem.wf = true) :
    (s.gangRetire c g b word acted go).mem.wf = true := by
  unfold State.gangRetire
  grind [State.setHart_mem, State.retireNotes_wf, State.farFetch_mem, State.setRunning_mem]

theorem Op.waits_wf {o : Op} (ho : o.Keeps) (s : State) (c : Nat) (l : List Nat) {t : State}
    (e : o.waits s c l = some t)
    (h : s.mem.wf = true) : t.mem.wf = true := by
  induction l with
  | nil => cases e
  | cons b l ih =>
    have run := Op.run_wf ho s { s with stepwise := true } c b h
    grind [Op.waits, HRes.state]

theorem Op.onAll_wf {o : Op} (ho : o.Keeps) (s0 : State) (c g : Nat) (l : List Nat) (s : State) (h : s.mem.wf = true) :
    (o.onAll s0 c g l s).mem.wf = true := by
  induction l generalizing s with
  | nil => exact h
  | cons b l ih =>
    have run := Op.run_wf ho s0 s c b h
    refine ih _ ?_
    grind [HRes.state, State.gangRetire_wf, State.hartFault_mem]

@[simp] theorem State.replays_mem (s : State) (c : Nat) (bs : List Nat) : (s.replays c bs).mem = s.mem := by
  unfold State.replays
  refine foldl_mem (fun _ _ => ?_) _ _
  grind [HRes.state, !. State.resensePoll_mem]

theorem Op.pollAll_wf {o : Op} (ho : o.Keeps) (c g : Nat) (l : List Nat) (s : State) (h : s.mem.wf = true) :
    (o.pollAll c g l s).1.mem.wf = true := by
  induction l generalizing s with
  | nil => exact h
  | cons b l ih =>
    have poll : ∀ p, ((o.pollOne true s c b p).walks s c b).state.mem.wf = true :=
      fun p => HRes.walks_wf (Op.pollOne_wf ho true s c b p h) s c b h
    grind [Op.pollAll, HRes.state, State.gangRetire_wf, State.hartFault_mem]

@[simp] theorem State.alignPcs_mem (s : State) (c g : Nat) : (s.alignPcs c g).mem = s.mem := by
  unfold State.alignPcs
  repeat' split
  all_goals simp

@[simp] theorem State.gangForward_mem (s : State) (c g : Nat) (rep : Option Nat) :
    (s.gangForward c g rep).mem = s.mem := by
  grind [State.gangForward, State.setRunning_mem, State.alignPcs_mem]

@[simp] theorem State.endAbsent_wf (s : State) (c b detail : Nat) (h : s.mem.wf = true) :
    (s.endAbsent c b detail).mem.wf = true := by
  grind [State.endAbsent, State.hartFault_mem, State.setPend_mem, !. State.stopWork_wf, → State.rowEnd_wf,
    Option.bind_eq_some_iff]

@[simp] theorem State.loseLockstep_wf (c g word : Nat) (before : List Nat) (s : State) (h : s.mem.wf = true) :
    (State.loseLockstep c g word before s).mem.wf = true := by
  unfold State.loseLockstep
  dsimp only
  split
  · exact h
  · refine foldl_wf (fun t b ht => ?_) _ h
    split
    · exact State.endAbsent_wf _ _ _ _ ht
    · exact ht

theorem Op.inStep_wf {o : Op} (ho : o.Keeps) (c g : Nat) (before : List Nat) (n : Nat) (s : State)
    (h : s.mem.wf = true) :
    (o.inStep c g before n s).mem.wf = true := by
  induction n generalizing s with
  | zero => exact h
  | succ n ih =>
    have poll := Op.pollAll_wf ho c g before s h
    grind [Op.inStep, State.loseLockstep_wf]

theorem Op.onTodo_wf {o : Op} (ho : o.Keeps) (s : State) (c g : Nat) (r : Running) (h : s.mem.wf = true) :
    (o.onTodo s c g r).mem.wf = true := by
  grind [Op.onTodo, Op.inStep_wf, State.loseLockstep_wf, Op.onAll_wf]

theorem Op.execGang_wf {o : Op} (ho : o.Keeps) (s : State) (c g : Nat) (h : s.mem.wf = true) :
    (o.execGang s c g).mem.wf = true := by
  grind [Op.execGang, Op.onTodo_wf, State.gangForward_mem, State.replays_mem, foldl_mem, State.hartFault_mem,
    → Op.waits_wf]

theorem Op.execSplit_wf {o : Op} (ho : o.Keeps) (s : State) (c b : Nat) (h : s.mem.wf = true) :
    (o.execSplit s c b).mem.wf = true := by
  have run := Op.run_wf ho s s c b h
  grind [Op.execSplit, HRes.state, State.retire_wf, State.hartFault_mem]

/-- An outcome that goes on, goes on with memory in its form. -/
def Res.Keeps : Res → Prop
  | .next t => t.mem.wf = true
  | _ => True

/-- The execution of a word, on a split hart or in lockstep, by what it does and how it goes on. -/
theorem Op.Keeps.exec {o : Op} (ho : o.Keeps) {s : State} (h : s.mem.wf = true) : (o.exec s).Keeps := by
  unfold Op.exec
  show Mem.wf _ = true
  split
  · exact Op.execGang_wf ho _ _ _ h
  · exact Op.execSplit_wf ho _ _ _ h

/-! ### Scalar -/

theorem hartOp_keeps (i : Instr) (p : Bool) (f : Hart → Hart) : (hartOp i p f).Keeps where
  act _ _ _ _ h := h
  poll _ _ _ _ _ h := h

/-! ### Control -/

theorem branchOp_keeps (i : Instr) (o : BR) (k : Nat) : (branchOp i o k).Keeps where
  act _ _ _ _ h := h
  poll _ _ _ _ _ h := h

theorem execJal_keeps (o : JL) (s : State) (h : s.mem.wf = true) : (execJal o s).Keeps := by
  unfold execJal
  refine Op.Keeps.exec ?_ h
  constructor
  · intro s0 s c b h
    exact h
  · intro force s c b p h
    exact h

theorem execJalr_keeps (o : SI) (s : State) (h : s.mem.wf = true) : (execJalr o s).Keeps := by
  unfold execJalr
  refine Op.Keeps.exec ?_ h
  constructor
  · intro s0 s c b h
    grind [HRes.state, State.setHart_mem]
  · intro force s c b p h
    exact h

theorem execBfetch_keeps (o : R1) (s : State) (h : s.mem.wf = true) : (execBfetch o s).Keeps := by
  unfold execBfetch
  refine Op.Keeps.exec ?_ h
  constructor
  · intro s0 s c b h
    grind [HRes.state]
  · intro force s c b p h
    exact h

theorem execStop_keeps (o : P0) (s : State) (h : s.mem.wf = true) : (execStop o s).Keeps := by
  unfold execStop
  refine Op.Keeps.exec ?_ h
  constructor
  · intro s0 s c b h
    exact h
  · intro force s c b p h
    exact h

theorem execRepb_keeps (o : N10) (s : State) (h : s.mem.wf = true) : (execRepb o s).Keeps := by
  unfold execRepb
  refine Op.Keeps.exec ?_ h
  constructor
  · intro s0 s c b h
    exact h
  · intro force s c b p h
    exact h

theorem execYield_keeps (o : P0) (s : State) (h : s.mem.wf = true) : (execYield o s).Keeps := by
  unfold execYield
  refine Op.Keeps.exec ?_ h
  constructor
  · intro s0 s c b h
    exact h
  · intro force s c b p h
    exact h

theorem hpOp_keeps (i : Instr) (f : Hart → Bool) : (hpOp i f).Keeps where
  act _ _ _ _ h := wf_of_mem (State.traceAdd_mem ..) h
  poll _ _ _ _ _ h := h

theorem execXsend_keeps (o : LK) (s : State) (h : s.mem.wf = true) : (execXsend o s).Keeps := by
  unfold execXsend
  refine Op.Keeps.exec ?_ h
  constructor
  · intro s0 s c b h
    grind [HRes.state, State.setHart_mem]
  · intro force s c b p h
    exact h

theorem execXrecv_keeps (o : LK) (s : State) (h : s.mem.wf = true) : (execXrecv o s).Keeps := by
  unfold execXrecv
  refine Op.Keeps.exec ?_ h
  constructor
  · intro s0 s c b h
    grind [HRes.state, State.setHart_mem]
  · intro force s c b p h
    exact h

theorem execNop_keeps (o : P0) (s : State) (h : s.mem.wf = true) : (execNop o s).Keeps := by
  unfold execNop
  refine Op.Keeps.exec ?_ h
  constructor
  · intro s0 s c b h
    exact h
  · intro force s c b p h
    exact h

theorem execHrd_keeps (o : RT) (s : State) (h : s.mem.wf = true) : (execHrd o s).Keeps := by
  unfold execHrd
  refine Op.Keeps.exec ?_ h
  constructor
  · intro s0 s c b h
    grind [HRes.state, State.setHart_mem]
  · intro force s c b p h
    exact h

theorem execHwr_keeps (o : RT) (s : State) (h : s.mem.wf = true) : (execHwr o s).Keeps := by
  unfold execHwr
  refine Op.Keeps.exec ?_ h
  constructor
  · intro s0 s c b h
    grind [HRes.state, State.setHart_mem]
  · intro force s c b p h
    exact h

theorem execEvt_keeps (o : R1) (s : State) (h : s.mem.wf = true) : (execEvt o s).Keeps := by
  unfold execEvt
  refine Op.Keeps.exec ?_ h
  constructor
  · intro s0 s c b h
    grind [HRes.state, State.setCore_mem]
  · intro force s c b p h
    exact h

theorem execTrapi_keeps (o : N10) (s : State) (h : s.mem.wf = true) : (execTrapi o s).Keeps := by
  unfold execTrapi
  refine Op.Keeps.exec ?_ h
  constructor
  · intro s0 s c b h
    exact h
  · intro force s c b p h
    exact h

theorem execBrk_keeps (o : N10) (s : State) (h : s.mem.wf = true) : (execBrk o s).Keeps := by
  unfold execBrk
  refine Op.Keeps.exec ?_ h
  constructor
  · intro s0 s c b h
    exact h
  · intro force s c b p h
    exact h

/-! ### Operands -/

theorem State.issueLane_lineEnd_mem (c : Nat) (l : Lane) (v : View) (s : State) (x : BadLine)
    {start : State → Nat → AtEnd → HRes} (hs : ∀ t n f, (start t n f).state.mem = t.mem) (fin : AtEnd) :
    (State.issueLane.lineEnd c l v s x start fin).state.mem = s.mem := by
  unfold State.issueLane.lineEnd
  split
  · next e => exact State.consumed_inl e
  · next e => rw [hs, State.consumed_inr e]

theorem State.issueLane_mem (s : State) (c b : Nat) (l : Lane) (v : View) (es : List ElemRes) (fin : AtEnd) :
    (s.issueLane c b l v es fin).state.mem = s.mem := by
  unfold State.issueLane
  extract_lets nan start
  have starts (t n f) : (start t n f).state.mem = t.mem := by
    grind [HRes.state, State.beginWrite_mem, State.setLane_mem]
  have ends (x) : (State.issueLane.lineEnd c l v s x start fin).state.mem = s.mem :=
    State.issueLane_lineEnd_mem c l v s x starts fin
  clear_value start nan
  grind

theorem lanePoll_mem (force : Bool) (s : State) (c b : Nat) (p : Pend) :
    (lanePoll force s c b p).state.mem = s.mem := by
  unfold lanePoll
  grind [HRes.state, State.laneCycle_mem]

@[simp] theorem Plan.tagged_mem (q : Plan) (s : State) (c b : Nat) : (Plan.tagged q s c b).mem = s.mem := by
  grind [Plan.tagged, State.setReg_mem]

theorem Plan.start_mem (q : Plan) (s : State) (c b : Nat) : (Plan.start q s c b).state.mem = s.mem := by
  grind [Plan.start, HRes.state, State.setHart_mem, !. State.issueLane_mem, Plan.tagged_mem]

theorem LaneWord.act_mem (x : LaneWord) (s0 s : State) (c b : Nat) : (x.act s0 s c b).state.mem = s.mem := by
  grind [LaneWord.act, HRes.state, Plan.start_mem]

theorem LaneWord.op_keeps (x : LaneWord) : x.op.Keeps where
  act _ _ _ _ h := wf_of_mem (LaneWord.act_mem ..) h
  poll _ _ _ _ _ h := wf_of_mem (lanePoll_mem ..) h

/-! ### VMove -/

@[simp] theorem State.setTags_mem (s : State) (c b : Nat) (bitmap : Nat) (t : BitVec 4) :
    (s.setTags c b bitmap t).mem = s.mem := by
  unfold State.setTags
  refine foldl_mem (fun _ _ => ?_) _ _
  grind [State.setReg_mem]

theorem execVcfg_keeps (o : RT) (s : State) (h : s.mem.wf = true) : (execVcfg o s).Keeps := by
  unfold execVcfg
  refine Op.Keeps.exec ?_ h
  constructor
  · intro s0 s c b h
    grind [HRes.state, State.setTags_mem]
  · intro force s c b p h
    exact h

theorem execSetvl_keeps (o : SV) (s : State) (h : s.mem.wf = true) : (execSetvl o s).Keeps := by
  unfold execSetvl
  refine Op.Keeps.exec ?_ h
  constructor
  · intro s0 s c b h
    exact h
  · intro force s c b p h
    exact h

theorem execSetrm_keeps (o : RM) (s : State) (h : s.mem.wf = true) : (execSetrm o s).Keeps := by
  unfold execSetrm
  refine Op.Keeps.exec ?_ h
  constructor
  · intro s0 s c b h
    exact h
  · intro force s c b p h
    exact h

theorem execVtag_keeps (o : RT) (s : State) (h : s.mem.wf = true) : (execVtag o s).Keeps := by
  unfold execVtag
  refine Op.Keeps.exec ?_ h
  constructor
  · intro s0 s c b h
    grind [HRes.state, State.setTags_mem]
  · intro force s c b p h
    exact h

theorem execVtagRd_keeps (o : R2) (s : State) (h : s.mem.wf = true) : (execVtagRd o s).Keeps := by
  unfold execVtagRd
  refine Op.Keeps.exec ?_ h
  constructor
  · intro s0 s c b h
    exact h
  · intro force s c b p h
    exact h

theorem State.wholeRead_wf (s : State) (c b word r : Nat) (others : List Nat) {f : State → State}
    (hf : (f s).mem.wf = true) (h : s.mem.wf = true) : (s.wholeRead c b word r others f).state.mem.wf = true := by
  grind [State.wholeRead, HRes.state, → State.consumed_inl, → State.consumed_inr]

theorem execVextr_keeps (o : VE) (s : State) (h : s.mem.wf = true) : (execVextr o s).Keeps := by
  unfold execVextr
  refine Op.Keeps.exec ?_ h
  constructor
  · intro s0 s c b h
    grind [HRes.state, State.setHart_mem, !. State.wholeRead_wf]
  · intro force s c b p h
    exact h

/-! ### Rows -/

theorem State.startAct_mem (s : State) (c b k va pa : Nat) (adv : Option Nat) :
    (s.startAct c b k va pa adv).state.mem = s.mem := by
  grind [State.startAct, HRes.state, State.setReg_mem, State.sagWait_mem, State.useSag_mem, → State.recallRow_inl,
    → State.recallRow_inr, State.writeBackRow_mem, State.setPend_mem]

theorem State.startWb_mem (s : State) (c b k va pa : Nat) (close : Bool) (adv : Option Nat) :
    (s.startWb c b k va pa close adv).state.mem = s.mem := by
  grind [State.startWb, HRes.state, State.setReg_mem, State.sagWait_mem, State.useSag_mem, → State.rowOut_mem,
    State.setPend_mem]

@[simp] theorem State.senseDone_mem (s : State) (c b k pa : Nat) (adv : Option Nat) :
    (s.senseDone c b k pa adv).mem = s.mem := by
  simp [State.senseDone]

@[simp] theorem State.captureDone_mem (s : State) (c b k pa : Nat) (close : Bool) (adv : Option Nat) :
    (s.captureDone c b k pa close adv).mem = s.mem := rfl

@[simp] theorem State.rowWriteDone_wf (s : State) (c b pa bits : Nat) (conds : Tab LineCond) (adv : Option Nat)
    (h : s.mem.wf = true) : (s.rowWriteDone c b pa bits conds adv).mem.wf = true := by
  simp [State.rowWriteDone, h]

theorem rowPoll_wf (force : Bool) (s : State) (c b : Nat) (p : Pend) (h : s.mem.wf = true) :
    (rowPoll force s c b p).state.mem.wf = true := by
  unfold rowPoll
  grind [HRes.state, State.setSagBusy_mem, State.senseDone_mem, State.captureDone_mem, State.rowWriteDone_wf]

theorem execAct_keeps (o : RW) (s : State) (h : s.mem.wf = true) : (execAct o s).Keeps := by
  unfold execAct
  refine Op.Keeps.exec ⟨fun _ s c b h => ?_, fun _ _ _ _ _ h => rowPoll_wf _ _ _ _ _ h⟩ h
  grind [HRes.state, !. State.startAct_mem, !. rowPoll_wf]

theorem wbOp_keeps (i : Instr) (o : RW) (close : Bool) : (wbOp i o close).Keeps where
  act _ s c b h := by
    grind [wbOp, HRes.state, !. State.startWb_mem]
  poll _ _ _ _ _ h := rowPoll_wf _ _ _ _ _ h

theorem execPre_keeps (o : KG) (s : State) (h : s.mem.wf = true) : (execPre o s).Keeps := by
  unfold execPre
  refine Op.Keeps.exec ?_ h
  constructor
  · intro s0 s c b h
    grind [HRes.state, State.closeLatch_mem]
  · intro force s c b p h
    exact h

theorem State.refRow_mem (s : State) (c b k left : Nat) : (s.refRow c b k left).state.mem = s.mem := by
  grind [State.refRow, HRes.state, State.setBank_mem, State.sagWait_mem, State.useSag_mem, State.setPend_mem]

theorem refPoll_mem (force : Bool) (s : State) (c b : Nat) (p : Pend) : (refPoll force s c b p).state.mem = s.mem := by
  unfold refPoll
  grind [HRes.state, !. State.refRow_mem]

theorem execRef_keeps (o : KN) (s : State) (h : s.mem.wf = true) : (execRef o s).Keeps := by
  unfold execRef
  refine Op.Keeps.exec ?_ h
  constructor
  · intro s0 s c b h
    grind [HRes.state, !. State.refRow_mem]
  · intro force s c b p h
    exact wf_of_mem (refPoll_mem force s c b p) h

theorem execSdef_keeps (o : HD) (s : State) (h : s.mem.wf = true) : (execSdef o s).Keeps := by
  unfold execSdef
  refine Op.Keeps.exec ?_ h
  constructor
  · intro s0 s c b h
    grind [HRes.state, State.setHart_mem]
  · intro force s c b p h
    exact h

theorem State.strip_wf (s : State) (c b : Nat) (o : HK) (word : Nat) (writes : Bool) {f : Nat → HRes}
    (hf : ∀ pa, (f pa).state.mem.wf = true) (h : s.mem.wf = true) :
    (s.strip c b o word writes f).state.mem.wf = true := by
  grind [State.strip, HRes.state]

theorem execSld_keeps (o : HK) (s : State) (h : s.mem.wf = true) : (execSld o s).Keeps := by
  unfold execSld
  refine Op.Keeps.exec ⟨fun _ s c b h => ?_, fun _ _ _ _ _ h => rowPoll_wf _ _ _ _ _ h⟩ h
  grind [HRes.state, !. State.startAct_mem, !. rowPoll_wf, !. State.strip_wf]

theorem execSst_keeps (o : HK) (s : State) (h : s.mem.wf = true) : (execSst o s).Keeps := by
  unfold execSst
  refine Op.Keeps.exec ⟨fun _ s c b h => ?_, fun _ _ _ _ _ h => rowPoll_wf _ _ _ _ _ h⟩ h
  grind [HRes.state, !. State.startWb_mem, !. rowPoll_wf, !. State.strip_wf]

theorem execSpos_keeps (o : HP) (s : State) (h : s.mem.wf = true) : (execSpos o s).Keeps := by
  unfold execSpos
  refine Op.Keeps.exec ?_ h
  constructor
  · intro s0 s c b h
    grind [HRes.state, State.setHart_mem]
  · intro force s c b p h
    exact h

theorem execSposRd_keeps (o : HP) (s : State) (h : s.mem.wf = true) : (execSposRd o s).Keeps := by
  unfold execSposRd
  refine Op.Keeps.exec ?_ h
  constructor
  · intro s0 s c b h
    exact h
  · intro force s c b p h
    exact h

/-! ### Twill -/

@[simp] theorem State.putRegister_mem (s : State) (c b r v : Nat) : (s.putRegister c b r v).mem = s.mem := by
  simp [State.putRegister]

@[simp] theorem State.poisoned_mem (s : State) (c b d : Nat) (bad : List Carried) :
    (s.poisoned c b d bad).mem = s.mem := by
  unfold State.poisoned
  refine foldl_mem (fun _ _ => ?_) _ _
  grind [State.setReg_mem, State.addScore_mem]

@[simp] theorem State.carriedEnd_mem (s : State) (c b word d a v wh : Nat) (bad : List Carried) :
    (s.carriedEnd c b word d a v wh bad).mem = s.mem := by
  grind [State.carriedEnd, State.setReg_mem, State.dropStage_mem, State.poisonLine_mem, State.setPend_mem,
    State.poisoned_mem]

@[simp] theorem State.twillDone_mem (s : State) (found : List Nat) (c b kind d a : Nat) (amt : Int) :
    (s.twillDone found c b kind d a amt).mem = s.mem := by
  grind [State.twillDone, State.endWrite_mem, State.setPend_mem, State.putRegister_mem, State.carriedEnd_mem]

theorem twillPollWith_mem (found : List Nat) (force : Bool) (s : State) (c b : Nat) (p : Pend) :
    (twillPollWith found force s c b p).state.mem = s.mem := by
  unfold twillPollWith
  grind [HRes.state, State.twillDone_mem]

theorem twillPoll_mem (x0 : Bool) (s : State) (x2 : Nat) (x3 : Nat) (x4 : Pend) :
    (twillPoll x0 s x2 x3 x4).state.mem = s.mem := by
  unfold twillPoll
  grind [HRes.state, !. twillPollWith_mem]

theorem State.carried_wf (s : State) (c word a wh : Nat) (bad : List Carried) {f : HRes}
    (hf : f.state.mem.wf = true) (h : s.mem.wf = true) : (s.carried c word a wh bad f).state.mem.wf = true := by
  unfold State.carried
  split
  · next t e =>
    obtain ⟨x, -, hx⟩ := List.mem_filterMap.1 (List.mem_of_head? e)
    grind [HRes.state, → State.consumed_inl]
  · exact hf

theorem twillOp_keeps (i : Instr) (kind d a : Nat) (amount : State → Nat → Nat → Int) :
    (twillOp i kind d a amount).Keeps where
  act s0 s c b h := by
    have moves : ∀ word wh amt bad, (s.carried c word a wh bad
        (.work ((s.beginWrite c b d 0).setPend c b (some (.twill kind d a amt))))).state.mem.wf = true :=
      fun _ _ _ _ => State.carried_wf _ _ _ _ _ _ h h
    grind [twillOp, HRes.state]
  poll _ _ _ _ _ h := wf_of_mem (twillPoll_mem ..) h

theorem State.sergeBad_mem (s : State) (c b : Nat) (x y : Half) (bad : List Carried) {t : State}
    (e : s.sergeBad c b x y bad = some t) : t.mem = s.mem := by
  unfold State.sergeBad at e
  grind [State.setPend_mem, State.carriedEnd_mem]

theorem State.sergeMove_mem (s : State) (found : List Nat) (c b : Nat) {t : State}
    (e : s.sergeMove found c b = some t) : t.mem = s.mem := by
  grind [State.sergeMove, State.setHart_mem, State.setPend_mem, State.putRegister_mem, → State.sergeBad_mem]

theorem State.sergeTry_mem (s : State) (found : List Nat) (c b : Nat) {t : State} (e : s.sergeTry found c b = some t) :
    t.mem = s.mem := by
  grind [State.sergeTry, → State.sergeMove_mem]

theorem sergePoll_mem (force : Bool) (s : State) (c b : Nat) (p : Pend) :
    (sergePoll force s c b p).state.mem = s.mem := by
  unfold sergePoll
  grind [HRes.state, → State.sergeTry_mem]

theorem execShsnd_keeps (o : R2) (s : State) (h : s.mem.wf = true) : (execShsnd o s).Keeps := by
  unfold execShsnd
  refine Op.Keeps.exec ⟨fun _ s c b h => ?_, fun _ _ _ _ _ h => wf_of_mem (sergePoll_mem ..) h⟩ h
  grind [HRes.state, State.setHart_mem, State.poisonLine_mem, State.setPend_mem, !. State.carried_wf, !. sergePoll_mem]

theorem execShrcv_keeps (o : R2) (s : State) (h : s.mem.wf = true) : (execShrcv o s).Keeps := by
  unfold execShrcv
  refine Op.Keeps.exec ⟨fun _ s c b h => ?_, fun _ _ _ _ _ h => wf_of_mem (sergePoll_mem ..) h⟩ h
  grind [HRes.state, State.setHart_mem, State.beginWrite_mem, State.setPend_mem, State.putRegister_mem,
    !. sergePoll_mem]

/-! ### VRed -/

theorem execVfirst_keeps (o : VI) (s : State) (h : s.mem.wf = true) : (execVfirst o s).Keeps := by
  unfold execVfirst
  refine Op.Keeps.exec ?_ h
  constructor
  · intro s0 s c b h
    exact h
  · intro force s c b p h
    exact h

theorem maskOp_keeps (i : Instr) (d : BitVec 3) (p : Bool) (amount : State → Nat → Nat → Except Nat Nat)
    (f : Bank → Nat → Nat → Nat) : (maskOp i d p amount f).Keeps where
  act _ s c b h := by
    grind [maskOp, HRes.state, State.traceAdd_mem, State.setBank_mem]
  poll _ _ _ _ _ h := h

theorem execMpopc_keeps (o : M4) (s : State) (h : s.mem.wf = true) : (execMpopc o s).Keeps := by
  unfold execMpopc
  refine Op.Keeps.exec ?_ h
  constructor
  · intro s0 s c b h
    exact h
  · intro force s c b p h
    exact h

/-! ### Gather -/

def Fetched.state : Fetched → State
  | .got s _ => s
  | .bad s _ => s
  | .failed s _ _ => s
  | .wait s => s

theorem fetchLines_mem (w : Waiter) (x0 : List (Place × Nat)) (s : State) (x2 : List (Place × Nat)) :
    (fetchLines w x0 s x2).state.mem = s.mem := by
  induction x0 generalizing w s x2 <;> grind [fetchLines, Acc.state, Fetched.state, !. State.load_mem]

theorem GForm.request_mem (f : GForm) (s : State) (c b : Nat) (es : List GElem) (g : Nat) (left : List Nat)
    (op : LaneOp) : (GForm.request f s c b es g left op).state.mem = s.mem := by
  grind [GForm.request, Fetched.state, HRes.state, State.keepRequest_mem, State.setPend_mem, State.setGather_mem,
    !. fetchLines_mem]

theorem GForm.issue_mem (f : GForm) (s : State) (c b word : Nat) (v : View) (es : List GElem) (fin : AtEnd) :
    (GForm.issue f s c b word v es fin).state.mem = s.mem := by
  grind [GForm.issue, HRes.state, State.beginWrite_mem, State.setGather_mem]

theorem scatterGo_wf (c b : Nat) (x0 : List Put) (x1 : Nat) (s : State) (h : s.mem.wf = true) :
    (scatterGo c b x0 x1 s).state.mem.wf = true := by
  induction x0 generalizing c b x1 s <;> grind [scatterGo, Acc.state, HRes.state, State.keepRequest_mem,
    !. State.store_wf, State.setPend_mem]

theorem scatterPoll_wf (g force : Bool) (s : State) (c b : Nat) (p : Pend) (h : s.mem.wf = true) :
    (scatterPoll g force s c b p).state.mem.wf = true := by
  unfold scatterPoll
  grind [HRes.state, !. scatterGo_wf]

theorem GForm.gatherPoll_mem (f : GForm) (pick : Option Nat) (force : Bool) (s : State) (c b : Nat) (p : Pend) :
    (GForm.gatherPoll f pick force s c b p).state.mem = s.mem := by
  unfold GForm.gatherPoll
  split <;> grind [HRes.state, State.endLane_mem, State.gatherStep_mem, !. GForm.request_mem]

theorem loadOp_keeps (i : Instr) (p : Bool) (f : GForm) (ff : Bool) : (loadOp i p f ff).Keeps where
  act _ s c b h := by
    unfold loadOp
    grind [HRes.state, → State.consumed_inl, → State.consumed_inr, !. GForm.issue_mem]
  poll _ _ _ _ _ h := wf_of_mem (GForm.gatherPoll_mem ..) h

theorem storeOp_keeps (i : Instr) (p : Bool) (f : GForm) : (storeOp i p f).Keeps where
  act _ s c b h := by
    unfold storeOp
    grind [HRes.state, → State.consumed_inl, → State.consumed_inr, State.setPend_mem]
  poll _ _ _ _ _ h := scatterPoll_wf _ _ _ _ _ _ h

def XRead.state : XRead → State
  | .got s _ _ _ => s
  | .wait s => s

/-! ### Xfer -/

theorem XRead.of_state (a : Acc) : (XRead.of a).state = a.state := by
  cases a <;> rfl

theorem State.fabricFor_mem (s : State) (pa : Nat) {t : State} (e : s.fabricFor pa = some t) : t.mem = s.mem := by
  grind [State.fabricFor, State.chargeAt_mem]

theorem State.xferRead_mem (s : State) (c b n : Nat) (p : Nat × Nat) : (s.xferRead c b n p).state.mem = s.mem := by
  unfold State.xferRead
  extract_lets w got
  split
  · rfl
  split
  · rw [XRead.of_state]
    cases e : s.fabricFor p.2 with
    | none => rfl
    | some t => exact (State.readHere_mem ..).trans (State.fabricFor_mem _ _ e)
  split
  · split
    · rfl
    · rw [XRead.of_state, State.load_mem]
  · rw [XRead.of_state, State.load_mem]

@[simp] theorem State.putLine_wf (s : State) (pa bits : Nat) (poison : Bool) (h : s.mem.wf = true) :
    (s.putLine pa bits poison).mem.wf = true := by
  grind [State.putLine, State.setSide_mem, State.writeHere_wf, State.dropShared_mem]

@[simp] theorem State.xferWrite_wf (s : State) (c b n : Nat) (p : Nat × Nat) (bits : Nat) (poison : Bool)
    (h : s.mem.wf = true) : (s.xferWrite c b n p bits poison).1.mem.wf = true := by
  grind [State.xferWrite, Acc.state, State.send_mem, State.accessWait_mem, State.touchPage_mem, → State.ownHere_mem,
    State.setPosted_mem, !. State.store_wf, → State.fabricFor_mem, State.putLine_wf]

@[simp] theorem State.setSlot_mem (s : State) (c b n : Nat) (x : XSlot) : (s.setSlot c b n x).mem = s.mem := rfl

@[simp] theorem State.xferEnd_mem (s : State) (c b n : Nat) : (s.xferEnd c b n).mem = s.mem := by
  grind [State.xferEnd, Acc.state, State.keepRequest_mem, !. State.hostSettled_mem, State.setSlot_mem]

@[simp] theorem State.xferLine_wf (s : State) (c b n : Nat) (h : s.mem.wf = true) :
    (s.xferLine c b n).1.mem.wf = true := by
  unfold State.xferLine
  grind [XRead.state, State.keepRequest_mem, !. State.xferRead_mem, !. State.xferWrite_wf, State.setSlot_mem,
    State.xferEnd_mem]

@[simp] theorem State.xferRun_wf (x0 : Nat) (x1 : Nat) (x2 : Nat) (x3 : Nat) (s : State) (h : s.mem.wf = true) :
    (State.xferRun x0 x1 x2 x3 s).mem.wf = true := by
  induction x0 generalizing x1 x2 x3 s <;> grind [State.xferRun, !. State.xferLine_wf]

@[simp] theorem State.xferGo_wf (s : State) (c b n : Nat) (h : s.mem.wf = true) : (s.xferGo c b n).mem.wf = true := by
  grind [State.xferGo, State.xferRun_wf]

@[simp] theorem State.xferAll_wf (s : State) (c b : Nat) (h : s.mem.wf = true) : (s.xferAll c b).mem.wf = true := by
  unfold State.xferAll
  grind [State.xferGo_wf]

theorem execXfer_keeps (o : XF) (s : State) (h : s.mem.wf = true) : (execXfer o s).Keeps := by
  unfold execXfer
  refine Op.Keeps.exec ?_ h
  constructor
  · intro s0 s c b h
    dsimp only
    grind [HRes.state, State.setSlot_mem, State.xferGo_wf, State.xferAll_wf]
  · intro force s c b p h
    exact h

theorem execXwait_keeps (o : XW) (s : State) (h : s.mem.wf = true) : (execXwait o s).Keeps := by
  unfold execXwait
  refine Op.Keeps.exec ?_ h
  constructor
  · intro s0 s c b h
    dsimp only
    grind [HRes.state, State.setHart_mem, State.xferGo_wf]
  · intro force s c b p h
    exact h

/-! ### Matrix -/

theorem execMmode_keeps (o : R1) (s : State) (h : s.mem.wf = true) : (execMmode o s).Keeps := by
  unfold execMmode
  refine Op.Keeps.exec ?_ h
  constructor
  · intro s0 s c b h
    grind [HRes.state, State.setHart_mem]
  · intro force s c b p h
    exact h

theorem execMmodeOff_keeps (o : P0) (s : State) (h : s.mem.wf = true) : (execMmodeOff o s).Keeps := by
  unfold execMmodeOff
  refine Op.Keeps.exec ?_ h
  constructor
  · intro s0 s c b h
    grind [HRes.state, State.setHart_mem]
  · intro force s c b p h
    exact h

theorem execMmodeRd_keeps (o : R1) (s : State) (h : s.mem.wf = true) : (execMmodeRd o s).Keeps := by
  unfold execMmodeRd
  refine Op.Keeps.exec ?_ h
  constructor
  · intro s0 s c b h
    exact h
  · intro force s c b p h
    exact h

theorem execMtile_keeps (o : XQ) (s : State) (h : s.mem.wf = true) : (execMtile o s).Keeps := by
  unfold execMtile
  refine Op.Keeps.exec ?_ h
  constructor
  · intro s0 s c b h
    grind [HRes.state, State.setTile_mem]
  · intro force s c b p h
    exact h

theorem execMtileRel_keeps (o : XQ) (s : State) (h : s.mem.wf = true) : (execMtileRel o s).Keeps := by
  unfold execMtileRel
  refine Op.Keeps.exec ?_ h
  constructor
  · intro s0 s c b h
    grind [HRes.state, State.setTile_mem]
  · intro force s c b p h
    exact h

theorem enginePoll_mem (force : Bool) (s : State) (c b : Nat) (p : Pend) :
    (enginePoll force s c b p).state.mem = s.mem := by
  unfold enginePoll
  grind [HRes.state, State.laneCycle_mem, State.engineWhole_mem]

@[simp] theorem State.enqueue_mem (s : State) (c b : Nat) (i : Instr) : (s.enqueue c b i).mem = s.mem := rfl

theorem engineOp_keeps (i : Instr) (p : Bool) (checks : State → Nat → Nat → List TagCheck)
    (own : State → Nat → Nat → Option Cause) (ready : State → Nat → Nat → Bool)
    (late : State → Nat → Nat → Option Cause) {start : State → Nat → Nat → State}
    (hs : ∀ s c b, (start s c b).mem = s.mem) (r : Option Nat) : (engineOp i p checks own ready late start r).Keeps
      where
  act _ s c b h := by
    unfold engineOp
    grind [HRes.state, State.enqueue_mem]
  poll _ _ _ _ _ h := wf_of_mem (enginePoll_mem ..) h

theorem execMop_keeps (o : X3) (s : State) (h : s.mem.wf = true) : (execMop o s).Keeps := by
  unfold execMop
  exact (engineOp_keeps _ _ _ _ _ _ (fun _ _ _ => rfl) _).exec h

theorem execMops_keeps (o : XS) (s : State) (h : s.mem.wf = true) : (execMops o s).Keeps := by
  unfold execMops
  exact (engineOp_keeps _ _ _ _ _ _ (fun _ _ _ => rfl) _).exec h

theorem execMzero_keeps (o : XZ) (s : State) (h : s.mem.wf = true) : (execMzero o s).Keeps := by
  unfold execMzero
  exact (engineOp_keeps _ _ _ _ _ _ (fun _ _ _ => rfl) _).exec h

theorem execMldacc_keeps (o : XL) (s : State) (h : s.mem.wf = true) : (execMldacc o s).Keeps := by
  unfold execMldacc
  exact (engineOp_keeps _ _ _ _ _ _ (fun _ _ _ => rfl) _).exec h

theorem execMldaccW_keeps (o : X3) (s : State) (h : s.mem.wf = true) : (execMldaccW o s).Keeps := by
  unfold execMldaccW
  exact (engineOp_keeps _ _ _ _ _ _ (fun _ _ _ => rfl) _).exec h

@[simp] theorem State.openDrain_mem (s : State) (c b : Nat) (ds : List Nat) : (s.openDrain c b ds).mem = s.mem := by
  unfold State.openDrain
  refine foldl_mem (fun _ _ => ?_) _ _
  grind [State.beginWrite_mem]

theorem execMdrain_keeps (o : XD) (s : State) (h : s.mem.wf = true) : (execMdrain o s).Keeps := by
  unfold execMdrain
  exact (engineOp_keeps _ _ _ _ _ _ (fun _ _ _ => State.openDrain_mem ..) _).exec h

theorem execMdrainW_keeps (o : XDW) (s : State) (h : s.mem.wf = true) : (execMdrainW o s).Keeps := by
  unfold execMdrainW
  exact (engineOp_keeps _ _ _ _ _ _ (fun _ _ _ => State.openDrain_mem ..) _).exec h

/-! ### Red -/

@[simp] theorem State.redGive_mem (s : State) (key : Nat) (v : Option (RedVal × BitVec 4)) (p : RedPart) :
    (s.redGive key v p).mem = s.mem := by
  grind [State.redGive, State.setHart_mem]

@[simp] theorem State.redCombine_mem (s : State) (c scope key inst : Nat) :
    (s.redCombine c scope key inst).mem = s.mem := by
  simp only [State.redCombine]
  repeat' split
  all_goals simp

@[simp] theorem State.redTry_mem (s : State) (c b chan scope : Nat) : (s.redTry c b chan scope).mem = s.mem := by
  simp [State.redTry]

theorem redPoll_mem (force : Bool) (s : State) (c b : Nat) (p : Pend) : (redPoll force s c b p).state.mem = s.mem := by
  unfold redPoll
  grind [HRes.state, State.redTry_mem]

theorem execRed_keeps (o : RD) (s : State) (h : s.mem.wf = true) : (execRed o s).Keeps := by
  unfold execRed
  refine Op.Keeps.exec ⟨fun _ s c b h => ?_, fun _ _ _ _ _ h => wf_of_mem (redPoll_mem ..) h⟩ h
  grind [HRes.state, State.setCore_mem, State.setPend_mem, !. redPoll_mem]

theorem execRedCombineComplete_keeps (core chan scope : Nat) (s : State) (h : s.mem.wf = true) :
    (execRedCombineComplete core chan scope s).Keeps := by
  simpa [execRedCombineComplete, Res.Keeps] using h

/-! ### Sync -/

@[simp] theorem State.setCtr_mem (s : State) (hub : Bool) (c n : Nat) (x : Ctr) :
    (s.setCtr hub c n x).mem = s.mem := by
  grind [State.setCtr, State.setCore_mem]

@[simp] theorem State.readCtr_mem (s : State) (hub : Bool) (c n : Nat) : (s.readCtr hub c n).1.mem = s.mem := by
  grind [State.readCtr, State.logEvent_mem, State.setCtr_mem]

@[simp] theorem State.writeCtr_mem (s : State) (hub : Bool) (c n : Nat) (v : BitVec 32) :
    (s.writeCtr hub c n v).mem = s.mem := by
  simp [State.writeCtr]

theorem State.semGrant_mem {s : State} {hub : Bool} {c n : Nat} {x : State × CtrWait × BitVec 32}
    (e : s.semGrant hub c n = some x) : x.1.mem = s.mem := by
  grind [State.semGrant, !. State.readCtr_mem, State.setCtr_mem, State.writeCtr_mem]

theorem State.barMet_mem {s : State} {hub : Bool} {c n : Nat} {x : State × CtrWait × BitVec 32}
    (e : s.barMet hub c n = some x) : x.1.mem = s.mem := by
  grind [State.barMet, !. State.readCtr_mem, State.setCtr_mem]

@[simp] theorem State.ctrGive_mem (s : State) (w : CtrWait) (v : BitVec 32) : (s.ctrGive w v).mem = s.mem := by
  grind [State.ctrGive, State.setHart_mem, State.setCt_mem, State.ctDone_mem]

theorem execSemGrant_keeps (hub : Bool) (core ctr : Nat) (s : State) (h : s.mem.wf = true) :
    (execSemGrant hub core ctr s).Keeps := by
  unfold execSemGrant
  show Mem.wf _ = true
  split
  · next e => exact wf_of_mem ((State.ctrGive_mem ..).trans (State.semGrant_mem e)) h
  · exact h

theorem execCounterWaitMet_keeps (hub : Bool) (core ctr : Nat) (s : State) (h : s.mem.wf = true) :
    (execCounterWaitMet hub core ctr s).Keeps := by
  unfold execCounterWaitMet
  show Mem.wf _ = true
  split
  · next e => exact wf_of_mem ((State.ctrGive_mem ..).trans (State.barMet_mem e)) h
  · exact h

theorem ctrWord_wf (i : Instr) (o : CN) (s : State) (c b : Nat) {f : State → BitVec 32 → BitVec 32 → HRes}
    (hf : ∀ t x v, t.mem.wf = true → (f t x v).state.mem.wf = true) (h : s.mem.wf = true) :
    (ctrWord i o s c b f).state.mem.wf = true := by
  grind [ctrWord, HRes.state, !. State.readCtr_mem]

theorem ctrChange_keeps (i : Instr) (o : CN) (new : BitVec 32 → BitVec 32 → BitVec 32) :
    (ctrChange i o new).Keeps where
  act s0 s c b h := by
    dsimp only [ctrChange]
    refine ctrWord_wf _ _ _ _ _ (fun t x v ht => ?_) h
    grind [HRes.state, State.setHart_mem, State.writeCtr_mem]
  poll _ _ _ _ _ h := h

theorem waitPoll_wf (i : Instr) (o : CN) {go : State → Nat → Nat → Option State}
    (hg : ∀ t c b u, go t c b = some u → u.mem = t.mem) (force : Bool) (s : State) (c b : Nat) (p : Pend)
    (h : s.mem.wf = true) : (waitPoll i o go force s c b p).state.mem.wf = true := by
  unfold waitPoll
  grind [HRes.state, !. State.readCtr_mem, State.withdraw_mem, State.setPend_mem]

theorem execBarwait_keeps (o : CN) (s : State) (h : s.mem.wf = true) : (execBarwait o s).Keeps := by
  unfold execBarwait
  refine Op.Keeps.exec ?_ h
  constructor
  · intro s0 s c b h
    dsimp only
    exact ctrWord_wf _ _ _ _ _ (fun t x v ht => by
      grind [HRes.state, State.setPend_mem, State.setCtr_mem]) h
  · intro force s c b p h
    dsimp only
    refine waitPoll_wf _ _ (fun t c b u e => ?_) force s c b p h
    grind [State.ctrGive_mem, State.setCtr_mem]

theorem execSemwait_keeps (o : CN) (s : State) (h : s.mem.wf = true) : (execSemwait o s).Keeps := by
  unfold execSemwait
  refine Op.Keeps.exec ?_ h
  constructor
  · intro s0 s c b h
    dsimp only
    exact ctrWord_wf _ _ _ _ _ (fun t x v ht => by
      grind [HRes.state, State.setPend_mem, State.setCtr_mem]) h
  · intro force s c b p h
    dsimp only
    refine waitPoll_wf _ _ (fun t c b u e => ?_) force s c b p h
    grind [State.ctrGive_mem, → State.semGrant_mem, Option.map_eq_some_iff]

theorem execFence_keeps (o : FN) (s : State) (h : s.mem.wf = true) : (execFence o s).Keeps := by
  unfold execFence
  refine Op.Keeps.exec ?_ h
  constructor
  · intro s0 s c b h
    grind [Acc.state, HRes.state, State.setHart_mem, State.keepRequest_mem, !. State.hostSettled_mem]
  · intro force s c b p h
    exact h

theorem State.colWord_wf (s : State) (c b va n : Nat) (reads writes : Bool) {f : Place → HRes}
    (hf : ∀ p, (f p).state.mem.wf = true) (h : s.mem.wf = true) :
    (s.colWord c b va n reads writes f).state.mem.wf = true := by
  grind [State.colWord, HRes.state]

theorem answerAcc_wf (s : State) (c b va : Nat) (write : Bool) {a : Acc} {f : State → Nat → State}
    (ha : a.state.mem.wf = true) (hf : ∀ t v, (f t v).mem = t.mem) (h : s.mem.wf = true) :
    (answerAcc s c b va write a f).state.mem.wf = true := by
  unfold answerAcc
  split <;> grind [Acc.state, HRes.state, State.keepRequest_mem, State.setPend_mem]

theorem ldPoll_wf (o : LDo) (force : Bool) (s : State) (c b : Nat) (p : Pend) (h : s.mem.wf = true) :
    (ldPoll o force s c b p).state.mem.wf = true := by
  unfold ldPoll
  dsimp only
  split
  · split
    · exact h
    · exact answerAcc_wf _ _ _ _ _ (wf_of_mem (State.load_mem ..) h) (fun _ _ => rfl) h
  · exact h

theorem execLd_keeps (o : LDo) (s : State) (h : s.mem.wf = true) : (execLd o s).Keeps := by
  unfold execLd
  refine Op.Keeps.exec ?_ h
  constructor
  · intro s0 s c b h
    dsimp only
    exact State.colWord_wf _ _ _ _ _ _ _ (fun _ => h) h
  · intro force s c b p h
    exact ldPoll_wf _ _ _ _ _ _ h

@[simp] theorem State.storesGo_wf (c b : Nat) (x0 : List Put) (s : State) (h : s.mem.wf = true) :
    (State.storesGo c b x0 s).mem.wf = true := by
  induction x0 generalizing c b s <;> grind [State.storesGo, Acc.state, State.setHart_mem, State.keepRequest_mem,
    !. State.store_wf]

@[simp] theorem State.storesRun_wf (s : State) (c b : Nat) (h : s.mem.wf = true) :
    (s.storesRun c b).mem.wf = true := by
  simp [State.storesRun, h]

@[simp] theorem State.handOver_wf (s : State) (c b : Nat) (x : Put) (h : s.mem.wf = true) :
    (s.handOver c b x).mem.wf = true := by
  simp [State.handOver, h]

theorem execSt_keeps (o : STo) (s : State) (h : s.mem.wf = true) : (execSt o s).Keeps := by
  unfold execSt
  refine Op.Keeps.exec ?_ h
  constructor
  · intro s0 s c b h
    dsimp only
    refine State.colWord_wf _ _ _ _ _ _ _ (fun p => ?_) h
    grind [HRes.state, Acc.state, State.keepRequest_mem, !. State.hostSettled_mem, !. State.store_wf,
      State.handOver_wf]
  · intro force s c b p h
    exact h

theorem amoPoll_wf (o : AM) (op : Nat) (force : Bool) (s : State) (c b : Nat) (p : Pend) (h : s.mem.wf = true) :
    (amoPoll o op force s c b p).state.mem.wf = true := by
  unfold amoPoll
  dsimp only
  split
  · split
    · exact h
    · exact answerAcc_wf _ _ _ _ _ (State.atomic_wf _ _ _ _ _ _ _ _ _ _ h) (fun _ _ => rfl) h
  · exact h

theorem amoStart_mem (i : Instr) (o : AM) (s : State) (c b : Nat) : (amoStart i o s c b).state.mem = s.mem := by
  grind [amoStart, Acc.state, HRes.state, State.keepRequest_mem, !. State.hostSettled_mem, State.setPend_mem]

theorem amoOp_keeps (i : Instr) (o : AM) (op : Nat) : (amoOp i o op).Keeps where
  act _ s c b h := by
    refine State.colWord_wf _ _ _ _ _ _ _ (fun p => ?_) h
    grind [HRes.state, !. amoStart_mem]
  poll _ _ _ _ _ h := amoPoll_wf _ _ _ _ _ _ _ h

/-! ### CtMem -/

theorem State.ctLine_mem (s : State) (c va : Nat) : (s.ctLine c va).state.mem = s.mem := by
  grind [State.ctLine, Acc.state, CtAcc.state, State.setCt_mem, State.keepRequest_mem, !. State.readHere_mem]

theorem State.ctHalf_mem (s : State) (c va : Nat) : (s.ctHalf c va).state.mem = s.mem := by
  grind [State.ctHalf, CtAcc.state, !. State.ctLine_mem]

theorem State.ctFetch_mem (s : State) (c va : Nat) : (s.ctFetch c va).state.mem = s.mem := by
  grind [State.ctFetch, CtAcc.state, !. State.ctHalf_mem]

@[simp] theorem State.setDcache_mem (s : State) (c : Nat) (t : Tab DWord) : (s.setDcache c t).mem = s.mem := rfl

theorem State.mergeBytes_wf (s : State) (c key : Nat) (x : DWord) (l : List Nat) (t : State) (h : t.mem.wf = true) :
    (s.mergeBytes c key x l t).state.mem.wf = true := by
  induction l generalizing t with
  | nil => exact h
  | cons o l ih => grind [State.mergeBytes, Acc.state, State.store_wf]

theorem State.writeOut_wf (s : State) (c key : Nat) (h : s.mem.wf = true) :
    (s.writeOut c key).state.mem.wf = true := by
  unfold State.writeOut
  grind [Acc.state, State.keepRequest_mem, State.setDcache_mem, !. State.mergeBytes_wf]

theorem State.writeOutAll_wf (c : Nat) (x0 : List Nat) (s : State) (h : s.mem.wf = true) :
    (State.writeOutAll c x0 s).state.mem.wf = true := by
  induction x0 generalizing c s <;> grind [State.writeOutAll, Acc.state, !. State.writeOut_wf]

theorem State.ctRelease_wf (s : State) (c : Nat) (h : s.mem.wf = true) : (s.ctRelease c).state.mem.wf = true := by
  grind [State.ctRelease, Acc.state, !. State.writeOutAll_wf]

@[simp] theorem State.ctAcquire_mem (s : State) (c : Nat) : (s.ctAcquire c).mem = s.mem := rfl

theorem State.dcacheRoom_wf (s : State) (c key : Nat) (h : s.mem.wf = true) :
    (s.dcacheRoom c key).state.mem.wf = true := by
  unfold State.dcacheRoom
  grind [Acc.state, State.setDcache_mem, !. State.writeOutAll_wf]

theorem State.ctRead_wf (s : State) (c va n : Nat) (h : s.mem.wf = true) : (s.ctRead c va n).state.mem.wf = true := by
  unfold State.ctRead
  split <;> grind [Acc.state, CtAcc.state, State.keepRequest_mem, !. State.load_mem, State.setDcache_mem,
    !. State.dcacheRoom_wf]

@[simp] theorem State.ctPut_mem (s : State) (c key o n v : Nat) : (s.ctPut c key o n v).mem = s.mem := rfl

theorem State.ctWrite_wf (s : State) (c va n v : Nat) (h : s.mem.wf = true) :
    (s.ctWrite c va n v).state.mem.wf = true := by
  unfold State.ctWrite
  split <;> grind [Acc.state, CtAcc.state, State.keepRequest_mem, !. State.load_mem, !. State.store_wf,
    State.setDcache_mem, !. State.dcacheRoom_wf, State.ctPut_mem]

theorem CtAcc.end_keeps {a : CtAcc} (ha : a.state.mem.wf = true) (c r : Nat) (f : Nat → Word) :
    (a.end c r f).Keeps := by
  unfold CtAcc.end
  show Mem.wf _ = true
  grind [CtAcc.state, State.ctDone_mem, State.ctCause_mem]

theorem execCtLoad_keeps (o : CtM) (s : State) (h : s.mem.wf = true) : (execCtLoad o s).Keeps := by
  unfold execCtLoad
  extract_lets c va n
  split
  · exact wf_of_mem (State.ctTrap_mem ..) h
  · exact CtAcc.end_keeps (State.ctRead_wf _ _ _ _ h) ..

theorem execCtStore_keeps (o : CtM) (s : State) (h : s.mem.wf = true) : (execCtStore o s).Keeps := by
  unfold execCtStore
  extract_lets c va n
  split
  · exact wf_of_mem (State.ctTrap_mem ..) h
  · exact CtAcc.end_keeps (State.ctWrite_wf _ _ _ _ _ h) ..

theorem State.ctOrdered_wf (s : State) (c key : Nat) (rl : Bool) (h : s.mem.wf = true) :
    (s.ctOrdered c key rl).state.mem.wf = true := by
  grind [State.ctOrdered, Acc.state, !. State.writeOut_wf, !. State.ctRelease_wf]

@[simp] theorem State.ctForget_mem (s : State) (c key : Nat) : (s.ctForget c key).mem = s.mem := rfl

theorem ctAtomic_keeps (o : CtA) (s : State) (reads writes hostOk : Bool)
    {f : State → Nat → Place → Nat → Nat → Acc}
    (hf : ∀ t c p n va, t.mem.wf = true → (f t c p n va).state.mem.wf = true) (g : Nat → Word) {fin : State → Nat → State}
    (hfin : ∀ t n, (fin t n).mem = t.mem) (h : s.mem.wf = true) :
    (ctAtomic o s reads writes hostOk f g fin).Keeps := by
  unfold ctAtomic
  extract_lets c n va
  split
  · exact wf_of_mem (State.ctTrap_mem ..) h
  split
  · exact wf_of_mem (State.ctCause_mem ..) h
  split
  · exact wf_of_mem (State.ctCause_mem ..) h
  extract_lets key
  clear_value va n key
  split
  · exact h
  have ordered := State.ctOrdered_wf s c key o.rl h
  split
  · next e => rwa [e] at ordered
  next s0 _ _ e =>
  replace ordered : s0.mem.wf = true := by rwa [e] at ordered
  split
  · exact wf_of_mem (State.keepRequest_mem ..) ordered
  next s1 _ _ e =>
  have settled : s1.mem.wf = true := by
    have m := State.hostSettled_mem s0 (o.rl && s.sharedPage c (s.dataMach c) va) (.ct c) va
    rw [e] at m
    exact wf_of_mem m ordered
  have op {p a} (e : f s1 c p n va = a) : a.state.mem.wf = true := e ▸ hf s1 c p n va settled
  split
  · exact wf_of_mem (State.keepRequest_mem ..) settled
  · next e => exact wf_of_mem (State.ctCause_mem ..) (op e)
  next s2 _ e =>
  replace op := op e
  refine wf_of_mem (State.ctDone_mem ..) ?_
  grind [Acc.state, State.ctAcquire_mem, State.ctForget_mem]

theorem execCtAmo_keeps (o : CtA) (s : State) (h : s.mem.wf = true) : (execCtAmo o s).Keeps := by
  unfold execCtAmo
  exact ctAtomic_keeps _ _ _ _ _ (fun _ _ _ _ _ ht => State.atomic_wf _ _ _ _ _ _ _ _ _ _ ht) _ (fun _ _ => rfl) h

theorem execCtLr_keeps (o : CtA) (s : State) (h : s.mem.wf = true) : (execCtLr o s).Keeps := by
  unfold execCtLr
  refine ctAtomic_keeps _ _ _ _ _ (fun t c p n va ht => ?_) _ (fun _ _ => rfl) h
  split
  · exact State.atomic_wf _ _ _ _ _ _ _ _ _ _ ht
  · exact wf_of_mem (State.load_mem ..) ht

theorem execCtSc_keeps (o : CtA) (s : State) (h : s.mem.wf = true) : (execCtSc o s).Keeps := by
  unfold execCtSc
  refine ctAtomic_keeps _ _ _ _ _ (fun t c p n va ht => ?_) _ (fun _ _ => rfl) h
  grind [Acc.state, !. State.atomic_wf, !. State.store_wf]

theorem execCtFence_keeps (o : CtF) (s : State) (h : s.mem.wf = true) : (execCtFence o s).Keeps := by
  grind [execCtFence, Res.Keeps, Acc.state, State.keepRequest_mem, !. State.hostSettled_mem, State.ctDone_mem,
    !. State.ctRelease_wf, State.ctAcquire_mem]

theorem execCtFenceI_keeps (s : State) (h : s.mem.wf = true) : (execCtFenceI s).Keeps := by
  grind [execCtFenceI, Res.Keeps, Acc.state, State.setCt_mem, State.ctDone_mem, !. State.ctRelease_wf]

theorem execDcacheEviction_keeps (core word : Nat) (s : State) (h : s.mem.wf = true) :
    (execDcacheEviction core word s).Keeps := by
  grind [execDcacheEviction, Res.Keeps, Acc.state, !. State.writeOut_wf, State.ctForget_mem]

/-! ### RvBase -/

@[simp] theorem State.ctIllegal_mem (s : State) (c raw : Nat) : (s.ctIllegal c raw).mem = s.mem := by
  simp [State.ctIllegal]

@[simp] theorem State.ctJump_mem (s : State) (c r : Nat) (target : Word) : (s.ctJump c r target).mem = s.mem := rfl

@[simp] theorem State.ctBase_mem (s : State) (c w raw : Nat) : (s.ctBase c w raw).mem = s.mem := by
  simp only [State.ctBase]
  repeat' split
  all_goals simp

/-! ### Gangs -/

@[simp] theorem State.blockStart_mem (s : State) (c g : Nat) : (s.blockStart c g).mem = s.mem := by
  have starts : ∀ (l : List Nat) (t : State), (l.foldl (fun t b =>
      if (t.hart c b).st = .parked then t.setHart c b { t.hart c b with st := .member } else t) t).mem = t.mem :=
    fun l t => foldl_mem (fun t b => by split <;> rfl) l t
  grind [State.blockStart, State.setGang_mem, State.alignPcs_mem]

@[simp] theorem State.blockRetire_mem (s : State) (c g : Nat) : (s.blockRetire c g).mem = s.mem := by
  grind [State.blockRetire, State.setGang_mem]

@[simp] theorem State.finishWord_wf (s : State) (c b : Nat) (h : s.mem.wf = true) :
    (s.finishWord c b).mem.wf = true := by
  grind [State.finishWord, State.setPend_mem, State.hartFault_mem, State.retire_wf, State.gangRetire_wf]

@[simp] theorem State.finishWords_wf (x0 : Nat) (x1 : Nat) (x2 : Nat) (s : State) (h : s.mem.wf = true) :
    (State.finishWords x0 x1 x2 s).mem.wf = true := by
  induction x0 generalizing x1 x2 s <;> grind [State.finishWords, State.setHart_mem, State.endDests_mem,
    State.finishWord_wf]

@[simp] theorem State.takeYoung_wf (x0 : Nat) (x1 : Nat) (x2 : Nat) (x3 : BitVec 48) (s : State) (h : s.mem.wf = true) :
    (State.takeYoung x0 x1 x2 x3 s).mem.wf = true := by
  induction x0 generalizing x1 x2 x3 s <;> grind [State.takeYoung, State.setHart_mem, State.retireNotes_wf]

@[simp] theorem State.killed_wf (s : State) (c b egi : Nat) (h : s.mem.wf = true) :
    (s.killed c b egi).mem.wf = true := by
  grind [State.killed, State.setHart_mem, State.keepYoung_mem, State.hartFault_mem, State.takeYoung_wf]

@[simp] theorem State.stopHart_wf (s : State) (c b : Nat) (h : s.mem.wf = true) :
    (s.stopHart c b).1.mem.wf = true := by
  unfold State.stopHart
  cases e : s.sergeTry [] c b with
  | none => exact State.stopWork_wf _ _ _ h
  | some t => exact State.stopWork_wf _ _ _ (State.sergeTry_mem _ _ _ _ e ▸ h)

@[simp] theorem State.killHart_wf (s : State) (c b : Nat) (h : s.mem.wf = true) : (s.killHart c b).mem.wf = true := by
  grind [State.killHart, State.finishWords_wf, State.killed_wf, !. State.stopHart_wf]

@[simp] theorem State.killHarts_wf (s : State) (c : Nat) (bs : List Nat) (h : s.mem.wf = true) :
    (s.killHarts c bs).mem.wf = true := by
  unfold State.killHarts
  refine foldl_wf (fun _ _ h => ?_) _ h
  grind [State.killHart_wf]

@[simp] theorem State.markDying_mem (s : State) (c : Nat) (bs : List Nat) : (s.markDying c bs).mem = s.mem := by
  unfold State.markDying
  refine foldl_mem (fun _ _ => ?_) _ _
  grind [State.setHart_mem]

@[simp] theorem State.stopDying_wf (s : State) (c : Nat) (bs : List Nat) (h : s.mem.wf = true) :
    (s.stopDying c bs).mem.wf = true := by
  simp [State.stopDying, h]

@[simp] theorem State.pauseHart_wf (s : State) (c b : Nat) (h : s.mem.wf = true) :
    (s.pauseHart c b).mem.wf = true := by
  unfold State.pauseHart
  grind [State.setHart_mem, State.noFirst_mem, State.finishWords_wf, !. State.stopHart_wf]

@[simp] theorem State.pauseHarts_wf (s : State) (c : Nat) (h : s.mem.wf = true) : (s.pauseHarts c).mem.wf = true := by
  unfold State.pauseHarts
  refine foldl_wf (fun _ _ h => ?_) _ h
  grind [State.pauseHart_wf]

/-! ### Xhlm -/

theorem XRes.end_keeps {r : XRes} (hr : r.state.mem.wf = true) (d : BitVec 5) : (r.end d).Keeps := by
  unfold XRes.end
  show Mem.wf _ = true
  grind [XRes.state, State.ctDone_mem, State.ctCause_mem]

theorem xhlmOperand_mem (s : State) (i : Instr) : (xhlmOperand s i).state.mem = s.mem := rfl

theorem State.gdef_mem (s : State) (c g new : Nat) (hold : Bool) : (s.gdef c g new hold).state.mem = s.mem := by
  unfold State.gdef
  extract_lets k x taken old s1
  clear_value taken
  split
  · rfl
  split
  · rfl
  · refine (State.setGang_mem s1 ..).trans (foldl_mem (fun t b => ?_) (List.range 32) s)
    extract_lets h h1 h2
    split <;> rfl

theorem execGdef_keeps (o : XH) (s : State) (h : s.mem.wf = true) : (execGdef o s).Keeps := by
  unfold execGdef
  refine XRes.end_keeps ?_ _
  grind [XRes.state, !. xhlmOperand_mem, !. State.gdef_mem]

theorem State.fetchBlocks_inl {c n va : Nat} {s : State} {l : List (List Nat × Nat)} {r : XRes}
    (e : State.fetchBlocks c n va s l = .inl r) : r.state.mem = s.mem := by
  induction n generalizing va s l with
  | zero => cases e
  | succ n ih => grind [State.fetchBlocks, XRes.state, CtAcc.state, !. State.ctLine_mem]

theorem State.fetchBlocks_inr {c n va : Nat} {s : State} {l : List (List Nat × Nat)}
    {a : State × List (List Nat × Nat)}
    (e : State.fetchBlocks c n va s l = .inr a) : a.1.mem = s.mem := by
  induction n generalizing va s l with
  | zero => cases e; rfl
  | succ n ih => grind [State.fetchBlocks, CtAcc.state, !. State.ctLine_mem]

theorem State.bcast_mem (s : State) (c g va n : Nat) : (s.bcast c g va n).state.mem = s.mem := by
  grind [State.bcast, XRes.state, → State.fetchBlocks_inl, → State.fetchBlocks_inr, State.setGang_mem]

theorem execBcast_keeps (o : XH) (s : State) (h : s.mem.wf = true) : (execBcast o s).Keeps := by
  unfold execBcast
  refine XRes.end_keeps ?_ _
  grind [XRes.state, !. xhlmOperand_mem, !. State.bcast_mem]

theorem execBcastn_keeps (o : XH) (s : State) (h : s.mem.wf = true) : (execBcastn o s).Keeps := by
  unfold execBcastn
  refine XRes.end_keeps ?_ _
  grind [XRes.state, !. xhlmOperand_mem, !. State.bcast_mem]

theorem execGwait_keeps (o : XH) (s : State) (h : s.mem.wf = true) : (execGwait o s).Keeps := by
  unfold execGwait
  refine XRes.end_keeps ?_ _
  grind [XRes.state, State.ctAcquire_mem, !. xhlmOperand_mem]

theorem execGset_keeps (o : XH) (s : State) (h : s.mem.wf = true) : (execGset o s).Keeps := by
  unfold execGset
  extract_lets
  refine XRes.end_keeps ?_ _
  grind [XRes.state, State.setHart_mem, !. xhlmOperand_mem]

theorem execHget_keeps (o : XH) (s : State) (h : s.mem.wf = true) : (execHget o s).Keeps := by
  unfold execHget
  refine XRes.end_keeps ?_ _
  grind [XRes.state, State.setHart_mem, !. xhlmOperand_mem]

theorem execHstat_keeps (o : XH) (s : State) (h : s.mem.wf = true) : (execHstat o s).Keeps := by
  unfold execHstat
  refine XRes.end_keeps ?_ _
  grind [XRes.state, !. xhlmOperand_mem]

theorem execHresume_keeps (o : XH) (s : State) (h : s.mem.wf = true) : (execHresume o s).Keeps := by
  unfold execHresume
  refine XRes.end_keeps ?_ _
  grind [XRes.state, State.setHart_mem, !. xhlmOperand_mem]

theorem execHkill_keeps (o : XH) (s : State) (h : s.mem.wf = true) : (execHkill o s).Keeps := by
  unfold execHkill
  refine XRes.end_keeps ?_ _
  grind [XRes.state, State.killHarts_wf, State.markDying_mem, !. xhlmOperand_mem]

theorem State.storeWords_wf (c va v : Nat) (x0 : List Nat) (s : State) (h : s.mem.wf = true) :
    (State.storeWords c va v x0 s).state.mem.wf = true := by
  induction x0 generalizing c va v s <;> grind [State.storeWords, CtAcc.state, !. State.ctWrite_wf]

theorem State.storeRecord_wf (s : State) (c va v : Nat) (h : s.mem.wf = true) :
    (s.storeRecord c va v).state.mem.wf = true := by
  unfold State.storeRecord
  grind [Acc.state, CtAcc.state, State.keepRequest_mem, !. State.store_wf, !. State.storeWords_wf]

theorem State.takeEvent_wf (s : State) (c va : Nat) (i : Instr) (wait : Bool) (h : s.mem.wf = true) :
    (s.takeEvent c va i wait).state.mem.wf = true := by
  grind [State.takeEvent, CtAcc.state, XRes.state, State.setCore_mem, State.keepRequest_mem, State.drainEvents_mem,
    State.ctAcquire_mem, !. xhlmOperand_mem, !. State.storeRecord_wf]

theorem execEvwait_keeps (o : XH) (s : State) (h : s.mem.wf = true) : (execEvwait o s).Keeps := by
  unfold execEvwait
  refine XRes.end_keeps ?_ _
  grind [XRes.state, !. State.takeEvent_wf]

theorem execEvpoll_keeps (o : XH) (s : State) (h : s.mem.wf = true) : (execEvpoll o s).Keeps := by
  unfold execEvpoll
  refine XRes.end_keeps ?_ _
  grind [XRes.state, !. State.takeEvent_wf]

theorem execEventRecordEnter_keeps (core : Nat) (s : State) (h : s.mem.wf = true) :
    (execEventRecordEnter core s).Keeps := by
  simpa [execEventRecordEnter, Res.Keeps] using h

theorem State.ctbar_wf (s : State) (i : Instr) (o : XH) {f : State → Bool → Nat → BitVec 32 → BitVec 32 → XRes}
    (hf : ∀ t hub n y x, t.mem.wf = true → (f t hub n y x).state.mem.wf = true) (h : s.mem.wf = true) :
    (s.ctbar i o f).state.mem.wf = true := by
  grind [State.ctbar, XRes.state, xhlmOperand_mem, !. State.readCtr_mem, State.withdraw_mem]

theorem State.ctbarChange_wf (s : State) (hub : Bool) (n : Nat) (x new : BitVec 32) (h : s.mem.wf = true) :
    (s.ctbarChange hub n x new).state.mem.wf = true := by
  grind [State.ctbarChange, Acc.state, XRes.state, State.writeCtr_mem, !. State.ctRelease_wf]

theorem execCtbarArrive_keeps (o : XH) (s : State) (h : s.mem.wf = true) : (execCtbarArrive o s).Keeps := by
  unfold execCtbarArrive
  exact XRes.end_keeps (State.ctbar_wf _ _ _ (fun t _ _ _ _ ht => State.ctbarChange_wf _ _ _ _ _ ht) h) _

theorem execCtbarSempost_keeps (o : XH) (s : State) (h : s.mem.wf = true) : (execCtbarSempost o s).Keeps := by
  unfold execCtbarSempost
  exact XRes.end_keeps (State.ctbar_wf _ _ _ (fun t _ _ _ _ ht => State.ctbarChange_wf _ _ _ _ _ ht) h) _

theorem execCtbarSet_keeps (o : XH) (s : State) (h : s.mem.wf = true) : (execCtbarSet o s).Keeps := by
  unfold execCtbarSet
  refine XRes.end_keeps ?_ _
  grind [XRes.state, !. State.readCtr_mem, !. xhlmOperand_mem, !. State.ctbarChange_wf]

theorem execCtbarWait_keeps (o : XH) (s : State) (h : s.mem.wf = true) : (execCtbarWait o s).Keeps := by
  unfold execCtbarWait
  refine XRes.end_keeps (State.ctbar_wf _ _ _ (fun t _ _ _ _ ht => ?_) h) _
  grind [XRes.state, State.withdraw_mem, State.ctAcquire_mem, State.setCtr_mem]

theorem execCtbarSemwait_keeps (o : XH) (s : State) (h : s.mem.wf = true) : (execCtbarSemwait o s).Keeps := by
  unfold execCtbarSemwait
  refine XRes.end_keeps (State.ctbar_wf _ _ _ (fun t _ _ _ _ ht => ?_) h) _
  grind [XRes.state, → State.semGrant_mem, State.ctAcquire_mem, State.setCtr_mem]

/-! ### Tasks -/

@[simp] theorem State.errVector_mem (s : State) : s.errVector.mem = s.mem := by
  grind [State.errVector, State.send_mem]

@[simp] theorem State.qevent_mem (s : State) (q n : Nat) : (s.qevent q n).mem = s.mem := by
  simp [State.qevent]

@[simp] theorem State.e2eEvent_mem (s : State) : s.e2eEvent.mem = s.mem := by
  simp [State.e2eEvent]

@[simp] theorem State.signal_mem (s : State) (w : Word) : (s.signal w).mem = s.mem := by
  grind [State.signal, State.logHub_mem, !. State.readCtr_mem, State.writeCtr_mem]

@[simp] theorem State.message_mem (s : State) (fn q : Nat) (cq : Word) : (s.message fn q cq).mem = s.mem := by
  grind [State.message, State.send_mem, State.qevent_mem]

@[simp] theorem State.putRecord_mem (s : State) (h : Held) : (s.putRecord h).mem = s.mem := by
  grind [State.putRecord, State.setQ_mem, State.send_mem, State.qevent_mem, State.signal_mem, State.message_mem]

@[simp] theorem State.markHeld_mem (s : State) (q : Nat) : (s.markHeld q).mem = s.mem := by
  grind [State.markHeld, State.qevent_mem]

@[simp] theorem State.deliver_mem (s : State) (h : Held) : (s.deliver h).1.mem = s.mem := by
  grind [State.deliver, State.putRecord_mem, State.markHeld_mem]

@[simp] theorem State.writeHeld_mem (s : State) (q : Nat) : (s.writeHeld q).mem = s.mem := by
  grind [State.writeHeld, State.putRecord_mem]

@[simp] theorem State.coreLeavesReds_mem (s : State) (c : Nat) : (s.coreLeavesReds c).mem = s.mem := rfl

@[simp] theorem State.coreLeavesCtrs_mem (s : State) (c : Nat) : (s.coreLeavesCtrs c).mem = s.mem := rfl

@[simp] theorem State.forget_mem (s : State) (w : Waiter) : (s.forget w).mem = s.mem := by
  simp [State.forget]

@[simp] theorem State.dropLaunch_mem (s : State) (c : Nat) : (s.dropLaunch c).mem = s.mem := by
  grind [State.dropLaunch, State.forget_mem]

@[simp] theorem State.endWork_mem (s : State) (c : Nat) : (s.endWork c).mem = s.mem := by
  simp [State.endWork]

@[simp] theorem State.dropSaved_mem (s : State) (num c : Nat) : (s.dropSaved num c).mem = s.mem := rfl

@[simp] theorem State.mapTask_mem (s : State) (n : Nat) (f : Task → Task) : (s.mapTask n f).mem = s.mem := rfl

@[simp] theorem State.clusterBack_mem (s : State) (n : Nat) : (s.clusterBack n).mem = s.mem := by
  grind [State.clusterBack, State.setCluster_mem]

@[simp] theorem State.freeCores_mem (s : State) (t : Task) : (s.freeCores t).mem = s.mem := by
  refine (foldl_mem (fun _ _ => State.clusterBack_mem ..) _ _).trans (foldl_mem (fun _ _ => ?_) _ _)
  split <;> rfl

@[simp] theorem State.dropTask_mem (s : State) (t : Task) : (s.dropTask t).mem = s.mem := by
  simp [State.dropTask]

@[simp] theorem State.finishTask_mem (s : State) (t : Task) (e : TaskEnd) : (s.finishTask t e).1.mem = s.mem := by
  grind [State.finishTask, State.qevent_mem, State.signal_mem, !. State.deliver_mem, State.dropTask_mem]

@[simp] theorem State.stopHarts_wf (s : State) (c : Nat) (bs : List Nat) (h : s.mem.wf = true) :
    (s.stopHarts c bs).mem.wf = true := by
  simp [State.stopHarts, h]

@[simp] theorem State.stopTask_wf (s : State) (t : Task) (h : s.mem.wf = true) : (s.stopTask t).mem.wf = true := by
  unfold State.stopTask
  refine foldl_wf (fun _ _ h => ?_) _ h
  grind [State.setCt_mem, State.stopHarts_wf]

@[simp] theorem State.disposeTask_mem (s : State) (t : Task) : (s.disposeTask t).mem = s.mem := by
  unfold State.disposeTask
  refine foldl_mem (fun _ _ => ?_) _ _
  grind [State.endWork_mem, State.dropSaved_mem]

@[simp] theorem State.goEnd_wf (s : State) (n : Nat) (h : s.mem.wf = true) : (s.goEnd n).mem.wf = true := by
  unfold State.goEnd
  grind [State.mapTask_mem, !. State.finishTask_mem, State.stopTask_wf, State.disposeTask_mem]

@[simp] theorem State.logEnd_mem (s : State) (e : TaskEnd) : (s.logEnd e).mem = s.mem := by
  grind [State.logEnd, State.logEvent_mem]

@[simp] theorem State.endTask_wf (s : State) (n : Nat) (e : TaskEnd) (h : s.mem.wf = true) :
    (s.endTask n e).mem.wf = true := by
  grind [State.endTask, State.mapTask_mem, State.goEnd_wf, State.logEnd_mem]

@[simp] theorem State.faultTask_wf (s : State) (n core code : Nat) (h : s.mem.wf = true) :
    (s.faultTask n core code).mem.wf = true := by
  simp [State.faultTask, h]

@[simp] theorem State.logTrap_mem (s : State) (c code : Nat) : (s.logTrap c code).mem = s.mem := by
  simp only [State.logTrap]; split <;> simp

theorem execTaskFaultEnd_keeps (num core code : Nat) (s : State) (h : s.mem.wf = true) :
    (execTaskFaultEnd num core code s).Keeps := by
  grind [execTaskFaultEnd, Res.Keeps, State.faultTask_wf, State.logTrap_mem]

@[simp] theorem State.stopClock_mem (s : State) (n : Nat) : (s.stopClock n).mem = s.mem := rfl

@[simp] theorem State.startClock_mem (s : State) (n : Nat) : (s.startClock n).mem = s.mem := by
  grind [State.startClock, State.mapTask_mem]

@[simp] theorem State.preempted_mem (s : State) (n : Nat) : (s.preempted n).mem = s.mem := by
  grind [State.preempted, State.mapTask_mem]

@[simp] theorem State.watchdog_wf (s : State) (n : Nat) (h : s.mem.wf = true) : (s.watchdog n).mem.wf = true := by
  grind [State.watchdog, State.endTask_wf]

@[simp] theorem State.dropBlocks_mem (s : State) (c : Nat) : (s.dropBlocks c).mem = s.mem := rfl

@[simp] theorem State.endAsked_mem (s : State) (c n req : Nat) : (s.endAsked c n req).mem = s.mem := by
  grind [State.endAsked, State.setCore_mem, State.startClock_mem, State.preempted_mem]

@[simp] theorem State.coreDone_wf (s : State) (c n : Nat) (h : s.mem.wf = true) : (s.coreDone c n).mem.wf = true := by
  grind [State.coreDone, State.endWork_mem, State.mapTask_mem, State.endTask_wf, State.endAsked_mem]

def Lines.state : Lines → State
  | .got s _ => s
  | .bad s _ => s
  | .wait s => s

def Judged.state : Judged → State
  | .accept s _ _ => s
  | .refuse s _ => s
  | .wait s => s

@[simp] theorem State.taskend_wf (s : State) (c : Nat) (h : s.mem.wf = true) : (s.taskend c).mem.wf = true := by
  grind [State.taskend, Acc.state, State.setCt_mem, !. State.ctRelease_wf, State.markHeld_mem, State.endWork_mem,
    State.stopHarts_wf, State.dropBlocks_mem, State.coreDone_wf]

theorem execTaskend_keeps (s : State) (h : s.mem.wf = true) : (execTaskend s).Keeps := by
  simp [execTaskend, Res.Keeps, h]

/-! ### Accept -/

theorem State.unitRead_mem (s : State) (w : Waiter) (va : Nat) (p : Place) (n : Nat) :
    (s.unitRead w va p n).state.mem = s.mem := by
  grind [State.unitRead, Acc.state, !. State.load_mem]

theorem State.lines_mem (w : Waiter) (va : Nat) (p : Place) (x0 : Nat) (s : State) :
    (State.lines w va p x0 s).state.mem = s.mem := by
  induction x0 generalizing w va p s <;> grind [State.lines, Acc.state, Lines.state, !. State.unitRead_mem]

theorem State.refusedOr_mem {α : Type} (s : State) (e : Cause) : (s.refusedOr e : Found α).state.mem = s.mem := by
  grind [State.refusedOr, Found.state, State.walkRequest_mem]

theorem State.coresOf_mem (s : State) (fn : Nat) (r : Record) : (s.coresOf fn r).state.mem = s.mem := by
  grind [State.coresOf, Found.state, Lines.state, State.keepRequest_mem, State.forget_mem, !. State.lines_mem,
    !. State.refusedOr_mem]

theorem State.rangeEntry_mem (s : State) (asid v : Nat) : (s.rangeEntry asid v).state.mem = s.mem := by
  grind [State.rangeEntry, Found.state, !. State.refusedOr_mem]

theorem State.rangeList_mem (asid fn : Nat) (x0 : Nat) (x1 : Nat) (s : State) (x3 : List (Nat × Nat × Bool)) :
    (State.rangeList asid fn x0 x1 s x3).state.mem = s.mem := by
  induction x0 generalizing asid fn x1 s x3 <;> grind [State.rangeList, Acc.state, Found.state, !. State.unitRead_mem,
    !. State.refusedOr_mem, !. State.rangeEntry_mem]

theorem State.rangesOf_mem (s : State) (fn : Nat) (r : Record) : (s.rangesOf fn r).state.mem = s.mem := by
  grind [State.rangesOf, Found.state, State.keepRequest_mem, !. State.rangeList_mem]

theorem State.judgeSave_mem (s : State) (r : Record) (cores : List Nat) (ranges : List (Nat × Nat × Bool)) :
    (s.judgeSave r cores ranges).state.mem = s.mem := by
  grind [State.judgeSave, Judged.state, State.walkRequest_mem]

theorem State.judge_mem (s : State) (fn : Nat) (r : Record) : (s.judge fn r).state.mem = s.mem := by
  have cores := State.coresOf_mem s fn r
  unfold State.judge
  extract_lets asid
  split
  · rfl
  split
  · exact State.walkRequest_mem ..
  split
  · rfl
  split
  · rfl
  split
  · next e => rwa [e] at cores
  · next e => rwa [e] at cores
  next s1 l e =>
  replace cores : s1.mem = s.mem := by rwa [e] at cores
  split
  · exact cores
  split
  · split
    · exact State.keepRequest_mem ..
    · exact cores
  have ranges := State.rangesOf_mem s1 fn r
  split
  · exact State.keepRequest_mem ..
  · next e => rw [e] at ranges; exact ranges.trans cores
  next s2 rs e =>
  rw [e] at ranges
  split
  · exact State.keepRequest_mem ..
  · exact (State.judgeSave_mem ..).trans (ranges.trans cores)

@[simp] theorem State.enterTask_mem (s : State) (source fn : Nat) (v : BitVec 2048) (r : Record) (cores : List Nat)
    (ranges : List (Nat × Nat × Bool)) (origin : Option Nat) : (s.enterTask source fn v r cores ranges origin).mem =
    s.mem := by
  grind [State.enterTask, State.sendAll_mem]

@[simp] theorem State.reportRefused_mem (s : State) : s.reportRefused.mem = s.mem := by
  grind [State.reportRefused, State.qevent_mem, !. State.deliver_mem]

@[simp] theorem State.served_mem (s : State) (q : Nat) : (s.served q).mem = s.mem := rfl

@[simp] theorem State.serve_mem (s : State) (x : Option Serving) : (s.serve x).mem = s.mem := rfl

@[simp] theorem State.finished_mem (s : State) : s.finished.mem = s.mem := by
  simp [State.finished]

@[simp] theorem State.launchEnd_mem (s : State) (l : LaunchReq) (code : Nat) : (s.launchEnd l code).mem = s.mem := by
  simp [State.launchEnd]

@[simp] theorem State.launchTrap_mem (s : State) (l : LaunchReq) (code detail : Nat) :
    (s.launchTrap l code detail).mem = s.mem := by
  simp [State.launchTrap]

@[simp] theorem State.judgeRecord_mem (s : State) (q fn : Nat) (v : BitVec 2048) (epoch : Nat) :
    (s.judgeRecord q fn v epoch).mem = s.mem := by
  grind [State.judgeRecord, Judged.state, !. State.judge_mem, State.enterTask_mem, State.reportRefused_mem,
    State.serve_mem, State.finished_mem, State.launchEnd_mem]

theorem State.recordLines_mem (w : Waiter) (pa : Nat) (x0 : Nat) (s : State) :
    (State.recordLines w pa x0 s).state.mem = s.mem := by
  induction x0 generalizing w pa s <;> grind [State.recordLines, Acc.state, Lines.state, !. State.readHere_mem]

@[simp] theorem State.begin_mem (s : State) (q : Nat) : (s.begin_ q).mem = s.mem := rfl

@[simp] theorem State.acceptRing_mem (s : State) (q fn pa epoch : Nat) : (s.acceptRing q fn pa epoch).mem = s.mem := by
  grind [State.acceptRing, Lines.state, State.setQ_mem, State.keepRequest_mem, State.forget_mem, State.served_mem,
    State.judgeRecord_mem, !. State.recordLines_mem]

@[simp] theorem State.acceptLaunch_mem (s0 : State) (l : LaunchReq) : (s0.acceptLaunch l).mem = s0.mem := by
  grind [State.acceptLaunch, Lines.state, State.keepRequest_mem, State.walkRequest_mem, State.forget_mem,
    !. State.lines_mem, State.launchTrap_mem, State.judgeRecord_mem]

@[simp] theorem State.serveOn_mem (s : State) (x : Serving) : (s.serveOn x).mem = s.mem := by
  unfold State.serveOn
  grind [State.finished_mem, State.judgeRecord_mem, State.acceptRing_mem, State.acceptLaunch_mem]

@[simp] theorem State.accept_mem (s0 : State) : s0.accept.mem = s0.mem := by
  grind [State.accept, State.reportRefused_mem, State.begin_mem, State.serveOn_mem]

@[simp] theorem State.launch_wf (s : State) (c va rd : Nat) (h : s.mem.wf = true) :
    (s.launch c va rd).mem.wf = true := by
  grind [State.launch, Acc.state, !. State.ctRelease_wf, State.accept_mem]

theorem execLaunch_keeps (o : XH) (s : State) (h : s.mem.wf = true) : (execLaunch o s).Keeps := by
  unfold execLaunch
  split
  · exact XRes.end_keeps (wf_of_mem (xhlmOperand_mem ..) h) _
  · exact State.launch_wf _ _ _ _ h

@[simp] theorem State.tryPacket_mem (s : State) (origin : Nat) (v : BitVec 2048) :
    (s.tryPacket origin v).1.mem = s.mem := by
  grind [State.tryPacket, Judged.state, State.send_mem, !. State.judge_mem, State.enterTask_mem, State.serve_mem,
    State.finished_mem]

@[simp] theorem State.packetsGo_mem (x0 : List (Nat × BitVec 2048)) (s : State) :
    (State.packetsGo x0 s).mem = s.mem := by
  induction x0 generalizing s <;> grind [State.packetsGo, !. State.tryPacket_mem]

@[simp] theorem State.retryPackets_mem (s : State) : s.retryPackets.mem = s.mem := by
  simp [State.retryPackets]

theorem execLaunchPacketReceive_keeps (origin : Nat) (packet : BitVec 2048) (s : State) (h : s.mem.wf = true) :
    (execLaunchPacketReceive origin packet s).Keeps :=
  wf_of_mem (State.retryPackets_mem _) h

@[simp] theorem State.arriveAt_mem (s : State) (b : Barrier) (member : Nat) : (s.arriveAt b member).mem = s.mem := by
  grind [State.arriveAt, State.sendAll_mem, State.mapTask_mem]

@[simp] theorem State.arrive_mem (s : State) (gen member : Nat) : (s.arrive gen member).mem = s.mem := by
  grind [State.arrive, State.arriveAt_mem]

@[simp] theorem State.arriveSelf_mem (s : State) (num : Nat) : (s.arriveSelf num).mem = s.mem := by
  grind [State.arriveSelf, State.arriveAt_mem]

theorem execStartReceive_keeps (origin gen : Nat) (s : State) (h : s.mem.wf = true) :
    (execStartReceive origin gen s).Keeps :=
  wf_of_mem (State.retryPackets_mem _) h

@[simp] theorem State.abortSpan_wf (s : State) (gen code peer : Nat) (of : Barrier → Bool) (h : s.mem.wf = true) :
    (s.abortSpan gen code peer of).mem.wf = true := by
  unfold State.abortSpan
  split <;> grind [State.sendAll_mem, State.mapTask_mem, State.goEnd_wf]

theorem execSpanRefusalReport_keeps (gen member code : Nat) (s : State) (h : s.mem.wf = true) :
    (execSpanRefusalReport gen member code s).Keeps := by
  simp [execSpanRefusalReport, Res.Keeps, h]

theorem State.discardCopy_mem (s : State) (origin gen : Nat) {t : State} (e : s.discardCopy origin gen = some t) :
    t.mem = s.mem := by
  unfold State.discardCopy at e
  split at e
  · obtain rfl := Option.some.inj e; rfl
  · obtain ⟨p, -, rfl⟩ := Option.map_eq_some_iff.1 e
    grind [State.finished_mem]

theorem execSpanLinkLoss_keeps (origin gen peer : Nat) (s : State) (h : s.mem.wf = true) :
    (execSpanLinkLoss origin gen peer s).Keeps := by
  unfold execSpanLinkLoss
  show Mem.wf _ = true
  grind [State.abortSpan_wf, State.retryPackets_mem, → State.discardCopy_mem, State.logHub_mem]

@[simp] theorem State.waits_mem (x0 : List Word) (s : State) : (State.waits x0 s).1.mem = s.mem := by
  induction x0 generalizing s <;> grind [State.waits, !. State.readCtr_mem]

@[simp] theorem State.toStage2_mem (s : State) (num : Nat) : (s.toStage2 num).mem = s.mem := rfl

@[simp] theorem State.tryWaits_mem (s : State) (num : Nat) : (s.tryWaits num).mem = s.mem := by
  have logs : ∀ (l : List Nat) (t : State), (l.foldl (fun u n => u.logHub 0x42 n) t).mem = t.mem :=
    foldl_mem fun _ _ => State.logHub_mem ..
  grind [State.tryWaits, State.toStage2_mem, State.mapTask_mem, !. State.waits_mem]

@[simp] theorem State.startFlush_mem (s : State) : s.startFlush.mem = s.mem := by
  grind [State.startFlush, State.mapTask_mem]

theorem State.flushAt_mem (s : State) (p : Place) {t : State} (e : s.flushAt p = some t) : t.mem = s.mem := by
  unfold State.flushAt at e
  grind [State.mscEvict_mem]

@[simp] theorem State.flushPassed_mem (s : State) : s.flushPassed.mem = s.mem := rfl

@[simp] theorem State.flushLine_mem (s : State) : s.flushLine.mem = s.mem := by
  grind [State.flushLine, State.accessWait_mem, State.walkRequest_mem, → State.flushAt_mem, State.flushPassed_mem]

@[simp] theorem State.flushLines_mem (x0 : Nat) (s : State) : (State.flushLines x0 s).mem = s.mem := by
  induction x0 generalizing s <;> grind [State.flushLines, State.flushLine_mem]

@[simp] theorem State.dropCode_mem (s : State) (cores : List Nat) (va len : Nat) :
    (s.dropCode cores va len).mem = s.mem := by
  unfold State.dropCode
  refine foldl_mem (fun _ _ => ?_) _ _
  grind [State.setCore_mem]

@[simp] theorem State.endFlush_mem (s : State) : s.endFlush.mem = s.mem := by
  unfold State.endFlush
  repeat' split
  all_goals simp

theorem execRangeFlushComplete_keeps (s : State) (h : s.mem.wf = true) : (execRangeFlushComplete s).Keeps := by
  simpa [execRangeFlushComplete, Res.Keeps] using h

/-! ### Save -/

@[simp] theorem State.ask_mem (s : State) (c req : Nat) : (s.ask c req).mem = s.mem := by
  grind [State.ask, State.setCt_mem, State.stopClock_mem]

@[simp] theorem State.endCtWait_mem (s : State) (c : Nat) : (s.endCtWait c).mem = s.mem := by
  simp [State.endCtWait]

@[simp] theorem State.interrupt_wf (s : State) (c : Nat) (h : s.mem.wf = true) : (s.interrupt c).mem.wf = true := by
  grind [State.interrupt, State.setCore_mem, State.ctTrap_mem, State.pauseHarts_wf, State.endCtWait_mem]

@[simp] theorem State.latchOwnedTrap_mem (s : State) (c b : Nat) : (s.latchOwnedTrap c b).mem = s.mem := by
  grind [State.latchOwnedTrap, State.ctCause_mem, → State.ownBank_mem, State.endCtWait_mem]

@[simp] theorem State.poisonAt_mem (s : State) (p : Place) : (s.poisonAt p).mem = s.mem := by
  unfold State.poisonAt
  repeat' split
  all_goals simp

@[simp] theorem State.setLeft_mem (s : State) (c : Nat) (l : List AreaPut) : (s.setLeft c l).mem = s.mem := rfl

theorem State.saveGo_wf (c n : Nat) (l : List AreaPut) (s : State) (h : s.mem.wf = true) :
    (State.saveGo c n l s).mem.wf = true := by
  induction n generalizing l s with
  | zero => exact wf_of_mem (State.setLeft_mem ..) h
  | succ n ih =>
    cases l with
    | nil => exact wf_of_mem (State.setLeft_mem ..) h
    | cons x l =>
      grind [State.saveGo, Acc.state, State.setLeft_mem, State.keepRequest_mem, State.walkRequest_mem, State.store_wf,
        State.poisonAt_mem, State.forget_mem]

@[simp] theorem State.saveRun_wf (s : State) (c : Nat) (h : s.mem.wf = true) : (s.saveRun c).mem.wf = true := by
  grind [State.saveRun, State.saveGo_wf]

theorem State.readPiece_mem (c va : Nat) (stored : List Nat) (x0 : Nat) (x1 : Nat) (x2 : Place) (x3 : Option Nat)
    (s : State) : (State.readPiece c va stored x0 x1 x2 x3 s).state.mem = s.mem := by
  induction x0 generalizing c va stored x1 x2 x3 s <;> grind [State.readPiece, Acc.state, AreaRead.state,
    State.keepRequest_mem, !. State.unitRead_mem]

theorem State.areaRead_mem (c : Nat) (n : Option Nat) (x0 : List (Nat × Nat)) (s : State) :
    (State.areaRead c n x0 s).state.mem = s.mem := by
  induction x0 generalizing c n s <;> grind [State.areaRead, AreaRead.state, State.walkRequest_mem,
    !. State.readPiece_mem]

@[simp] theorem State.dropWaiting_mem (s : State) (c : Nat) : (s.dropWaiting c).mem = s.mem := rfl

@[simp] theorem State.unload_wf (s : State) (c : Nat) (h : s.mem.wf = true) : (s.unload c).mem.wf = true := by
  simp [State.unload, h]

@[simp] theorem State.unloaded_mem (s : State) (c : Nat) : (s.unloaded c).mem = s.mem := by
  grind [State.unloaded, State.setCore_mem, State.preempted_mem, State.dropWaiting_mem]

@[simp] theorem State.corrupt_wf (s : State) (c : Nat) (h : s.mem.wf = true) : (s.corrupt c).mem.wf = true := by
  unfold State.corrupt
  grind [State.setCore_mem, State.setCt_mem, State.faultTask_wf]

@[simp] theorem State.reload_mem (s0 : State) (c : Nat) : (s0.reload c).mem = s0.mem := by
  grind [State.reload, State.setCore_mem, State.chargeMgmt_mem]

@[simp] theorem State.goOn_mem (s : State) (c stoppedAt : Nat) (waiting : List EvRec) :
    (s.goOn c stoppedAt waiting).mem = s.mem := by
  unfold State.goOn; split <;> simp

@[simp] theorem State.loaded_mem (s : State) (c : Nat) : (s.loaded c).mem = s.mem := by
  grind [State.loaded, State.setCore_mem, State.goOn_mem]

@[simp] theorem State.bankSave_wf (s : State) (c ctx slot b : Nat) (h : s.mem.wf = true) :
    (s.bankSave c ctx slot b).mem.wf = true := by
  have uses (l : List (Nat × VReg)) (t : State) : (l.foldl (fun t e => t.useSag c b (e.1 % 8)) t).mem = t.mem :=
    foldl_mem (fun _ _ => State.useSag_mem ..) l t
  grind [State.bankSave, State.saveRun_wf, State.setCore_mem, State.chargeMgmt_mem]

@[simp] theorem State.bankRestore_mem (s : State) (c ctx b : Nat) : (s.bankRestore c ctx b).mem = s.mem := by
  simp only [State.bankRestore]
  repeat' split
  all_goals simp

@[simp] theorem State.writeHmsave_mem (s : State) (c v : Nat) : (s.writeHmsave c v).mem = s.mem := by
  grind [State.writeHmsave, State.setCt_mem]

@[simp] theorem State.opActs_mem (s : State) (c : Nat) : (s.opActs c).mem = s.mem := rfl

@[simp] theorem State.doOp_wf (s : State) (c : Nat) (h : s.mem.wf = true) : (s.doOp c).mem.wf = true := by
  unfold State.doOp
  grind [AreaRead.state, State.forget_mem, !. State.areaRead_mem, State.unload_wf, State.corrupt_wf, State.reload_mem,
    State.bankSave_wf, State.bankRestore_mem, State.opActs_mem]

@[simp] theorem State.issueOp_mem (s : State) (c op : Nat) : (s.issueOp c op).mem = s.mem := by
  grind [State.issueOp, State.setCt_mem]

@[simp] theorem State.saveOp_wf (s : State) (c op : Nat) (h : s.mem.wf = true) : (s.saveOp c op).mem.wf = true := by
  grind [State.saveOp, State.doOp_wf, State.issueOp_mem]

@[simp] theorem State.endOp_wf (s : State) (c : Nat) (h : s.mem.wf = true) : (s.endOp c).mem.wf = true := by
  grind [State.endOp, State.setCt_mem, State.saveRun_wf, State.unloaded_mem, State.loaded_mem, State.doOp_wf]

@[simp] theorem State.holdCore_wf (s : State) (c : Nat) (h : s.mem.wf = true) : (s.holdCore c).mem.wf = true := by
  unfold State.holdCore
  grind [State.setCore_mem, State.pauseHarts_wf, State.stopClock_mem]

@[simp] theorem State.logAppend_mem (s : State) (c v : Nat) : (s.logAppend c v).mem = s.mem := by
  grind [State.logAppend, State.logEvent_mem]

theorem execLogAppend_keeps (core : Nat) (v : Word) (s : State) (h : s.mem.wf = true) :
    (execLogAppend core v s).Keeps := by
  simpa [execLogAppend, Res.Keeps] using h

/-! ### Sched -/

@[simp] theorem State.refreshEff_mem (s : State) (n : Nat) : (s.refreshEff n).mem = s.mem := rfl

@[simp] theorem State.startTask_mem (s : State) (t : Task) : (s.startTask t).mem = s.mem := by
  unfold State.startTask
  refine foldl_mem (fun _ _ => ?_) _ _
  grind [State.setCore_mem, State.mapTask_mem]

@[simp] theorem State.preemptTask_mem (s : State) (x : Task) : (s.preemptTask x).mem = s.mem := by
  simp only [State.preemptTask, State.preempted_mem, State.stopClock_mem]
  refine foldl_mem (fun _ _ => ?_) _ _
  grind [State.ask_mem, State.setCore_mem]

@[simp] theorem State.preemptFor_mem (s : State) (y : Task) : (s.preemptFor y).mem = s.mem := by
  unfold State.preemptFor
  repeat' split
  all_goals simp

@[simp] theorem State.walk_mem (x0 : List Task) (x1 : List Nat) (x2 : Bool) (s : State) :
    (State.walk x0 x1 x2 s).mem = s.mem := by
  induction x0 generalizing x1 x2 s <;> grind [State.walk, State.startTask_mem, State.preemptFor_mem]

@[simp] theorem State.decide_mem (s : State) : s.decide_.mem = s.mem := by
  unfold State.decide_
  split
  · rfl
  · exact (State.walk_mem ..).trans (foldl_mem (fun _ _ => State.refreshEff_mem ..) _ _)

/-! ### Fen -/

@[simp] theorem State.notice_mem (s : State) (kind flags utype unit grace effTime : Nat) (sentTo : List Nat) :
    (s.notice kind flags utype unit grace effTime sentTo).mem = s.mem := by
  unfold State.notice; split <;> simp

@[simp] theorem State.requestReplacement_mem (s : State) : s.requestReplacement.mem = s.mem := by
  grind [State.requestReplacement, State.send_mem, State.logHub_mem, State.errVector_mem]

@[simp] theorem State.retire_mem (s : State) (utype action reason unit logical key : Nat) :
    (s.retire_ utype action reason unit logical key).mem = s.mem := by
  grind [State.retire_, State.logEvent_mem, State.requestReplacement_mem]

@[simp] theorem State.writeConfig_mem (s : State) (ty : Nat) : (s.writeConfig ty).mem = s.mem := rfl

@[simp] theorem State.remapStart_wf (s : State) (c spare reason : Nat) (h : s.mem.wf = true) :
    (s.remapStart c spare reason).mem.wf = true := by
  grind [State.remapStart, State.setLayer_mem, State.faultTask_wf, State.ask_mem, State.notice_mem, State.retire_mem]

@[simp] theorem State.removeTasks_wf (s : State) (c : Nat) (h : s.mem.wf = true) :
    (s.removeTasks c).mem.wf = true := by
  unfold State.removeTasks
  refine foldl_wf (fun _ _ h => ?_) _ h
  grind [State.faultTask_wf]

@[simp] theorem State.shrinkStop_wf (s : State) (layer i : Nat) (h : s.mem.wf = true) :
    (s.shrinkStop layer i).mem.wf = true := by
  grind [State.shrinkStop, State.setLayer_mem, State.ask_mem, State.holdCore_wf]

@[simp] theorem State.shrinkStart_wf (s : State) (c reason : Nat) (h : s.mem.wf = true) :
    (s.shrinkStart c reason).mem.wf = true := by
  unfold State.shrinkStart
  refine foldl_wf (fun t i ht => ?_) _ ?_
  · split
    · exact ht
    · exact State.shrinkStop_wf _ _ _ ht
  · grind [State.setLayer_mem, State.removeTasks_wf, State.notice_mem, State.retire_mem]

@[simp] theorem State.coreFails_wf (s : State) (c reason : Nat) (h : s.mem.wf = true) :
    (s.coreFails c reason).mem.wf = true := by
  grind [State.coreFails, State.remapStart_wf, State.shrinkStart_wf]

@[simp] theorem State.copyLines_mem (s : State) (lo hi : Nat) : (s.copyLines lo hi).mem = s.mem := rfl

@[simp] theorem State.wakePaused_mem (s : State) (c : Nat) : (s.wakePaused c).mem = s.mem := by
  grind [State.wakePaused, State.setCore_mem]

@[simp] theorem State.remapEnd_mem (s : State) (layer : Nat) : (s.remapEnd layer).mem = s.mem := by
  grind [State.remapEnd, State.setCore_mem, State.setLayer_mem, State.setScore_mem, State.writeConfig_mem,
    State.copyLines_mem, State.wakePaused_mem]

@[simp] theorem State.shrinkResume_mem (s : State) (layer : Nat) (e : Nat × Nat) :
    (s.shrinkResume layer e).mem = s.mem := by
  grind [State.shrinkResume, State.goOn_mem, State.wakePaused_mem]

@[simp] theorem State.shrinkEnd_wf (s : State) (layer : Nat) (h : s.mem.wf = true) :
    (s.shrinkEnd layer).mem.wf = true := by
  unfold State.shrinkEnd
  extract_lets l busy l1 s1 s2
  split
  · exact h
  · have h1 : s1.mem.wf = true := by simpa [s1] using h
    have h2 : s2.mem.wf = true := by
      refine foldl_wf (fun t i ht => ?_) _ h1
      exact State.removeTasks_wf _ _ ht
    exact foldl_wf (fun t e ht => wf_of_mem (State.shrinkResume_mem ..) ht) _ h2

@[simp] theorem State.setLease_mem (s : State) (c : Nat) (x : Lease) : (s.setLease c x).mem = s.mem := rfl

@[simp] theorem State.leaseStrike_wf (s : State) (c : Nat) (x : Lease) (h : s.mem.wf = true) :
    (s.leaseStrike c x).mem.wf = true := by
  grind [State.leaseStrike, State.faultTask_wf, State.ask_mem, State.setLease_mem]

@[simp] theorem State.leaseTry_wf (s : State) (c : Nat) (h : s.mem.wf = true) : (s.leaseTry c).mem.wf = true := by
  grind [State.leaseTry, State.notice_mem, State.setLease_mem, State.leaseStrike_wf]

@[simp] theorem State.leaseStart_wf (s : State) (c kind : Nat) (h : s.mem.wf = true) :
    (s.leaseStart c kind).mem.wf = true := by
  grind [State.leaseStart, State.setLease_mem, State.leaseTry_wf]

@[simp] theorem State.leaseDue_wf (s : State) (c : Nat) (h : s.mem.wf = true) : (s.leaseDue c).mem.wf = true := by
  grind [State.leaseDue, State.leaseStrike_wf]

@[simp] theorem State.passed_mem (s : State) (utype n kind : Nat) : (s.passed utype n kind).mem = s.mem := by
  grind [State.passed, State.setScore_mem]

@[simp] theorem State.leaseEnd_wf (s : State) (c : Nat) (ok : Bool) (h : s.mem.wf = true) :
    (s.leaseEnd c ok).mem.wf = true := by
  unfold State.leaseEnd
  grind [State.notice_mem, State.coreFails_wf, State.wakePaused_mem, State.passed_mem]

@[simp] theorem State.stepStart_mem (s : State) (u : FenUnit) (rows : List Nat) :
    (s.stepStart u rows).mem = s.mem := by
  simp only [State.stepStart]
  repeat' split
  all_goals simp

theorem execFenStepStart_keeps (x : TestStep) (s : State) (h : s.mem.wf = true) : (execFenStepStart x s).Keeps := by
  simpa [execFenStepStart, Res.Keeps] using h

@[simp] theorem State.substitute_mem (s : State) (x : RowSub) : (s.substitute x).mem = s.mem := by
  grind [State.substitute, State.setBank_mem, State.charge_mem, State.notice_mem, State.writeConfig_mem,
    State.copyLines_mem]

@[simp] theorem State.trySub_mem (s : State) (x : RowSub) : (s.trySub x).mem = s.mem := by
  grind [State.trySub, State.substitute_mem]

@[simp] theorem State.rowFails_wf (s : State) (c b k row reason : Nat) (h : s.mem.wf = true) :
    (s.rowFails c b k row reason).mem.wf = true := by
  grind [State.rowFails, State.retire_mem, State.coreFails_wf, State.trySub_mem]

@[simp] theorem State.laneFails_wf (s : State) (c b lane reason : Nat) (h : s.mem.wf = true) :
    (s.laneFails c b lane reason).mem.wf = true := by
  grind [State.laneFails, State.setBank_mem, State.retire_mem, State.writeConfig_mem, State.coreFails_wf]

@[simp] theorem State.busRetires_wf (s : State) (n reason : Nat) (h : s.mem.wf = true) :
    (s.busRetires n reason).mem.wf = true := by
  unfold State.busRetires
  refine foldl_wf (fun t j ht => ?_) _ ?_
  · split
    · exact ht
    · exact State.shrinkStart_wf _ _ _ ht
  · simpa using h

@[simp] theorem State.busFails_wf (s : State) (n dir sig reason : Nat) (h : s.mem.wf = true) :
    (s.busFails n dir sig reason).mem.wf = true := by
  grind [State.busFails, State.retire_mem, State.writeConfig_mem, State.busRetires_wf]

@[simp] theorem State.portFails_mem (s : State) (i reason : Nat) : (s.portFails i reason).mem = s.mem := by
  unfold State.portFails
  dsimp only
  refine (foldl_mem (fun _ _ => ?_) _ _).trans ?_ <;> grind [State.notice_mem,
    State.requestReplacement_mem, State.retire_mem]

@[simp] theorem State.emptySlice_mem (s : State) (stack i : Nat) : (s.emptySlice stack i).mem = s.mem := by
  simp [State.emptySlice]

@[simp] theorem State.sliceFails_mem (s : State) (stack i reason : Nat) :
    (s.sliceFails stack i reason).mem = s.mem := by
  unfold State.sliceFails
  dsimp only
  refine (foldl_mem (fun _ _ => ?_) _ _).trans ?_ <;> grind [State.notice_mem,
    State.requestReplacement_mem, State.retire_mem, State.emptySlice_mem]

@[simp] theorem State.markStuck_mem (s : State) (c b k : Nat) (cells : List Nat) :
    (s.markStuck c b k cells).mem = s.mem := by
  grind [State.markStuck, State.setBank_mem]

@[simp] theorem State.unitFails_wf (s : State) (u : FenUnit) (cells : List Nat) (reason : Nat) (h : s.mem.wf = true) :
    (s.unitFails u cells reason).mem.wf = true := by
  unfold State.unitFails
  grind [State.rowFails_wf, State.laneFails_wf, State.busFails_wf, State.portFails_mem, State.sliceFails_mem]

@[simp] theorem State.zeroRow_wf (s : State) (pa : Nat) (h : s.mem.wf = true) : (s.zeroRow pa).mem.wf = true := by
  simpa [State.zeroRow] using Mem.wf_place h ..

@[simp] theorem State.sagReturns_wf (s : State) (c b k : Nat) (cells : List Nat) (h : s.mem.wf = true) :
    (s.sagReturns c b k cells).mem.wf = true := by
  simp only [State.sagReturns, State.markStuck_mem]
  exact foldl_wf (fun _ _ => State.zeroRow_wf _ _) _ h

@[simp] theorem State.stepEnd_wf (s : State) (u : FenUnit) (ok : Bool) (cells : List Nat) (h : s.mem.wf = true) :
    (s.stepEnd u ok cells).mem.wf = true := by
  unfold State.stepEnd
  grind [State.passed_mem, State.unitFails_wf, State.sagReturns_wf]

theorem execScoreDecay_keeps (s : State) (h : s.mem.wf = true) : (execScoreDecay s).Keeps := by
  simpa [execScoreDecay, Res.Keeps] using h

theorem execCapq_keeps (o : XH) (s : State) (h : s.mem.wf = true) : (execCapq o s).Keeps := by
  unfold execCapq
  refine XRes.end_keeps ?_ _
  grind [XRes.state, !. xhlmOperand_mem]

@[simp] theorem State.withdrawCore_wf (s : State) (c : Nat) (x : Lease) (h : s.mem.wf = true) :
    (s.withdrawCore c x).mem.wf = true := by
  grind [State.withdrawCore, State.mapTask_mem, State.coreDone_wf, State.setLease_mem]

theorem State.capack_wf (s : State) (c seq : Nat) (h : s.mem.wf = true) : (s.capack c seq).state.mem.wf = true := by
  unfold State.capack
  grind [Acc.state, XRes.state, !. State.ctRelease_wf, State.withdrawCore_wf]

theorem execCapack_keeps (o : XH) (s : State) (h : s.mem.wf = true) : (execCapack o s).Keeps := by
  unfold execCapack
  refine XRes.end_keeps ?_ _
  grind [XRes.state, !. xhlmOperand_mem, !. State.capack_wf]

/-! ### Cluster -/

@[simp] theorem State.clusterCmd_mem (s : State) (c cmd : Nat) : (s.clusterCmd c cmd).mem = s.mem := by
  grind [State.clusterCmd, State.setCluster_mem]

@[simp] theorem State.badCmd_mem (s : State) (c : Nat) : (s.badCmd c).mem = s.mem := rfl

@[simp] theorem State.mapLogic_mem (s : State) (n : Nat) (f : Nat → Nat → Nat → Sag → Sag) (g : Nat → Nat → Nat → Nat) :
    (s.mapLogic n f g).mem = s.mem := by
  unfold State.mapLogic
  refine foldl_mem (fun _ _ => ?_) _ _
  grind [State.setCore_mem]

@[simp] theorem State.setSoft_mem (s : State) (n : Nat) (on : Bool) : (s.setSoft n on).mem = s.mem := rfl

@[simp] theorem State.gateOff_mem (s : State) (n : Nat) : (s.gateOff n).mem = s.mem := by
  simp [State.gateOff]

@[simp] theorem State.wakeUp_mem (s : State) (n : Nat) : (s.wakeUp n).mem = s.mem := by
  simp [State.wakeUp]

@[simp] theorem State.clustersUp_mem (s : State) : s.clustersUp.mem = s.mem := by
  unfold State.clustersUp
  refine foldl_mem (fun _ _ => ?_) _ _
  grind [State.wakeUp_mem]

@[simp] theorem State.wakeFails_wf (s : State) (n : Nat) (failed : BitVec 4) (h : s.mem.wf = true) :
    (s.wakeFails n failed).mem.wf = true := by
  unfold State.wakeFails
  refine foldl_wf (fun _ _ h => ?_) _ h
  grind [State.coreFails_wf]

@[simp] theorem State.doCmd_wf (s : State) (n cmd : Nat) (failed : BitVec 4) (h : s.mem.wf = true) :
    (s.doCmd n cmd failed).mem.wf = true := by
  unfold State.doCmd
  grind [State.setCluster_mem, State.gateOff_mem, State.wakeUp_mem, State.wakeFails_wf]

@[simp] theorem State.cmdDone_wf (s : State) (n : Nat) (failed : BitVec 4) (h : s.mem.wf = true) :
    (s.cmdDone n failed).mem.wf = true := by
  grind [State.cmdDone, State.clusterBack_mem, State.doCmd_wf]

/-! ### CtSys -/

@[simp] theorem State.setCsr_mem (s : State) (c n v : Nat) : (s.setCsr c n v).mem = s.mem := by
  unfold State.setCsr
  repeat' split
  all_goals simp

@[simp] theorem State.recount_mem (s : State) (c n v : Nat) : (s.recount c n v).mem = s.mem := by
  grind [State.recount, State.setCore_mem]

@[simp] theorem State.csrAccess_mem (s : State) (c : Nat) (o : CtC) : (s.csrAccess c o).mem = s.mem := by
  grind [State.csrAccess, State.ctDone_mem, State.ctIllegal_mem, State.setCsr_mem, State.recount_mem]

theorem execCtCsrAccess_keeps (o : CtC) (s : State) (h : s.mem.wf = true) : (execCtCsrAccess o s).Keeps := by
  simpa [execCtCsrAccess, Res.Keeps] using h

theorem execCtEcall_keeps (s : State) (h : s.mem.wf = true) : (execCtEcall s).Keeps := by
  simpa [execCtEcall, Res.Keeps] using h

theorem execCtEbreak_keeps (s : State) (h : s.mem.wf = true) : (execCtEbreak s).Keeps := by
  simpa [execCtEbreak, Res.Keeps] using h

theorem execCtWfi_keeps (s : State) (h : s.mem.wf = true) : (execCtWfi s).Keeps := by
  simpa [execCtWfi, Res.Keeps] using h

theorem execCtMret_keeps (s : State) (h : s.mem.wf = true) : (execCtMret s).Keeps := by
  grind [execCtMret, Res.Keeps, State.setCore_mem, State.ctReturn_mem, State.ctIllegal_mem]

/-! ### HostIf -/

@[simp] theorem State.writeBlockReg_mem (s : State) (fn q reg : Nat) (v : Word) :
    (s.writeBlockReg fn q reg v).mem = s.mem := by
  grind [State.writeBlockReg, State.setQ_mem]

@[simp] theorem State.writePfReg_mem (s : State) (off : Nat) (v : Word) : (s.writePfReg off v).mem = s.mem := by
  simp only [State.writePfReg]
  repeat' split
  all_goals simp

@[simp] theorem State.registerWrite_mem (s : State) (fn off : Nat) (v : Word) :
    (s.registerWrite fn off v).mem = s.mem := by
  grind [State.registerWrite, State.writeBlockReg_mem, State.writePfReg_mem]

@[simp] theorem State.doorbell_mem (s : State) (fn q : Nat) (v : Word) : (s.doorbell fn q v).mem = s.mem := by
  grind [State.doorbell, State.setQ_mem, State.qevent_mem]

@[simp] theorem State.writeSqcfg_mem (s : State) (fn q : Nat) (v : Word) : (s.writeSqcfg fn q v).mem = s.mem := by
  grind [State.writeSqcfg, State.setQ_mem, State.qevent_mem]

@[simp] theorem State.writeCqcfg_mem (s : State) (fn q : Nat) (v : Word) : (s.writeCqcfg fn q v).mem = s.mem := by
  grind [State.writeCqcfg, State.setQ_mem, State.qevent_mem]

@[simp] theorem State.writeCqhead_mem (s : State) (fn q : Nat) (v : Word) : (s.writeCqhead fn q v).mem = s.mem := by
  grind [State.writeCqhead, State.setQ_mem]

@[simp] theorem State.poisonHere_mem (s : State) (pa : Nat) : (s.poisonHere pa).mem = s.mem := rfl

@[simp] theorem State.windowWrite_wf (s : State) (pa n v : Nat) (poisoned : Bool) (h : s.mem.wf = true) :
    (s.windowWrite pa n v poisoned).1.mem.wf = true := by
  grind [State.windowWrite, Acc.state, State.chargeAt_mem, State.keepRequest_mem, !. State.store_wf,
    State.e2eEvent_mem, State.poisonHere_mem]

@[simp] theorem State.windowRead_mem (s : State) (pa n : Nat) : (s.windowRead pa n).1.mem = s.mem := by
  grind [State.windowRead, Acc.state, State.send_mem, State.logHub_mem, State.chargeAt_mem, State.keepRequest_mem,
    !. State.readHere_mem, State.e2eEvent_mem, State.poisonHere_mem]

@[simp] theorem State.atomicLine_wf (s : State) (pa n old : Nat) (new : Option Nat) (c : Option Cond)
    (h : s.mem.wf = true) : (s.atomicLine pa n old new c).mem.wf = true := by
  unfold State.atomicLine
  grind [State.logHub_mem, State.revokeWords_mem, State.mergeData_wf, State.dropShared_mem]

@[simp] theorem State.windowAtomic_wf (s : State) (pa n op x y : Nat) (poisoned : Bool) (h : s.mem.wf = true) :
    (s.windowAtomic pa n op x y poisoned).1.mem.wf = true := by
  unfold State.windowAtomic
  grind [Acc.state, State.send_mem, State.logHub_mem, State.chargeAt_mem, State.keepRequest_mem,
    !. State.readHere_mem, → State.ownHere_mem, State.e2eEvent_mem, State.poisonHere_mem, State.atomicLine_wf]

@[simp] theorem State.hostOne_wf (s : State) (o : HostOp) (h : s.mem.wf = true) : (s.hostOne o).1.mem.wf = true := by
  unfold State.hostOne
  grind [State.doorbell_mem, !. State.windowWrite_wf, !. State.windowRead_mem, !. State.windowAtomic_wf]

@[simp] theorem State.abortBehind_wf (s : State) (l : List HostOp) (h : s.mem.wf = true) :
    (s.abortBehind l).mem.wf = true := by
  unfold State.abortBehind
  refine foldl_wf (fun _ _ h => ?_) _ h
  grind [!. State.hostOne_wf]

@[simp] theorem State.hostRun_wf (x0 : List HostOp) (s : State) (h : s.mem.wf = true) :
    (State.hostRun x0 s).mem.wf = true := by
  induction x0 generalizing s <;> grind [State.hostRun, !. State.hostOne_wf, State.abortBehind_wf]

@[simp] theorem State.hostGo_wf (s : State) (h : s.mem.wf = true) : s.hostGo.mem.wf = true := by
  simp [State.hostGo, h]

@[simp] theorem State.hostPush_wf (s : State) (l : List HostOp) (h : s.mem.wf = true) :
    (s.hostPush l).mem.wf = true := by
  simp [State.hostPush, h]

theorem execSqDoorbell_keeps (fn q : Nat) (v : Word) (s : State) (h : s.mem.wf = true) :
    (execSqDoorbell fn q v s).Keeps := by
  simp [execSqDoorbell, Res.Keeps, h]

@[simp] theorem State.hostWrite_wf (s : State) (off : Nat) (data : List Byte) (poisoned : Bool) (h : s.mem.wf = true) :
    (s.hostWrite off data poisoned).mem.wf = true := by
  simp [State.hostWrite, h]

theorem execHostWindowWrite_keeps (off : Nat) (data : Written) (s : State) (h : s.mem.wf = true) :
    (execHostWindowWrite off data s).Keeps := by
  simp [execHostWindowWrite, Res.Keeps, h]

theorem execHostWindowRead_keeps (off len : Nat) (s : State) (h : s.mem.wf = true) :
    (execHostWindowRead off len s).Keeps := by
  simp [execHostWindowRead, Res.Keeps, h]

theorem execHostAtomicop_keeps (off size op : Nat) (x : Operand) (y : BitVec 128) (s : State) (h : s.mem.wf = true) :
    (execHostAtomicop off size op x y s).Keeps := by
  unfold execHostAtomicop
  split <;> simp [Res.Keeps, h]

@[simp] theorem State.protectedWrite_wf (s : State) (u : Nat) (how : UnitIn) (h : s.mem.wf = true) :
    (s.protectedWrite u how).mem.wf = true := by
  grind [State.protectedWrite, State.logHub_mem, State.e2eEvent_mem, State.hostPush_wf]

theorem execProtectedWrite_keeps (unit : BitVec 1024) (whole : UnitIn) (s : State) (h : s.mem.wf = true) :
    (execProtectedWrite unit whole s).Keeps := by
  simp [execProtectedWrite, Res.Keeps, h]

/-! ### Refresh -/

@[simp] theorem State.setSag_mem (s : State) (c b k : Nat) (x : Sag) : (s.setSag c b k x).mem = s.mem := rfl

@[simp] theorem State.owedStep_mem (s : State) (c b k i : Nat) : (s.owedStep c b k i).mem = s.mem := by
  grind [State.owedStep, State.hubRecord_mem, State.setSag_mem]

@[simp] theorem State.owedSteps_mem (c b k : Nat) (x0 : Nat) (s : State) :
    (State.owedSteps c b k x0 s).mem = s.mem := by
  induction x0 generalizing c b k s <;> grind [State.owedSteps, State.owedStep_mem]

@[simp] theorem State.owedUp_mem (s : State) (c b k : Nat) : (s.owedUp c b k).mem = s.mem := by
  simp [State.owedUp]

@[simp] theorem State.owedTime_mem (s : State) : s.owedTime.mem = s.mem := by
  have rounds (l : List Nat) : (if riseCount s.now ≤ s.fen.risen then s else
      let s1 := l.foldl (fun t j => t.owedUp (j / 256) (j % 256 / 8) (j % 8)) s
      { s1 with fen := { s1.fen with risen := riseCount s.now } }).mem = s.mem := by
    split
    · rfl
    · exact foldl_mem (fun _ _ => State.owedUp_mem ..) l s
  exact rounds (List.range (1024 * 256))

@[simp] theorem State.hwRefresh_mem (s : State) (c b k : Nat) : (s.hwRefresh c b k).mem = s.mem := by
  grind [State.hwRefresh, State.charge_mem, State.setSag_mem]

@[simp] theorem State.forcedRefresh_mem (s : State) (c b k : Nat) : (s.forcedRefresh c b k).mem = s.mem := by
  grind [State.forcedRefresh, State.charge_mem, State.setSag_mem]

@[simp] theorem State.scrub_mem (s : State) (c b k row : Nat) (stuck : List Nat) :
    (s.scrub c b k row stuck).mem = s.mem := by
  grind [State.scrub, State.charge_mem, State.setSagBusy_mem, State.markStuck_mem]

/-! ### Power -/

@[simp] theorem State.setPower_mem (s : State) (p : Power) : (s.setPower p).mem = s.mem := rfl

@[simp] theorem State.thermal_mem (s : State) (stack : Nat) : (s.thermal stack).mem = s.mem := by
  grind [State.thermal, State.logHub_mem, State.setPower_mem]

@[simp] theorem State.setReadings_mem (s : State) (l : List Nat) : (s.setReadings l).mem = s.mem := rfl

@[simp] theorem State.markSensors_mem (s : State) : s.markSensors.mem = s.mem := by
  simp [State.markSensors]

theorem execSensorRead_keeps (readings : List Nat) (s : State) (h : s.mem.wf = true) :
    (execSensorRead readings s).Keeps := by
  simpa [execSensorRead, Res.Keeps] using h

theorem execGovernorCheck_keeps (watts : Nat) (s : State) (h : s.mem.wf = true) :
    (execGovernorCheck watts s).Keeps := by
  simpa [execGovernorCheck, Res.Keeps] using h

theorem execPowerTripStart_keeps (s : State) (h : s.mem.wf = true) : (execPowerTripStart s).Keeps := by
  grind [execPowerTripStart, Res.Keeps, State.logHub_mem, State.setPower_mem]

theorem execPowerTripEnd_keeps (s : State) (h : s.mem.wf = true) : (execPowerTripEnd s).Keeps := by
  grind [execPowerTripEnd, Res.Keeps, State.logHub_mem, State.setPower_mem]

@[simp] theorem State.nextClocks_mem (s : State) : s.nextClocks.mem = s.mem := by
  grind [State.nextClocks, State.setPower_mem]

@[simp] theorem State.period_mem (s : State) : s.period.mem = s.mem := by
  grind [State.period, State.owedTime_mem, State.nextClocks_mem]

/-! ### Boot -/

@[simp] theorem State.replayOne_mem (s : State) (r : Retired) : (s.replayOne r).mem = s.mem := by
  grind [State.replayOne, State.setCore_mem, State.setBank_mem, State.setLayer_mem, State.writeConfig_mem,
    State.setSag_mem]

@[simp] theorem State.replay_mem (s : State) : s.replay.mem = s.mem := by
  refine (foldl_mem (fun _ _ => State.replayOne_mem ..) _ _).trans (foldl_mem (fun _ _ => ?_) _ _)
  grind [State.logHub_mem, State.replayOne_mem]

@[simp] theorem State.replreqAgain_mem (s : State) : s.replreqAgain.mem = s.mem := by
  grind [State.replreqAgain, State.requestReplacement_mem]

@[simp] theorem State.logSlots_mem (s : State) (l : List Slot) : (s.logSlots l).mem = s.mem := by
  unfold State.logSlots
  refine foldl_mem (fun _ _ => ?_) _ _
  grind [State.logHub_mem]

@[simp] theorem State.logConfigs_mem (s : State) (ty : Nat) : (s.logConfigs ty).mem = s.mem := by
  unfold State.logConfigs
  refine foldl_mem (fun _ _ => ?_) _ _
  grind [State.logHub_mem]

@[simp] theorem State.loadCores_mem (s : State) : s.loadCores.mem = s.mem := by
  grind [State.loadCores]

@[simp] theorem State.loadRepairs_mem (s : State) (cold : Bool) : (s.loadRepairs cold).mem = s.mem := by
  unfold State.loadRepairs
  split
  · refine (foldl_mem (fun t e => ?_) _ _).trans ((foldl_mem (fun t e => ?_) _ _).trans ?_)
    · exact State.setSag_mem ..
    · exact State.setBank_mem ..
    · rfl
  · rfl

@[simp] theorem State.loadShares_mem (s : State) : s.loadShares.mem = s.mem := by
  grind [State.loadShares]

@[simp] theorem State.selfTests_wf (s : State) (h : s.mem.wf = true) : s.selfTests.mem.wf = true := by
  unfold State.selfTests
  refine foldl_wf (fun _ _ h => ?_) _ h
  grind [State.coreFails_wf, State.busRetires_wf, State.unitFails_wf]

@[simp] theorem State.boot_wf (s : State) (cold : Bool) (h : s.mem.wf = true) : (s.boot cold).mem.wf = true := by
  unfold State.boot
  grind [State.replay_mem, State.replreqAgain_mem, State.logSlots_mem, State.logConfigs_mem, State.loadCores_mem,
    State.loadRepairs_mem, State.loadShares_mem, State.selfTests_wf]

@[simp] theorem State.loseMsc_wf (s : State) (h : s.mem.wf = true) : s.loseMsc.mem.wf = true := by
  unfold State.loseMsc
  refine foldl_wf (fun t e h => ?_) _ h
  split
  · dsimp only
    exact Mem.wf_write h _ _ _
  · exact h

@[simp] theorem State.coldReset_wf (s : State) : s.coldReset.mem.wf = true :=
  State.boot_wf _ _ rfl

@[simp] theorem State.warmReset_wf (s : State) (h : s.mem.wf = true) : s.warmReset.mem.wf = true := by
  refine State.boot_wf _ _ ?_
  show Mem.wf (if s.power.retention then _ else []) = true
  split
  · refine State.loseMsc_wf _ ?_
    rwa [State.clustersUp_mem]
  · rfl

/-! ### Mgmt -/

theorem execStatus_keeps (s : State) (h : s.mem.wf = true) : (execStatus s).Keeps := by
  simpa [execStatus, Res.Keeps] using h

theorem execReadLog_keeps (s : State) (h : s.mem.wf = true) : (execReadLog s).Keeps := by
  grind [execReadLog, Res.Keeps, State.send_mem]

theorem execReadRetire_keeps (s : State) (h : s.mem.wf = true) : (execReadRetire s).Keeps := by
  grind [execReadRetire, Res.Keeps, State.send_mem]

theorem execSetPlimit_keeps (watts : Nat) (s : State) (h : s.mem.wf = true) : (execSetPlimit watts s).Keeps := by
  grind [execSetPlimit, Res.Keeps, State.send_mem, State.setPower_mem]

theorem execSetMode_keeps (on : Bool) (s : State) (h : s.mem.wf = true) : (execSetMode on s).Keeps := by
  grind [execSetMode, Res.Keeps, State.send_mem, State.setPower_mem]

theorem execArmRetention_keeps (on : Bool) (s : State) (h : s.mem.wf = true) : (execArmRetention on s).Keeps := by
  grind [execArmRetention, Res.Keeps, State.send_mem, State.setPower_mem]

theorem execAttest_keeps (nonce : BitVec 256) (s : State) (h : s.mem.wf = true) : (execAttest nonce s).Keeps := by
  grind [execAttest, Res.Keeps, State.send_mem]

@[simp] theorem State.debugOp_mem (s : State) (c op arg : Nat) : (s.debugOp c op arg).mem = s.mem := by
  unfold State.debugOp; split <;> simp

theorem execDebugCmd_keeps (tokenOk : Bool) (core op arg : Nat) (s : State) (h : s.mem.wf = true) :
    (execDebugCmd tokenOk core op arg s).Keeps := by
  grind [execDebugCmd, Res.Keeps, State.logHub_mem, State.debugOp_mem]

theorem execFwUpdate_keeps (version : Nat) (sigOk : Bool) (hash : BitVec 256) (s : State) (h : s.mem.wf = true) :
    (execFwUpdate version sigOk hash s).Keeps := by
  simpa [execFwUpdate, Res.Keeps] using h

/-! ### Coher -/

@[simp] theorem State.answer_mem (s : State) (dst line data : Nat) (poison owned excl failed : Bool)
    (diff : BitVec 16) : (s.answer dst line data poison owned excl failed diff).mem = s.mem := by
  simp [State.answer]

@[simp] theorem State.hartFails_mem (s0 : State) (c b cause : Nat) (r : Req) :
    (s0.hartFails c b cause r).mem = s0.mem := by
  grind [State.hartFails, State.setHostData_mem, State.setPend_mem, State.hartFault_mem]

@[simp] theorem State.copyFails_mem (s : State) (c b n cause : Nat) (r : Req) :
    (s.copyFails c b n cause r).mem = s.mem := by
  grind [State.copyFails, State.setHostData_mem, State.setSlot_mem]

@[simp] theorem State.hostFails_mem (s : State) : s.hostFails.mem = s.mem := by
  grind [State.hostFails, State.send_mem, State.logHub_mem]

@[simp] theorem State.failRequest_mem (s : State) (w : Waiter) (cause : Nat) :
    (s.failRequest w cause).mem = s.mem := by
  grind [State.failRequest, State.setReq_mem, State.setHostData_mem, State.ctCause_mem, State.ringLost_mem,
    State.dropLaunch_mem, State.answer_mem, State.hartFails_mem, State.copyFails_mem, State.hostFails_mem]

@[simp] theorem State.fixRown_mem (s : State) (pa : Nat) : (s.fixRown pa).mem = s.mem := by
  grind [State.fixRown]

@[simp] theorem State.endResv_mem (s : State) (src line : Nat) : (s.endResv src line).mem = s.mem := rfl

@[simp] theorem State.otherWrote_mem (s : State) (src line : Nat) : (s.otherWrote src line).mem = s.mem := rfl

@[simp] theorem State.grantShared_mem (s : State) (src pa data : Nat) (poison : Bool) (diff : BitVec 16) :
    (s.grantShared src pa data poison diff).mem = s.mem := by
  grind [State.grantShared, State.setSide_mem, State.answer_mem]

@[simp] theorem State.grantExclusive_mem (s : State) (src pa data : Nat) (poison : Bool) (diff : BitVec 16) :
    (s.grantExclusive src pa data poison diff).mem = s.mem := by
  simp [State.grantExclusive]

@[simp] theorem State.takeBack_wf (s : State) (line data : Nat) (poison : Bool) (diff : BitVec 16)
    (h : s.mem.wf = true) : (s.takeBack line data poison diff).mem.wf = true := by
  simp [State.takeBack, h]

@[simp] theorem State.writtenBack_wf (s : State) (src pa data : Nat) (poison modified : Bool) (diff : BitVec 16)
    (h : s.mem.wf = true) : (s.writtenBack src pa data poison modified diff).mem.wf = true := by
  grind [State.writtenBack, State.setSide_mem, State.fixRown_mem, State.otherWrote_mem, State.takeBack_wf]

theorem State.atomicHome_wf (s : State) (e : RemoteOp) (h : s.mem.wf = true) :
    (s.atomicHome e).state.mem.wf = true := by
  grind [State.atomicHome, Acc.state, !. State.readHere_mem, !. State.store_wf, !. State.atomic_wf]

@[simp] theorem State.serveOne_wf (s : State) (e : RemoteOp) (h : s.mem.wf = true) :
    (s.serveOne e).1.mem.wf = true := by
  grind [State.serveOne, Acc.state, State.chargeAt_mem, State.keepRequest_mem, State.accessWait_mem,
    State.touchPage_mem, !. State.readHere_mem, → State.ownHere_mem, State.answer_mem, State.grantShared_mem,
    State.grantExclusive_mem, State.writtenBack_wf, !. State.atomicHome_wf]

@[simp] theorem State.serveFrom_wf (x0 : List RemoteOp) (x1 : List Nat) (s : State) (h : s.mem.wf = true) :
    (State.serveFrom x0 x1 s).mem.wf = true := by
  induction x0 generalizing x1 s <;> grind [State.serveFrom, !. State.serveOne_wf]

@[simp] theorem State.serveRemote_wf (s : State) (h : s.mem.wf = true) : s.serveRemote.mem.wf = true := by
  simp [State.serveRemote, h]

@[simp] theorem State.remotePush_wf (s : State) (e : RemoteOp) (h : s.mem.wf = true) :
    (s.remotePush e).mem.wf = true := by
  simp [State.remotePush, h]

theorem execRemoteReadRequest_keeps (src line : Nat) (s : State) (h : s.mem.wf = true) :
    (execRemoteReadRequest src line s).Keeps := by
  simp [execRemoteReadRequest, Res.Keeps, h]

theorem execRemoteOwnershipRequest_keeps (src line : Nat) (s : State) (h : s.mem.wf = true) :
    (execRemoteOwnershipRequest src line s).Keeps := by
  simp [execRemoteOwnershipRequest, Res.Keeps, h]

@[simp] theorem State.arrivalEvent_mem (s : State) (cond : Arrival) (src line : Nat) (logged : Bool) :
    (s.arrivalEvent cond src line logged).mem = s.mem := by
  unfold State.arrivalEvent
  repeat' split
  all_goals simp

theorem execRemoteWriteBack_keeps (src line : Nat) (data : BitVec 512) (cond : Arrival) (modified : Bool) (s : State)
    (h : s.mem.wf = true) : (execRemoteWriteBack src line data cond modified s).Keeps := by
  simp [execRemoteWriteBack, Res.Keeps, h]

theorem execRemoteAmoRequest_keeps (src addr op : Nat) (w32 : Bool) (x y : Word) (s : State) (h : s.mem.wf = true) :
    (execRemoteAmoRequest src addr op w32 x y s).Keeps := by
  simp [execRemoteAmoRequest, Res.Keeps, h]

@[simp] theorem State.giveUp_mem (s : State) (home line n : Nat) : (s.giveUp home line n).mem = s.mem := by
  simp [State.giveUp]

@[simp] theorem State.recalled_mem (s : State) (home line : Nat) (what : Taken) :
    (s.recalled home line what).mem = s.mem := by
  unfold State.recalled
  repeat' split
  all_goals simp

@[simp] theorem State.forwarded_mem (s : State) (home line : Nat) : (s.forwarded home line).mem = s.mem := by
  grind [State.forwarded, State.answer_mem]

@[simp] theorem State.answered_mem (s : State) (w : Waiter) (got : Option (Nat × Nat)) :
    (s.answered w got).mem = s.mem := by
  unfold State.answered; split <;> simp

@[simp] theorem State.supplied_mem (s : State) (src line : Nat) (owned : Bool) :
    (s.supplied src line owned).mem = s.mem := by
  grind [State.supplied, State.setSide_mem, State.fixRown_mem, State.otherWrote_mem]

@[simp] theorem State.returned_wf (s : State) (src line data : Nat) (poison owned : Bool) (diff : BitVec 16)
    (h : s.mem.wf = true) : (s.returned src line data poison owned diff).mem.wf = true := by
  grind [State.returned, State.setSide_mem, State.sendInvals_mem, State.fixRown_mem, State.otherWrote_mem,
    State.takeBack_wf]

@[simp] theorem State.applyAnswer_wf (s : State) (src kind line data : Nat) (poison owned : Bool) (diff : BitVec 16)
    (h : s.mem.wf = true) : (s.applyAnswer src kind line data poison owned diff).mem.wf = true := by
  grind [State.applyAnswer, State.mscRoom_mem, State.supplied_mem, State.returned_wf]

@[simp] theorem State.answerOne_mem (s : State) (w : Waiter) (kind : Nat) (cond : Arrival) (got : Option (Nat × Nat)) :
    (s.answerOne w kind cond got).mem = s.mem := by
  unfold State.answerOne
  repeat' split
  all_goals simp

@[simp] theorem State.comeFirst_mem (s : State) (line : Nat) (ws : List Waiter) :
    (s.comeFirst line ws).mem = s.mem := rfl

@[simp] theorem State.inval_mem (s : State) (src kind line : Nat) : (s.inval src kind line).mem = s.mem := by
  simp only [State.inval]
  repeat' split
  all_goals simp

@[simp] theorem State.keepWalk_mem (s : State) (line data : Nat) (ws : List Waiter) (owned : Bool) :
    (s.keepWalk line data ws owned).mem = s.mem := by
  unfold State.keepWalk; split <;> simp

@[simp] theorem State.takeAnswer_wf (s0 : State) (src kind line data : Nat) (cond : Arrival) (owned : Bool)
    (h : s0.mem.wf = true) : (s0.takeAnswer src kind line data cond owned).mem.wf = true := by
  unfold State.takeAnswer
  extract_lets
  refine foldl_wf (fun t w ht => wf_of_mem (State.answerOne_mem ..) ht) _ ?_
  grind [State.comeFirst_mem, State.applyAnswer_wf, State.arrivalEvent_mem, State.keepWalk_mem]

@[simp] theorem State.lateGo_wf (s : State) (h : s.mem.wf = true) : s.lateGo.mem.wf = true := by
  unfold State.lateGo
  refine foldl_wf (fun _ _ h => ?_) _ h
  grind [State.takeAnswer_wf]

@[simp] theorem State.remoteAnswer_wf (s : State) (src kind line data : Nat) (cond : Arrival) (owned : Bool)
    (h : s.mem.wf = true) : (s.remoteAnswer src kind line data cond owned).mem.wf = true := by
  grind [State.remoteAnswer, State.touchPage_mem, State.hostGo_wf, State.serveRemote_wf, State.inval_mem,
    State.takeAnswer_wf]

theorem execRemoteAnswer_keeps (src kind line : Nat) (data : BitVec 512) (cond : Arrival) (owned : Bool) (s : State)
    (h : s.mem.wf = true) : (execRemoteAnswer src kind line data cond owned s).Keeps := by
  simp [execRemoteAnswer, Res.Keeps, h]

@[simp] theorem State.recallTimeout_mem (s : State) (w : Waiter) : (s.recallTimeout w).mem = s.mem := by
  grind [State.recallTimeout, State.setReq_mem, State.failRequest_mem]

@[simp] theorem State.hostCompletion_mem (s : State) (w : Waiter) (ok poisoned : Bool) (data : Nat) :
    (s.hostCompletion w ok poisoned data).mem = s.mem := by
  grind [State.hostCompletion, State.failRequest_mem, State.answered_mem]

theorem execHostCompletion_keeps (w : Waiter) (ok poisoned : Bool) (data : BitVec 512) (s : State)
    (h : s.mem.wf = true) : (execHostCompletion w ok poisoned data s).Keeps := by
  simpa [execHostCompletion, Res.Keeps] using h

theorem execHostCompletionTimeout_keeps (w : Waiter) (s : State) (h : s.mem.wf = true) :
    (execHostCompletionTimeout w s).Keeps := by
  grind [execHostCompletionTimeout, Res.Keeps, State.failRequest_mem]

/-! ### Issue -/

@[simp] theorem State.breakHart_mem (s : State) (c b n w : Nat) : (s.breakHart c b n w).mem = s.mem := by
  simp [State.breakHart]

@[simp] theorem State.fetchFault_mem (s : State) (c b cause detail : Nat) :
    (s.fetchFault c b cause detail).mem = s.mem := by
  simp [State.fetchFault]

@[simp] theorem State.takeBlock_mem (s : State) (c b : Nat) (words : List Nat) (cache : List (Nat × List Nat)) :
    (s.takeBlock c b words cache).1.mem = s.mem := by
  grind [State.takeBlock, State.setHart_mem, State.fetchFault_mem]

@[simp] theorem State.splitFetch_mem (s : State) (c b : Nat) : (s.splitFetch c b).1.mem = s.mem := by
  grind [State.splitFetch, Acc.state, State.keepRequest_mem, !. State.readHere_mem, State.walkRequest_mem,
    State.fetchFault_mem, !. State.takeBlock_mem]

theorem execSplitBlockFetch_keeps (core bank : Nat) (s : State) (h : s.mem.wf = true) :
    (execSplitBlockFetch core bank s).Keeps := by
  grind [execSplitBlockFetch, Res.Keeps, !. State.splitFetch_mem]

theorem State.splitIssue_mem (s : State) (c b : Nat) : (s.splitIssue c b).state.mem = s.mem := by
  grind [State.splitIssue, Next.state, State.setHart_mem, State.hartFault_mem, State.farFetch_mem, State.breakHart_mem]

theorem State.hartNext_wf (s0 : State) (c b : Nat) (h : s0.mem.wf = true) : (s0.hartNext c b).state.mem.wf = true := by
  grind [State.hartNext, Next.state, State.farAgain_mem, State.stopDying_wf, !. State.splitFetch_mem,
    !. State.splitIssue_mem]

@[simp] theorem State.gangStops_mem (s : State) (c : Nat) (r : Running) (w : Nat) :
    (s.gangStops c r w).mem = s.mem := by
  unfold State.gangStops
  dsimp only
  split
  · exact foldl_mem (fun _ _ => State.hartFault_mem ..) _ _
  · refine foldl_mem (fun _ _ => ?_) _ _
    grind [State.breakHart_mem]

theorem State.gangIssue_mem (s : State) (c g : Nat) (r : Running) : (s.gangIssue c g r).state.mem = s.mem := by
  unfold State.gangIssue
  extract_lets w s1
  have stops : s1.mem = s.mem := State.gangStops_mem ..
  split
  · exact stops
  split
  · exact (State.gangForward_mem ..).trans stops
  split
  · exact (State.gangForward_mem ..).trans ((foldl_mem (fun _ _ => State.hartFault_mem ..) _ _).trans stops)
  · exact stops

theorem State.gangNext_wf (s0 : State) (c g : Nat) (h : s0.mem.wf = true) : (s0.gangNext c g).state.mem.wf = true := by
  grind [State.gangNext, Next.state, State.gangForward_mem, State.blockStart_mem, State.blockRetire_mem,
    State.stopDying_wf, !. State.gangIssue_mem]

theorem State.ctNext_mem (s : State) (c : Nat) : (s.ctNext c).state.mem = s.mem := by
  grind [State.ctNext, CtAcc.state, Next.state, State.ctCause_mem, !. State.ctFetch_mem, State.ctIllegal_mem,
    State.ctBase_mem]

theorem State.workOn_wf (s : State) (c b : Nat) (ok : Pend → Bool) {f : State → Nat → Nat → Pend → HRes}
    (hf : ∀ p, (f s c b p).state.mem.wf = true) (h : s.mem.wf = true) : (s.workOn c b ok f).mem.wf = true := by
  have walks (p) := HRes.walks_wf (hf p) s c b h
  grind [State.workOn, HRes.state, State.setPend_mem]

theorem execLaneGroupCycle_keeps (core bank : Nat) (agree : Bool) (s : State) (h : s.mem.wf = true) :
    (execLaneGroupCycle core bank agree s).Keeps := by
  grind [execLaneGroupCycle, Res.Keeps, State.laneCycle_mem, State.laneCycles_mem]

theorem State.workStep_wf (s : State) (c b : Nat) {f : Pend → Option (State → State)}
    (hf : ∀ p g, f p = some g → ∀ t, t.mem.wf = true → (g t).mem.wf = true) (h : s.mem.wf = true) :
    (s.workStep c b f).mem.wf = true := by
  unfold State.workStep
  split
  · next g _ e =>
    obtain ⟨p, -, hp⟩ := Option.bind_eq_some_iff.1 (Prod.ext_iff.1 e).1
    exact hf p g hp s h
  · next k g e =>
    obtain ⟨j, -, hj⟩ := List.exists_of_findSome?_eq_some (Prod.ext_iff.1 e).2
    obtain ⟨p, -, hp⟩ := Option.bind_eq_some_iff.1 hj
    obtain ⟨g', hg, e'⟩ := Option.map_eq_some_iff.1 hp
    obtain ⟨rfl, rfl⟩ := Prod.mk.inj e'
    exact State.withWork_wf _ _ _ _ (hf p g' hg) h
  · exact h

theorem execActSenseComplete_keeps (core bank : Nat) (s : State) (h : s.mem.wf = true) :
    (execActSenseComplete core bank s).Keeps := by
  refine State.workStep_wf _ _ _ (fun p g hg t ht => ?_) h
  grind [State.senseDone_mem, State.resenseDone_mem]

theorem execWbCaptureComplete_keeps (core bank : Nat) (s : State) (h : s.mem.wf = true) :
    (execWbCaptureComplete core bank s).Keeps := by
  refine State.workStep_wf _ _ _ (fun p g hg t ht => ?_) h
  grind [State.captureDone_mem]

theorem execRowWriteComplete_keeps (core bank : Nat) (s : State) (h : s.mem.wf = true) :
    (execRowWriteComplete core bank s).Keeps := by
  refine State.workStep_wf _ _ _ (fun p g hg t ht => ?_) h
  grind [State.rowWriteDone_wf]

theorem execTwillTransferComplete_keeps (core : Nat) (x : TwillEnd) (s : State) (h : s.mem.wf = true) :
    (execTwillTransferComplete core x s).Keeps := by
  refine foldl_wf (fun t b ht => State.workOn_wf _ _ _ _ (fun p => ?_) ht) _ h
  exact wf_of_mem (twillPollWith_mem ..) ht

theorem execSergeTransferComplete_keeps (core : Nat) (x : SergeEnd) (s : State) (h : s.mem.wf = true) :
    (execSergeTransferComplete core x s).Keeps := by
  unfold execSergeTransferComplete
  cases e : s.sergeTry x.bad core x.bank with
  | none => exact h
  | some t => exact wf_of_mem (State.sergeTry_mem _ _ _ _ e) h

theorem execGatherDataArrival_keeps (core : Nat) (x : GatherGroup) (s : State) (h : s.mem.wf = true) :
    (execGatherDataArrival core x s).Keeps := by
  unfold execGatherDataArrival
  show Mem.wf _ = true
  split
  · split
    · exact State.workOn_wf _ _ _ _ (fun p => wf_of_mem (GForm.gatherPoll_mem ..) h) h
    · exact h
  · exact h

theorem columnPoll_wf (s : State) (c b : Nat) (p : Pend) (h : s.mem.wf = true) :
    (columnPoll s c b p).state.mem.wf = true := by
  unfold columnPoll
  grind [HRes.state, !. scatterPoll_wf, !. ldPoll_wf, !. amoPoll_wf]

/-! ### Dispatch -/

/-- Every instruction and event: those that one operation serves by its lemma, and the others by their own. -/
theorem exec_keeps (i : Instr) {s : State} (h : s.mem.wf = true) : Res.Keeps (exec i s) := by
  cases i with
  | add o | sub o | and o | or o | xor o | sll o | srl o | sra o | mul o | mulh o | mulhu o | div o | divu o | rem o
    | remu o | min o | max o | minu o | maxu o | slt o | sltu o | addi o | andi o | ori o | xori o | slli o | srli o
    | srai o | limm o | lshi o | xpeek o => exact (hartOp_keeps _ _ _).exec h
  | beq o | bne o | blt o | bge o | bltu o | bgeu o => exact (branchOp_keeps _ _ _).exec h
  | jal o => exact execJal_keeps _ _ h
  | jalr o => exact execJalr_keeps _ _ h
  | bfetch o => exact execBfetch_keeps _ _ h
  | stop o => exact execStop_keeps _ _ h
  | repb o => exact execRepb_keeps _ _ h
  | yield o => exact execYield_keeps _ _ h
  | pset o | psetB0 a | pnot => exact (hpOp_keeps _ _).exec h
  | xsend o => exact execXsend_keeps _ _ h
  | xrecv o => exact execXrecv_keeps _ _ h
  | nop o => exact execNop_keeps _ _ h
  | hrd o => exact execHrd_keeps _ _ h
  | hwr o => exact execHwr_keeps _ _ h
  | evt o => exact execEvt_keeps _ _ h
  | trapi o => exact execTrapi_keeps _ _ h
  | brk o => exact execBrk_keeps _ _ h
  | vcfg o => exact execVcfg_keeps _ _ h
  | setvl o => exact execSetvl_keeps _ _ h
  | setrm o => exact execSetrm_keeps _ _ h
  | mmode o => exact execMmode_keeps _ _ h
  | mmodeOff o => exact execMmodeOff_keeps _ _ h
  | mmodeRd o => exact execMmodeRd_keeps _ _ h
  | vtag o => exact execVtag_keeps _ _ h
  | vtagRd o => exact execVtagRd_keeps _ _ h
  | act o => exact execAct_keeps _ _ h
  | wb o | wbp o => exact (wbOp_keeps _ _ _).exec h
  | pre o => exact execPre_keeps _ _ h
  | ref o => exact execRef_keeps _ _ h
  | sdef o => exact execSdef_keeps _ _ h
  | sld o => exact execSld_keeps _ _ h
  | sst o => exact execSst_keeps _ _ h
  | spos o => exact execSpos_keeps _ _ h
  | sposRd o => exact execSposRd_keeps _ _ h
  | vmov o | vsplat o | vinsr o | vadd o | vsub o | vmul o | vmulh o | vdiv o | vrem o | vmin o | vmax o | vabsd o
    | vand o | vor o | vxor o | vsll o | vsrl o | vsra o | vfma o | vfms o | vfnma o | vminadd o | vneg o | vabs o
    | vnot o | vclz o | vpopc o | vsqrt o | vrcp o | vrsqrt o | vexp2 o | vlog2 o | vtanh o | vcmpEq o | vcmpNe o
    | vcmpLt o | vcmpLe o | vcmpGt o | vcmpGe o | vcmpUnord o | vadc o | vsbc o | vaddm o | vcvt o | vcvtmxImp o
    | vcvtmxExp o | vquant o | vsel o | vslup o | vsldn o | vgathr o | vcmprs o | vexpnd o | vrev o | vredSum o
    | vredMax o | vredMin o | vredAnd o | vredOr o | vredXor o | vredSexp o | vhist o | vhmerge o | viota o | mfromv o
    | mtov o | tdot o | tdotm o | tstk o => exact (LaneWord.op_keeps _).exec h
  | vextr o => exact execVextr_keeps _ _ h
  | twrot o | twbfly o | twbcast o | twxpose o => exact (twillOp_keeps _ _ _ _ _).exec h
  | shsnd o => exact execShsnd_keeps _ _ h
  | shrcv o => exact execShrcv_keeps _ _ h
  | ldg o | ldgff o | lds o => exact (loadOp_keeps _ _ _ _).exec h
  | sts o | stst o => exact (storeOp_keeps _ _ _).exec h
  | xfer o => exact execXfer_keeps _ _ h
  | xwait o => exact execXwait_keeps _ _ h
  | vfirst o => exact execVfirst_keeps _ _ h
  | mand o | mor o | mxor o | mandn o | mnot o | mshl o | mshr o | mset o
    | mclr o => exact (maskOp_keeps _ _ _ _ _).exec h
  | mpopc o => exact execMpopc_keeps _ _ h
  | mop o => exact execMop_keeps _ _ h
  | mops o => exact execMops_keeps _ _ h
  | mzero o => exact execMzero_keeps _ _ h
  | mdrain o => exact execMdrain_keeps _ _ h
  | mdrainW o => exact execMdrainW_keeps _ _ h
  | mldacc o => exact execMldacc_keeps _ _ h
  | mldaccW o => exact execMldaccW_keeps _ _ h
  | mtile o => exact execMtile_keeps _ _ h
  | mtileRel o => exact execMtileRel_keeps _ _ h
  | red o => exact execRed_keeps _ _ h
  | barrive o | sempost o => exact (ctrChange_keeps _ _ _).exec h
  | barwait o => exact execBarwait_keeps _ _ h
  | semwait o => exact execSemwait_keeps _ _ h
  | fence o => exact execFence_keeps _ _ h
  | ld o => exact execLd_keeps _ _ h
  | st o => exact execSt_keeps _ _ h
  | amoadd o | amoswap o | amocas o | amomin o | amomax o | amoand o | amoor o
    | amoxor o => exact (amoOp_keeps _ _ _).exec h
  | gdef o => exact execGdef_keeps _ _ h
  | bcast o => exact execBcast_keeps _ _ h
  | bcastn o => exact execBcastn_keeps _ _ h
  | gwait o => exact execGwait_keeps _ _ h
  | gset o => exact execGset_keeps _ _ h
  | hget o => exact execHget_keeps _ _ h
  | hstat o => exact execHstat_keeps _ _ h
  | hresume o => exact execHresume_keeps _ _ h
  | hkill o => exact execHkill_keeps _ _ h
  | evwait o => exact execEvwait_keeps _ _ h
  | evpoll o => exact execEvpoll_keeps _ _ h
  | launch o => exact execLaunch_keeps _ _ h
  | capq o => exact execCapq_keeps _ _ h
  | capack o => exact execCapack_keeps _ _ h
  | taskend => exact execTaskend_keeps _ h
  | ctbarArrive o => exact execCtbarArrive_keeps _ _ h
  | ctbarWait o => exact execCtbarWait_keeps _ _ h
  | ctbarSemwait o => exact execCtbarSemwait_keeps _ _ h
  | ctbarSempost o => exact execCtbarSempost_keeps _ _ h
  | ctbarSet o => exact execCtbarSet_keeps _ _ h
  | ctLoad o => exact execCtLoad_keeps _ _ h
  | ctStore o => exact execCtStore_keeps _ _ h
  | ctAmo o => exact execCtAmo_keeps _ _ h
  | ctLr o => exact execCtLr_keeps _ _ h
  | ctSc o => exact execCtSc_keeps _ _ h
  | ctFence o => exact execCtFence_keeps _ _ h
  | ctFenceI => exact execCtFenceI_keeps _ h
  | ctEcall => exact execCtEcall_keeps _ h
  | ctEbreak => exact execCtEbreak_keeps _ h
  | ctWfi => exact execCtWfi_keeps _ h
  | ctCsrAccess o => exact execCtCsrAccess_keeps _ _ h
  | ctMret => exact execCtMret_keeps _ h
  | machineExternalInterrupt core => exact State.interrupt_wf _ _ h
  | latchOwnedTrap core bank => exact wf_of_mem (State.latchOwnedTrap_mem ..) h
  | unload core | load core | banksave core | bankrestore core => exact State.saveOp_wf _ _ _ h
  | hmsaveOpComplete core => exact State.endOp_wf _ _ h
  | logAppend core v => exact execLogAppend_keeps _ _ _ h
  | quiesce core | retain core | gate core | release core
    | wake core => exact wf_of_mem (State.clusterCmd_mem ..) h
  | clusterCmdComplete cluster selfTestOk => exact State.cmdDone_wf _ _ _ h
  | registerWrite fn off v => exact wf_of_mem (State.registerWrite_mem ..) h
  | sqDoorbell fn q v => exact execSqDoorbell_keeps _ _ _ _ h
  | sqcfgWrite fn q v => exact wf_of_mem (State.writeSqcfg_mem ..) h
  | cqcfgWrite fn q v => exact wf_of_mem (State.writeCqcfg_mem ..) h
  | cqheadWrite fn q v => exact wf_of_mem (State.writeCqhead_mem ..) h
  | heldRecordWrite q => exact wf_of_mem (State.writeHeld_mem ..) h
  | protectedWrite unit whole => exact execProtectedWrite_keeps _ _ _ h
  | hostWindowWrite off data => exact execHostWindowWrite_keeps _ _ _ h
  | hostWindowRead off len => exact execHostWindowRead_keeps _ _ _ h
  | hostAtomicop off size op x y => exact execHostAtomicop_keeps _ _ _ _ _ _ h
  | acceptRecord => exact wf_of_mem (State.accept_mem ..) h
  | launchPacketReceive origin packet => exact execLaunchPacketReceive_keeps _ _ _ h
  | spanArrival gen member => exact wf_of_mem (State.arrive_mem ..) h
  | startReceive origin gen => exact execStartReceive_keeps _ _ _ h
  | spanRefusalReport gen member code => exact execSpanRefusalReport_keeps _ _ _ _ h
  | spanLinkLoss origin gen peer => exact execSpanLinkLoss_keeps _ _ _ _ h
  | waitConditionsMet num => exact wf_of_mem (State.tryWaits_mem ..) h
  | rangeFlushStart => exact wf_of_mem (State.startFlush_mem ..) h
  | rangeFlushComplete => exact execRangeFlushComplete_keeps _ h
  | schedulerDecision => exact wf_of_mem (State.decide_mem ..) h
  | ageLimitExpiry num | latestStartExpiry num => exact wf_of_mem (State.refreshEff_mem ..) h
  | taskFaultEnd num core code => exact execTaskFaultEnd_keeps _ _ _ _ h
  | watchdogExpiry num => exact State.watchdog_wf _ _ h
  | periodBoundary => exact wf_of_mem (State.period_mem ..) h
  | owedIncrement core bank k => exact wf_of_mem (State.owedUp_mem ..) h
  | hwRefreshRow core bank k => exact wf_of_mem (State.hwRefresh_mem ..) h
  | forcedRefreshRow core bank k => exact wf_of_mem (State.forcedRefresh_mem ..) h
  | scrubRow core bank k row stuck => exact wf_of_mem (State.scrub_mem ..) h
  | scoreDecay => exact execScoreDecay_keeps _ h
  | coreLeaseStart core kind => exact State.leaseStart_wf _ _ _ h
  | leaseEfftime core => exact State.leaseDue_wf _ _ h
  | leaseEnd core passed => exact State.leaseEnd_wf _ _ _ h
  | fenStepStart x => exact execFenStepStart_keeps _ _ h
  | fenStepEnd u passed stuck => exact State.stepEnd_wf _ _ _ _ h
  | remapCopyComplete layer => exact wf_of_mem (State.remapEnd_mem ..) h
  | shrinkComplete layer => exact State.shrinkEnd_wf _ _ h
  | eventRecordEnter core => exact execEventRecordEnter_keeps _ _ h
  | governorCheck watts => exact execGovernorCheck_keeps _ _ h
  | powerTripStart => exact execPowerTripStart_keeps _ h
  | powerTripEnd => exact execPowerTripEnd_keeps _ h
  | sensorRead readings => exact execSensorRead_keeps _ _ h
  | coldReset => exact State.coldReset_wf _
  | warmReset => exact State.warmReset_wf _ h
  | laneGroupCycle core bank agree => exact execLaneGroupCycle_keeps _ _ _ _ h
  | actSenseComplete core bank => exact execActSenseComplete_keeps _ _ _ h
  | wbCaptureComplete core bank => exact execWbCaptureComplete_keeps _ _ _ h
  | rowWriteComplete core bank => exact execRowWriteComplete_keeps _ _ _ h
  | sagBusyEnd core bank k => exact wf_of_mem (State.setSagBusy_mem ..) h
  | blockStart core gang => exact wf_of_mem (State.blockStart_mem ..) h
  | blockRetire core gang => exact wf_of_mem (State.blockRetire_mem ..) h
  | splitBlockFetch core bank => exact execSplitBlockFetch_keeps _ _ _ h
  | engineTakeUp core => exact wf_of_mem (State.engineTake_mem ..) h
  | engineOpComplete core agree again => exact wf_of_mem (State.engineEnd_mem ..) h
  | sergeTransferComplete core x => exact execSergeTransferComplete_keeps _ _ _ h
  | gatherDataArrival core x => exact execGatherDataArrival_keeps _ _ _ h
  | semGrant hub core ctr => exact execSemGrant_keeps _ _ _ _ h
  | counterWaitMet hub core ctr => exact execCounterWaitMet_keeps _ _ _ _ h
  | xferComplete core bank slot => exact State.xferGo_wf _ _ _ _ h
  | remoteReadRequest src line => exact execRemoteReadRequest_keeps _ _ _ h
  | remoteOwnershipRequest src line => exact execRemoteOwnershipRequest_keeps _ _ _ h
  | remoteWriteBack src line data cond modified => exact execRemoteWriteBack_keeps _ _ _ _ _ _ h
  | recallRequest home line what => exact wf_of_mem (State.recalled_mem ..) h
  | remoteAnswer src kind line data cond owned => exact execRemoteAnswer_keeps _ _ _ _ _ _ _ h
  | recallTimeout w => exact wf_of_mem (State.recallTimeout_mem ..) h
  | hostCompletion w ok poisoned data => exact execHostCompletion_keeps _ _ _ _ _ h
  | hostCompletionTimeout w => exact execHostCompletionTimeout_keeps _ _ h
  | dcacheEviction core word => exact execDcacheEviction_keeps _ _ _ h
  | status => exact execStatus_keeps _ h
  | readLog => exact execReadLog_keeps _ h
  | readRetire => exact execReadRetire_keeps _ h
  | setPlimit watts => exact execSetPlimit_keeps _ _ h
  | setMode on => exact execSetMode_keeps _ _ h
  | armRetention on => exact execArmRetention_keeps _ _ h
  | attest nonce => exact execAttest_keeps _ _ h
  | debugCmd tokenOk core op arg => exact execDebugCmd_keeps _ _ _ _ _ h
  | fwUpdate version sigOk hash => exact execFwUpdate_keeps _ _ _ _ h
  | twillTransferComplete core x => exact execTwillTransferComplete_keeps _ _ _ h
  | redCombineComplete core chan scope => exact execRedCombineComplete_keeps _ _ _ _ h
  | columnAccessComplete core bank => exact State.workOn_wf _ _ _ _ (fun p => columnPoll_wf _ _ _ p h) h
  | mscEviction line => exact wf_of_mem (State.mscEvict_mem ..) h
  | remoteAmoRequest src addr op w32 x y => exact execRemoteAmoRequest_keeps _ _ _ _ _ _ _ h
  | remoteForwardRequest home line => exact wf_of_mem (State.forwarded_mem ..) h

theorem exec_wf {i : Instr} {s t : State} (h : s.mem.wf = true) (e : exec i s = .next t) : t.mem.wf = true := by
  have k := exec_keeps i h
  rwa [e] at k

/-! ### Ahead -/

theorem State.tryWord_wf (s : State) (c b : Nat) (words : List Nat) (va pos g : Nat) (drawn : List (Nat × Nat))
    (f : Bank → Bank) {t : State} (e : s.tryWord c b words va pos g drawn f = some t) (h : s.mem.wf = true) :
    t.mem.wf = true := by
  unfold State.tryWord at e
  split at e
  · extract_lets s1 s2 at e
    split at e
    · next er =>
      obtain rfl := Option.some.inj e
      exact exec_wf (s := { s2 with actCore := c, actBank := b, actGang := none, stepwise := true }) h er
    · cases e
  · cases e

@[simp] theorem State.giveWay_mem (s : State) (c b : Nat) (op : LaneOp) : (s.giveWay c b op).mem = s.mem := by
  simp [State.giveWay]

@[simp] theorem State.feedFrom_wf (c b k : Nat) (words : List Nat) (va pos : Nat) (x0 : List Nat) (x1 : LaneOp)
    (s : State) (h : s.mem.wf = true) : (State.feedFrom c b k words va pos x0 x1 s).mem.wf = true := by
  induction x0 generalizing c b k words va pos x1 s <;> grind [State.feedFrom, → State.consumed_inl,
    → State.consumed_inr, State.putLane_mem, State.giveWay_mem]

@[simp] theorem State.feed_wf (s : State) (c b k : Nat) (h : s.mem.wf = true) : (s.feed c b k).mem.wf = true := by
  grind [State.feed, State.feedFrom_wf]

@[simp] theorem State.join_mem (s : State) (c b : Nat) (y : Young) : (s.join c b y).mem = s.mem := rfl

theorem State.laneBehind_wf (s : State) (c b : Nat) (words : List Nat) (va pos k : Nat) {t : State}
    (e : s.laneBehind c b words va pos k = some t) (h : s.mem.wf = true) : t.mem.wf = true := by
  have opens (l : List Nat) (t : State) : (l.foldl (fun t r => t.beginWrite c b r 0) t).mem = t.mem :=
    foldl_mem (fun _ _ => State.beginWrite_mem ..) l t
  grind [State.laneBehind, State.feed_wf, State.join_mem]

@[simp] theorem State.joinWork_mem (s t : State) (c b : Nat) (p : Pend) (n : Note) :
    (s.joinWork t c b p n).mem = t.mem := by
  simp [State.joinWork]

theorem State.workBehind_wf (s : State) (c b : Nat) (words : List Nat) (va pos k : Nat) {t : State}
    (e : s.workBehind c b words va pos k = some t) (h : s.mem.wf = true) : t.mem.wf = true := by
  unfold State.workBehind at e
  grind [State.setSagBusy_mem, State.closeLatch_mem, → State.tryWord_wf, State.join_mem,
    State.joinWork_mem]

theorem State.behind_wf (s : State) (c b : Nat) {t : State} (e : s.behind c b = some t) (h : s.mem.wf = true) :
    t.mem.wf = true := by
  have joined (y : Young) (e : some (s.join c b y) = some t) : t.mem.wf = true :=
    Option.some.inj e ▸ h
  unfold State.behind at e
  extract_lets hart present at e
  clear_value present
  split at e
  extract_lets k w broken at e
  clear_value broken
  split at e
  · cases e
  split at e
  · cases e
  split at e
  · cases e
  extract_lets hidden at e
  split at e
  · exact joined _ e
  split at e
  · cases e
  split at e
  · exact joined _ e
  split at e
  · cases e
  split at e
  · next ew => exact Option.some.inj e ▸ State.workBehind_wf _ _ _ _ _ _ _ ew h
  · exact State.laneBehind_wf _ _ _ _ _ _ _ e h

@[simp] theorem State.reissue_mem (s : State) (c b k : Nat) : (s.reissue c b k).mem = s.mem := by
  grind [State.reissue, State.setYoung_mem, State.reopen_mem]

@[simp] theorem State.feedAll_wf (s : State) (c b : Nat) (h : s.mem.wf = true) : (s.feedAll c b).mem.wf = true := by
  unfold State.feedAll
  exact foldl_wf (fun _ _ => State.feed_wf _ _ _ _) _
    (wf_of_mem (foldl_mem (fun _ _ => State.reissue_mem ..) _ _) h)

theorem State.issueBehind_wf (s : State) (c : Nat) (bs : List Nat) {t : State} (e : s.issueBehind c bs = some t)
    (h : s.mem.wf = true) : t.mem.wf = true := by
  have each (l : List Nat) (u : State) (hu : u.mem.wf = true) (eu : l.foldlM (fun (t : State) b => t.behind c b) u =
    some t) :
      t.mem.wf = true := by
    induction l generalizing u with
    | nil => obtain rfl := Option.some.inj eu; exact hu
    | cons b l ih =>
      rw [List.foldlM_cons] at eu
      obtain ⟨v, ev, el⟩ := Option.bind_eq_some_iff.1 eu
      exact ih v (State.behind_wf _ _ _ ev hu) el
  grind [State.issueBehind]

@[simp] theorem State.issueAhead_wf (x0 : Nat) (x1 : Nat) (x2 : List Nat) (s : State) (h : s.mem.wf = true) :
    (State.issueAhead x0 x1 x2 s).mem.wf = true := by
  induction x0 generalizing x1 x2 s <;> grind [State.issueAhead, → State.issueBehind_wf]

@[simp] theorem State.runCycles_mem (x0 : Nat) (x1 : Nat) (x2 : Nat) (s : State) :
    (State.runCycles x0 x1 x2 s).mem = s.mem := by
  induction x0 generalizing x1 x2 s <;> grind [State.runCycles, State.laneCycles_mem]

@[simp] theorem State.rowsBehind_wf (s : State) (c b : Nat) (h : s.mem.wf = true) :
    (s.rowsBehind c b).mem.wf = true := by
  unfold State.rowsBehind
  refine foldl_wf (fun t k ht => ?_) _ h
  split
  · refine State.withWork_wf _ _ _ _ (fun u hu => ?_) ht
    have poll (p) := rowPoll_wf true u c b p hu
    grind [HRes.state]
  · exact ht

@[simp] theorem State.runBehind_wf (c b : Nat) (x0 : Nat) (s : State) (h : s.mem.wf = true) :
    (State.runBehind c b x0 s).mem.wf = true := by
  induction x0 generalizing c b s <;> grind [State.runBehind, State.feedAll_wf, State.runCycles_mem,
    State.rowsBehind_wf]

@[simp] theorem State.goAhead_wf (s : State) (c : Nat) (bs issued : List Nat) (whole : Bool) (h : s.mem.wf = true) :
    (s.goAhead c bs issued whole).mem.wf = true := by
  unfold State.goAhead
  extract_lets on s1 s2
  have h1 : s1.mem.wf = true := by
    refine foldl_wf (fun t b ht => ?_) _ h
    split
    · exact State.feedAll_wf _ _ _ ht
    · exact ht
  have h2 : s2.mem.wf = true := by
    grind [State.issueAhead_wf]
  split
  · refine foldl_wf (fun t b ht => ?_) _ h2
    split
    · exact State.runBehind_wf _ _ _ _ ht
    · exact ht
  · exact h2

/-! ### Outside -/

@[simp] theorem State.barRead_mem (s : State) (fn off : Nat) : (s.barRead fn off).mem = s.mem := rfl

@[simp] theorem State.windowSize_mem (s : State) (log : Nat) : (s.windowSize log).mem = s.mem := by
  grind [State.windowSize]

@[simp] theorem State.atomicEnable_mem (s : State) (fn : Nat) (on : Bool) : (s.atomicEnable fn on).mem = s.mem := rfl

@[simp] theorem State.tlbFill_mem (s : State) (c va : Nat) (rows : Bool) : (s.tlbFill c va rows).mem = s.mem := by
  grind [State.tlbFill, State.setCore_mem]

@[simp] theorem State.tlbDrop_mem (s : State) (c va : Nat) (rows : Bool) : (s.tlbDrop c va rows).mem = s.mem := rfl

@[simp] theorem State.lineFault_mem (s : State) (line bad : Nat) (e2eDiff : BitVec 16) :
    (s.lineFault line bad e2eDiff).mem = s.mem := rfl

@[simp] theorem State.latchFault_mem (s : State) (c b r line bad : Nat) (e2eDiff : BitVec 16) :
    (s.latchFault c b r line bad e2eDiff).mem = s.mem := by
  simp only [State.latchFault]
  repeat' split
  all_goals simp

@[simp] theorem State.counterFault_mem (s : State) (hub : Bool) (c n copy : Nat) (v : BitVec 32) :
    (s.counterFault hub c n copy v).mem = s.mem := by
  simp [State.counterFault]

@[simp] theorem State.configFault_mem (s : State) (ty slot : Nat) : (s.configFault ty slot).mem = s.mem := rfl

@[simp] theorem State.retireFault_mem (s : State) (n : Nat) : (s.retireFault n).mem = s.mem := rfl

@[simp] theorem State.outside_mem (s : State) (o : Outside) : (s.outside o).mem = s.mem := by
  unfold State.outside; split <;> simp

/-! ### Hub -/

@[simp] theorem State.advance_mem (s : State) (ns : Nat) : (s.advance ns).mem = s.mem := rfl

@[simp] theorem State.periodFrom_mem (s : State) (t : Nat) : (s.periodFrom t).mem = s.mem := by
  grind [State.periodFrom, State.period_mem]

@[simp] theorem State.pass_mem (s : State) (ns : Nat) : (s.pass ns).mem = s.mem := by
  simp [State.pass]

@[simp] theorem State.flushSome_mem (s : State) (n : Nat) : (s.flushSome n).mem = s.mem := by
  simp [State.flushSome]

@[simp] theorem State.hubEnds_wf (s : State) (h : s.mem.wf = true) : s.hubEnds.mem.wf = true := by
  unfold State.hubEnds
  refine foldl_wf (fun t q ht => wf_of_mem (State.writeHeld_mem ..) ht) _
    (foldl_wf (fun t x ht => ?_) _ h)
  exact State.goEnd_wf _ _ (State.watchdog_wf _ _ ht)

@[simp] theorem State.taskWork_wf (s : State) (ns : Nat) (h : s.mem.wf = true) : (s.taskWork ns).mem.wf = true := by
  have flush {α : Type} (l : List α) (t : State) :
      (l.foldl (fun u _ => u.flushSome (16 * ns)) t).mem = t.mem := foldl_mem (fun _ _ => State.flushSome_mem ..) l t
  have waits (l : List Task) (t : State) : (l.foldl (fun u x => u.tryWaits x.num) t).mem = t.mem :=
    foldl_mem (fun _ _ => State.tryWaits_mem ..) l t
  grind [State.taskWork, State.decide_mem, State.retryPackets_mem, State.accept_mem, State.hubEnds_wf]

@[simp] theorem State.idleSags_mem (s : State) (c : Nat) : (s.idleSags c).mem = s.mem := rfl

@[simp] theorem State.coreWork_wf (s : State) (c : Nat) (h : s.mem.wf = true) : (s.coreWork c).mem.wf = true := by
  unfold State.coreWork
  extract_lets s1 s2 waiting s3
  have h1 : s1.mem.wf = true := by
    grind [State.endOp_wf, State.interrupt_wf, State.drainEvents_mem, State.ringRun_wf]
  have h2 : s2.mem.wf = true := by
    grind [State.idleSags_mem, State.leaseDue_wf, State.leaseTry_wf]
  have h3 : s3.mem.wf = true := wf_of_mem (foldl_mem (fun _ _ => State.latchOwnedTrap_mem ..) _ _) h2
  exact foldl_wf (fun _ _ ht => State.xferAll_wf _ _ _ (State.storesRun_wf _ _ _ ht)) _ h3

@[simp] theorem State.repairWork_wf (s : State) (h : s.mem.wf = true) : s.repairWork.mem.wf = true := by
  simp [State.repairWork, h]

@[simp] theorem State.hubWork_wf (s : State) (ns : Nat) (h : s.mem.wf = true) : (s.hubWork ns).mem.wf = true := by
  have cores : ((s.cores.map (·.1)).foldl State.coreWork s).mem.wf = true :=
    foldl_wf (fun _ _ => State.coreWork_wf _ _) _ h
  grind [State.hubWork, State.taskWork_wf, State.repairWork_wf, State.serveRemote_wf, State.hostGo_wf]

@[simp] theorem State.tick_wf (s : State) (ns : Nat) (h : s.mem.wf = true) : (s.tick ns).mem.wf = true := by
  simp [State.tick, h]

@[simp] theorem State.progress_wf (s : State) (c b : Nat) (h : s.mem.wf = true) : (s.progress c b).mem.wf = true := by
  simp [State.progress, h]

theorem Next.end_keeps {n : Next} (h : n.state.mem.wf = true) : n.end.Keeps := by
  cases n with
  | run s i => exact exec_keeps i h
  | settled s => exact h

theorem State.hartTurn_wf (s : State) (c b : Nat) (whole : Bool) (h : s.mem.wf = true) :
    (s.hartTurn c b whole).state.mem.wf = true := by
  grind [State.hartTurn, Next.state, !. State.hartNext_wf, State.goAhead_wf, State.progress_wf]

theorem State.gangTurn_wf (s : State) (c g : Nat) (whole : Bool) (h : s.mem.wf = true) :
    (s.gangTurn c g whole).state.mem.wf = true := by
  unfold State.gangTurn
  extract_lets s1 s2
  have h2 : s2.mem.wf = true := by
    have folds (l : List Nat) (t : State) (ht : t.mem.wf = true) :
        (l.foldl (fun t b => t.progress c b) t).mem.wf = true := foldl_wf (fun _ _ => State.progress_wf _ _ _) l ht
    grind
  grind [State.gangNext_wf, State.goAhead_wf]

theorem State.ctTurn_mem (s : State) (c : Nat) : (s.ctTurn c).state.mem = s.mem := by
  grind [State.ctTurn, Next.state, !. State.ctNext_mem]

theorem State.turn_keeps (s : State) (t : Turn) (h : s.mem.wf = true) : (s.turn t).Keeps := by
  cases t with
  | hart c b whole => exact Next.end_keeps (State.hartTurn_wf s c b whole h)
  | gang c g whole => exact Next.end_keeps (State.gangTurn_wf s c g whole h)
  | ct c => exact Next.end_keeps (wf_of_mem (State.ctTurn_mem ..) h)
  | event i => exact exec_keeps i h
  | outside o => exact wf_of_mem (State.outside_mem ..) h
  | tick ns => exact State.tick_wf s ns h

@[simp] theorem State.nextTurn_mem (s : State) : s.nextTurn.1.mem = s.mem := by
  grind [State.nextTurn, State.pass_mem]

/-! ### Step -/

theorem step_keeps {s : State} (h : s.mem.wf = true) : Res.Keeps (step s) := by
  unfold step
  split
  · exact State.turn_keeps _ _ h
  · exact State.turn_keeps _ _ (wf_of_mem (State.nextTurn_mem s) h)

/-! ### Obligations -/

/-- Settles O59, by one lemma for each function of the model that changes a state. -/
theorem stepKeepsMemory : Obligations.StepKeepsMemory := by
  intro s t h e
  have keeps := step_keeps h
  rwa [e] at keeps

end Sys2Proof.Machine
end

section
/-! # Rows written (O10)

A row placed in memory is read back from its own cells: those below and above it give nothing to its bytes. WB, WBP and
SST run on a ready hart from their capture to the end of their row write; `SameWork` says what the books that they keep
beside it (SAG, sideband, coherence, log) leave as it was. -/

namespace Sys2Proof.Machine

/-! ### A row placed in memory -/

theorem Mem.slice_append (m m' : Mem) (a n : Nat) : Mem.slice (m ++ m') a n = m.slice a n + m'.slice a n := by
  induction m with
  | nil => simp [Mem.slice]
  | cons e t ih => rw [List.cons_append, Mem.slice, Mem.slice, ih, Nat.add_assoc]

/-- Cells outside a range give nothing to its bytes. -/
theorem Mem.slice_of_outside {m : Mem} {a n : Nat} (h : ∀ e ∈ m, ¬(a ≤ e.1 ∧ e.1 < a + n)) : m.slice a n = 0 := by
  induction m with
  | nil => rfl
  | cons e t ih =>
    obtain ⟨out, rest⟩ := List.forall_mem_cons.1 h
    rw [Mem.slice, if_neg out, ih rest]

/-- The cells of a row hold its bits, at their place in any range that covers them. -/
theorem slice_rowCells {a n : Nat} (b k v : Nat) (hv : v < 2 ^ (8 * 2 ^ k)) (hb : a ≤ b) (hn : b + 2 ^ k ≤ a + n) :
    Mem.slice (rowCells b k v) a n = v * 2 ^ (8 * (b - a)) := by
  induction k generalizing b v with
  | zero =>
    have small : v < 256 := by simpa using hv
    unfold rowCells
    split
    · have zero : v = 0 := by omega
      simp [zero, Mem.slice]
    · have inside : a ≤ b ∧ b < a + n := by omega
      simp [Mem.slice, inside, Nat.mod_eq_of_lt small]
  | succ k ih =>
    have pos := Nat.two_pow_pos k
    have double : 2 ^ (k + 1) = 2 ^ k + 2 ^ k := by rw [Nat.pow_succ]; omega
    rw [double] at hv hn
    unfold rowCells
    split
    · next zero => simp [zero, Mem.slice]
    · have low := ih b (v % 2 ^ (8 * 2 ^ k)) (Nat.mod_lt _ (Nat.two_pow_pos _)) hb (by omega)
      have high := ih (b + 2 ^ k) (v / 2 ^ (8 * 2 ^ k))
        (Nat.div_lt_of_lt_mul (by rwa [← Nat.pow_add, ← Nat.mul_add])) (by omega) (by omega)
      have place : 8 * (b + 2 ^ k - a) = 8 * 2 ^ k + 8 * (b - a) := by omega
      rw [Mem.slice_append, low, high, place, Nat.pow_add, ← Nat.mul_assoc, ← Nat.add_mul, Nat.mul_comm (v / _),
        Nat.mod_add_div]

theorem Mem.lt_of_mem_below {m : Mem} {a : Nat} {e : Host.Cell} (he : e ∈ m.filter fun c => decide (c.1 < a)) :
    e.1 < a := by
  simpa using (List.mem_filter.1 he).2

theorem Mem.le_of_mem_above {m : Mem} {a : Nat} {e : Host.Cell} (he : e ∈ m.filter fun c => decide (a ≤ c.1)) :
    a ≤ e.1 := by
  simpa using (List.mem_filter.1 he).2

/-- A row placed in memory reads back (R5, R228). -/
theorem Mem.slice_place (m : Mem) (a k v : Nat) (hv : v < 2 ^ (8 * 2 ^ k)) : (m.place a k v).slice a (2 ^ k) = v := by
  have below : Mem.slice (m.filter fun c => decide (c.1 < a)) a (2 ^ k) = 0 :=
    Mem.slice_of_outside fun e he => by have := Mem.lt_of_mem_below he; omega
  have above : Mem.slice (m.filter fun c => decide (a + 2 ^ k ≤ c.1)) a (2 ^ k) = 0 :=
    Mem.slice_of_outside fun e he => by have := Mem.le_of_mem_above he; omega
  rw [Mem.place, Mem.slice_append, Mem.slice_append, below, above, slice_rowCells a k v hv le_rfl le_rfl]
  simp

theorem Mem.get_append_of_absent_left {m m' : Mem} {a : Nat} (h : ∀ e ∈ m, e.1 ≠ a) :
    Mem.get (m ++ m') a = m'.get a := by
  induction m with
  | nil => rfl
  | cons e t ih =>
    obtain ⟨here, rest⟩ := List.forall_mem_cons.1 h
    rw [List.cons_append, Mem.get, if_neg here, ih rest]

theorem Mem.get_append_of_absent_right {m m' : Mem} {a : Nat} (h : ∀ e ∈ m', e.1 ≠ a) :
    Mem.get (m ++ m') a = m.get a := by
  induction m with
  | nil => exact Mem.get_of_absent h
  | cons e t ih => rw [List.cons_append, Mem.get, Mem.get, ih]

/-- Cells kept by their address keep what is read there. -/
theorem Mem.get_filter (m : Mem) {p : Nat → Bool} {a : Nat} (h : p a = true) :
    Mem.get (m.filter fun c => p c.1) a = m.get a := by
  induction m with
  | nil => rfl
  | cons e t ih =>
    by_cases here : e.1 = a
    · simp [Mem.get, here, h]
    · cases keep : p e.1 <;> simp [Mem.get, here, keep, ih]

/-- Every byte outside a row placed in memory stays. -/
theorem Mem.get_place_outside (m : Mem) (a k v b : Nat) (h : b < a ∨ a + 2 ^ k ≤ b) :
    (m.place a k v).get b = m.get b := by
  have pos := Nat.two_pow_pos k
  have row : ∀ e ∈ rowCells a k v, e.1 ≠ b := fun e he => by
    obtain ⟨-, low, high⟩ := (rowCells_spec a k v).2 e he
    omega
  rcases h with h | h
  · have rest : ∀ e ∈ rowCells a k v ++ m.filter (fun c => decide (a + 2 ^ k ≤ c.1)), e.1 ≠ b := by
      refine List.forall_mem_append.2 ⟨row, fun e he => ?_⟩
      have := Mem.le_of_mem_above he
      omega
    rw [Mem.place, Mem.get_append_of_absent_right rest]
    exact Mem.get_filter (p := fun j => decide (j < a)) m (by simpa using h)
  · have below : ∀ e ∈ m.filter (fun c => decide (c.1 < a)), e.1 ≠ b := fun e he => by
      have := Mem.lt_of_mem_below he
      omega
    rw [Mem.place, Mem.get_append_of_absent_left below, Mem.get_append_of_absent_left row]
    exact Mem.get_filter (p := fun j => decide (a + 2 ^ k ≤ j)) m (by simpa using h)

/-- What O10 says of a row placed in memory. -/
theorem rowStoreReadsBack : Claims.RowStoreReadsBack := by
  intro m pa v hm hv
  have bits : v < 2 ^ (8 * 2 ^ 13) := by rwa [show 8 * 2 ^ 13 = 65536 from rfl]
  exact ⟨Mem.slice_place m pa 13 v bits, Mem.wf_place hm pa 13 v,
    fun a ha => Mem.get_place_outside m pa 13 v a (by simpa using ha)⟩

/-! ### What a row operation leaves of a hart's work -/

/-- Two states that agree in every hart, in the registers and masks of bank `b` of core `c`, in every other bank, and in
what the retirement of a word reads besides: what stays while a row operation keeps its books elsewhere. -/
structure SameWork (c b : Nat) (s t : State) : Prop where
  hart : ∀ d e, t.hart d e = s.hart d e
  regs : (t.bank c b).regs = (s.bank c b).regs
  masks : (t.bank c b).masks = (s.bank c b).masks
  banks : ∀ d e, ¬(d = c ∧ e = b) → t.bank d e = s.bank d e
  trace : (t.core c).traceOn = (s.core c).traceOn
  ring : (t.ct c).ring = (s.ct c).ring
  stepwise : t.stepwise = s.stepwise

section
variable {c b : Nat} {s t u : State}

theorem SameWork.refl (c b : Nat) (s : State) : SameWork c b s s :=
  ⟨fun _ _ => rfl, rfl, rfl, fun _ _ _ => rfl, rfl, rfl, rfl⟩

theorem SameWork.trans (h : SameWork c b s t) (k : SameWork c b t u) : SameWork c b s u where
  hart d e := (k.hart d e).trans (h.hart d e)
  regs := k.regs.trans h.regs
  masks := k.masks.trans h.masks
  banks d e n := (k.banks d e n).trans (h.banks d e n)
  trace := k.trace.trans h.trace
  ring := k.ring.trans h.ring
  stepwise := k.stepwise.trans h.stepwise

theorem SameWork.reg (h : SameWork c b s t) (r : Nat) : t.reg c b r = s.reg c b r := by
  simp [State.reg, Bank.reg, h.regs]

/-- The same hart written to both. -/
theorem SameWork.setHart (h : SameWork c b s t) (x : Hart) : SameWork c b (s.setHart c b x) (t.setHart c b x) where
  hart d e := by
    by_cases n : d = c ∧ e = b
    · obtain ⟨rfl, rfl⟩ := n; simp
    · rw [State.hart_setHart_of_ne _ _ n, State.hart_setHart_of_ne _ _ n, h.hart]
  regs := by simp [h.regs]
  masks := by simp [h.masks]
  banks d e n := by simpa using h.banks d e n
  trace := by simpa using h.trace
  ring := by simpa using h.ring
  stepwise := h.stepwise

/-- The same register written to both. -/
theorem SameWork.setReg (h : SameWork c b s t) (r : Nat) (x : VReg) :
    SameWork c b (s.setReg c b r x) (t.setReg c b r x) where
  hart d e := by simpa using h.hart d e
  regs := by simp [State.setReg, Bank.setReg, h.regs]
  masks := by simp [State.setReg, h.masks]
  banks d e n := by
    simp only [State.setReg]
    rw [State.bank_setBank_of_ne _ _ n, State.bank_setBank_of_ne _ _ n, h.banks d e n]
  trace := by simpa [State.setReg] using h.trace
  ring := by simpa using h.ring
  stepwise := h.stepwise

/-- Two cores that agree in their harts, banks, trace switch and ring. -/
def Core.SameWork (k l : Core) : Prop :=
  l.harts = k.harts ∧ l.banks = k.banks ∧ l.traceOn = k.traceOn ∧ l.ct.ring = k.ct.ring

theorem Core.SameWork.refl (k : Core) : k.SameWork k := ⟨rfl, rfl, rfl, rfl⟩

theorem sameWork_of_core (c b : Nat) (h : ∀ d, (s.core d).SameWork (t.core d)) (hs : t.stepwise = s.stepwise) :
    SameWork c b s t := by
  have hart (d e : Nat) : t.hart d e = s.hart d e := by simp [State.hart, Core.hart, (h d).1]
  have bank (d e : Nat) : t.bank d e = s.bank d e := by simp [State.bank, Core.bank, (h d).2.1]
  obtain ⟨-, -, trace, ring⟩ := h c
  exact ⟨hart, by rw [bank], by rw [bank], fun d e _ => bank d e, trace, ring, hs⟩

theorem sameWork_of_cores (c b : Nat) (hc : t.cores = s.cores) (hs : t.stepwise = s.stepwise) : SameWork c b s t :=
  sameWork_of_core c b (fun d => by rw [State.core, State.core, hc]; exact Core.SameWork.refl _) hs

theorem Tab.find_mapVals {α : Type} (t : Tab α) (f : Nat → α → α) (k : Nat) :
    (t.mapVals f).find k = (t.find k).map (f k) := by
  induction t with
  | nil => rfl
  | cons e t ih =>
    simp only [Tab.mapVals, List.map_cons, Tab.find] at ih ⊢
    grind

theorem sameWork_of_mapVals (c b : Nat) {f : Nat → Core → Core} (hc : t.cores = s.cores.mapVals f)
    (hs : t.stepwise = s.stepwise) (hf : ∀ d (k : Core), k.SameWork (f d k)) : SameWork c b s t := by
  refine sameWork_of_core c b (fun d => ?_) hs
  simp only [State.core, hc, Tab.get, Tab.find_mapVals]
  cases s.cores.find d with
  | none => exact Core.SameWork.refl _
  | some k => exact hf d k

end

theorem sameWork_setSagBusy (s : State) (c b k : Nat) (v : Bool) : SameWork c b s (s.setSagBusy c b k v) where
  hart d e := by simp [State.setSagBusy]
  regs := by simp [State.setSagBusy]
  masks := by simp [State.setSagBusy]
  banks d e n := by rw [State.setSagBusy, State.bank_setBank_of_ne _ _ n]
  trace := by simp [State.setSagBusy]
  ring := by simp [State.setSagBusy]
  stepwise := rfl

theorem sameWork_useSag (s : State) (c b k : Nat) : SameWork c b s (s.useSag c b k) := by
  refine (sameWork_setSagBusy s c b k s.stepwise).trans ?_
  unfold State.useSag State.unitUsed
  dsimp only
  split
  · exact sameWork_of_cores c b rfl rfl
  · exact SameWork.refl c b _

theorem sameWork_traceMeet (s : State) (c b core kind value : Nat) : SameWork c b s (s.traceMeet core kind value) := by
  unfold State.traceMeet
  dsimp only
  split
  · split
    · refine sameWork_of_core c b (fun d => ?_) rfl
      by_cases n : d = core
      · subst n; rw [State.core_setCore]; exact Core.SameWork.refl _
      · rw [State.core_setCore_of_ne _ _ n]; exact Core.SameWork.refl _
    · exact SameWork.refl c b s
  · exact SameWork.refl c b s

theorem sameWork_logHub (s : State) (c b code detail : Nat) : SameWork c b s (s.logHub code detail) := by
  have meet := sameWork_traceMeet s c b 0xffff 0 code
  unfold State.logHub State.logEvent
  dsimp only
  split
  · exact SameWork.refl c b s
  split
  · exact meet.trans (sameWork_of_cores c b rfl rfl)
  · exact meet.trans (sameWork_of_cores c b rfl rfl)

theorem sameWork_foldl {α : Type} {f : State → α → State} {c b : Nat} (h : ∀ s a, SameWork c b s (f s a)) (l : List α)
    (s : State) : SameWork c b s (l.foldl f s) := by
  induction l generalizing s with
  | nil => exact SameWork.refl c b s
  | cons a l ih => exact (h s a).trans (ih _)

theorem sameWork_discardRow (s : State) (c b pa : Nat) : SameWork c b s (s.discardRow pa) := by
  refine SameWork.trans (sameWork_of_cores c b ?_ ?_) (sameWork_foldl (fun t e => sameWork_logHub t c b _ _) _ _)
  · show (s.hadRow pa).cores = s.cores
    unfold State.hadRow
    split <;> rfl
  · show (s.hadRow pa).stepwise = s.stepwise
    unfold State.hadRow
    split <;> rfl

theorem Ct.ring_revoke (x : Ct) (a first n : Nat) : (x.revoke a first n).ring = x.ring := rfl

theorem sameWork_touchPage (s : State) (c b pa : Nat) : SameWork c b s (s.touchPage pa) := by
  unfold State.touchPage
  split
  · exact SameWork.refl c b s
  · exact sameWork_of_cores c b rfl rfl

theorem sameWork_revokeWords (s : State) (c b : Nat) (self : Option Nat) (a n : Nat) :
    SameWork c b s (s.revokeWords self a n) := by
  refine sameWork_of_mapVals c b (f := fun d k => k.revoke (decide (self = some d)) a n) rfl rfl
    fun d k => ⟨rfl, rfl, rfl, ?_⟩
  unfold Core.revoke
  dsimp only
  split
  · rfl
  · exact Ct.ring_revoke ..

theorem sameWork_putRow (s : State) (c b pa bits : Nat) (conds : Tab LineCond) :
    SameWork c b s (s.putRow pa bits conds) := by
  refine ((sameWork_revokeWords s c b none (dkey s.flash.modId.toNat pa) 8192).trans (sameWork_touchPage _ c b pa)).trans ?_
  exact sameWork_of_mapVals c b (f := fun _ k => { k with
    ct := k.ct.endResvRow (lineOf (dkey s.flash.modId.toNat pa)) }) rfl rfl fun d k => ⟨rfl, rfl, rfl, rfl⟩

theorem sameWork_writeRow (s : State) (c b pa bits : Nat) (conds : Tab LineCond) :
    SameWork c b s (s.writeRow pa bits conds) :=
  (sameWork_discardRow s c b pa).trans (sameWork_putRow _ c b pa bits conds)

theorem State.writeRow_mem (s : State) (pa bits : Nat) (conds : Tab LineCond) :
    (s.writeRow pa bits conds).mem = s.mem.place pa 13 bits := by
  simp [State.writeRow, State.putRow]

/-! ### The steps of a row write -/

/-- What a latch is once its row is written: bound to the row and clean, or CLOSED after WBP. -/
def VReg.written (x : VReg) (pa : Nat) (close : Bool) : VReg :=
  if close then { x with latch := .closed, row := none, dirty := false, conds := [] }
  else { x with latch := .opened, row := some pa, dirty := false }

/-- The hart once the row is written: its handle has advanced, and the word's work is over. -/
def Hart.rowEnd (h : Hart) (adv : Option Nat) : Hart := { h.advanceHandle adv with pend := none }

/-- The row write from its capture on, with nothing between its steps. -/
def State.rowStored (s : State) (c b k pa : Nat) (close : Bool) (adv : Option Nat) : State :=
  let x := s.reg c b k
  (((s.captureDone c b k pa close adv).rowWriteDone c b pa (x.content k) x.conds adv).setSagBusy c b k false).setPend
    c b none

theorem Op.settle_row {o : Op} (ho : o.poll = rowPoll) {s : State} {c b k pa : Nat} {close : Bool} {adv : Option Nat}
    (hp : (s.hart c b).pend = some (.capture k pa close adv)) :
    o.settle true c b pollFuel s = .ok (s.rowStored c b k pa close adv) .next := by
  have captured : ((s.captureDone c b k pa close adv).hart c b).pend =
      some (.rowWrite k pa ((s.reg c b k).content k) (s.reg c b k).conds adv) := by
    simp [State.captureDone, State.setPend]
  have stored : ((((s.captureDone c b k pa close adv).rowWriteDone c b pa ((s.reg c b k).content k) (s.reg c b k).conds
      adv).setSagBusy c b k false).hart c b).pend = some .done := by
    simp [State.rowWriteDone, State.setPend, State.setSagBusy]
  simp only [pollFuel, Op.settle, hp, Op.pollOne, ho, rowPoll, Bool.not_true, Bool.false_eq_true, if_false, HRes.walks,
    captured, stored, State.rowStored]

theorem State.rowStored_mem (s : State) (c b k pa : Nat) (close : Bool) (adv : Option Nat) :
    (s.rowStored c b k pa close adv).mem = s.mem.place pa 13 ((s.reg c b k).content k) := by
  simp [State.rowStored, State.rowWriteDone, State.writeRow_mem]

theorem State.setSagBusy_setHart (s : State) (c b k : Nat) (h : Hart) (v : Bool) :
    (s.setHart c b h).setSagBusy c b k v = (s.setSagBusy c b k v).setHart c b h := by
  simp [State.setSagBusy, State.setHart_setBank]

theorem Hart.rowEnd_pend (h : Hart) (p : Option Pend) (adv : Option Nat) :
    { h with pend := p }.rowEnd adv = h.rowEnd adv := by
  cases adv <;> rfl

theorem sameWork_rowStored (s : State) (c b k pa : Nat) (close : Bool) (adv : Option Nat) :
    SameWork c b ((s.setReg c b k ((s.reg c b k).written pa close)).setHart c b ((s.hart c b).rowEnd adv))
      (s.rowStored c b k pa close adv) := by
  have captured : s.captureDone c b k pa close adv = (s.setReg c b k ((s.reg c b k).written pa close)).setPend c b
      (some (.rowWrite k pa ((s.reg c b k).content k) (s.reg c b k).conds adv)) := rfl
  have put := sameWork_writeRow (s.captureDone c b k pa close adv) c b pa ((s.reg c b k).content k) (s.reg c b k).conds
  have stored : s.rowStored c b k pa close adv = (((s.captureDone c b k pa close adv).writeRow pa
      ((s.reg c b k).content k) (s.reg c b k).conds).setSagBusy c b k false).setHart c b ((s.hart c b).rowEnd adv) := by
    have start : (s.hart c b).rowEnd adv = (((s.captureDone c b k pa close adv).writeRow pa ((s.reg c b k).content k)
        (s.reg c b k).conds).hart c b).rowEnd adv := by
      rw [put.hart, captured, State.setPend, State.hart_setHart, State.hart_setReg]
      exact (Hart.rowEnd_pend ..).symm
    rw [start]
    simp [State.rowStored, State.rowWriteDone, State.advanceHandle, State.setPend, State.setSagBusy_setHart,
      Hart.rowEnd]
  have moved := (put.trans (sameWork_setSagBusy _ c b k false)).setHart ((s.hart c b).rowEnd adv)
  rw [captured, State.setPend, State.setHart_setHart] at moved
  rw [stored, captured]
  exact moved

/-! ### A row word on a ready hart -/

/-- What a row word waits for, met: the latch is readable and open, and nothing holds the row or its table entry. -/
structure RowFree (s : State) (c b k pa : Nat) : Prop where
  opened : (s.reg c b k).latch ≠ .closed
  ready : s.wbReady c b k = true
  unheld : s.held c b (.here pa) 8192 true = false
  entry : s.tableFull c 1 = false
  unshared : pa ∉ s.rshr
  unowned : pa ∉ s.rown

/-- The state once the capture has begun. -/
def State.rowCaptured (s : State) (c b k pa : Nat) (close : Bool) (adv : Option Nat) : State :=
  ((s.setReg c b k { s.reg c b k with latch := .restoring }).useSag c b k).setPend c b (some (.capture k pa close adv))

theorem RowFree.startWb {s : State} {c b k pa : Nat} (h : RowFree s c b k pa) (va : Nat) (close : Bool)
    (adv : Option Nat) : s.startWb c b k va pa close adv = .work (s.rowCaptured c b k pa close adv) := by
  have out : s.rowOut c b va pa = none := by simp [State.rowOut, h.unshared, h.unowned]
  simp [State.startWb, h.ready, h.unheld, h.entry, out, State.rowCaptured]

/-- A latch in restoration holds what it held. -/
theorem RowFree.content_restoring {s : State} {c b k pa : Nat} (h : RowFree s c b k pa) :
    VReg.content k { s.reg c b k with latch := .restoring } = VReg.content k (s.reg c b k) := by
  simp [VReg.content, h.opened]

theorem sameWork_rowCaptured (s : State) (c b k pa : Nat) (close : Bool) (adv : Option Nat) (n : Note) :
    SameWork c b ((s.setReg c b k { s.reg c b k with latch := .restoring }).setHart c b { s.hart c b with
        pend := some (.capture k pa close adv), note := n, latchOwned := false })
      ((s.rowCaptured c b k pa close adv).marked c b n) := by
  have used := sameWork_useSag (s.setReg c b k { s.reg c b k with latch := .restoring }) c b k
  have marked := used.setHart { s.hart c b with pend := some (.capture k pa close adv), note := n, latchOwned := false }
  convert marked using 1
  simp [State.rowCaptured, State.marked, State.setPend, used.hart]

/-- The hart of a row word as it retires. -/
theorem Hart.rowEnd_clean (h : Hart) (p : Option Pend) (n : Note) (adv : Option Nat) :
    ({ h with pend := p, note := n, latchOwned := false }.rowEnd adv).clean = (h.advanceHandle adv).clean := by
  cases adv <;> rfl

/-- The end of a row word leaves where its hart stands. -/
theorem Hart.rowEnd_stands (h : Hart) (adv : Option Nat) :
    (h.rowEnd adv).young = h.young ∧ (h.rowEnd adv).blockVa = h.blockVa := by
  cases adv <;> exact ⟨rfl, rfl⟩

/-- A row word that starts on a ready hart writes its row, and retires. -/
theorem Op.exec_row {o : Op} {s : State} {c b k pa : Nat} {close : Bool} {adv : Option Nat} (h : Ready s c b o.p)
    (hl : o.lock = false) (ho : o.poll = rowPoll) (hr : o.rep = none) (hf : RowFree s c b k pa)
    (ha : o.act s s c b = .work (s.rowCaptured c b k pa close adv)) :
    ∃ t, o.exec s = .next t ∧ t.mem = s.mem.place pa 13 ((s.reg c b k).content k) ∧
      SameWork c b ((s.setReg c b k ((s.reg c b k).written pa close)).setHart c b
        (((s.hart c b).advanceHandle adv).clean.advance .next)) t := by
  have captured := sameWork_rowCaptured s c b k pa close adv (o.note s c b)
  set m := (s.rowCaptured c b k pa close adv).marked c b (o.note s c b) with hm
  have hart : m.hart c b = { s.hart c b with
      pend := some (.capture k pa close adv), note := o.note s c b, latchOwned := false } := by
    rw [captured.hart, State.hart_setHart]
  have reg : m.reg c b k = { s.reg c b k with latch := .restoring } := by
    rw [captured.reg, State.reg_setHart, State.reg_setReg]
  have stored := ((captured.setReg k ((s.reg c b k).written pa close)).setHart ((m.hart c b).rowEnd adv)).trans
    (reg ▸ sameWork_rowStored m c b k pa close adv)
  rw [State.setHart_setReg, State.setReg_setReg, State.setHart_setHart] at stored
  have whole : (s.rowCaptured c b k pa close adv).stepwise = false := captured.stepwise.trans h.whole
  have run : o.run s s c b = .ok (m.rowStored c b k pa close adv) .next := by
    rw [Op.run_ready o h, ha]
    simp only [HRes.walks, whole, Bool.false_eq_true, if_false]
    exact Op.settle_row ho (by rw [← hm, hart])
  have retires : (m.rowStored c b k pa close adv).retire c b o.word (s.acts c b o) .next =
      (m.rowStored c b k pa close adv).retired c b .next := by
    refine State.retire_quiet b _ _ ?_ ?_ ?_ ?_
    · rw [stored.trace]; simpa [State.setReg] using h.noTrace
    · rw [stored.ring]; simpa using h.noRing
    · rw [stored.hart, State.hart_setHart, hart, (Hart.rowEnd_stands ..).1]
      exact h.alone
    · rw [stored.hart, State.hart_setHart, hart]
      refine Hart.near_of_inside _ (fun _ e => by cases e) ?_
      rw [(Hart.rowEnd_stands ..).2]
      exact h.inside
  refine ⟨(m.rowStored c b k pa close adv).retired c b .next, ?_, ?_, ?_⟩
  · rw [Op.exec_split o h.gang, h.core, h.bank]
    simp [Op.execSplit, hl, run, Op.goes, hr, retires]
  · rw [State.retired, State.setHart_mem, State.rowStored_mem, reg, hf.content_restoring]
    simp [hm, State.marked, State.rowCaptured, State.setPend, State.setReg]
  · have moved := stored.setHart (((s.hart c b).advanceHandle adv).clean.advance .next)
    rw [State.setHart_setHart] at moved
    rw [State.retired, stored.hart, State.hart_setHart, hart, Hart.rowEnd_clean]
    exact moved

/-- What O10 says of a word that has written its row. -/
structure RowWritten (s : State) (c b k pa : Nat) (y : VReg) (g : Hart) (t : State) : Prop where
  mem : t.mem = s.mem.place pa 13 ((s.reg c b k).content k)
  latch : t.reg c b k = y
  regs : ∀ r, r ≠ k → t.reg c b r = s.reg c b r
  masks : (t.bank c b).masks = (s.bank c b).masks
  others : ∀ d e, ¬(d = c ∧ e = b) → t.bank d e = s.bank d e ∧ t.hart d e = s.hart d e
  hart : t.hart c b = g.clean.advance .next

theorem Op.exec_rowWritten {o : Op} {s : State} {c b k pa : Nat} {close : Bool} {adv : Option Nat}
    (h : Ready s c b o.p) (hl : o.lock = false) (ho : o.poll = rowPoll) (hr : o.rep = none) (hf : RowFree s c b k pa)
    (ha : o.act s s c b = .work (s.rowCaptured c b k pa close adv)) :
    ∃ t, o.exec s = .next t ∧
      RowWritten s c b k pa ((s.reg c b k).written pa close) ((s.hart c b).advanceHandle adv) t := by
  obtain ⟨t, run, mem, same⟩ := Op.exec_row h hl ho hr hf ha
  refine ⟨t, run, mem, ?_, fun r n => ?_, ?_, fun d e n => ⟨?_, ?_⟩, ?_⟩
  · rw [same.reg, State.reg_setHart, State.reg_setReg]
  · rw [same.reg, State.reg_setHart, State.reg_setReg_of_ne _ _ _ _ n]
  · rw [same.masks]; simp [State.setReg]
  · rw [same.banks d e n, State.bank_setHart, State.setReg, State.bank_setBank_of_ne _ _ n]
  · rw [same.hart, State.hart_setHart_of_ne _ _ n, State.hart_setReg]
  · rw [same.hart, State.hart_setHart]

theorem wbOp_act {s : State} {c b n pa : Nat} (i : Instr) {o : RW} (close : Bool) (hg : o.g = false)
    (hrow : s.rowAt c b o.k.toNat ((s.hart c b).greg o.a.toNat).toNat true = .ok (n, pa))
    (hf : RowFree s c b o.k.toNat pa) :
    (wbOp i o close).act s s c b = .work (s.rowCaptured c b o.k.toNat pa close none) := by
  have va : s.rowVa c b o = ((s.hart c b).greg o.a.toNat).toNat := by simp [State.rowVa, State.greg, hg]
  simp [wbOp, hf.opened, va, hrow, hf.startWb]

theorem State.strip_row {s : State} {c b pa : Nat} {k : HK} (hg : k.g = false) (hcount : ((s.hart c b).handle k.n.toNat).count ≠ 0)
    (hrow : s.derivedRow c b k.k.toNat ((s.hart c b).handle k.n.toNat).base.toNat ((s.hart c b).handle k.n.toNat).row
      true = .ok pa) (f : Nat → HRes) (word : Nat) : s.strip c b k word true f = f pa := by
  have va : s.stripVa c b k = ((s.hart c b).handle k.n.toNat).row := by simp [State.stripVa, hg]
  unfold State.strip
  rw [if_neg hcount]
  simp [hg, va, hrow]

theorem rowWords_write : Claims.RowsWritten := by
  intro o k s c b pa n h x va free kept dropped writes
  have rowFree (v : Nat) (hf : free v) : RowFree s c b v pa := by
    obtain ⟨opened, ready, unheld, entry, unshared, unowned⟩ := hf
    exact ⟨opened, ready, unheld, entry, unshared, unowned⟩
  have written {i : Instr} {v : Nat} {y : VReg} {g : Hart}
      (hw : ∃ t, exec i s = .next t ∧ RowWritten s c b v pa y g t) : writes i v y g := by
    obtain ⟨t, run, done⟩ := hw
    exact ⟨t, run, done.mem, done.latch, done.regs, done.masks, done.others, done.hart⟩
  refine ⟨fun ready hg hrow hf => ⟨written ?_, written ?_⟩, fun ready hg hcount hrow hf => written ?_⟩
  · exact Op.exec_rowWritten (o := wbOp (.wb o) o false) ready hg rfl rfl (rowFree _ hf)
      (wbOp_act _ false hg hrow (rowFree _ hf))
  · exact Op.exec_rowWritten (o := wbOp (.wbp o) o true) ready hg rfl rfl (rowFree _ hf)
      (wbOp_act _ true hg hrow (rowFree _ hf))
  · show ∃ t, execSst k s = .next t ∧ _
    unfold execSst
    refine Op.exec_rowWritten (close := false) (adv := some k.n.toNat) ready hg rfl rfl (rowFree _ hf) ?_
    dsimp only
    rw [if_neg hf.1, State.strip_row hg hcount hrow, (rowFree _ hf).startWb]

/-- Settles O10: a row word runs its capture and its row write to the end, and what it does between leaves the harts,
registers and masks; a row's cells are a list of their own, between those below and those above. -/
theorem rowsWritten : Obligations.RowsWritten :=
  ⟨rowWords_write, rowStoreReadsBack⟩

end Sys2Proof.Machine
end

section
/-! # The host's accesses (O46)

A read of a management BAR is one turn of `step`, and a register write one equation for each register. An access of the
memory window that finds the host idle is done at once (`State.hostPush_one`); on an ordinary line (`Plain`) nothing makes
it wait, so what it leaves is that of the store, the read or the AtomicOp alone. -/

namespace Sys2Proof.Machine

/-! ### What an access of an ordinary line leaves of harts and banks -/

theorem bank_of_sameWork {s t : State} (h : ∀ c b, SameWork c b s t) (d e : Nat) : t.bank d e = s.bank d e :=
  (h (d + 1) e).banks d e (by omega)

theorem sameWork_send (s : State) (c b : Nat) (m : Out) : SameWork c b s (s.send m) := by
  unfold State.send
  split <;> exact sameWork_of_cores c b rfl rfl

theorem sameWork_unitUsed (s : State) (c b utype n : Nat) : SameWork c b s (s.unitUsed utype n) := by
  unfold State.unitUsed
  dsimp only
  split
  · exact sameWork_of_cores c b rfl rfl
  · exact SameWork.refl c b s

theorem sameWork_accessUnits (s : State) (c b pa : Nat) : SameWork c b s (s.accessUnits pa) :=
  (sameWork_unitUsed s c b _ _).trans (sameWork_unitUsed _ c b _ _)

theorem sameWork_chargeAt (s : State) (c b pa : Nat) (k : Class) (clk : Nat) : SameWork c b s (s.chargeAt pa k clk) := by
  unfold State.chargeAt State.charge
  split
  · exact SameWork.refl c b s
  split
  · exact SameWork.refl c b s
  · exact sameWork_of_cores c b rfl rfl

theorem sameWork_hadFirst (s : State) (c b : Nat) (w : Waiter) (line : Nat) : SameWork c b s (s.hadFirst w line) := by
  unfold State.hadFirst
  split
  · exact SameWork.refl c b s
  · exact sameWork_of_cores c b rfl rfl

theorem sameWork_disownLine (s : State) (c b a : Nat) : SameWork c b s (s.disownLine a) :=
  sameWork_of_mapVals c b (f := fun _ k =>
    { k with ct := k.ct.disown a, saved := k.saved.mapVals fun _ v => { v with ct := v.ct.disown a } }) rfl rfl
    fun _ _ => ⟨rfl, rfl, rfl, rfl⟩

theorem sameWork_mscEvict (s : State) (c b key : Nat) : SameWork c b s (s.mscEvict key) := by
  have gone (l : Tab RLine) (a : Nat) : SameWork c b s { s.disownLine a with rlines := l } :=
    (sameWork_disownLine s c b a).trans (sameWork_of_cores c b rfl rfl)
  unfold State.mscEvict
  dsimp only
  split
  · exact SameWork.refl c b s
  split
  · exact (sameWork_disownLine s c b _).trans (sameWork_of_cores c b rfl rfl)
  split
  · exact SameWork.refl c b s
  split
  · exact (gone _ _).trans (sameWork_send _ c b _)
  · exact gone _ _

theorem sameWork_mscRoom (s : State) (c b key : Nat) : SameWork c b s (s.mscRoom key) := by
  unfold State.mscRoom
  dsimp only
  split
  · exact SameWork.refl c b s
  split
  · exact sameWork_mscEvict s c b _
  · exact SameWork.refl c b s

theorem sameWork_mscFill (s : State) (c b line : Nat) : SameWork c b s (s.mscFill line) := by
  unfold State.mscFill
  dsimp only
  split
  · exact SameWork.refl c b s
  · exact (sameWork_mscRoom s c b _).trans (sameWork_of_cores c b rfl rfl)

theorem sameWork_markDirty (s : State) (c b line : Nat) : SameWork c b s (s.markDirty line) := by
  unfold State.markDirty
  split
  · exact SameWork.refl c b s
  split
  · exact SameWork.refl c b s
  · exact (sameWork_mscFill s c b line).trans (sameWork_of_cores c b rfl rfl)

theorem sameWork_mergeData (s : State) (c b pa n v : Nat) : SameWork c b s (s.mergeData pa n v) :=
  (((sameWork_accessUnits s c b pa).trans (sameWork_markDirty _ c b _)).trans (sameWork_touchPage _ c b pa)).trans
    (sameWork_of_cores c b rfl rfl)

/-! ### An ordinary line (R83, R84) -/

section
variable {s : State} {pa : Nat}

theorem Side.fails_of_good {x : Side} (h : x.cond = none) : x.fails = false := by
  unfold Side.cond at h
  split at h
  · cases h
  split at h
  · cases h
  split at h
  · cases h
  · simp_all [Side.fails]

theorem Plain.dropShared (h : Plain s pa) : s.dropShared (lineOf pa) = s := by
  simp [State.dropShared, h.home]

theorem Plain.ownHere (h : Plain s pa) (w : Waiter) (va : Nat) : s.ownHere w va pa = none := by
  simp [State.ownHere, Side.away, h.home, h.acked]

theorem Plain.clusterOn (h : Plain s pa) : s.clusterOff pa = false := by
  have awake := h.awake
  simp only [State.asleep, h.served, Bool.not_false, Bool.true_and, Bool.or_eq_false_iff] at awake
  exact awake.1.1

/-- A write of the host, or of an agent of the hub, to an ordinary line. -/
def State.wroteLine (s : State) (w : Waiter) (pa n v : Nat) : State :=
  ((s.revokeWords none (dkey s.flash.modId.toNat pa) n).mergeData pa n v).hadFirst w (lineOf pa)

theorem Plain.store (h : Plain s pa) (va n v : Nat) :
    s.store .host none va (.here pa) n v = .done (s.wroteLine .host pa n v) 0 none := by
  have served : (s.revokeWords none (dkey s.flash.modId.toNat pa) n).unserved pa = false := h.served
  have merges : (s.revokeWords none (dkey s.flash.modId.toNat pa) n).mergesBad pa n = false := by
    have fails := Side.fails_of_good h.good
    simp only [State.mergesBad, Bool.and_eq_false_iff]
    exact .inr fails
  simp [State.store, State.busHeld, ownCore, h.untested, h.still, h.awake, h.ownHere, h.dropShared, State.writeHere,
    State.mergeHere, served, merges, State.wroteLine]

theorem State.wroteLine_mem (s : State) (w : Waiter) (pa n v : Nat) :
    (s.wroteLine w pa n v).mem = s.mem.write pa n v := by
  simp [State.wroteLine, State.mergeData]

theorem sameWork_wroteLine (s : State) (c b : Nat) (w : Waiter) (pa n v : Nat) :
    SameWork c b s (s.wroteLine w pa n v) :=
  ((sameWork_revokeWords s c b _ _ _).trans (sameWork_mergeData _ c b pa n v)).trans (sameWork_hadFirst _ c b w _)

/-- A read of an ordinary line. -/
def State.readLine (s : State) (w : Waiter) (pa : Nat) : State :=
  ((s.hadFirst w (lineOf pa)).accessUnits pa).mscFill (lineOf pa)

theorem Plain.readHere (h : Plain s pa) (va n : Nat) :
    s.readHere .host va pa n = .done (s.readLine .host pa) (s.mem.read pa n) none := by
  have found : (s.hadFirst .host (lineOf pa)).foundHere .host pa n (s.sideOf (lineOf pa)) =
      .done (s.readLine .host pa) (s.mem.read pa n) none := by
    simp [State.foundHere, h.good, State.readLine]
  have owner : ¬(2 ≤ (s.sideOf (lineOf pa)).state.toNat ∧ (s.sideOf (lineOf pa)).state.toNat ≤ 4) := by
    simp [h.home]
  unfold State.readHere
  simp only [h.awake, State.busHeld, ownCore, h.untested, h.served, Bool.or_false, Bool.false_eq_true, if_false, if_neg owner,
    found]
  split <;> rfl

end

/-! ### The memory window (R67, R83 to R85, R389) -/

section
variable {s t : State} {pa : Nat}

/-- The one access of the host that the module has, done at once. -/
theorem State.hostPush_one {o : HostOp} (hq : s.hostq = []) (ho : ({ s with hostq := [o] } : State).hostOne o = (t, true)) :
    s.hostPush [o] = { t with hostReq := none, hostGot := [], hostq := [] } := by
  simp [State.hostPush, State.hostGo, hq, State.hostRun, ho]

/-- An access inside one line is one piece. -/
theorem linePieces_one (k : Nat) {pa len : Nat} (h0 : 0 < len) (h : pa % 64 + len ≤ 64) :
    linePieces (k + 2) pa len = [(pa, len)] := by
  have here : min len (64 - pa % 64) = len := by omega
  simp [linePieces, here, Nat.ne_of_gt h0]

theorem bytesNum_lt (l : List Byte) : bytesNum l < 2 ^ (8 * l.length) := by
  induction l with
  | nil => simp [bytesNum]
  | cons b l ih =>
    have byte := b.isLt
    rw [bytesNum, List.length_cons, Nat.mul_add, Nat.pow_add]
    omega

theorem Plain.withHostq (h : Plain s pa) (l : List HostOp) : Plain { s with hostq := l } pa :=
  ⟨h.awake, h.served, h.still, h.untested, h.good, h.home, h.acked⟩

theorem Plain.windowWrite (h : Plain s pa) (hf : s.hostFits pa = true) (n v : Nat) (bad : Bool) :
    ∃ t, s.windowWrite pa n v bad = (t, true) ∧ t.mem = s.mem.write pa n v ∧ ∀ c b, SameWork c b s t := by
  have good : s.mergesBad pa n = false := by simp [State.mergesBad, Side.fails_of_good h.good]
  have charged (c b : Nat) : SameWork c b s ((s.wroteLine .host pa n v).chargeAt pa .hostDma 1) :=
    (sameWork_wroteLine s c b _ pa n v).trans (sameWork_chargeAt _ c b pa _ _)
  unfold State.windowWrite
  simp only [hf, h.store, h.served, good, Bool.not_true, Bool.not_false, Bool.and_true, Bool.false_eq_true, if_false]
  refine ⟨_, rfl, ?_, fun c b => ?_⟩
  · split <;> simp [State.wroteLine_mem]
  · split
    · exact (charged c b).trans (sameWork_of_cores c b rfl rfl)
    · exact charged c b

/-- What O46 says of a write of `n` bytes by the host. -/
theorem State.hostPush_write (hq : s.hostq = []) (h : Plain s pa) (hf : s.hostFits pa = true) (n v : Nat) (bad : Bool) :
    (s.hostPush [.write pa n v bad]).mem = s.mem.write pa n v ∧ (s.hostPush [.write pa n v bad]).hostq = [] ∧
      ∀ d e, (s.hostPush [.write pa n v bad]).bank d e = s.bank d e := by
  obtain ⟨t, run, mem, same⟩ := (h.withHostq [.write pa n v bad]).windowWrite hf n v bad
  rw [State.hostPush_one (o := .write pa n v bad) hq run]
  have bank := bank_of_sameWork same
  exact ⟨mem, rfl, bank⟩

/-- Two states with the same sideband, flash and output, whose MSCs hold the same lines. -/
structure SameLines (s t : State) : Prop where
  side : t.side = s.side
  flash : t.flash = s.flash
  out : t.out = s.out
  keys : t.stackKeys = s.stackKeys

theorem SameLines.refl (s : State) : SameLines s s := ⟨rfl, rfl, rfl, rfl⟩

theorem SameLines.trans {u : State} (h : SameLines s t) (k : SameLines t u) : SameLines s u :=
  ⟨k.side.trans h.side, k.flash.trans h.flash, k.out.trans h.out, k.keys.trans h.keys⟩

theorem sameLines_hadFirst (s : State) (w : Waiter) (line : Nat) : SameLines s (s.hadFirst w line) := by
  unfold State.hadFirst
  split <;> exact ⟨rfl, rfl, rfl, rfl⟩

theorem sameLines_unitUsed (s : State) (utype n : Nat) : SameLines s (s.unitUsed utype n) := by
  unfold State.unitUsed
  dsimp only
  split <;> exact ⟨rfl, rfl, rfl, rfl⟩

theorem sameLines_chargeAt (s : State) (pa : Nat) (k : Class) (clk : Nat) : SameLines s (s.chargeAt pa k clk) := by
  unfold State.chargeAt State.charge
  split
  · exact SameLines.refl s
  split <;> exact ⟨rfl, rfl, rfl, rfl⟩

/-- The line looked for, before the MSC takes it in. -/
def State.foundLine (s : State) (w : Waiter) (pa : Nat) : State := (s.hadFirst w (lineOf pa)).accessUnits pa

theorem sameLines_foundLine (s : State) (w : Waiter) (pa : Nat) : SameLines s (s.foundLine w pa) :=
  (sameLines_hadFirst s w _).trans ((sameLines_unitUsed _ _ _).trans (sameLines_unitUsed _ _ _))

/-- What the MSC gives up for a line changes neither sideband nor flash. -/
theorem State.mscEvict_side (s : State) (key : Nat) :
    (s.mscEvict key).side = s.side ∧ (s.mscEvict key).flash = s.flash := by
  have sent (u : State) (m : Out) : (u.send m).side = u.side ∧ (u.send m).flash = u.flash := by
    unfold State.send
    split <;> exact ⟨rfl, rfl⟩
  unfold State.mscEvict
  dsimp only
  split
  · exact ⟨rfl, rfl⟩
  split
  · exact ⟨rfl, rfl⟩
  split
  · exact ⟨rfl, rfl⟩
  split
  · exact sent _ _
  · exact ⟨rfl, rfl⟩

theorem State.mscFill_side (s : State) (line : Nat) :
    (s.mscFill line).side = s.side ∧ (s.mscFill line).flash = s.flash := by
  unfold State.mscFill State.mscRoom
  dsimp only
  split
  · exact ⟨rfl, rfl⟩
  split
  · exact ⟨rfl, rfl⟩
  split
  · exact State.mscEvict_side ..
  · exact ⟨rfl, rfl⟩

theorem State.mscFill_out (h : s.mscFree pa = true) : (s.mscFill (lineOf pa)).out = s.out := by
  have room : s.mscRoom (s.flash.modId.toNat * 2 ^ 34 + lineOf pa) = s := by
    unfold State.mscRoom
    exact if_pos h
  unfold State.mscFill
  split
  · rfl
  · simp only [room]

theorem State.readLine_side (s : State) (w : Waiter) (pa : Nat) :
    (s.readLine w pa).side = s.side ∧ (s.readLine w pa).flash = s.flash := by
  have filled := (s.foundLine w pa).mscFill_side (lineOf pa)
  have found := sameLines_foundLine s w pa
  exact ⟨filled.1.trans found.side, filled.2.trans found.flash⟩

theorem State.readLine_out (w : Waiter) (h : s.mscFree pa = true) : (s.readLine w pa).out = s.out := by
  have found := sameLines_foundLine s w pa
  have free : (s.foundLine w pa).mscFree pa = true := by
    simpa [State.mscFree, found.keys, found.flash] using h
  exact (State.mscFill_out free).trans found.out

theorem State.send_out (s : State) {m : Out} (h : s.waitsPort m = false) : (s.send m).out = s.out ++ [m] := by
  simp [State.send, h]

theorem Plain.windowRead (h : Plain s pa) (hf : s.hostFits pa = true) (hm : s.mscFree pa = true) (n : Nat) :
    ∃ t, s.windowRead pa n = (t, true) ∧ t.out = s.out ++ [Out.hostAnswer (s.mem.read pa n) false false] ∧
      t.mem = s.mem := by
  unfold State.windowRead
  simp only [h.clusterOn, hf, h.readHere, Bool.not_true, Bool.false_eq_true, if_false]
  refine ⟨_, rfl, ?_, ?_⟩
  · rw [State.send_out _ rfl, (sameLines_chargeAt ..).out, State.readLine_out _ hm]
  · simp [State.readLine]

/-! ### AtomicOps of the host (R389) -/

/-- What an AtomicOp writes of a line that passes its checks. -/
theorem State.atomicLine_mem {pa : Nat} (hb : (s.sideOf (lineOf pa)).fails = false) (hu : s.unserved pa = false)
    (n old : Nat) (new : Option Nat) :
    (s.atomicLine pa n old new none).mem = (new.map fun v => s.mem.write pa n v).getD s.mem := by
  cases new with
  | none => simp [State.atomicLine, hb]
  | some v => simp [State.atomicLine, hb, hu, State.mergeData]

theorem hostOpNew_cas (bits old x y : Nat) :
    hostOpNew 3 bits old x y = if old = x % 2 ^ bits then some (y % 2 ^ bits) else none := rfl

theorem Plain.windowAtomic (h : Plain s pa) (hf : s.hostFits pa = true) (n op x y : Nat) :
    ∃ t, s.windowAtomic pa n op x y false = (t, true) ∧
      t.mem = ((hostOpNew op (8 * n) (s.mem.read pa n) x y).map fun v => s.mem.write pa n v).getD s.mem ∧
      Out.hostAnswer (s.mem.read pa n) false false ∈ t.out := by
  have fails : (s.sideOf (lineOf pa)).fails = false := Side.fails_of_good h.good
  unfold State.windowAtomic
  simp only [h.clusterOn, hf, h.still, h.ownHere, h.readHere, fails, Bool.not_true, Bool.false_eq_true, or_self,
    if_false, Bool.false_and]
  have charged := sameLines_chargeAt (s.readLine .host pa) pa .hostDma 1
  obtain ⟨side, flash⟩ := s.readLine_side .host pa
  refine ⟨_, rfl, ?_, ?_⟩
  · rw [State.send_mem, State.atomicLine_mem]
    · simp [State.readLine]
    · simpa [State.sideOf, charged.side, side] using fails
    · simpa [State.unserved, State.layer, charged.flash, flash] using h.served
  · rw [State.send_out _ rfl]
    exact List.mem_append_right _ (List.mem_singleton_self _)

theorem State.hostPush_read (hq : s.hostq = []) (h : Plain s pa) (hf : s.hostFits pa = true) (hm : s.mscFree pa = true)
    (n : Nat) : (s.hostPush [.read pa n]).out = s.out ++ [Out.hostAnswer (s.mem.read pa n) false false] ∧
      (s.hostPush [.read pa n]).mem = s.mem := by
  obtain ⟨t, run, out, mem⟩ := (h.withHostq [.read pa n]).windowRead hf hm n
  rw [State.hostPush_one (o := .read pa n) hq run]
  exact ⟨out, mem⟩

/-- What O46 says of an AtomicOp that R66 lists. -/
theorem State.hostAtomicop_good {off n op : Nat} {x y : BitVec 128} (hq : s.hostq = []) (h : Plain s (s.windowPa off))
    (hf : s.hostFits (s.windowPa off) = true) (hgood : hostOpGood (s.windowPa off) n op = true) :
    ∃ t, exec (.hostAtomicop off n op ⟨x, false⟩ y) s = .next t ∧
      t.mem = ((hostOpNew op (8 * n) (s.mem.read (s.windowPa off) n) x.toNat y.toNat).map fun v =>
        s.mem.write (s.windowPa off) n v).getD s.mem ∧
      Out.hostAnswer (s.mem.read (s.windowPa off) n) false false ∈ t.out := by
  obtain ⟨t, run, mem, out⟩ := (h.withHostq [.atomic (s.windowPa off) n op x.toNat y.toNat false]).windowAtomic hf n op
    x.toNat y.toNat
  refine ⟨_, congrArg Host.Outcome.next (if_pos hgood), ?_⟩
  rw [State.hostPush_one (o := .atomic (s.windowPa off) n op x.toNat y.toNat false) hq run]
  exact ⟨mem, out⟩

theorem State.hostWrite_inLine {off : Nat} {data : List Byte} (bad : Bool) (h0 : 0 < data.length)
    (h : s.windowPa off % 64 + data.length ≤ 64) :
    s.hostWrite off data bad = s.hostPush [.write (s.windowPa off) data.length (bytesNum data) bad] := by
  unfold State.hostWrite
  simp [linePieces_one _ h0 h, Nat.mod_eq_of_lt (bytesNum_lt data)]

theorem State.e2eEvent_side (s : State) : s.e2eEvent.side = s.side ∧ s.e2eEvent.bar.e2eev = true := by
  unfold State.e2eEvent State.errVector State.send
  dsimp only
  split
  · split <;> exact ⟨rfl, rfl⟩
  · exact ⟨rfl, rfl⟩

theorem State.logHub_side (s : State) (code detail : Nat) : (s.logHub code detail).side = s.side := by
  have meet : (s.traceMeet 0xffff 0 code).side = s.side := by
    unfold State.traceMeet
    dsimp only
    split
    · split <;> rfl
    · rfl
  unfold State.logHub State.logEvent
  dsimp only
  split
  · rfl
  split <;> exact meet

/-- What O46 says of a protected write that is not whole, or whose code does not match (R85). -/
theorem State.protectedWrite_bad {u : Nat} {how : UnitIn} (h : how.whole = false ∨ unitGood u = false) :
    (s.protectedWrite u how).mem = s.mem ∧ (s.protectedWrite u how).bar.e2eev = true ∧
      (s.protectedWrite u how).side = s.side := by
  have refused : ¬(how.whole && unitGood u) = true := by simpa [imp_iff_not_or] using h
  rw [State.protectedWrite, if_neg refused]
  obtain ⟨side, event⟩ := State.e2eEvent_side (s.logHub 0x41 (fld u 576 40 / 64 * 64))
  exact ⟨by simp, event, side.trans (State.logHub_side ..)⟩

end

theorem hostWindowAccesses : Claims.HostWindowAccesses := by
  intro s off data len n x y u bad pa old line free writes
  have written {p : Nat} (hp : free p) (k v : Nat) (b : Bool) {i : Instr} (hi : exec i s = .next (s.hostPush [.write p k v b])) :
      writes i p k v := by
    obtain ⟨hq, -, -, fits, plain⟩ := hp
    obtain ⟨mem, left, bank⟩ := State.hostPush_write hq plain fits k v b
    exact ⟨_, hi, mem, fun a ha => by rw [mem, Mem.get_write_outside _ _ _ _ _ ha], left, bank⟩
  refine ⟨fun hp h0 hl => ?_, fun hp hm h0 hl => ?_, fun hp hn hsize => ?_, fun hp hn hsize => ?_, fun hp hn hsize => ?_,
    fun hp h64 hu => ?_, fun how hbad => ?_⟩
  · exact written hp _ _ bad (congrArg Host.Outcome.next (State.hostWrite_inLine bad h0 hl))
  · obtain ⟨hq, -, -, fits, plain⟩ := hp
    obtain ⟨out, mem⟩ := State.hostPush_read hq plain fits hm len
    refine ⟨_, ?_, out, mem⟩
    show execHostWindowRead off len s = _
    rw [execHostWindowRead, linePieces_one _ h0 hl]
    rfl
  · obtain ⟨hq, -, -, fits, plain⟩ := hp
    exact State.hostAtomicop_good hq plain fits (by rcases hsize with rfl | rfl <;> simp [hostOpGood, pa, hn])
  · obtain ⟨hq, -, -, fits, plain⟩ := hp
    exact State.hostAtomicop_good hq plain fits (by rcases hsize with rfl | rfl <;> simp [hostOpGood, pa, hn])
  · obtain ⟨hq, -, -, fits, plain⟩ := hp
    obtain ⟨t, run, mem, out⟩ := State.hostAtomicop_good (n := n) (op := 3) (x := x) (y := y) hq plain fits
      (by rcases hsize with rfl | rfl | rfl <;> simp [hostOpGood, pa, hn])
    refine ⟨t, run, ?_, out⟩
    rw [mem, hostOpNew_cas, apply_ite (Option.map _), apply_ite (Option.getD · _)]
    rfl
  · exact written hp _ _ false (congrArg Host.Outcome.next (if_pos hu))
  · exact ⟨_, rfl, State.protectedWrite_bad hbad⟩

/-! ### Register reads (R8, R68 to R70, R85) -/

section
variable {s : State}

/-- A read of a management BAR is one turn: its answer goes out. -/
theorem step_barRead {ts : List Turn} {fn off v : Nat} (ha : s.agenda = .outside (.barRead fn off) :: ts)
    (hv : s.barValue fn off = v) :
    step s = .next { s with agenda := ts, out := s.out ++ [Out.barAnswer (BitVec.ofNat 64 v)] } := by
  subst hv
  simp only [step, ha]
  rfl

theorem barOpen_of_firmware (h : s.bar.rcause ≠ 2) : s.barOpen = true := by
  simpa [State.barOpen] using h

theorem barValue_block (h : s.bar.rcause ≠ 2) {fn off q reg : Nat} (hb : blockOf fn off = some (q, reg)) :
    s.barValue fn off = s.readBlockReg fn q reg := by
  simp [State.barValue, barOpen_of_firmware h, hb]

theorem barValue_noBlock (h : s.bar.rcause ≠ 2) {fn off : Nat} (hb : blockOf fn off = none) :
    s.barValue fn off = if fn = 0 then s.readPfReg off else 0 := by
  simp [State.barValue, barOpen_of_firmware h, hb]

/-- The offset of register `reg` of block `q` names it, in the view of every function. -/
theorem blockOf_register (fn : Nat) {q reg : Nat} (hq : q < 64) (hr : reg < 64) :
    blockOf fn ((if fn = 0 then 0x10000 + 64 * q else 64 * q) + reg) = some (q, reg) := by
  unfold blockOf
  split
  · rw [if_pos (by omega)]
    congr 2 <;> omega
  · rw [if_pos (by omega)]
    congr 2 <;> omega

theorem barValue_register (h : s.bar.rcause ≠ 2) (fn : Nat) {q reg : Nat} (hq : q < 64) (hr : reg < 64) :
    s.barValue fn ((if fn = 0 then 0x10000 + 64 * q else 64 * q) + reg) = s.readBlockReg fn q reg :=
  barValue_block h (blockOf_register fn hq hr)

theorem blockOf_pf {off : Nat} (ho : off < 0x10000 ∨ 0x11000 ≤ off) : blockOf 0 off = none := by
  unfold blockOf
  rw [if_pos rfl, if_neg (by omega)]

theorem barValue_pf (h : s.bar.rcause ≠ 2) {off : Nat} (ho : off < 0x10000 ∨ 0x11000 ≤ off) :
    s.barValue 0 off = s.readPfReg off :=
  barValue_noBlock h (blockOf_pf ho)

theorem readPfReg_unlisted {off : Nat} (h : 0x1800 ≤ off) : s.readPfReg off = 0 := by
  unfold State.readPfReg
  simp only
  rw [if_neg (by omega), if_neg (by omega), if_neg (by omega), if_neg (by omega), if_neg (by omega), if_neg (by omega)]

theorem barValue_vf (h : s.bar.rcause ≠ 2) {fn off : Nat} (hf : fn ≠ 0) (ho : 0x1000 ≤ off) : s.barValue fn off = 0 := by
  have outside : blockOf fn off = none := by
    unfold blockOf
    rw [if_neg hf, if_neg (by omega)]
  rw [barValue_noBlock h outside, if_neg hf]

theorem ownsSq_iff {fn q : Nat} : s.ownsSq fn q = true ↔ fn = 0 ∨ (s.qblock q).sqOwner.toNat = fn := by
  simp [State.ownsSq]

theorem ownsCq_iff {fn q : Nat} : s.ownsCq fn q = true ↔ fn = 0 ∨ (s.qblock q).cqOwner.toNat = fn := by
  simp [State.ownsCq]

theorem bnat_mul (b : Bool) (n : Nat) : bnat b * n = if b then n else 0 := by
  cases b <;> simp [bnat]

theorem Bar.gstat_eq (b : Bar) : b.gstat = (if b.ready then 1 else 0) + (if b.e2eev then 2 else 0) +
    (if b.recovery then 4 else 0) + (if b.replreq then 8 else 0) + 16 * b.rcause.toNat := by
  simp only [Bar.gstat, bnat_mul, Nat.mul_comm 16]
  rfl

end

theorem registerReads : Claims.RegisterReads := by
  intro s ts fn q off hopen hq x b block answers
  have reads {off v : Nat} (hv : s.barValue fn off = v) : answers off v := fun ha => step_barRead ha hv
  have register (reg : Nat) (hr : reg < 64) {v : Nat} (hv : s.readBlockReg fn q reg = v) : answers (block + reg) v :=
    reads ((barValue_register hopen fn hq hr).trans hv)
  refine ⟨?_, fun hf ho => reads (barValue_vf hopen hf ho), fun own => ?_, fun own => ?_, fun hf own reg hr => ?_,
    fun hf own reg hr => ?_⟩
  · rintro rfl
    refine ⟨reads ?_, reads ?_, reads ?_, reads ?_, fun h1 h2 => reads ?_, fun h1 => reads ?_⟩
    · rw [barValue_pf hopen (by omega)]
      exact Bar.gstat_eq _
    · rw [barValue_pf hopen (by omega)]; rfl
    · rw [barValue_pf hopen (by omega)]; rfl
    · rw [barValue_pf hopen (by omega)]
      exact congrArg _ (bnat_mul ..)
    · rw [barValue_pf hopen (by omega), readPfReg_unlisted h1]
    · rw [barValue_pf hopen (by omega), readPfReg_unlisted (by omega)]
  · have owns : s.ownsSq fn q = true := ownsSq_iff.2 own
    refine ⟨register 8 (by omega) ?_, register 0x10 (by omega) ?_, register 0 (by omega) ?_⟩
    · simp [State.readBlockReg, owns]; rfl
    · simp [State.readBlockReg, owns]; rfl
    · simp [State.readBlockReg, owns, bnat_mul]; rfl
  · have owns : s.ownsCq fn q = true := ownsCq_iff.2 own
    refine ⟨register 0x28 (by omega) ?_, register 0x30 (by omega) ?_⟩
    · simp [State.readBlockReg, owns]; rfl
    · simp [State.readBlockReg, owns, bnat_mul]; rfl
  · have owns : s.ownsSq fn q = false := by
      rw [← Bool.not_eq_true, ownsSq_iff]; tauto
    have known : reg = 0 ∨ reg = 8 ∨ reg = 0x10 := by simpa using hr
    refine register reg (by omega) ?_
    rcases known with rfl | rfl | rfl <;> simp [State.readBlockReg, owns]
  · have owns : s.ownsCq fn q = false := by
      rw [← Bool.not_eq_true, ownsCq_iff]; tauto
    have known : reg = 0x18 ∨ reg = 0x20 ∨ reg = 0x28 ∨ reg = 0x30 := by simpa using hr
    refine register reg (by omega) ?_
    rcases known with rfl | rfl | rfl | rfl <;> simp [State.readBlockReg, owns]

/-! ### Register writes (R8, R68 to R71, R79) -/

section
variable {s : State} {fn q : Nat}

theorem bit_eq_getLsbD (v : Word) (n : Nat) : bit v.toNat n = v.getLsbD n := by
  rw [BitVec.getLsbD, Nat.testBit_eq_decide_div_mod_eq]
  rfl

theorem ofNat_fld (n lo w : Nat) : BitVec.ofNat w (fld n lo w) = BitVec.ofNat w (n / 2 ^ lo) := by
  apply BitVec.eq_of_toNat_eq
  simp [fld]

theorem toNat_ofNat_div (n lo w : Nat) : (BitVec.ofNat w (n / 2 ^ lo)).toNat = fld n lo w :=
  BitVec.toNat_ofNat ..

/-- With error interrupts off, an event of a queue only sets its bit. -/
theorem State.qevent_quiet (h : s.bar.errEn = false) (q n : Nat) :
    s.qevent q n = s.setQ q { s.qblock q with qstat := (s.qblock q).qstat ||| BitVec.ofNat 6 (2 ^ n) } := by
  have off (x : QBlock) : (s.setQ q x).bar.errEn = false := h
  simp [State.qevent, State.errVector, off]

/-- No access of the host waits. -/
structure HostIdle (s : State) : Prop where
  queue : s.hostq = []
  request : s.hostReq = none
  data : s.hostGot = []

/-- A host that was idle is so again once its one access is done. -/
theorem HostIdle.done (h : HostIdle s) (l : List HostOp) :
    ({ ({ s with hostq := l } : State) with hostReq := none, hostGot := [], hostq := [] } : State) = s := by
  obtain ⟨hq, hr, hg⟩ := h
  cases s
  subst hq hr hg
  rfl

theorem HostIdle.done_setQ (h : HostIdle s) (l : List HostOp) (q : Nat) (x : QBlock) :
    ({ ({ s with hostq := l } : State).setQ q x with hostReq := none, hostGot := [], hostq := [] } : State) =
      s.setQ q x :=
  congrArg (State.setQ · q x) (h.done l)

/-- A doorbell that changes a queue block, on a module that no access of the host waits for. -/
theorem HostIdle.doorbell_setQ (h : HostIdle s) {v : Word} {x : QBlock}
    (hd : ∀ l, ({ s with hostq := l } : State).doorbell fn q v = ({ s with hostq := l } : State).setQ q x) :
    exec (.sqDoorbell fn q v) s = .next (s.setQ q x) := by
  show Host.Outcome.next (s.hostPush [.doorbell fn q v]) = _
  rw [State.hostPush_one (o := .doorbell fn q v) h.queue (congrArg (·, true) (hd _)), h.done_setQ]

theorem State.doorbell_tail {v : Word} (own : fn = 0 ∨ (s.qblock q).sqOwner.toNat = fn) (hr : s.bar.recovery = false)
    (ht : v.toNat % 65536 < 2 ^ (s.qblock q).sqLog.toNat) :
    s.doorbell fn q v = s.setQ q { s.qblock q with sqTail := BitVec.ofNat 16 (v.toNat % 65536) } := by
  unfold State.doorbell
  simp only [ownsSq_iff.2 own, hr, Nat.not_le.2 ht, Bool.not_true, Bool.false_eq_true, or_self, if_false]

theorem State.doorbell_bad {v : Word} (own : fn = 0 ∨ (s.qblock q).sqOwner.toNat = fn) (he : s.bar.errEn = false)
    (hb : s.bar.recovery = true ∨ 2 ^ (s.qblock q).sqLog.toNat ≤ v.toNat % 65536) :
    s.doorbell fn q v = s.setQ q { s.qblock q with qstat := (s.qblock q).qstat ||| 1 } := by
  unfold State.doorbell
  simp only [ownsSq_iff.2 own, Bool.not_true, Bool.false_eq_true, if_false, if_pos hb, State.qevent_quiet he]
  rfl

theorem State.ownsSq_foreign (hf : fn ≠ 0) (own : (s.qblock q).sqOwner.toNat ≠ fn) : s.ownsSq fn q = false := by
  rw [← Bool.not_eq_true, ownsSq_iff]
  exact not_or_intro hf own

theorem State.doorbell_foreign {v : Word} (hf : fn ≠ 0) (own : (s.qblock q).sqOwner.toNat ≠ fn) :
    s.doorbell fn q v = s := by
  unfold State.doorbell
  rw [State.ownsSq_foreign hf own]
  rfl

/-- A doorbell of a queue that the function does not own changes nothing. -/
theorem HostIdle.doorbell_foreign (h : HostIdle s) {v : Word} (hf : fn ≠ 0)
    (own : (s.qblock q).sqOwner.toNat ≠ fn) : exec (.sqDoorbell fn q v) s = .next s := by
  have same (l : List HostOp) : ({ s with hostq := l } : State).doorbell fn q v = { s with hostq := l } :=
    State.doorbell_foreign hf own
  show Host.Outcome.next (s.hostPush [.doorbell fn q v]) = _
  rw [State.hostPush_one (o := .doorbell fn q v) h.queue (congrArg (·, true) (same _)), h.done]

/-- The SQ half of a block as SQCFG configures it while it is disabled (R70). -/
def QBlock.sqConfig (x : QBlock) (n : Nat) : QBlock :=
  { x with sqLog := BitVec.ofNat 5 (fld n 52 5), sqOwner := BitVec.ofNat 5 (fld n 47 5)
           sqBase := BitVec.ofNat 28 (fld n 12 28) }

/-- The CQ half of a block as CQCFG configures it while it is disabled (R70). -/
def QBlock.cqConfig (x : QBlock) (v : Word) : QBlock :=
  { x with cqLog := BitVec.ofNat 5 (fld v.toNat 52 5), cqOwner := BitVec.ofNat 5 (fld v.toNat 47 5)
           cqPasidEn := v.getLsbD 20, cqPasid := BitVec.ofNat 20 (fld v.toNat 0 20) }

theorem logGood_iff {n : Nat} : logGood n = true ↔ 4 ≤ n ∧ n ≤ 16 := by
  simp [logGood]

theorem State.writeBlockReg_cqBase {v : Word} (hx : (s.qblock q).cqEn = false) :
    s.writeBlockReg 0 q 0x18 v = s.setQ q { s.qblock q with cqBase := BitVec.ofNat 52 (v.toNat / 4096) } := by
  unfold State.writeBlockReg
  simp only
  rw [if_pos trivial, if_neg (by simp [hx])]

section
variable {v : Word} (hopen : s.bar.rcause ≠ 2)
include hopen

theorem State.registerWrite_pf {off : Nat} (ho : off < 0x10000 ∨ 0x11000 ≤ off) :
    s.registerWrite 0 off v = s.writePfReg off v := by
  simp [State.registerWrite, barOpen_of_firmware hopen, blockOf_pf ho]

theorem State.registerWrite_block {off reg : Nat} (hb : blockOf fn off = some (q, reg)) :
    s.registerWrite fn off v = s.writeBlockReg fn q reg v := by
  simp [State.registerWrite, barOpen_of_firmware hopen, hb]

theorem State.writeSqcfg_enabled (hx : (s.qblock q).sqEn = true) :
    s.writeSqcfg 0 q v = s.setQ q { s.qblock q with sqEn := v.getLsbD 63 } := by
  simp [State.writeSqcfg, barOpen_of_firmware hopen, hx, bit_eq_getLsbD]

theorem State.writeSqcfg_enable (hx : (s.qblock q).sqEn = false) (hv : v.getLsbD 63 = true) :
    s.writeSqcfg 0 q v = if logGood (fld v.toNat 52 5) then s.setQ q { (s.qblock q).sqConfig v.toNat with
      sqEn := true, sqHead := 0, sqTail := 0, sqEpoch := (s.qblock q).sqEpoch + 1 }
    else (s.setQ q ((s.qblock q).sqConfig v.toNat)).qevent q 1 := by
  have en : bit v.toNat 63 = true := by rw [bit_eq_getLsbD, hv]
  simp only [State.writeSqcfg, barOpen_of_firmware hopen, hx, en, ne_eq, not_true_eq_false, Bool.not_true,
    Bool.false_eq_true, or_self, if_false, toNat_ofNat_div, QBlock.sqConfig, ofNat_fld]
  rfl

theorem State.writeCqcfg_enabled (hx : (s.qblock q).cqEn = true) :
    s.writeCqcfg 0 q v = s.setQ q { s.qblock q with cqEn := v.getLsbD 63 } := by
  simp [State.writeCqcfg, barOpen_of_firmware hopen, hx, bit_eq_getLsbD]

theorem State.writeCqcfg_enable (hx : (s.qblock q).cqEn = false) (hv : v.getLsbD 63 = true) :
    s.writeCqcfg 0 q v = if logGood (fld v.toNat 52 5) then s.setQ q { (s.qblock q).cqConfig v with
      cqEn := true, cqHead := 0, cqTail := 0, cqPhase := true }
    else (s.setQ q ((s.qblock q).cqConfig v)).qevent q 1 := by
  have en : bit v.toNat 63 = true := by rw [bit_eq_getLsbD, hv]
  simp only [State.writeCqcfg, barOpen_of_firmware hopen, hx, en, ne_eq, not_true_eq_false, Bool.not_true,
    Bool.false_eq_true, or_self, if_false, toNat_ofNat_div, QBlock.cqConfig, ofNat_fld, bit_eq_getLsbD, Nat.pow_zero,
    Nat.div_one]

end

/-- What a bad size leaves of its block: CFGERR is set, and the rest is `x`. -/
theorem State.qblock_cfgError (he : s.bar.errEn = false) (x : QBlock) :
    ((s.setQ q x).qevent q 1).qblock q = { x with qstat := x.qstat ||| 2 } := by
  have block (u : State) (y : QBlock) : (u.setQ q y).qblock q = y := Tab.get_put_self ..
  rw [State.qevent_quiet (s := s.setQ q x) he, block, block]
  rfl

end

theorem hostRegisterWrites : Claims.HostRegisterWrites := by
  intro s fn q off v hopen he x tail size en sq cq idle
  have host (hi : idle) : HostIdle s := ⟨hi.1, hi.2.1, hi.2.2⟩
  have sizes : logGood size = false ↔ size < 4 ∨ 16 < size := by
    rw [← Bool.not_eq_true, logGood_iff]; omega
  refine ⟨fun hi own hr ht => (host hi).doorbell_setQ fun l => State.doorbell_tail own hr ht,
    fun hi own hb => (host hi).doorbell_setQ fun l => State.doorbell_bad own he hb,
    fun hi hf own => (host hi).doorbell_foreign hf own,
    fun hx => congrArg Host.Outcome.next (State.writeSqcfg_enabled hopen hx),
    fun hx hv h4 h16 => congrArg Host.Outcome.next ?_, fun hx hv hsize => ⟨_, rfl, ?_⟩,
    fun hx => congrArg Host.Outcome.next (State.writeCqcfg_enabled hopen hx),
    fun hx hv h4 h16 => congrArg Host.Outcome.next ?_, fun hx hv hsize => ⟨_, rfl, ?_⟩,
    fun hf => ⟨congrArg Host.Outcome.next (if_pos (.inl hf)), congrArg Host.Outcome.next (if_pos (.inl hf))⟩,
    fun own => congrArg Host.Outcome.next ?_, congrArg Host.Outcome.next ?_, congrArg Host.Outcome.next ?_,
    fun hx hq => congrArg Host.Outcome.next ?_, fun h1 h2 => congrArg Host.Outcome.next ?_⟩
  · rw [State.writeSqcfg_enable hopen hx hv, if_pos (logGood_iff.2 ⟨h4, h16⟩)]
    rfl
  · rw [State.writeSqcfg_enable hopen hx hv, if_neg (by rw [sizes.2 hsize]; exact Bool.false_ne_true),
      State.qblock_cfgError he]
    rfl
  · rw [State.writeCqcfg_enable hopen hx hv, if_pos (logGood_iff.2 ⟨h4, h16⟩)]
    rfl
  · rw [State.writeCqcfg_enable hopen hx hv, if_neg (by rw [sizes.2 hsize]; exact Bool.false_ne_true),
      State.qblock_cfgError he]
    rfl
  · unfold State.writeCqhead
    rw [ownsCq_iff.2 own, barOpen_of_firmware hopen]
    rfl
  · rw [State.registerWrite_pf hopen (.inl (by omega))]
    show ({ s with bar := { s.bar with memwin := BitVec.ofNat 10 v.toNat } } : State) = _
    rw [ofNat_fld, Nat.pow_zero, Nat.div_one]
  · rw [State.registerWrite_pf hopen (.inl (by omega))]
    show ({ s with bar := { s.bar with asidBase := BitVec.ofNat 24 (v.toNat / 65536) } } : State) = _
    rw [ofNat_fld]
    rfl
  · have block : blockOf 0 (0x10000 + 64 * q + 0x18) = some (q, 0x18) := blockOf_register 0 hq (by omega)
    rw [State.registerWrite_block hopen block, State.writeBlockReg_cqBase hx, ofNat_fld]
    rfl
  · rw [State.registerWrite_pf hopen (.inl h2)]
    unfold State.writePfReg
    simp only
    rw [if_neg (by omega), if_neg (by omega), if_neg (by omega), if_neg (by omega), if_neg (by omega),
      if_neg (by omega)]

/-- Settles O46: with the host idle an access is done at once; on an ordinary line nothing stops it. -/
theorem hostAccesses : Obligations.HostAccesses :=
  ⟨hostRegisterWrites, registerReads, hostWindowAccesses⟩

end Sys2Proof.Machine
end

section
/-! # What reset leaves, and sample words (O60)

Every register of the reset state is read off its definition; each sample word is a closed computation of the decoder. -/

namespace Sys2Proof.Machine

theorem resetState : Claims.ResetState := by
  refine ⟨rfl, fun _ => rfl, fun _ => rfl, rfl, rfl, fun c b => ⟨rfl, rfl, rfl, rfl, rfl, rfl, rfl, fun r => ?_⟩,
    fun c b r => ⟨rfl, rfl, ?_⟩, fun _ _ => rfl, fun _ _ => ⟨rfl, rfl⟩, fun _ => ⟨rfl, rfl⟩, fun hub c n => ?_,
    fun _ _ => rfl⟩
  · show (Hart.init b).greg r = 0
    unfold Hart.greg
    split <;> rfl
  · show VReg.content r {} = 0
    unfold VReg.content
    split <;> rfl
  · cases hub <;> rfl

theorem sampleWords : Claims.SampleWords := by
  refine ⟨?_, ?_, ?_, ?_⟩ <;> decide +kernel

/-- Settles O60: what reset leaves is read off field by field, and the words are decoded. -/
theorem resetAndSampleWords : Obligations.ResetAndSampleWords := ⟨resetState, sampleWords⟩

end Sys2Proof.Machine
end

section
/-! # The control thread goes on and traps (O35)

A completion and a trap write the control thread of one core, so that its harts and banks, and every other core, stay. -/

namespace Sys2Proof.Machine

/-! ### Registers -/

@[simp] theorem Ct.xreg_setX (x : Ct) {r : Nat} (v : Word) (h : r ≠ 0) : (x.setX r v).xreg r = v := by
  simp [Ct.setX, Ct.xreg, h]

theorem Ct.xreg_setX_of_ne (x : Ct) {r q : Nat} (v : Word) (h : q ≠ r) : (x.setX r v).xreg q = x.xreg q := by
  by_cases hr : r = 0
  · simp [Ct.setX, hr]
  · simp [Ct.setX, Ct.xreg, hr, Tab.get_put_of_ne _ _ _ h]

@[simp] theorem Ct.mode_setX (x : Ct) (r : Nat) (v : Word) : (x.setX r v).mode = x.mode := by
  unfold Ct.setX
  split <;> rfl

/-! ### Updates of a core beside its harts and banks -/

theorem State.hart_setCore (s : State) (c : Nat) {k : Core} (h : k.harts = (s.core c).harts) (d b : Nat) :
    (s.setCore c k).hart d b = s.hart d b := by
  by_cases n : d = c
  · subst n; simp [State.hart, Core.hart, h]
  · simp [State.hart, State.core_setCore_of_ne _ _ n]

theorem State.bank_setCore (s : State) (c : Nat) {k : Core} (h : k.banks = (s.core c).banks) (d b : Nat) :
    (s.setCore c k).bank d b = s.bank d b := by
  by_cases n : d = c
  · subst n; simp [State.bank, Core.bank, h]
  · simp [State.bank, State.core_setCore_of_ne _ _ n]

theorem State.core_setCt_of_ne (s : State) {c d : Nat} (x : Ct) (h : d ≠ c) : (s.setCt c x).core d = s.core d :=
  State.core_setCore_of_ne s _ h

theorem State.core_traceMeet_of_ne (s : State) {c d : Nat} (kind value : Nat) (h : d ≠ c) :
    (s.traceMeet c kind value).core d = s.core d := by
  unfold State.traceMeet
  dsimp only
  split
  · split
    · exact State.core_setCore_of_ne s _ h
    · rfl
  · rfl

theorem State.cores_noFirst (s : State) (w : Waiter) : (s.noFirst w).cores = s.cores := by
  unfold State.noFirst
  split <;> rfl

theorem State.core_noFirst (s : State) (w : Waiter) (c : Nat) : (s.noFirst w).core c = s.core c := by
  rw [State.core, State.cores_noFirst, State.core]

/-! ### Completion -/

theorem controlThreadGoesOn : Claims.ControlThreadGoesOn := by
  intro s c r v
  dsimp only
  have ct : ((s.ctDone c r v).ct c) = { (s.ct c).setX r v with
      pc := (s.ct c).pc + BitVec.ofNat 64 s.actLen, rreq := none, hostGot := [] } := by
    simp [State.ctDone, State.ct]
  rw [ct]
  refine ⟨rfl, fun hr => Ct.xreg_setX _ v hr, fun q hq => Ct.xreg_setX_of_ne _ v hq, rfl, ?_, Ct.mode_setX .., fun b => ?_,
    fun b => ?_, fun d hd => ?_, rfl, rfl⟩
  · simp [State.ctDone]
  · simp [State.ctDone, State.hart_setCore]
  · simp [State.ctDone, State.bank_setCore]
  · simp [State.ctDone, State.core_setCore_of_ne _ _ hd, State.core_setCt_of_ne _ _ hd]

/-! ### Traps -/

/-- The control thread as a device cause leaves it (R126). -/
def Ct.trapped (x : Ct) (tval : Nat) : Ct :=
  { x with mepc := x.pc, mcause := 24, mtval := BitVec.ofNat 64 tval, mpie := x.mie, mie := false, mpp := x.mode,
           mode := .machine, pc := BitVec.ofNat 64 (x.mtvec.toNat / 4 * 4), resv := none, rreq := none, hostGot := [] }

/-- A device cause is no interrupt, so that a vectored mtvec sends it to the base like a direct one (log 10). -/
theorem State.ctCause_device (s : State) (c detail : Nat) {code : Nat} (h : code < 256) :
    s.ctCause c code detail = ((s.noFirst (.ct c)).traceMeet c 0 ((code * 2 ^ 56 + detail % 2 ^ 56) / 2 ^ 56)).setCt c
      ((s.ct c).trapped (code * 2 ^ 56 + detail % 2 ^ 56)) := by
  have cause : code ≠ walkWait := by unfold walkWait; omega
  have ct : (s.noFirst (.ct c)).ct c = s.ct c := by simp [State.ct, State.core_noFirst]
  simp [State.ctCause, cause, State.ctTrap, ct, Ct.trapped]

theorem controlThreadTrap : Claims.ControlThreadTrap := by
  intro s c code detail hcode
  dsimp only
  rw [State.ctCause_device s c detail hcode]
  have first (d : Nat) := State.core_noFirst s (.ct c) d
  have meet (d b : Nat) := sameWork_traceMeet (s.noFirst (.ct c)) d b c 0 ((code * 2 ^ 56 + detail % 2 ^ 56) / 2 ^ 56)
  rw [State.ct_setCt]
  refine ⟨rfl, rfl, rfl, rfl, rfl, rfl, rfl, rfl, rfl, rfl, fun b => ?_, fun b => ?_, fun d hd => ?_, ?_⟩
  · rw [State.hart_setCt, (meet c b).hart, State.hart, first, State.hart]
  · rw [State.bank_setCt, bank_of_sameWork meet, State.bank, first, State.bank]
  · rw [State.core_setCt_of_ne _ _ hd, State.core_traceMeet_of_ne _ _ _ hd, first]
  · simp [State.noFirst_mem]

/-- Settles O35: a completion writes rd and the pc, a trap the trap registers and the pc; neither touches harts or banks. -/
theorem controlThreadGoesOnAndTraps : Obligations.ControlThreadGoesOnAndTraps :=
  ⟨controlThreadGoesOn, controlThreadTrap⟩

end Sys2Proof.Machine
end

section
/-! # A scalar write, and where a retired word leaves its hart (O2)

A fault keeps the scalar registers through each stage of a stop: the matrix engine, the words behind the one that
faults, and the hart itself. The fetch past the last block is then a fault of a hart that has moved on. -/

namespace Sys2Proof.Machine

/-! ### Scalar registers under a stop -/

theorem State.g_setHart (s : State) (c b : Nat) {h : Hart} (k : h.g = (s.hart c b).g) (d e : Nat) :
    ((s.setHart c b h).hart d e).g = (s.hart d e).g := by
  by_cases n : d = c ∧ e = b
  · obtain ⟨rfl, rfl⟩ := n; simpa using k
  · rw [State.hart_setHart_of_ne _ _ n]

theorem g_foldl {α : Type} {f : State → α → State} {d e : Nat} (h : ∀ s a, ((f s a).hart d e).g = (s.hart d e).g)
    (l : List α) (s : State) : ((l.foldl f s).hart d e).g = (s.hart d e).g := by
  induction l generalizing s with
  | nil => rfl
  | cons a l ih => rw [List.foldl_cons, ih, h]

section
variable (s : State) (c b d e : Nat)

@[simp] theorem State.hart_noFirst (w : Waiter) : (s.noFirst w).hart d e = s.hart d e := by
  rw [State.hart, State.core_noFirst, State.hart]

@[simp] theorem State.hart_traceMeet (k value : Nat) : (s.traceMeet c k value).hart d e = s.hart d e :=
  (sameWork_traceMeet s c 0 c k value).hart d e

@[simp] theorem State.hart_addScore (utype n pts : Nat) : (s.addScore utype n pts).hart d e = s.hart d e := rfl

@[simp] theorem State.hart_endWrite (r : Nat) : (s.endWrite c b r).hart d e = s.hart d e := State.hart_setReg ..

@[simp] theorem State.hart_endDests (op : LaneOp) : (s.endDests c b op).hart d e = s.hart d e := by
  unfold State.endDests
  generalize op.dests = l
  induction l generalizing s with
  | nil => rfl
  | cons r l ih => rw [List.foldl_cons, ih, State.hart_endWrite]

@[simp] theorem State.hart_dropHead : (s.dropHead c).hart d e = s.hart d e :=
  State.hart_setCore s c (k := { s.core c with engine := (s.core c).engine.drop 1 }) rfl d e

@[simp] theorem State.hart_closeDrain (op : EngOp) : (s.closeDrain c op).hart d e = s.hart d e := by
  unfold State.closeDrain
  split <;> simp

@[simp] theorem State.hart_dropStage (r : Nat) : (s.dropStage c b r).hart d e = s.hart d e := by
  unfold State.dropStage
  split
  · split
    · exact State.hart_setCore s c (k := { s.core c with stage := none }) rfl d e
    · rfl
  · rfl

@[simp] theorem State.hart_commitReg (w r : Nat) (g : Grp) : (s.commitReg c b w r g).hart d e = s.hart d e := by
  simp [State.commitReg]

@[simp] theorem State.hart_commitRegs (op : LaneOp) (g : Grp) : (s.commitRegs c b op g).hart d e = s.hart d e := by
  unfold State.commitRegs
  split <;> simp

@[simp] theorem State.hart_commitMask (op : LaneOp) (g : Grp) : (s.commitMask c b op g).hart d e = s.hart d e := by
  unfold State.commitMask
  split <;> simp

@[simp] theorem State.hart_senseRow (k pa : Nat) : (s.senseRow c b k pa).hart d e = s.hart d e := by
  have effects (l : Tab Side) (t : State) : (l.foldl (fun t e =>
      let t1 := if e.2.badSymbols = 1 ∨ e.2.badSymbols = 2 then t.addScore 2 (sagUnit c b k) 1 else t
      if e.2.cond = some .e2eBad then t1.addScore 2 (sagUnit c b k) 32 else t1) t).hart d e = t.hart d e := by
    induction l generalizing t with
    | nil => rfl
    | cons x l ih =>
      rw [List.foldl_cons, ih]
      dsimp only
      split <;> split <;> rfl
  rw [State.senseRow, State.captureEffects, effects, State.hart_setReg]

@[simp] theorem State.g_setPend (p : Option Pend) : ((s.setPend c b p).hart d e).g = (s.hart d e).g :=
  State.g_setHart s c b (h := { s.hart c b with pend := p }) rfl d e

@[simp] theorem State.g_accepted : ((s.accepted c b).hart d e).g = (s.hart d e).g := by
  unfold State.accepted
  split <;> simp

@[simp] theorem State.g_acceptedIf (x : Bool) : ((s.acceptedIf x c b).hart d e).g = (s.hart d e).g := by
  cases x <;> simp [State.acceptedIf]

@[simp] theorem State.g_engTrap (cause detail : Nat) : ((s.engTrap c b cause detail).hart d e).g = (s.hart d e).g :=
  State.g_setPend ..

@[simp] theorem State.g_outerEnd (op : EngOp) (mops : Option (Nat × Nat)) (agree again : Bool) :
    ((s.outerEnd c op mops agree again).hart d e).g = (s.hart d e).g := by
  unfold State.outerEnd
  extract_lets bank q t trapping s1 s2 m fl h
  have same : s2.hart d e = s.hart d e := by
    show (if agree then s1 else s1.addScore 1 c 64).hart d e = s.hart d e
    cases agree <;> rfl
  split
  · simp [same]
  split
  · split <;> simp [same]
  · have flags : h.g = ((s2.setTile c q { t with bits := packRows m.rows }).hart c bank).g := by
      rw [State.hart_setTile]
    rw [State.g_acceptedIf, State.g_setHart _ _ _ (by exact flags), State.hart_setTile, same]

@[simp] theorem State.g_engineEnd (agree again : Bool) : ((s.engineEnd c agree again).hart d e).g = (s.hart d e).g := by
  grind [State.engineEnd, State.hart_setTile, State.hart_dropHead, State.g_accepted, State.g_outerEnd]

@[simp] theorem State.g_engineStop : ((s.engineStop c b).hart d e).g = (s.hart d e).g := by
  unfold State.engineStop
  extract_lets s1 mine s2
  have run : (s1.hart d e).g = (s.hart d e).g := by
    show (State.hart (match (s.core c).engine with
      | op :: _ => if op.bank = b && op.taken then s.engineEnd c true true else s
      | [] => s) d e).g = _
    split
    · split <;> simp
    · rfl
  rw [State.hart_setCore _ _ (by rfl), ← run]
  exact g_foldl (fun t op => by rw [State.hart_closeDrain]) mine s1

@[simp] theorem State.g_commitYoung (op : LaneOp) (g : Grp) : ((s.commitYoung c b op g).hart d e).g = (s.hart d e).g := by
  rw [State.commitYoung, State.g_setHart _ _ _ (by rfl), State.hart_commitMask, State.hart_commitRegs]

@[simp] theorem State.g_setYoung (k : Nat) (f : LaneOp → LaneOp) (live : Bool) :
    ((s.setYoung c b k f live).hart d e).g = (s.hart d e).g :=
  State.g_setHart s c b (by rfl) d e

@[simp] theorem State.g_setWork (k : Nat) (p : Option Pend) : ((s.setWork c b k p).hart d e).g = (s.hart d e).g :=
  State.g_setHart s c b (by rfl) d e

@[simp] theorem State.g_keepWork (k : Nat) : ((s.keepWork c b k).hart d e).g = (s.hart d e).g := by
  unfold State.keepWork
  split <;> simp

@[simp] theorem State.g_keepOne (k : Nat) : ((s.keepOne c b k).hart d e).g = (s.hart d e).g := by
  unfold State.keepOne
  split
  · rw [State.g_setYoung, State.hart_endDests, g_foldl fun t g => State.g_commitYoung ..]
  · exact State.g_keepWork ..

@[simp] theorem State.g_keepYoung : ((s.keepYoung c b).hart d e).g = (s.hart d e).g :=
  g_foldl (fun t k => State.g_keepOne t c b d e k) _ s

end

/-! ### Faults -/

/-- What a fault of hart (c, b) leaves in it: FAULTED with its cause and detail, its scalar registers as they were (R400). -/
structure State.Faults (s t : State) (c b cause detail : Nat) : Prop where
  st : (t.hart c b).st = .faulted
  cause : (t.hart c b).hcause = BitVec.ofNat 8 cause
  detail : (t.hart c b).htval = BitVec.ofNat 64 detail
  g : (t.hart c b).g = (s.hart c b).g
  mem : t.mem = s.mem

theorem State.suspend_faults (s : State) (c b cause detail egi : Nat) :
    s.Faults (s.suspend c b cause detail egi) c b cause detail := by
  have regs : ((((s.noFirst (.hart c b)).engineStop c b).keepYoung c b).hart c b).g = (s.hart c b).g := by simp
  have hart : ((s.suspend c b cause detail egi).hart c b).st = .faulted ∧
      ((s.suspend c b cause detail egi).hart c b).hcause = BitVec.ofNat 8 cause ∧
      ((s.suspend c b cause detail egi).hart c b).htval = BitVec.ofNat 64 detail ∧
      ((s.suspend c b cause detail egi).hart c b).g = (s.hart c b).g := by
    unfold State.suspend
    generalize ((s.noFirst (.hart c b)).engineStop c b).keepYoung c b = t at regs ⊢
    dsimp only
    rw [State.hart_traceMeet, State.hart, State.core_setCore]
    split
    · rw [Core.hart_setGang, Core.hart_setHart]; exact ⟨rfl, rfl, rfl, regs⟩
    · rw [Core.hart_setHart]; exact ⟨rfl, rfl, rfl, regs⟩
  obtain ⟨st, cause, detail, g⟩ := hart
  exact ⟨st, cause, detail, g, State.suspend_mem ..⟩

/-- What a fault writes of its hart beside the record that waits. -/
theorem State.Faults.setHart {s t : State} {c b cause detail : Nat} (h : s.Faults t c b cause detail) (l : List EvRec) :
    s.Faults (t.setHart c b { t.hart c b with evWait := l }) c b cause detail where
  st := by rw [State.hart_setHart]; exact h.st
  cause := by rw [State.hart_setHart]; exact h.cause
  detail := by rw [State.hart_setHart]; exact h.detail
  g := by rw [State.hart_setHart]; exact h.g
  mem := h.mem

theorem State.Faults.setEvq {s t : State} {c b cause detail : Nat} (h : s.Faults t c b cause detail) (l : List EvRec) :
    s.Faults (t.setCore c { t.core c with evq := l }) c b cause detail := by
  have hart : (t.setCore c { t.core c with evq := l }).hart c b = t.hart c b := State.hart_setCore t c (by rfl) c b
  exact ⟨hart ▸ h.st, hart ▸ h.cause, hart ▸ h.detail, hart ▸ h.g, h.mem⟩

theorem State.hartFault_faults (s : State) (c b cause detail egi : Nat) :
    s.Faults (s.hartFault c b cause detail egi) c b cause detail := by
  have sus := s.suspend_faults c b cause detail egi
  unfold State.hartFault
  dsimp only
  split
  · exact sus
  · split
    · exact sus.setEvq _
    · exact sus.setHart _

/-! ### Past the last block -/

/-- R47: the fetch of a block above 48 bits fails, where the address space has an entry. -/
theorem State.translateOn_far (s : State) (c : Nat) (mach : Bool) {va : Nat} (h : 2 ^ 48 ≤ va)
    (root : (s.spaceRoot (s.asid c)).isSome = true) :
    s.translateOn c mach va .fetch false false = .error (0x20, detail48 va .fetch 0 false) := by
  obtain ⟨r, hr⟩ := Option.isSome_iff_exists.1 root
  have entry : (s.tableBytes (s.spaceAddr (s.asid c)) 16).isNone = false := by
    unfold State.spaceRoot at hr
    split at hr <;> simp_all
  have far : va / 2 ^ 48 ≠ 0 := by omega
  have row : ¬(Kind.fetch = Kind.row ∧ va % 8192 ≠ 0) := by simp
  simp only [State.asid] at hr entry
  simp only [State.translateOn, State.translate, if_neg row, if_pos far, entry, hr, Bool.false_eq_true, if_false]

theorem State.farFetch_far (s : State) (c b : Nat) {va : Nat} (h : 2 ^ 48 ≤ va)
    (root : (s.spaceRoot (s.asid c)).isSome = true) :
    s.farFetch c b (some va) = s.hartFault c b 0x20 (detail48 va .fetch 0 false) 0 := by
  have noWait : (0x20 : Nat) ≠ walkWait := by decide
  simp only [State.farFetch, if_neg (Nat.not_lt.2 h), s.translateOn_far c false h root, if_neg noWait]

/-- With neither ring nor trace, and no word behind it, a retirement moves the hart on and fetches what is far. -/
theorem State.retire_far {s : State} {c : Nat} (b word : Nat) (acted : Bool) (go : Go)
    (ht : (s.core c).traceOn = false) (hr : (s.ct c).ring.getLsbD 63 = false) (hy : (s.hart c b).young = []) :
    s.retire c b word acted go = (s.retired c b go).farFetch c b ((s.hart c b).leaves go) := by
  have notes : s.retireNotes c b word acted go = s := by
    unfold State.retireNotes
    have ring : (if acted = true then s.ringWrite c b word else s) = s := by
      split
      · exact State.ringWrite_off _ _ hr
      · rfl
    simp only [ring]
    cases (s.hart c b).note.first <;> cases go <;> simp [ht]
  have alone : (s.retired c b go).promote c b = s.retired c b go :=
    State.promote_alone (by rw [State.retired, State.hart_setHart, Hart.young_advance]; exact hy)
  unfold State.retire
  simp only [notes, Hart.leaves_clean]
  exact congrArg (State.farFetch · c b _) alone

/-- A word of a hart that changes nothing but its place, on a hart that no trace or ring records. -/
theorem execNop_retires (n : P0) {s : State} {c b : Nat} (hg : s.actGang = none) (hc : s.actCore = c)
    (hb : s.actBank = b) (idle : (s.hart c b).pend = none) (alone : (s.hart c b).young = [])
    (acts : (s.hart c b).hp = true) (ht : (s.core c).traceOn = false) (hr : (s.ct c).ring.getLsbD 63 = false) :
    exec (.nop n) s = .next ((s.retired c b .next).farFetch c b ((s.hart c b).leaves .next)) := by
  let o : Op := { instr := .nop n, p := n.p, act := fun _ s _ _ => .ok s .next }
  have act : s.acts c b o = true := by simp [State.acts, acts]
  have run : o.run s s c b = .ok (s.marked c b (o.note s c b)) .next := by
    simp only [Op.run, idle, act]
    rfl
  obtain ⟨mark, ct⟩ := s.marked_quiet c b (o.note s c b)
  obtain ⟨young, leaves⟩ := s.marked_stands c b (o.note s c b) .next
  show o.exec s = _
  rw [Op.exec_split o hg, hc, hb]
  have split : o.execSplit s c b = (s.marked c b (o.note s c b)).retire c b o.word (s.acts c b o) .next := by
    simp only [Op.execSplit, run]
    rfl
  rw [split, State.retire_far b _ _ _ (by rw [mark, ht]) (by rw [ct, hr]) (by rw [young, alone]), leaves,
    State.retired_marked]

theorem Hart.g_advance (h : Hart) (go : Go) : (h.advance go).g = h.g := by
  cases go with
  | next => simp only [Hart.advance, Hart.blockEnd, Hart.parkNow, Hart.goTo]; split_ifs <;> rfl
  | jump va => rfl
  | park => rfl
  | rep n =>
    simp only [Hart.advance, Hart.blockEnd, Hart.parkNow, Hart.goTo]
    split
    · rfl
    · split_ifs <;> rfl

theorem lastBlockEnds : Claims.LastBlockEnds := by
  intro n s c b va h fails root
  have far {t : State} {a : Nat} (ha : 2 ^ 48 ≤ a) (rt : (t.spaceRoot (t.asid c)).isSome = true)
      (hg : (t.hart c b).g = h.g) (hm : t.mem = s.mem) : fails (t.farFetch c b (some a)) a := by
    have faults := t.hartFault_faults c b 0x20 (detail48 a .fetch 0 false) 0
    rw [← State.farFetch_far t c b ha rt] at faults
    exact ⟨faults.st, faults.cause, faults.detail, faults.g.trans hg, faults.mem.trans hm⟩
  refine ⟨fun hva => far hva root rfl rfl, fun hva => State.farFetch_near s c b (by rintro _ ⟨rfl⟩; exact hva),
    fun gang core bank idle alone acts _ trace ring hva last kind => ?_⟩
  have leaves : h.leaves .next = some (2 ^ 48) := by
    simp [Hart.leaves, last, kind, hva]
  refine ⟨_, execNop_retires n gang core bank idle alone acts trace ring, ?_⟩
  rw [leaves]
  refine far le_rfl ?_ ?_ rfl
  · rwa [State.asid, State.retired, State.core_setHart]
  · rw [State.retired, State.hart_setHart]
    exact Hart.g_advance _ _

/-! ### Writes and retirement -/

@[simp] theorem Hart.greg_setG (h : Hart) {r : Nat} (v : Word) (hr : r ≠ 0) : (h.setG r v).greg r = v := by
  simp [Hart.setG, Hart.greg, hr]

theorem Hart.greg_setG_of_ne (h : Hart) {r q : Nat} (v : Word) (n : q ≠ r) : (h.setG r v).greg q = h.greg q := by
  by_cases hr : r = 0
  · simp [Hart.setG, hr]
  · simp [Hart.setG, Hart.greg, hr, Tab.get_put_of_ne _ _ _ n]

/-- Of a hart, a write of a scalar register changes the scalar registers alone. -/
theorem Hart.setG_frame (h : Hart) (r : Nat) (v : Word) : { h.setG r v with g := h.g } = h := by
  unfold Hart.setG
  split <;> rfl

theorem scalarRegisterWrite : Claims.ScalarRegisterWrite := fun h r v =>
  ⟨rfl, fun hr => h.greg_setG v hr, fun _ hq => h.greg_setG_of_ne v hq, h.setG_frame r v⟩

theorem hartMovesOn : Claims.HartMovesOn := by
  intro h n va k next parked ended passes
  have left : k.passesLeft n = passes := rfl
  refine ⟨rfl, rfl, rfl, rfl, rfl, rfl, rfl, ?_⟩
  by_cases done : passes = 0
  · have ends : k.advance (.rep n) = { k with repact := false, repi := passes }.blockEnd := by
      simp only [Hart.advance, left]
      rw [if_neg (not_not.2 done)]
    rw [ends, if_pos done, done]
    show (if h.bcastKind then _ else _) = ({ (if h.bcastKind then parked else next) with repact := false, repi := 0 } : Hart)
    split <;> rfl
  · rw [if_neg done]
    simp only [Hart.advance, left]
    rw [if_pos done]
    rfl

/-- Settles O2: a write changes one register, a retirement only the place of its hart, and a place past 48 bits faults. -/
theorem scalarWriteAndNextWord : Obligations.ScalarWriteAndNextWord :=
  ⟨scalarRegisterWrite, hartMovesOn, lastBlockEnds⟩

end Sys2Proof.Machine
end

section
/-! # A result past the last mask bit (O21)

A plan may carry a result for any mask bit, but a register takes those below 8192 alone. -/

namespace Sys2Proof.Machine

/-- A plan with one result, for mask bit 8192 of `m1`: past the 8192 bits that a mask register holds (R31). -/
def pastMask : Plan :=
  { ready := true, lane := { word := 0, m := some 1 }, view := State.reset.view 0 0 false 0 0 0
    es := [{ i := 8192, mbit := some (8192, true) }] }

/-- A mask register takes no bit past its last one, whatever a group brings. -/
theorem pastMask_clear : (((State.reset.laneDone 0 0 pastMask).bank 0 0).mask 1).testBit 8192 = false := by
  decide +kernel

theorem not_laneResultsLand : ¬ Claims.LaneResultsLand := by
  intro land
  have single : (pastMask.es.map fun e => e.i).Nodup := List.nodup_singleton _
  have noElems : ∀ e ∈ pastMask.es, ∀ x, e.enc = some x → x < 2 ^ pastMask.lane.w := by simp [pastMask]
  have ownBit : ∀ e ∈ pastMask.es, ∀ x, e.mbit = some x → x.1 = e.i := by simp [pastMask]
  obtain ⟨-, masks⟩ := land State.reset 0 0 pastMask (by decide) rfl rfl rfl single noElems
  have set : (((State.reset.laneDone 0 0 pastMask).bank 0 0).mask 1).testBit 8192 = true :=
    masks 1 rfl (by decide) ownBit 8192
  exact absurd set (by rw [pastMask_clear]; decide)

/-- Refutes O21: its clause on mask bits has no bound, and a mask register holds none from bit 8192 on. -/
theorem not_laneOperations : ¬ Obligations.LaneOperations := fun h => not_laneResultsLand h.1

end Sys2Proof.Machine
end

section
/-! # Spans and the scheduler (O48)

With no port held, a message leaves as it is sent; with no packet that waits, one that arrives is judged at once; and a task
that holds no core ends by going. What a task's start does of each of its cores is one lemma on the fold over them
(`core_foldl`), and so is what a pre-emption asks (`req_foldl_ask`). -/

namespace Sys2Proof.Machine

/-! ### Messages -/

section
variable {s : State}

theorem State.send_free {m : Out} (h : s.waitsPort m = false) : s.send m = { s with out := s.out ++ [m] } := by
  simp [State.send, h]

theorem State.sendAll_free {l : List Out} (h : ∀ m ∈ l, s.waitsPort m = false) :
    s.sendAll l = { s with out := s.out ++ l } := by
  induction l generalizing s with
  | nil => simp [State.sendAll]
  | cons m l ih =>
    obtain ⟨first, rest⟩ := List.forall_mem_cons.1 h
    have tail := ih (s := { s with out := s.out ++ [m] }) rest
    rw [State.sendAll, List.foldl_cons, State.send_free first]
    simpa [State.sendAll] using tail

/-- Where no port is held (R112), one message to each of the given modules leaves at once. -/
theorem State.sendAll_fabric (ports : ∀ m, s.portHeld m = false) (l : List Nat) (kind gen : Nat) :
    s.sendAll (l.map fun m => Out.fabric m kind gen 0) =
      { s with out := s.out ++ l.map fun m => Out.fabric m kind gen 0 } := by
  refine State.sendAll_free fun m hm => ?_
  obtain ⟨x, -, rfl⟩ := List.mem_map.1 hm
  exact ports x

/-! ### Tasks by number -/

theorem State.num_of_task {n : Nat} {t : Task} (h : s.task n = some t) : t.num = n := by
  simpa using List.find?_some h

theorem find?_map_num {f : Task → Task} (hf : ∀ t, (f t).num = t.num) (l : List Task) (n : Nat) :
    (l.map f).find? (fun t => t.num == n) = (l.find? fun t => t.num == n).map f := by
  rw [List.find?_map]
  congr 2
  funext t
  simp [hf]

theorem State.task_mapTask {n : Nat} {t : Task} (h : s.task n = some t) {f : Task → Task} (hf : ∀ t, (f t).num = t.num) :
    (s.mapTask n f).task n = some (f t) := by
  have num := State.num_of_task h
  show (s.sched.tasks.map fun t => if t.num = n then f t else t).find? (fun t => t.num == n) = _
  rw [find?_map_num (fun t => by split <;> simp [hf])]
  have found : s.sched.tasks.find? (fun t => t.num == n) = some t := h
  simp [found, num]

/-! ### Packets -/

/-- The module with no packet that waits. -/
theorem State.noPackets (h : s.sched.packets = []) : ({ s with sched := { s.sched with packets := [] } } : State) = s := by
  rw [← h]

theorem State.retryPackets_none (h : s.sched.packets = []) : s.retryPackets = s := by
  rw [State.retryPackets, h]
  exact State.noPackets h

theorem State.retryPackets_one (h : s.sched.packets = []) (p : Nat × BitVec 2048) :
    ({ s with sched := { s.sched with packets := s.sched.packets ++ [p] } } : State).retryPackets =
      State.packetsGo [p] s := by
  show State.packetsGo (s.sched.packets ++ [p]) { s with sched := { s.sched with packets := [] } } = _
  rw [h]
  show State.packetsGo [p] { s with sched := { s.sched with packets := [] } } = _
  rw [State.noPackets h]

/-- A packet that has been dealt with leaves none to wait. -/
theorem execLaunchPacketReceive_done (h : s.sched.packets = []) {origin : Nat} {v : BitVec 2048} {u : State}
    (ht : s.tryPacket origin v = (u, true)) : exec (.launchPacketReceive origin v) s = .next u := by
  show Host.Outcome.next _ = _
  rw [State.retryPackets_one h]
  simp only [State.packetsGo, ht]

/-- A packet whose barrier is not open is judged, where the unit that checks records is free (R80). -/
theorem State.tryPacket_free (hs : s.sched.serving = none) {origin : Nat} {v : BitVec 2048}
    (hb : s.barrierOpen origin (record v.toNat).gen.toNat = false) (hl : s.sched.tasks.length < 4096) :
    s.tryPacket origin v = match State.judge { s with walkData := [] } 0 (record v.toNat) with
      | .wait s' => (s'.serve (some (.packet origin v)), false)
      | .refuse s' code => (s'.finished.send (.fabric origin msgRefused (record v.toNat).gen.toNat code), true)
      | .accept s' cores ranges => (s'.finished.enterTask 64 0 v (record v.toNat) cores ranges (some origin), true) := by
  have room : ¬(s.barrierOpen origin (record v.toNat).gen.toNat = true ∨ Config.taskLimit ≤ s.sched.tasks.length ∨
      (!s.freeFor origin v) = true) := by
    simp [hb, State.freeFor, hs, Config.taskLimit, hl]
  simp only [State.tryPacket, if_neg room, hs] <;> rfl

/-- A packet that has passed enters as a task of its origin, which is to be flushed and to arrive (R72, R80). -/
theorem State.enterTask_member (s : State) (source fn : Nat) (v : BitVec 2048) (r : Record) (cores : List Nat)
    (ranges : List (Nat × Nat × Bool)) (origin : Nat) :
    ∃ k, (s.enterTask source fn v r cores ranges (some origin)).sched.tasks = s.sched.tasks ++ [k] ∧ k.recd = r ∧
      k.cores = cores ∧ k.origin = some origin ∧ k.stage = .queued := by
  refine ⟨{ num := s.sched.nextNum, source := source, fn := fn, recd := r, cores := cores, ranges := ranges,
            acceptedAt := s.now, latestStart := s.latestStart r, origin := some origin }, ?_, rfl, rfl, rfl, rfl⟩
  simp [State.enterTask]

section
variable {origin : Nat} {v : BitVec 2048} {s1 : State} (hp : s.sched.packets = []) (hs : s.sched.serving = none)
  (hb : s.barrierOpen origin (record v.toNat).gen.toNat = false) (hl : s.sched.tasks.length < 4096)
include hp hs hb hl

theorem packet_accepted {cores : List Nat} {ranges : List (Nat × Nat × Bool)}
    (hj : State.judge { s with walkData := [] } 0 (record v.toNat) = .accept s1 cores ranges) :
    ∃ u k, exec (.launchPacketReceive origin v) s = .next u ∧ u.sched.tasks = s1.sched.tasks ++ [k] ∧
      k.recd = record v.toNat ∧ k.cores = cores ∧ k.origin = some origin ∧ k.stage = .queued := by
  have judged := State.tryPacket_free hs hb hl
  rw [hj] at judged
  obtain ⟨k, tasks, fields⟩ := s1.finished.enterTask_member 64 0 v (record v.toNat) cores ranges origin
  exact ⟨_, k, execLaunchPacketReceive_done hp judged, tasks, fields⟩

theorem packet_refused {code : Nat}
    (hj : State.judge { s with walkData := [] } 0 (record v.toNat) = .refuse s1 code) (port : s1.portHeld origin = false) :
    ∃ u, exec (.launchPacketReceive origin v) s = .next u ∧ u.sched.tasks = s1.sched.tasks ∧
      u.out = s1.out ++ [Out.fabric origin msgRefused (record v.toNat).gen.toNat code] := by
  have judged := State.tryPacket_free hs hb hl
  rw [hj] at judged
  have free : s1.finished.waitsPort (.fabric origin msgRefused (record v.toNat).gen.toNat code) = false := port
  refine ⟨_, execLaunchPacketReceive_done hp judged, ?_, ?_⟩
  · rw [State.send_free free]; rfl
  · rw [State.send_free free]; rfl

end

/-! ### Barriers -/

theorem State.gen_of_find {of : Barrier → Bool} {gen : Nat} {b : Barrier}
    (h : s.sched.barriers.find? (fun x => x.gen == gen && of x) = some b) : b.gen = gen := by
  have found := List.find?_some h
  simp only [Bool.and_eq_true, beq_iff_eq] at found
  exact found.1

/-- The barrier closed, with one message sent to each of the given members. -/
def State.barrierClosed (s : State) (b : Barrier) (ms : List Nat) (kind : Nat) : State :=
  { s with
    sched := { s.sched with barriers := s.sched.barriers.filter fun x => x.num != b.num }
    out := s.out ++ ms.map fun m => Out.fabric m kind b.gen 0 }

theorem State.sendAll_barrierClosed (ports : ∀ m, s.portHeld m = false) (b : Barrier) (ms : List Nat) (kind : Nat) :
    State.sendAll { s with sched := { s.sched with barriers := s.sched.barriers.filter fun x => x.num != b.num } }
      (ms.map fun m => Out.fabric m kind b.gen 0) = s.barrierClosed b ms kind :=
  State.sendAll_fabric (s := { s with sched := { s.sched with barriers := s.sched.barriers.filter fun x => x.num != b.num } })
    ports ms kind b.gen

/-- R80: the last arrival closes the barrier, and starts every member. -/
theorem State.arriveAt_last {b : Barrier} {member : Nat} {t : Task} (ht : s.task b.num = some t)
    (left : b.missing.filter (· != member) = []) (ports : ∀ m, s.portHeld m = false) :
    s.arriveAt b member =
      (s.barrierClosed b ((maskList t.recd.modmask).filter fun m => m != s.flash.modId.toNat) msgStart).mapTask b.num
        fun t => t.toReady s.now := by
  simp only [State.arriveAt, left, ht, ne_eq, not_true_eq_false, if_false]
  rw [State.sendAll_barrierClosed ports]

section
variable {gen member : Nat} {b : Barrier}
  (hf : s.sched.barriers.find? (fun x => x.gen == gen && x.missing.contains member) = some b)
include hf

theorem execSpanArrival_found : exec (.spanArrival gen member) s = .next (s.arriveAt b member) := by
  show Host.Outcome.next (s.arrive gen member) = _
  simp only [State.arrive, hf]

theorem arrival_last {t : Task} (ht : s.task b.num = some t) (left : b.missing.filter (· != member) = [])
    (ports : ∀ m, s.portHeld m = false) : ∃ u, exec (.spanArrival gen member) s = .next u ∧
      u.sched.barriers = s.sched.barriers.filter (fun x => x.num != b.num) ∧
      u.task b.num = some { t with stage := .ready, readyAt := s.now } ∧
      u.out = s.out ++ ((maskList t.recd.modmask).filter fun y => y != s.flash.modId.toNat).map fun m =>
        Out.fabric m msgStart gen 0 := by
  obtain rfl : b.gen = gen := State.gen_of_find hf
  refine ⟨_, execSpanArrival_found hf, ?_⟩
  rw [State.arriveAt_last ht left ports]
  exact ⟨rfl, State.task_mapTask ht fun _ => rfl, rfl⟩

theorem arrival_early (left : b.missing.filter (· != member) ≠ []) :
    ∃ u, exec (.spanArrival gen member) s = .next u ∧ u.sched.tasks = s.sched.tasks ∧ u.out = s.out ∧
      u.sched.barriers = s.sched.barriers.map fun x =>
        if x.num = b.num then { x with missing := b.missing.filter (· != member) } else x := by
  refine ⟨_, execSpanArrival_found hf, ?_⟩
  rw [State.arriveAt, if_pos left]
  exact ⟨rfl, rfl, rfl⟩

end

theorem start_ready {origin gen : Nat} {t : Task} (hp : s.sched.packets = []) (ht : s.task t.num = some t)
    (ho : t.origin = some origin) (hg : t.recd.gen.toNat = gen) (hst : t.stage = .barrier) :
    ∃ u, exec (.startReceive origin gen) s = .next u ∧
      u.task t.num = some { t with stage := .ready, readyAt := s.now } := by
  refine ⟨_, congrArg Host.Outcome.next (State.retryPackets_none hp), ?_⟩
  show (s.sched.tasks.map fun t =>
    if t.origin = some origin ∧ t.recd.gen.toNat = gen ∧ t.stage = .barrier then t.toReady s.now else t).find? _ = _
  have found : s.sched.tasks.find? (fun x => x.num == t.num) = some t := ht
  rw [find?_map_num (fun t => by split <;> rfl), found]
  simp [ho, hg, hst, Task.toReady]

/-! ### Aborts -/

theorem State.clusterBack_power (s : State) (n : Nat) : ∃ p, s.clusterBack n = { s with power := p } := by
  unfold State.clusterBack
  dsimp only
  split
  · exact ⟨s.power, rfl⟩
  · exact ⟨_, rfl⟩

/-- A task that holds none of its cores frees none; the hub brings their clusters back (R452). -/
theorem State.freeCores_none {t : Task} (h : ∀ c ∈ t.cores, s.holds c t.num = false) :
    ∃ p, s.freeCores t = { s with power := p } := by
  have cores (l : List Nat) (hl : ∀ c ∈ l, s.holds c t.num = false) :
      l.foldl (fun u c => if u.holds c t.num then u.setCore c (u.core c).release else u) s = s := by
    induction l with
    | nil => rfl
    | cons c l ih =>
      obtain ⟨first, rest⟩ := List.forall_mem_cons.1 hl
      rw [List.foldl_cons, first]
      exact ih rest
  have clusters (l : List Nat) (u : State) : ∃ p, l.foldl (fun u n => u.clusterBack n) u = { u with power := p } := by
    induction l generalizing u with
    | nil => exact ⟨u.power, rfl⟩
    | cons n l ih =>
      obtain ⟨p, hp⟩ := u.clusterBack_power n
      obtain ⟨q, hq⟩ := ih { u with power := p }
      exact ⟨q, by rw [List.foldl_cons, hp, hq]⟩
  unfold State.freeCores
  rw [cores t.cores h]
  exact clusters _ s

/-- What is left of a task that holds no core, asks for no record and has no SIGNAL: its end only drops it. -/
theorem State.goEnd_drops {n : Nat} {t : Task} {e : TaskEnd} (ht : s.task n = some t) (he : t.ends = some e)
    (hst : t.stage = .ending) (hh : ∀ c ∈ t.cores, s.holds c t.num = false) (hq : cqEnabled t.recd.cq = false)
    (hsig : t.recd.signal = 0) (hclk : s.sameClk = false) : s.goEnd n = s.dropTask t := by
  have saving : s.saving t = false := by
    simp only [State.saving, List.any_eq_false, Bool.and_eq_true, not_and]
    intro c hc held
    rw [hh c hc] at held
    exact absurd held Bool.false_ne_true
  have copying : s.copying t = false := by
    simp only [State.copying, List.any_eq_false, Bool.and_eq_true, not_and]
    intro c hc held
    rw [hh c hc] at held
    exact absurd held Bool.false_ne_true
  have cores : s.workCores t = [] := by
    refine List.filter_eq_nil_iff.2 fun c hc => ?_
    simp [hh c hc]
  have stopping : s.stopping t = false := by simp [State.stopping, cores]
  have signal : s.signal t.recd.signal = s := by simp [State.signal, hsig]
  simp only [State.goEnd, ht, he, saving, hclk, hst, stopping, State.finishTask, copying, hq, signal, Bool.and_false,
    Bool.or_self, Bool.false_eq_true, if_false, if_true, Bool.not_false]

theorem State.dropTask_none {t : Task} (h : ∀ c ∈ t.cores, s.holds c t.num = false) :
    ∃ p, s.dropTask t =
      { s with power := p, sched := { s.sched with tasks := s.sched.tasks.filter fun x => x.num != t.num } } := by
  obtain ⟨p, free⟩ := State.freeCores_none h
  exact ⟨p, by rw [State.dropTask, free]⟩

/-- A task as the abort of its span leaves it (R81): it ends with KIND 4, and its SIGNAL is not written. -/
def Task.aborted (t : Task) (now code peer : Nat) : Task :=
  { t with ends := some ⟨4, BitVec.ofNat 8 code, BitVec.ofNat 32 peer⟩, endAt := now
           recd := { t.recd with signal := 0 }, stage := .ending }

section
variable {b : Barrier} {t : Task} (ht : s.task b.num = some t) (hh : ∀ c ∈ t.cores, s.holds c t.num = false)
  (hq : cqEnabled t.recd.cq = false) (ports : ∀ m, s.portHeld m = false) (hclk : s.sameClk = false)
include ht hh hq ports hclk

/-- R81: an abort at the origin of a span none of whose cores is held drops the task, once the other members have been told. -/
theorem State.abortSpan_drops {of : Barrier → Bool} {gen : Nat} (code peer : Nat)
    (hf : s.sched.barriers.find? (fun x => x.gen == gen && of x) = some b) :
    s.abortSpan gen code peer of =
      ((s.barrierClosed b ((maskList t.recd.modmask).filter fun m => m != s.flash.modId.toNat && m != peer)
        msgAbort).mapTask t.num fun x => x.aborted s.now code peer).dropTask (t.aborted s.now code peer) := by
  obtain rfl : b.gen = gen := State.gen_of_find hf
  have num := State.num_of_task ht
  generalize closed : s.barrierClosed b ((maskList t.recd.modmask).filter fun m => m != s.flash.modId.toNat && m != peer)
    msgAbort = u
  have task : u.task b.num = some t := by rw [← closed]; exact ht
  have aborts : s.abortSpan b.gen code peer of = (u.mapTask t.num fun x => x.aborted s.now code peer).goEnd t.num := by
    simp only [State.abortSpan, hf, ht, State.sendAll_barrierClosed ports, closed, task]
    rfl
  rw [aborts]
  refine State.goEnd_drops (State.task_mapTask (num ▸ task) fun _ => rfl) rfl rfl ?_ hq rfl ?_
  · rw [← closed]; exact hh
  · rw [← closed]; exact hclk

theorem abort_ends {i : Instr} {of : Barrier → Bool} {gen code peer : Nat}
    (hf : s.sched.barriers.find? (fun x => x.gen == gen && of x) = some b)
    (hi : exec i s = .next (s.abortSpan gen code peer of)) :
    ∃ u, exec i s = .next u ∧ u.task b.num = none ∧ u.hctrs = s.hctrs ∧
      u.sched.barriers = s.sched.barriers.filter (fun x => x.num != b.num) ∧
      u.out = s.out ++ (((maskList t.recd.modmask).filter fun m => m != s.flash.modId.toNat).filter fun m =>
        m != peer).map fun m => Out.fabric m msgAbort gen 0 := by
  refine ⟨_, hi, ?_⟩
  have same : b.gen = gen := State.gen_of_find hf
  have num := State.num_of_task ht
  obtain ⟨p, drops⟩ := State.dropTask_none (t := t.aborted s.now code peer) (s := (s.barrierClosed b
    ((maskList t.recd.modmask).filter fun m => m != s.flash.modId.toNat && m != peer) msgAbort).mapTask t.num fun x =>
      x.aborted s.now code peer) hh
  rw [State.abortSpan_drops ht hh hq ports hclk code peer hf, drops]
  refine ⟨?_, rfl, rfl, ?_⟩
  · refine List.find?_eq_none.2 fun x hx => ?_
    have other : (x.num != t.num) = true := (List.mem_filter.1 hx).2
    simpa [num] using other
  · rw [List.filter_filter, ← same]
    simp only [Bool.and_comm]
    rfl

end

/-! ### A lost origin -/

theorem State.traceMeet_keeps (c kind value : Nat) : (s.traceMeet c kind value).flash = s.flash ∧
    (s.traceMeet c kind value).sched = s.sched ∧ (s.traceMeet c kind value).now = s.now := by
  unfold State.traceMeet
  dsimp only
  split
  · split <;> exact ⟨rfl, rfl, rfl⟩
  · exact ⟨rfl, rfl, rfl⟩

theorem State.logHub_appends (h : s.flash.log.length < 4096) {code : Nat} (listed : codeListed code = true) (detail : Nat) :
    (s.logHub code detail).sched = s.sched ∧
      (s.logHub code detail).flash.log =
        s.flash.log ++ [⟨s.now, BitVec.ofNat 8 code, 0, 0xffff, BitVec.ofNat 64 detail, 0⟩] := by
  obtain ⟨flash, sched, now⟩ := State.traceMeet_keeps (s := s) 0xffff 0 code
  have room : s.flash.log.length < Config.logSize := h
  simp only [State.logHub, State.logEvent, listed, flash, room, now, Bool.not_true, Bool.false_eq_true, if_false, if_true]
  exact ⟨sched, rfl⟩

/-- R81: a member whose link is lost discards its copy, and logs the loss of the origin (log 89). -/
theorem member_discards {origin gen member : Nat} {t : Task} (hp : s.sched.packets = [])
    (ho : origin ≠ s.flash.modId.toNat) (hlog : s.flash.log.length < 4096)
    (hf : s.sched.tasks.find? (fun t => t.copyOf origin gen) = some t) :
    ∃ u, exec (.spanLinkLoss origin gen member) s = .next u ∧
      u.sched.tasks = s.sched.tasks.filter (fun x => x.num != t.num) ∧
      u.flash.log = if member = origin then
          s.flash.log ++ [⟨s.now, 0x8c, 0, 0xffff, BitVec.ofNat 64 (origin * 2 ^ 16 + gen), 0⟩]
        else s.flash.log := by
  let gone : State := { s with sched := { s.sched with tasks := s.sched.tasks.filter fun x => x.num != t.num } }
  obtain ⟨sched, log⟩ := State.logHub_appends (s := gone) hlog (code := 0x8c) (by decide) (origin * 2 ^ 16 + gen)
  have run : exec (.spanLinkLoss origin gen member) s =
      .next (if member = origin then gone.logHub 0x8c (origin * 2 ^ 16 + gen) else gone).retryPackets := by
    show Host.Outcome.next _ = _
    rw [if_neg ho, State.discardCopy, hf]
  refine ⟨_, run, ?_⟩
  by_cases lost : member = origin
  · rw [if_pos lost, if_pos lost, State.retryPackets_none (by rw [sched]; exact hp)]
    exact ⟨by rw [sched], log⟩
  · rw [if_neg lost, if_neg lost, State.retryPackets_none (s := gone) hp]
    exact ⟨rfl, rfl⟩

end

theorem spanEvents : Claims.SpanEvents := by
  intro s s1 origin gen member code v cores ranges b t noPackets noRecord r others left mine checks closed
  refine ⟨fun shut room => ⟨packet_accepted noPackets noRecord shut room, packet_refused noPackets noRecord shut room⟩,
    fun found task => ⟨fun last ports => arrival_last found task last ports, fun early => arrival_early found early⟩,
    fun task from_ same stage => start_ready noPackets task from_ same stage, fun task unheld noRecord ports clk i => ?_,
    fun away room copy => member_discards noPackets away room copy⟩
  rintro (⟨rfl, found⟩ | ⟨rfl, found⟩)
  · exact abort_ends task unheld noRecord ports clk found rfl
  · exact abort_ends task unheld noRecord ports clk found (congrArg Host.Outcome.next (if_pos rfl))

/-! ### Effective priority -/

section
variable {s : State} {t : Task}

theorem Task.effAt_aged (hl : t.latestStart = none) (now a : Nat) :
    t.effAt now a = max t.base (min 6 (t.base + (now - t.readyAt) / (a * 1000000))) := by
  simp only [Task.effAt, hl]
  generalize (now - t.readyAt) / (a * 1000000) = d
  split <;> omega

theorem Task.effAt_late {l : Nat} (hl : t.latestStart = some l) (a : Nat) {now : Nat} (h : l ≤ now) :
    t.effAt now a = max (max t.base (min 6 (t.base + (now - t.readyAt) / (a * 1000000)))) 6 := by
  simp only [Task.effAt, hl, if_pos h]
  generalize (now - t.readyAt) / (a * 1000000) = d
  split <;> omega

/-- The task with the effective priority that it has now. -/
def State.aged (s : State) (t : Task) : Task := { t with eff := t.effAt s.now s.fen.shares.ageLimit }

theorem State.task_refreshEff (ht : s.task t.num = some t) (hw : t.waits = true) :
    (s.refreshEff t.num).task t.num = some (s.aged t) := by
  rw [State.refreshEff, State.task_mapTask ht fun t => by split <;> rfl, if_pos hw]
  rfl

/-! ### The start of a task -/

/-- Cores are changed in turn, each from what it is by then; changes that leave its banks leave those of every core. -/
theorem banks_foldl {f : Core → Core} (hf : ∀ k, (f k).banks = k.banks) (l : List Nat) (s : State) (c : Nat) :
    ((l.foldl (fun u c => u.setCore c (f (u.core c))) s).core c).banks = (s.core c).banks := by
  induction l generalizing s with
  | nil => rfl
  | cons d l ih =>
    rw [List.foldl_cons, ih]
    by_cases h : c = d
    · rw [h, State.core_setCore, hf]
    · rw [State.core_setCore_of_ne _ _ h]

theorem core_foldl {f : Core → Core} (hf : ∀ k, (f k).banks = k.banks) (l : List Nat) (s : State) {c : Nat} (hc : c ∈ l) :
    ∃ k, (l.foldl (fun u c => u.setCore c (f (u.core c))) s).core c = f k ∧ k.banks = (s.core c).banks := by
  induction l using List.reverseRecOn with
  | nil => exact absurd hc List.not_mem_nil
  | append_singleton l d ih =>
    rw [List.foldl_append, List.foldl_cons, List.foldl_nil]
    by_cases h : c = d
    · rw [h, State.core_setCore]
      exact ⟨_, rfl, banks_foldl hf l s d⟩
    · rw [State.core_setCore_of_ne _ _ h]
      exact ih (by simpa [h] using hc)

theorem Tab.find_map_keys {α : Type} (f : Nat → α) {l : List Nat} {b : Nat} (hb : b ∈ l) :
    Tab.find (l.map fun b => (b, f b)) b = some (f b) := by
  induction l with
  | nil => exact absurd hb List.not_mem_nil
  | cons a l ih =>
    rw [List.map_cons, Tab.find]
    by_cases h : a = b
    · rw [if_pos h, h]
    · rw [if_neg h]
      exact ih ((List.mem_cons.1 hb).resolve_left (Ne.symm h))

/-- R31, R224: a hart at task start is as at reset, but for its NaN trap. -/
theorem startHarts_get (nanTrap : Bool) {b : Nat} (hb : b < 32) :
    (startHarts nanTrap).get b (Hart.init b) = if nanTrap then { Hart.init b with rmode := 0x10 } else Hart.init b := by
  cases nanTrap with
  | false => rfl
  | true => simp [startHarts, Tab.get, Tab.find_map_keys _ (List.mem_range.2 hb)]

/-- R34, R94: what a core has on which `t` starts. -/
structure Core.Started (k : Core) (t : Task) : Prop where
  task : k.task = some t.num
  st : k.st = .running
  asid : k.asid = t.recd.asid.setWidth 12
  ct : ∃ x : Ct, k.ct = x.start t.recd
  hart : ∀ b, b < 32 → (k.hart b).st = .free ∧ (k.hart b).seed = BitVec.ofNat 32 (b + 1) ∧ (k.hart b).g = []

theorem Core.start_started (k : Core) (t : Task) : (k.start t).Started t where
  task := rfl
  st := rfl
  asid := rfl
  ct := ⟨k.ct, rfl⟩
  hart b hb := by
    have hart : (k.start t).hart b = if t.recd.nanTrap then { Hart.init b with rmode := 0x10 } else Hart.init b :=
      startHarts_get t.recd.nanTrap hb
    rw [hart]
    split <;> exact ⟨rfl, rfl, rfl⟩

theorem State.startTask_core (hst : t.stage = .ready) (s : State) {c : Nat} (hc : c ∈ t.cores) :
    ((s.startTask t).core c).Started t ∧ ((s.startTask t).core c).banks = (s.core c).banks := by
  have cores : (s.startTask t).core c = (t.cores.foldl (fun u c => u.setCore c ((u.core c).start t)) s).core c := by
    have fresh : t.stage ≠ .preempted := by rw [hst]; decide
    simp only [State.startTask, if_neg fresh]
    rfl
  obtain ⟨k, core, banks⟩ := core_foldl (f := (·.start t)) (fun _ => rfl) t.cores s hc
  rw [cores, core]
  exact ⟨k.start_started t, banks⟩

theorem State.sched_foldl_setCore (f : Core → Core) (l : List Nat) (s : State) :
    (l.foldl (fun u c => u.setCore c (f (u.core c))) s).sched = s.sched := by
  induction l generalizing s with
  | nil => rfl
  | cons d l ih => rw [List.foldl_cons, ih]; rfl

theorem State.startTask_task (hst : t.stage = .ready) {x : Task} (hx : s.task t.num = some x) :
    (s.startTask t).task t.num = some { x with stage := .running, runFrom := some s.now } := by
  have fresh : t.stage ≠ .preempted := by rw [hst]; decide
  have tasks : (s.startTask t).task t.num =
      ((t.cores.foldl (fun u c => u.setCore c ((u.core c).start t)) s).mapTask t.num fun x =>
        { x with stage := .running, runFrom := some s.now }).task t.num := by
    simp only [State.startTask, if_neg fresh]
    rfl
  rw [tasks]
  refine State.task_mapTask ?_ fun _ => rfl
  rw [State.task, State.sched_foldl_setCore fun k => k.start t]
  exact hx

/-- R93, R94: the decision where one task waits on free cores starts it, with the effective priority that it then has. -/
theorem State.decide_starts (hrec : s.bar.recovery = false) (hone : s.sched.tasks = [t]) (hst : t.stage = .ready)
    (he : t.ends = none) (hfree : ∀ c ∈ t.cores, s.coreFree c = true) :
    s.decide_ = (s.refreshEff t.num).startTask (s.aged t) := by
  have waits : t.waits = true := by simp [Task.waits, hst, he]
  have tasks : (s.refreshEff t.num).sched.tasks = [s.aged t] := by
    simp [State.refreshEff, State.mapTask, hone, waits, State.aged]
  have ranked : (s.refreshEff t.num).ranked = [s.aged t] := by
    rw [State.ranked, tasks]
    have kept : [s.aged t].filter Task.waits = [s.aged t] := List.filter_cons_of_pos (p := Task.waits) waits
    rw [kept]
    rfl
  have free : ((s.aged t).cores.all fun c => (s.refreshEff t.num).coreFree c && !([] : List Nat).contains c) = true :=
    List.all_eq_true.2 fun c hc => by rw [List.contains_nil, Bool.not_false, Bool.and_true]; exact hfree c hc
  simp only [State.decide_, hrec, Bool.false_eq_true, if_false, hone, List.foldl_cons, List.foldl_nil, ranked]
  simp only [State.walk, free, if_true]

/-! ### Pre-emption -/

theorem State.core_preempted (s : State) (n c : Nat) : (s.preempted n).core c = s.core c := by
  unfold State.preempted
  split
  · split <;> rfl
  · rfl

theorem State.core_ask (s : State) (c req d : Nat) : (s.ask c req).core d =
    (s.setCt c { s.ct c with req := if (s.ct c).req = 1 then 1 else BitVec.ofNat 2 req }).core d := by
  unfold State.ask
  dsimp only
  split <;> rfl

theorem State.ask_runs (s : State) (c req d : Nat) :
    ((s.ask c req).core d).task = (s.core d).task ∧ ((s.ask c req).core d).st = (s.core d).st := by
  rw [State.core_ask]
  by_cases h : d = c
  · rw [h, State.core_setCt]; exact ⟨rfl, rfl⟩
  · rw [State.core_setCt_of_ne _ _ h]; exact ⟨rfl, rfl⟩

theorem State.req_ask_self (s : State) (c : Nat) : ((s.ask c 1).ct c).req = 1 := by
  rw [State.ct, State.core_ask, State.core_setCt]
  exact ite_id _

theorem State.req_ask (s : State) (c : Nat) {d : Nat} (h : (s.ct d).req = 1) : ((s.ask c 1).ct d).req = 1 := by
  by_cases n : d = c
  · rw [n]; exact s.req_ask_self c
  · rw [State.ct, State.core_ask, State.core_setCt_of_ne _ _ n]; exact h

theorem req_foldl_ask (l : List Nat) (s : State) {c : Nat} (hc : c ∈ l) :
    ((l.foldl (fun u c => u.ask c 1) s).ct c).req = 1 := by
  induction l using List.reverseRecOn with
  | nil => exact absurd hc List.not_mem_nil
  | append_singleton l d ih =>
    rw [List.foldl_append, List.foldl_cons, List.foldl_nil]
    by_cases h : c = d
    · rw [h]; exact State.req_ask_self ..
    · exact State.req_ask _ _ (ih (by simpa [h] using hc))

/-- What a pre-emption does of one core of task `n`. -/
def State.preemptCore (n : Nat) (u : State) (c : Nat) : State :=
  if !u.holds c n then u
  else if (u.core c).st = .running ∨ (u.core c).st = .saving ∨ (u.core c).st = .loading then u.ask c 1
  else u.setCore c (u.core c).release

theorem preemptCore_foldl {n : Nat} (l : List Nat) (s : State)
    (h : ∀ c ∈ l, s.holds c n = true ∧ (s.core c).st = .running) :
    l.foldl (State.preemptCore n) s = l.foldl (fun u c => u.ask c 1) s := by
  induction l generalizing s with
  | nil => rfl
  | cons c l ih =>
    obtain ⟨⟨holds, runs⟩, rest⟩ := List.forall_mem_cons.1 h
    have first : s.preemptCore n c = s.ask c 1 := by
      simp [State.preemptCore, holds, runs]
    rw [List.foldl_cons, List.foldl_cons, first]
    refine ih _ fun d hd => ?_
    obtain ⟨task, st⟩ := s.ask_runs c 1 d
    rw [State.holds, task, st]
    exact rest d hd

theorem preemption_asks (h : ∀ c ∈ t.cores, s.holds c t.num = true ∧ (s.core c).st = .running) :
    ∀ c ∈ t.cores, ((s.preemptTask t).ct c).req = 1 := by
  intro c hc
  have core : (s.preemptTask t).core c = (t.cores.foldl (State.preemptCore t.num) s).core c := State.core_preempted ..
  rw [State.ct, core, preemptCore_foldl _ _ h]
  exact req_foldl_ask _ _ hc

end

theorem schedulerEvents : Claims.SchedulerEvents := by
  intro s t aged
  refine ⟨fun task waits limit => ⟨_, rfl, ?_, rfl⟩, fun l task waits limit late => ⟨_, rfl, ?_, rfl⟩,
    fun run one ready ends free => ?_, fun recovery => congrArg Host.Outcome.next (if_pos recovery), preemption_asks⟩
  · rw [State.task_refreshEff task waits, State.aged, Task.effAt_aged limit]
  · rw [State.task_refreshEff task waits, State.aged, Task.effAt_late limit _ late]
  · have task : s.task t.num = some t := by simp [State.task, one]
    have waits : t.waits = true := by simp [Task.waits, ready, ends]
    refine ⟨_, _, congrArg Host.Outcome.next (State.decide_starts run one ready ends free),
      State.startTask_task ready (State.task_refreshEff task waits), rfl, rfl, fun c hc => ?_⟩
    obtain ⟨started, banks⟩ := State.startTask_core
      (t := s.aged t) ready (s.refreshEff t.num) hc
    obtain ⟨x, ct⟩ := started.ct
    refine ⟨started.task, started.st, started.asid, ?_⟩
    rw [State.ct, ct]
    exact ⟨rfl, rfl, rfl, rfl, rfl, rfl, rfl, rfl, started.hart, fun b => congrArg (Tab.get (α := Bank) · b {}) banks⟩

/-- Settles O48: each event is followed through its one path where no port, packet or clock stands in the way. -/
theorem spansAndScheduler : Obligations.SpansAndScheduler := ⟨spanEvents, schedulerEvents⟩

end Sys2Proof.Machine
end

section
/-! # A fetch that no request is free for (O57)

The control thread fetches a line through a request of its core's gather unit (R26), and waits while none is free. -/

namespace Sys2Proof.Machine

/-- The control thread of core 0 stands at a WFI, while a gather of hart 0 holds all 1024 requests of the core. No
firmware is listed, so that the whole state computes (log 13). -/
def requestsTaken : State :=
  let s := ({ flash := { firmware := [] } } : State).placeCt 0x10500073
  s.setHart 0 0 { s.hart 0 0 with pend := some (.gather [] { word := 0, asks := 1024 }) }

/-- The same with the agenda taken and the line of the WFI in the MSC, as a read of the line leaves it. -/
def requestsTakenRead : State := { requestsTaken with agenda := [], msc := [(0x400, none)] }

/-- The leaf that maps the first 1 GiB. -/
def placedLeaf : Loc := ⟨0, 0x10000, 2 ^ 30, 0x17f⟩

/-- The pc of core 0's control thread after a step or an instruction. -/
def pcAfter : Res → Option Word
  | .next t => some (t.ct 0).pc
  | _ => none

theorem requestsTaken_maps :
    requestsTaken.translateOn 0 (requestsTaken.mach 0) (requestsTaken.ct 0).pc.toNat .fetch false false = .ok placedLeaf := by
  decide +kernel

theorem requestsTaken_reads :
    ({ requestsTaken with agenda := [], actCore := 0 } : State).readHere (.ct 0) (requestsTaken.ct 0).pc.toNat
      (linePa (lineOf placedLeaf.pa)) 64 = .done requestsTakenRead 0x10500073 none := by
  decide +kernel

theorem requestsTaken_waits : pcAfter (step requestsTaken) = some 0x10000 := by decide +kernel

/-- Refutes O57: its clause on a control thread's fetch from memory does not ask for a free request, without which the thread waits
(R26). -/
theorem not_stepRunsDecoded : ¬ Obligations.StepRunsDecoded := by
  intro runs
  obtain ⟨-, -, -, ct, -⟩ := runs requestsTaken requestsTakenRead [] 0 0 0 0x10500073 0x10500073 0 true .ctWfi placedLeaf []
    ⟨[], 0, 0, 0, [], [], false, 0⟩ (.barRead 0 0)
  obtain ⟨word, -⟩ := (ct rfl rfl (.inl rfl) requestsTaken_maps).2 rfl requestsTaken_reads (by decide)
  have goesOn := word { placedLeaf with pa := 0x10002 } (by decide) (by decide) (by decide +kernel) (by decide +kernel)
  have moves : pcAfter (step requestsTaken) = some 0x10004 := by
    rw [goesOn]
    decide +kernel
  rw [requestsTaken_waits] at moves
  exact absurd moves (by decide)

end Sys2Proof.Machine
end

section
/-! # Rows opened, and the checks on the address of a row (O9)

An ACT or SLD of a row that no other module holds runs on a ready hart from its sensing to its end, and the books that it
keeps beside its latch are those of `SameWork`. A walk is three table entries, and the checks of a row follow the walk. -/

namespace Sys2Proof.Machine

/-! ### Sensing a row -/

section
variable {s t : State} {c b k pa : Nat}

/-- The latch OPEN and clean on a row, with its bytes and the conditions of its lines. -/
def State.sensed (s : State) (c b k pa : Nat) : VReg :=
  { s.reg c b k with bits := s.mem.slice pa 8192, latch := .opened, row := some pa, dirty := false, arrival := 0xffffffff
                     conds := s.rowConds pa }

/-- A latch as its sensing begins. -/
def VReg.opening (x : VReg) (pa : Nat) : VReg := { x with latch := .opening, row := some pa }

/-- What sensing a row reads besides the latch. -/
structure SameRows (s t : State) : Prop where
  mem : t.mem = s.mem
  side : t.side = s.side

theorem State.sensed_opening (h : SameRows s t) (hx : t.reg c b k = (s.reg c b k).opening pa) :
    t.sensed c b k pa = s.sensed c b k pa := by
  simp [State.sensed, State.rowConds, hx, VReg.opening, h.mem, h.side]

/-- What capturing a row's lines scores stands in Fen's tables alone. -/
theorem sameWork_captureEffects (s : State) : SameWork c b s (s.captureEffects c b k pa) :=
  sameWork_foldl (fun t e => by dsimp only; split <;> split <;> exact sameWork_of_cores c b rfl rfl) _ _

theorem sameWork_senseRow (s : State) : SameWork c b (s.setReg c b k (s.sensed c b k pa)) (s.senseRow c b k pa) :=
  sameWork_captureEffects _

/-- The end of the sensing, with nothing between its steps. -/
def State.rowSensed (s : State) (c b k pa : Nat) (adv : Option Nat) : State :=
  ((s.senseDone c b k pa adv).setSagBusy c b k false).setPend c b none

theorem Op.settle_sense {o : Op} (ho : o.poll = rowPoll) {adv : Option Nat}
    (hp : (s.hart c b).pend = some (.sense k pa adv)) :
    o.settle true c b pollFuel s = .ok (s.rowSensed c b k pa adv) .next := by
  have done : (((s.senseDone c b k pa adv).setSagBusy c b k false).hart c b).pend = some .done := by
    simp [State.senseDone, State.setPend, State.setSagBusy]
  simp only [pollFuel, Op.settle, hp, Op.pollOne, ho, rowPoll, Bool.not_true, Bool.false_eq_true, if_false, HRes.walks,
    done, State.rowSensed]

theorem State.rowSensed_mem (s : State) (adv : Option Nat) : (s.rowSensed c b k pa adv).mem = s.mem := by
  simp [State.rowSensed, State.senseDone]

theorem sameWork_rowSensed (s : State) (adv : Option Nat) :
    SameWork c b ((s.setReg c b k (s.sensed c b k pa)).setHart c b ((s.hart c b).rowEnd adv)) (s.rowSensed c b k pa adv) := by
  have sense := sameWork_senseRow (c := c) (b := b) (k := k) (pa := pa) s
  have sensed : s.rowSensed c b k pa adv =
      ((s.senseRow c b k pa).setSagBusy c b k false).setHart c b ((s.hart c b).rowEnd adv) := by
    simp [State.rowSensed, State.senseDone, State.advanceHandle, State.setPend, State.setSagBusy_setHart, Hart.rowEnd,
      sense.hart]
  rw [sensed]
  exact (sense.trans (sameWork_setSagBusy _ c b k false)).setHart _

/-! ### A row word on a ready hart -/

/-- What an ACT or SLD waits for, met: the latch may be opened, and no other module or access holds the row. -/
structure RowClear (s : State) (c b k pa : Nat) : Prop where
  ready : s.actReady c b k = true
  unheld : s.held c b (.here pa) 8192 false = false
  entry : s.tableFull c 1 = false
  unowned : pa ∉ s.rown

/-- The state once the sensing has begun. -/
def State.rowSensing (s : State) (c b k pa : Nat) (adv : Option Nat) : State :=
  (((s.writeBackRow pa).setReg c b k ((s.reg c b k).opening pa)).useSag c b k).setPend c b (some (.sense k pa adv))

theorem RowClear.startAct (h : RowClear s c b k pa) (va : Nat) (adv : Option Nat) :
    s.startAct c b k va pa adv = .work (s.rowSensing c b k pa adv) := by
  have unasked : s.recallRow c b k va pa = .inr s := by simp [State.recallRow, h.unowned]
  have idle : s.sagIdle c b k = true := by
    have ready := h.ready
    simp only [State.actReady, Bool.and_eq_true] at ready
    exact ready.1.2
  simp only [State.startAct, h.ready, h.unheld, h.entry, unasked, idle]
  rfl

theorem sameWork_rowSensing (s : State) (adv : Option Nat) (n : Note) :
    SameWork c b ((s.setReg c b k ((s.reg c b k).opening pa)).setHart c b { s.hart c b with
        pend := some (.sense k pa adv), note := n, latchOwned := false })
      ((s.rowSensing c b k pa adv).marked c b n) := by
  have back : SameWork c b s (s.writeBackRow pa) := sameWork_of_cores c b rfl rfl
  have used := (back.setReg k ((s.reg c b k).opening pa)).trans (sameWork_useSag _ c b k)
  have marked := used.setHart { s.hart c b with pend := some (.sense k pa adv), note := n, latchOwned := false }
  convert marked using 1
  simp [State.rowSensing, State.marked, State.setPend, used.hart]

theorem sameRows_rowSensing (s : State) (adv : Option Nat) (n : Note) :
    SameRows s ((s.rowSensing c b k pa adv).marked c b n) := by
  have used (t : State) : (t.useSag c b k).side = t.side := by
    unfold State.useSag State.unitUsed
    dsimp only
    split <;> rfl
  exact ⟨by simp [State.rowSensing, State.marked, State.setPend, State.setReg, State.writeBackRow_mem],
    by rw [State.rowSensing, State.marked, State.setPend, State.setHart_side, State.setHart_side, used]; rfl⟩

/-- What O9 says of a word that has opened a row. -/
structure RowOpened (s : State) (c b k pa : Nat) (g : Hart) (t : State) : Prop where
  latch : t.reg c b k = s.sensed c b k pa
  regs : ∀ r, r ≠ k → t.reg c b r = s.reg c b r
  masks : (t.bank c b).masks = (s.bank c b).masks
  others : ∀ d e, ¬(d = c ∧ e = b) → t.bank d e = s.bank d e ∧ t.hart d e = s.hart d e
  hart : t.hart c b = g.clean.advance .next
  mem : t.mem = s.mem

/-- A row word whose sensing starts on a ready hart opens its row, and retires. -/
theorem Op.exec_rowOpened {o : Op} {adv : Option Nat} (h : Ready s c b o.p) (hl : o.lock = false) (ho : o.poll = rowPoll)
    (hr : o.rep = none) (ha : o.act s s c b = .work (s.rowSensing c b k pa adv)) :
    ∃ t, o.exec s = .next t ∧ RowOpened s c b k pa ((s.hart c b).advanceHandle adv) t := by
  have begun := sameWork_rowSensing (c := c) (b := b) (k := k) (pa := pa) s adv (o.note s c b)
  have rows := sameRows_rowSensing (c := c) (b := b) (k := k) (pa := pa) s adv (o.note s c b)
  set m := (s.rowSensing c b k pa adv).marked c b (o.note s c b)
  have hart : m.hart c b = { s.hart c b with
      pend := some (.sense k pa adv), note := o.note s c b, latchOwned := false } := by
    rw [begun.hart, State.hart_setHart]
  have reg : m.reg c b k = (s.reg c b k).opening pa := by
    rw [begun.reg, State.reg_setHart, State.reg_setReg]
  have sensed := ((begun.setReg k (s.sensed c b k pa)).setHart ((m.hart c b).rowEnd adv)).trans
    (State.sensed_opening rows reg ▸ sameWork_rowSensed m adv)
  rw [State.setHart_setReg, State.setReg_setReg, State.setHart_setHart] at sensed
  have whole : (s.rowSensing c b k pa adv).stepwise = false := begun.stepwise.trans h.whole
  have run : o.run s s c b = .ok (m.rowSensed c b k pa adv) .next := by
    rw [Op.run_ready o h, ha]
    simp only [HRes.walks, whole, Bool.false_eq_true, if_false]
    exact Op.settle_sense ho (by show (m.hart c b).pend = _; rw [hart])
  have retires : (m.rowSensed c b k pa adv).retire c b o.word (s.acts c b o) .next =
      (m.rowSensed c b k pa adv).retired c b .next := by
    refine State.retire_quiet b _ _ ?_ ?_ ?_ ?_
    · rw [sensed.trace]; simpa [State.setReg] using h.noTrace
    · rw [sensed.ring]; simpa using h.noRing
    · rw [sensed.hart, State.hart_setHart, hart, (Hart.rowEnd_stands ..).1]
      exact h.alone
    · rw [sensed.hart, State.hart_setHart, hart]
      refine Hart.near_of_inside _ (fun _ e => by cases e) ?_
      rw [(Hart.rowEnd_stands ..).2]
      exact h.inside
  have moved := sensed.setHart (((s.hart c b).advanceHandle adv).clean.advance .next)
  rw [State.setHart_setHart] at moved
  have last : (m.rowSensed c b k pa adv).retired c b .next =
      (m.rowSensed c b k pa adv).setHart c b (((s.hart c b).advanceHandle adv).clean.advance .next) := by
    rw [State.retired, sensed.hart, State.hart_setHart, hart, Hart.rowEnd_clean]
  rw [← last] at moved
  refine ⟨(m.rowSensed c b k pa adv).retired c b .next, ?_, ?_, fun r n => ?_, ?_, fun d e n => ⟨?_, ?_⟩, ?_, ?_⟩
  · rw [Op.exec_split o h.gang, h.core, h.bank]
    simp [Op.execSplit, hl, run, Op.goes, hr, retires]
  · rw [moved.reg, State.reg_setHart, State.reg_setReg]
  · rw [moved.reg, State.reg_setHart, State.reg_setReg_of_ne _ _ _ _ n]
  · rw [moved.masks]; simp [State.setReg]
  · rw [moved.banks d e n, State.bank_setHart, State.setReg, State.bank_setBank_of_ne _ _ n]
  · rw [moved.hart, State.hart_setHart_of_ne _ _ n, State.hart_setReg]
  · rw [moved.hart, State.hart_setHart]
  · rw [State.retired, State.setHart_mem, State.rowSensed_mem, rows.mem]

/-- The row of a handle that names one by itself, which passes the checks. -/
theorem State.strip_passes {k : HK} {writes : Bool} (hg : k.g = false) (hcount : ((s.hart c b).handle k.n.toNat).count ≠ 0)
    (hrow : s.derivedRow c b k.k.toNat ((s.hart c b).handle k.n.toNat).base.toNat ((s.hart c b).handle k.n.toNat).row
      writes = .ok pa) (f : Nat → HRes) (word : Nat) : s.strip c b k word writes f = f pa := by
  have va : s.stripVa c b k = ((s.hart c b).handle k.n.toNat).row := by simp [State.stripVa, hg]
  unfold State.strip
  rw [if_neg hcount]
  simp [hg, va, hrow]

theorem State.rowVa_alone {o : RW} (hg : o.g = false) : s.rowVa c b o = ((s.hart c b).greg o.a.toNat).toNat := by
  simp [State.rowVa, State.greg, hg]

end

theorem rowWords_open : Claims.RowsOpened := by
  intro o k s c b pa n h x free opens
  have clear (v : Nat) (hf : free v) : RowClear s c b v pa := by
    obtain ⟨ready, unheld, entry, unowned⟩ := hf
    exact ⟨ready, unheld, entry, unowned⟩
  have opened {i : Instr} {v : Nat} {g : Hart} (hw : ∃ t, exec i s = .next t ∧ RowOpened s c b v pa g t) :
      opens i v g := by
    obtain ⟨t, run, done⟩ := hw
    exact ⟨t, run, done.latch, done.regs, done.masks, done.others, done.hart, done.mem⟩
  refine ⟨fun ready hg hrow hf => opened ?_, fun ready hg hcount hrow hf => opened ?_⟩
  · show ∃ t, execAct o s = .next t ∧ _
    unfold execAct
    refine Op.exec_rowOpened (adv := none) ready hg rfl rfl ?_
    have row : s.rowAt c b o.k.toNat (s.rowVa c b o) false = .ok (n, pa) := by rw [State.rowVa_alone hg]; exact hrow
    simp only [row, (clear _ hf).startAct]
  · show ∃ t, execSld k s = .next t ∧ _
    unfold execSld
    refine Op.exec_rowOpened (adv := some k.n.toNat) ready hg rfl rfl ?_
    exact (State.strip_passes hg hcount hrow _ _).trans ((clear _ hf).startAct _ _)

/-! ### The walk (R43, R44, R46, R47) -/

section
variable (s : State) (mach : Bool) (va : Nat) (k : Kind) (reads writes : Bool)

/-- The checks on a leaf at a level, in the order of R47. -/
def State.leafChecks (e level : Nat) : Except Cause Loc :=
  let size := if level = 2 then 2 ^ 30 else 2 ^ 21
  if (reads ∧ bit e 2 = false) ∨ (writes ∧ bit e 3 = false) ∨ (k = .fetch ∧ bit e 4 = false) ∨ (bit e 8 = false ∧ mach = false) then
    .error (0x23, detail48 va k level writes)
  else if k = .row ∧ (bit e 5 = false ∨ bit e 6 = false) then
    .error (0x21, detail48 va k level writes + (if bit e 5 then 0 else 2 ^ 53) + if bit e 6 then 0 else 2 ^ 54)
  else if fld e 58 6 ≠ s.flash.modId.toNat ∧ (bit e 7 = false ∨ k ≠ .col) then .error (0x26, detail48 va k level writes)
  else .ok ⟨fld e 58 6, fld e 12 28 * 4096 + va % size, size, e⟩

/-- The entry of a table at a level: away, absent, malformed, a leaf, or the address of the next table. -/
def State.tableEntry (level table : Nat) (further : Nat → Except Cause Loc) : Except Cause Loc :=
  let a := table + 8 * (va / 2 ^ (48 - 9 * level) % 512)
  match s.tableBytes a 8 with
  | none => .error (walkWait, walkDetail a va)
  | some e =>
    if bit e 0 = false then .error (0x20, detail48 va k level writes)
    else if malformed e level = true then .error (0x27, detail48 va k level writes)
    else if bit e 1 then s.leafChecks mach va k reads writes e level
    else further (fld e 12 28 * 4096)

theorem State.leafLoc_eq (e level : Nat) :
    s.leafLoc mach va k reads writes e level = s.leafChecks mach va k reads writes e level := by
  have notComp : bnat (!bit e 5) * 2 ^ 53 = if bit e 5 then 0 else 2 ^ 53 := by cases bit e 5 <;> rfl
  have notPinned : bnat (!bit e 6) * 2 ^ 54 = if bit e 6 then 0 else 2 ^ 54 := by cases bit e 6 <;> rfl
  simp only [State.leafLoc, State.leafChecks, notComp, notPinned, Bool.or_eq_true, Bool.and_eq_true, Bool.not_eq_true',
    decide_eq_true_eq, or_assoc]

/-- What the end of a walk gives: a cause with its detail, or the leaf to check. -/
def State.ofWalk : Except (Nat × Nat) (Nat × Nat) → Except Cause Loc
  | .error (c, x) => .error (c, if c = walkWait then walkDetail x va else detail48 va k x writes)
  | .ok (e, level) => s.leafLoc mach va k reads writes e level

/-- A walk of one table more reads that table's entry first. -/
theorem State.ofWalk_walk (n table level : Nat) :
    s.ofWalk mach va k reads writes (Sys2Proof.Machine.walk (fun a => s.tableBytes a 8) va (n + 1) table level) =
      s.tableEntry mach va k reads writes level table fun t =>
        s.ofWalk mach va k reads writes (Sys2Proof.Machine.walk (fun a => s.tableBytes a 8) va n t (level + 1)) := by
  have index : vaIndex va level = va / 2 ^ (48 - 9 * level) % 512 := rfl
  rw [Sys2Proof.Machine.walk, index, State.tableEntry]
  cases s.tableBytes (table + 8 * (va / 2 ^ (48 - 9 * level) % 512)) 8 with
  | none => rfl
  | some e =>
    dsimp only
    rw [← State.leafLoc_eq]
    cases bit e 0
    · rfl
    cases malformed e level
    · cases bit e 1 <;> rfl
    · rfl

/-- A translation reads the space's entry, and then walks from its root. -/
theorem State.translate_eq (asid : Nat) :
    s.translate asid mach va k reads writes =
      if k = .row ∧ va % 8192 ≠ 0 then .error (0x29, detail48 va k 0 writes)
      else match s.tableBytes (s.spaceAddr asid) 16 with
        | none => .error (walkWait, walkDetail (s.spaceAddr asid) va)
        | some e =>
          if bit e 0 = false ∨ fld e 64 64 ≠ 0 ∨ fld e 40 24 ≠ 0 ∨ fld e 1 11 ≠ 0 then .error (0x28, detail48 va k 0 writes)
          else if 2 ^ 48 ≤ va then .error (0x20, detail48 va k 0 writes)
          else s.ofWalk mach va k reads writes
            (Sys2Proof.Machine.walk (fun a => s.tableBytes a 8) va Config.levels (fld e 12 28 * 4096) 1) := by
  unfold State.translate State.spaceRoot
  have above : va / 2 ^ 48 ≠ 0 ↔ 2 ^ 48 ≤ va := by omega
  cases s.tableBytes (s.spaceAddr asid) 16 with
  | none => rfl
  | some e =>
    have valid : (bit e 0 && fld e 64 64 == 0 && fld e 40 24 == 0 && fld e 1 11 == 0) = true ↔
        ¬(bit e 0 = false ∨ fld e 64 64 ≠ 0 ∨ fld e 40 24 ≠ 0 ∨ fld e 1 11 ≠ 0) := by
      simp [not_or, and_assoc]
    by_cases bad : bit e 0 = false ∨ fld e 64 64 ≠ 0 ∨ fld e 40 24 ≠ 0 ∨ fld e 1 11 ≠ 0
    · simp only [if_pos bad, if_neg (mt valid.1 (not_not.2 bad))]
      rfl
    · simp only [if_neg bad, if_pos (valid.2 bad), above]
      rfl

/-- An entry of the last level that is no leaf is malformed (R46), so that none leads on. -/
theorem State.tableEntry_last (table : Nat) (f g : Nat → Except Cause Loc) :
    s.tableEntry mach va k reads writes 3 table f = s.tableEntry mach va k reads writes 3 table g := by
  unfold State.tableEntry
  dsimp only
  cases s.tableBytes (table + 8 * (va / 2 ^ (48 - 9 * 3) % 512)) 8 with
  | none => rfl
  | some e =>
    cases leaf : bit e 1
    · have bad : malformed e 3 = true := by simp [malformed, leaf]
      simp only [if_pos bad]
    · simp only [if_pos leaf]

/-- A walk goes over three tables. -/
theorem State.ofWalk_levels (root : Nat) :
    s.ofWalk mach va k reads writes (Sys2Proof.Machine.walk (fun a => s.tableBytes a 8) va Config.levels root 1) =
      s.tableEntry mach va k reads writes 1 root fun t1 => s.tableEntry mach va k reads writes 2 t1 fun t2 =>
        s.tableEntry mach va k reads writes 3 t2 fun _ => .error (0x27, detail48 va k 3 writes) := by
  simp only [Config.levels, State.ofWalk_walk]
  exact congrArg _ (funext fun t1 => congrArg _ (funext fun t2 => State.tableEntry_last ..))

end

theorem translateOrder : Claims.TranslateOrder := by
  intro s asid va mach k reads writes
  rw [State.translate_eq]
  simp only [State.ofWalk_levels]
  rfl

/-! ### The checks of a row (R48, R51, R52) -/

/-- The checks of the row at the VA that an instruction of a bank names. -/
theorem State.rowAt_eq (s : State) (c b k va : Nat) (writes : Bool) :
    s.rowAt c b k va writes = match s.translateOn c false va .row (!writes) writes with
      | .error e => .error e
      | .ok l =>
        if l.pa / 2 ^ 30 % 1024 ≠ c then .error (0x25, va % 2 ^ 48 + bnat writes * 2 ^ 52)
        else if l.pa / 2 ^ 13 % 32 ≠ b then .error (0x24, va % 2 ^ 48 + bnat writes * 2 ^ 52)
        else if l.pa / 2 ^ 27 % 8 ≠ k then .error (0x2a, va % 2 ^ 48 + bnat writes * 2 ^ 52)
        else .ok (l.size, l.pa) := by
  have core (pa : Nat) : paCore pa = pa / 2 ^ 30 % 1024 := rfl
  have bank (pa : Nat) : paBank pa = pa / 2 ^ 13 % 32 := rfl
  have sag (pa : Nat) : paSag pa = pa / 2 ^ 27 % 8 := rfl
  have detail : detail48 va .row 0 writes = va % 2 ^ 48 + bnat writes * 2 ^ 52 := by simp [detail48, Kind.code]
  unfold State.rowAt rowChecks
  cases s.translateOn c false va .row (!writes) writes with
  | error e => rfl
  | ok l =>
    simp only [core, bank, sag, detail]
    split_ifs <;> rfl

/-- A derived row is checked like the row it is derived from, and then for its page. -/
theorem State.derivedRow_eq (s : State) (c b k base va : Nat) (writes : Bool) :
    s.derivedRow c b k base va writes = match s.rowAt c b k base writes, s.rowAt c b k va writes with
      | .error e, _ => .error e
      | .ok _, .error e => .error e
      | .ok x, .ok y => if va / x.1 = base / x.1 then .ok y.2 else .error (0x22, va % 2 ^ 48 + bnat writes * 2 ^ 52) := by
  have detail : detail48 va .row 0 writes = va % 2 ^ 48 + bnat writes * 2 ^ 52 := by simp [detail48, Kind.code]
  unfold State.derivedRow
  rw [detail]
  cases s.rowAt c b k base writes with
  | error e => rfl
  | ok x => cases s.rowAt c b k va writes <;> rfl

/-! ### A refused row -/

/-- An engine that holds no operation of a hart has nothing to end or withdraw for it (R360). -/
theorem State.engineStop_free {s : State} {c b : Nat} (free : ∀ x ∈ (s.core c).engine, x.bank ≠ b) : s.engineStop c b =
    s.setCore c { s.core c with engine := (s.core c).engine.filter fun e => !(e.bank == b && !e.taken) } := by
  have other : ∀ x ∈ (s.core c).engine, (x.bank == b) = false := fun x hx => by simpa using free x hx
  have none : ((s.core c).engine.filter fun e => e.bank == b && !e.taken) = [] :=
    List.filter_eq_nil_iff.2 fun x hx => by simp [other x hx]
  rcases h : (s.core c).engine with _ | ⟨op, ops⟩
  · simp [State.engineStop, h]
  · have notMine : op.bank ≠ b := free op (h ▸ List.mem_cons_self)
    rw [h] at none
    simp only [State.engineStop, h, notMine, decide_false, Bool.false_and, Bool.false_eq_true, if_false, none, List.foldl_nil]

/-- A fault of a hart that has no word in flight behind another, and no operation in the engine, leaves every bank (R360, R400). -/
theorem State.bank_hartFault {s : State} {c b : Nat} (alone : (s.hart c b).young = [])
    (free : ∀ x ∈ (s.core c).engine, x.bank ≠ b) (cause detail egi d e : Nat) :
    (s.hartFault c b cause detail egi).bank d e = s.bank d e := by
  have stopped : (((s.noFirst (.hart c b)).engineStop c b).keepYoung c b).bank d e = s.bank d e := by
    rw [State.engineStop_free (by rwa [State.core_noFirst]), State.keepYoung, State.hart_setCore _ _ (by rfl),
      State.hart_noFirst, alone]
    show ((s.noFirst (.hart c b)).setCore c _).bank d e = _
    rw [State.bank_setCore _ _ (by rfl), State.bank, State.core_noFirst, State.bank]
  have suspended : (s.suspend c b cause detail egi).bank d e = s.bank d e := by
    unfold State.suspend
    generalize ((s.noFirst (.hart c b)).engineStop c b).keepYoung c b = t at stopped ⊢
    dsimp only
    rw [bank_of_sameWork fun c' b' => sameWork_traceMeet _ c' b' c 0 cause]
    refine (State.bank_setCore _ _ ?_ d e).trans stopped
    split <;> rfl
  unfold State.hartFault
  generalize s.suspend c b cause detail egi = t at suspended ⊢
  dsimp only
  split
  · exact suspended
  · split
    · exact (State.bank_setCore t c (by rfl) d e).trans suspended
    · exact (State.bank_setHart ..).trans suspended

/-- A word that ends by a cause on a ready hart: its hart faults, and its registers stay where the engine has none of its
operations. -/
theorem Op.exec_refused {o : Op} {s : State} {c b cause detail : Nat} (h : Ready s c b o.p) (hl : o.lock = false)
    (ha : o.act s s c b = .trap s cause detail 0) (hw : cause ≠ walkWait) :
    ∃ t, o.exec s = .next t ∧ s.Faults t c b cause detail ∧
      ((∀ x ∈ (s.core c).engine, x.bank ≠ b) → ∀ r, t.reg c b r = s.reg c b r) := by
  refine ⟨_, Op.exec_trap o h hl ha hw, ?_, fun free r => ?_⟩
  · have faults := (s.marked c b (o.note s c b)).hartFault_faults c b cause detail 0
    exact ⟨faults.st, faults.cause, faults.detail, by rw [faults.g]; simp [State.marked], faults.mem⟩
  · have banks := State.bank_hartFault (s := s.marked c b (o.note s c b)) (c := c) (b := b)
      (by simpa [State.marked] using h.alone) (by simpa [State.marked] using free) cause detail 0 c b
    rw [State.reg, banks]
    simp [State.marked, State.reg]

theorem rowCheckOrder : Claims.RowCheckOrder := by
  intro o s c b k va base writes d at_ refuses row
  have checks (va : Nat) : s.rowAt c b k va writes = at_ va := State.rowAt_eq ..
  have refused {i : Instr} {cause detail : Nat} (h : ∃ t, exec i s = .next t ∧ s.Faults t c b cause detail ∧
      ((∀ x ∈ (s.core c).engine, x.bank ≠ b) → ∀ r, t.reg c b r = s.reg c b r)) : refuses i cause detail := by
    obtain ⟨t, run, faults, regs⟩ := h
    exact ⟨t, run, faults.st, faults.cause, faults.detail, faults.g, regs, faults.mem⟩
  refine ⟨checks va, ?_, fun ready hg => ?_⟩
  · rw [State.derivedRow_eq, checks, checks] <;> rfl
  have named : s.rowVa c b o = row := State.rowVa_alone hg
  have wb {i : Instr} {close : Bool} {cause detail : Nat} (hk : (s.reg c b o.k.toNat).latch ≠ .closed)
      (hrow : s.rowAt c b o.k.toNat row true = .error (cause, detail)) :
      (wbOp i o close).act s s c b = .trap s cause detail 0 := by
    rw [← named] at hrow
    simp only [wbOp, if_neg hk, hrow]
  have closed {i : Instr} {close : Bool} (hk : (s.reg c b o.k.toNat).latch = .closed) :
      (wbOp i o close).act s s c b = .trap s 0x0d 0 0 := by
    simp only [wbOp, if_pos hk]
  have notWait : 0x0d ≠ walkWait := by decide
  refine ⟨fun cause detail hw hrow => refused ?_, fun hk => ⟨refused ?_, refused ?_⟩,
    fun hk cause detail hw hrow => ⟨refused ?_, refused ?_⟩⟩
  · show ∃ t, execAct o s = .next t ∧ _
    unfold execAct
    refine Op.exec_refused ready hg ?_ hw
    rw [← named] at hrow
    simp only [hrow]
  · exact Op.exec_refused (o := wbOp (.wb o) o false) ready hg (closed hk) notWait
  · exact Op.exec_refused (o := wbOp (.wbp o) o true) ready hg (closed hk) notWait
  · exact Op.exec_refused (o := wbOp (.wb o) o false) ready hg (wb hk hrow) hw
  · exact Op.exec_refused (o := wbOp (.wbp o) o true) ready hg (wb hk hrow) hw

/-- Settles O9: a sensing runs to its end beside a frame that leaves the rest, a walk is three reads of an entry, and a word that is
refused faults before it changes a register. -/
theorem rowsOpened : Obligations.RowsOpened := ⟨rowWords_open, translateOrder, rowCheckOrder⟩

end Sys2Proof.Machine
end

section
/-! # The governor, clocks and trips (O52)

Every event of power writes the record `power` alone, beside log entries and, at a period, the rises of OWED; none of these
touches it. -/

namespace Sys2Proof.Machine

/-! ### What leaves the power record -/

section
variable (s : State)

theorem State.traceMeet_power (c kind value : Nat) : (s.traceMeet c kind value).power = s.power := by
  unfold State.traceMeet
  dsimp only
  split
  · split <;> rfl
  · rfl

@[simp] theorem State.logHub_power (code detail : Nat) : (s.logHub code detail).power = s.power := by
  have meet := s.traceMeet_power 0xffff 0 code
  unfold State.logHub State.logEvent
  dsimp only
  split
  · rfl
  · split <;> exact meet

theorem State.hubRecord_power (c : Nat) (r : EvRec) : (s.hubRecord c r).power = s.power := by
  have meet := s.traceMeet_power c 0 r.cause.toNat
  unfold State.hubRecord
  dsimp only
  split <;> exact meet

theorem State.owedStep_power (c b k i : Nat) : (s.owedStep c b k i).power = s.power := by
  unfold State.owedStep
  dsimp only
  split
  · rfl
  · split
    · exact State.hubRecord_power ..
    · rfl

theorem State.owedSteps_power (c b k n : Nat) : (State.owedSteps c b k n s).power = s.power := by
  induction n generalizing s with
  | zero => rfl
  | succ n ih => exact (ih _).trans (s.owedStep_power c b k _)

theorem power_foldl {α : Type} {f : State → α → State} (h : ∀ s a, (f s a).power = s.power) (l : List α) (s : State) :
    (l.foldl f s).power = s.power := by
  induction l generalizing s with
  | nil => rfl
  | cons a l ih => exact (ih _).trans (h s a)

/-- The rises of OWED leave the power record. -/
theorem State.owedTime_power : s.owedTime.power = s.power := by
  have rises (l : List Nat) : (if riseCount s.now ≤ s.fen.risen then s else
      let s1 := l.foldl (fun t j => t.owedUp (j / 256) (j % 256 / 8) (j % 8)) s
      { s1 with fen := { s1.fen with risen := riseCount s.now } }).power = s.power := by
    split
    · rfl
    · exact power_foldl (fun t j => State.owedSteps_power ..) l s
  exact rises _

end

/-! ### The governor, trips and periods (R101, R443 to R446) -/

section
variable {s t : State}

/-- The temperatures of a module are read from its sensors. -/
theorem stackHottest_of_sensors (h : t.power.sensors = s.power.sensors) (k : Nat) : t.stackHottest k = s.stackHottest k := by
  have read (u : State) : u.stackHottest k = ({ power := { sensors := u.power.sensors } } : State).stackHottest k := rfl
  rw [read t, h, read s]

theorem hottest_of_sensors (h : t.power.sensors = s.power.sensors) : t.hottest = s.hottest := by
  have read (u : State) : u.hottest = ({ power := { sensors := u.power.sensors } } : State).hottest := rfl
  rw [read t, h, read s]

theorem Tab.get_map_range (f : Nat → Nat) (d : Nat) {n k : Nat} (h : k < n) :
    Tab.get ((List.range n).map fun j => (j, f j)) k d = f k := by
  rw [Tab.get, Tab.find_map_keys f (List.mem_range.2 h), Option.getD_some]

/-- The clocks of the next period by what the last one has left. -/
theorem State.nextClocks_clocks (s : State) (k : Nat) (hk : k < 8) : s.nextClocks.power.clocks.get k 18 =
    if s.power.detWanted then 15
    else if s.power.plimit < s.power.watts then
      if k = s.hottest then max 12 (s.power.clocks.get k 18 - 1) else s.power.clocks.get k 18
    else if s.power.belowAllPeriod then min 18 (s.power.clocks.get k 18 + 1)
    else s.power.clocks.get k 18 := by
  unfold State.nextClocks
  dsimp only
  split
  · exact Tab.get_map_range _ _ hk
  split
  · show (s.power.clocks.put _ _).get k 18 = _
    rw [Tab.get_put]
    split
    · next h => rw [h]
    · rfl
  split
  · exact Tab.get_map_range _ _ hk
  · rfl

/-- A period that starts: nothing spent, the clocks that follow, memory as it was. -/
theorem execPeriodBoundary_starts (h : s.now % 100000 = 0) : ∃ t, exec .periodBoundary s = .next t ∧ t.fen.spent = [] ∧
    (∀ k, k < 8 → t.power.clocks.get k 18 = s.owedTime.nextClocks.power.clocks.get k 18) ∧ t.mem = s.mem := by
  refine ⟨s.period, rfl, ?_⟩
  have next : s.owedTime.nextClocks.mem = s.mem := by
    have clocks (u : State) : u.nextClocks.mem = u.mem := by
      unfold State.nextClocks
      dsimp only
      split
      · rfl
      split
      · rfl
      split <;> rfl
    rw [clocks, State.owedTime_mem]
  unfold State.period
  rw [if_neg (not_not.2 h)]
  exact ⟨rfl, fun k _ => rfl, next⟩

/-! ### Temperatures (R446, R447) -/

/-- The sensor that a reading is for. -/
def readingNo (j : Nat) : Nat := sensorNo (j / 36) (j % 36 / 4) (j % 4)

theorem readingNo_injective {i j : Nat} (h : readingNo i = readingNo j) : i = j := by
  unfold readingNo sensorNo at h
  omega

/-- A reading of a list becomes that of its sensor, and stays so for later ones. -/
def Sensor.given (t : Tab Sensor) (e : Nat × Nat) : Tab Sensor :=
  if (t.get (readingNo e.2) {}).reading = e.1 then t
  else t.put (readingNo e.2) { t.get (readingNo e.2) {} with reading := e.1 }

theorem Sensor.given_self (t : Tab Sensor) (e : Nat × Nat) : ((Sensor.given t e).get (readingNo e.2) {}).reading = e.1 := by
  unfold Sensor.given
  split
  · assumption
  · rw [Tab.get_put_self]

theorem Sensor.given_of_ne (t : Tab Sensor) (e : Nat × Nat) {j : Nat} (h : j ≠ e.2) :
    (Sensor.given t e).get (readingNo j) {} = t.get (readingNo j) {} := by
  unfold Sensor.given
  split
  · rfl
  · exact Tab.get_put_of_ne _ _ _ fun same => h (readingNo_injective same)

theorem Sensor.foldl_given {l : List (Nat × Nat)} (hl : (l.map Prod.snd).Nodup) {j r : Nat} (hj : (r, j) ∈ l) (t : Tab Sensor) :
    ((l.foldl Sensor.given t).get (readingNo j) {}).reading = r := by
  induction l generalizing t with
  | nil => exact absurd hj List.not_mem_nil
  | cons e l ih =>
    obtain ⟨first, rest⟩ := List.nodup_cons.1 hl
    rw [List.foldl_cons]
    rcases List.mem_cons.1 hj with rfl | tail
    · have later (l : List (Nat × Nat)) (hl : j ∉ l.map Prod.snd) (t : Tab Sensor) :
          (l.foldl Sensor.given t).get (readingNo j) {} = t.get (readingNo j) {} := by
        induction l generalizing t with
        | nil => rfl
        | cons e l ih =>
          rw [List.map_cons, List.mem_cons, not_or] at hl
          rw [List.foldl_cons, ih hl.2, Sensor.given_of_ne _ _ hl.1]
      rw [later l first]
      exact Sensor.given_self t (r, j)
    · exact ih rest tail _

theorem State.sensor_setReadings (s : State) {l : List Nat} {j r : Nat} (h : l[j]? = some r) :
    ((s.setReadings l).sensor (readingNo j)).reading = r := by
  have listed : (r, j) ∈ l.zipIdx := List.mk_mem_zipIdx_iff_getElem?.2 h
  refine Sensor.foldl_given (l := l.zipIdx) ?_ listed s.power.sensors
  rw [List.zipIdx_map_snd]
  exact List.nodup_range'

/-- Two states whose sensors read the same, and whose stacks are in the same thermal trips. -/
structure SameHeat (s t : State) : Prop where
  reads : ∀ n, (t.sensor n).reading = (s.sensor n).reading
  trips : t.power.thermalTrips = s.power.thermalTrips

theorem sameHeat_markSensors (s : State) : SameHeat s s.markSensors := by
  unfold State.markSensors
  dsimp only
  generalize (List.range 288).filter _ = l
  induction l generalizing s with
  | nil => exact ⟨fun _ => rfl, rfl⟩
  | cons j l ih =>
    rw [List.foldl_cons]
    refine ⟨fun n => ((ih _).reads n).trans ?_, (ih _).trips.trans ?_⟩
    · rw [State.sensor, State.logHub_power]
      show ((s.power.sensors.put _ _).get n {}).reading = _
      rw [Tab.get_put]
      split
      · next h => subst h; rfl
      · rfl
    · rw [State.logHub_power]
      rfl

/-- R446: a stack is in a thermal trip in `t` by its temperature, and between the two limits where it was in `s`. -/
structure Tripped (s t : State) (k : Nat) : Prop where
  hot : 105 ≤ t.stackHottest k → k ∈ t.power.thermalTrips
  cool : t.stackHottest k ≤ 95 → k ∉ t.power.thermalTrips
  between : 95 < t.stackHottest k → t.stackHottest k < 105 → (k ∈ t.power.thermalTrips ↔ k ∈ s.power.thermalTrips)

theorem State.sensors_thermal (s : State) (k : Nat) : (s.thermal k).power.sensors = s.power.sensors := by
  unfold State.thermal
  dsimp only
  split
  · split
    · rw [State.logHub_power]; rfl
    · rfl
  · split
    · rw [State.logHub_power]; rfl
    · rfl

theorem State.mem_thermal_of_ne (s : State) {k j : Nat} (h : j ≠ k) :
    j ∈ (s.thermal k).power.thermalTrips ↔ j ∈ s.power.thermalTrips := by
  unfold State.thermal
  dsimp only
  split
  · split
    · rw [State.logHub_power]; simp [State.setPower, h]
    · rfl
  · split
    · rw [State.logHub_power]; simp [State.setPower, h]
    · rfl

theorem State.tripped_thermal (s : State) (k : Nat) : Tripped s (s.thermal k) k := by
  have hot : (s.thermal k).stackHottest k = s.stackHottest k := stackHottest_of_sensors (s.sensors_thermal k) k
  suffices (105 ≤ s.stackHottest k → k ∈ (s.thermal k).power.thermalTrips) ∧
      (s.stackHottest k ≤ 95 → k ∉ (s.thermal k).power.thermalTrips) ∧ (95 < s.stackHottest k → s.stackHottest k < 105 →
        (k ∈ (s.thermal k).power.thermalTrips ↔ k ∈ s.power.thermalTrips)) by
    rw [← hot] at this
    exact ⟨this.1, this.2.1, this.2.2⟩
  unfold State.thermal
  dsimp only
  by_cases tripped : k ∈ s.power.thermalTrips
  · rw [if_pos (List.contains_iff_mem.2 tripped)]
    split
    · rw [State.logHub_power]
      exact ⟨fun _ => by omega, fun _ => by simp [State.setPower], fun _ _ => by omega⟩
    · exact ⟨fun _ => tripped, fun _ => by omega, fun _ _ => Iff.rfl⟩
  · rw [if_neg (mt List.contains_iff_mem.1 tripped)]
    split
    · rw [State.logHub_power]
      exact ⟨fun _ => by simp [State.setPower], fun _ => by omega, fun _ _ => by omega⟩
    · exact ⟨fun _ => by omega, fun _ => tripped, fun _ _ => Iff.rfl⟩

/-- Stacks judged one after the other: each by its own temperature, and no sensor changes. -/
theorem foldl_thermal (l : List Nat) (s : State) : (l.foldl State.thermal s).power.sensors = s.power.sensors ∧
    (∀ k, k ∉ l → (k ∈ (l.foldl State.thermal s).power.thermalTrips ↔ k ∈ s.power.thermalTrips)) ∧
    (l.Nodup → ∀ k ∈ l, Tripped s (l.foldl State.thermal s) k) := by
  induction l generalizing s with
  | nil => exact ⟨rfl, fun _ _ => Iff.rfl, fun _ k hk => absurd hk List.not_mem_nil⟩
  | cons j l ih =>
    obtain ⟨sensors, others, inside⟩ := ih (s.thermal j)
    refine ⟨sensors.trans (s.sensors_thermal j), fun k hk => ?_, fun hl k hk => ?_⟩
    · rw [List.mem_cons, not_or] at hk
      exact (others k hk.2).trans (s.mem_thermal_of_ne hk.1)
    · obtain ⟨first, rest⟩ := List.nodup_cons.1 hl
      have warm := stackHottest_of_sensors sensors k
      rw [List.foldl_cons]
      rcases List.mem_cons.1 hk with rfl | tail
      · obtain ⟨hot, cool, between⟩ := s.tripped_thermal k
        rw [← warm] at hot cool between
        have still := others k first
        exact ⟨still.2 ∘ hot, fun c => mt still.1 (cool c), fun c h => still.trans (between c h)⟩
      · obtain ⟨hot, cool, between⟩ := inside rest k tail
        have apart : k ≠ j := fun h => first (h ▸ tail)
        exact ⟨hot, cool, fun c h => (between c h).trans (s.mem_thermal_of_ne apart)⟩

end

theorem powerEvents : Claims.PowerEvents := by
  intro s watts readings p period clock
  have starts (h : s.now % 100000 = 0) {d : Nat → Nat}
      (hd : ∀ k, k < 8 → s.owedTime.nextClocks.power.clocks.get k 18 = d k) : period d := by
    obtain ⟨t, run, spent, clocks, mem⟩ := execPeriodBoundary_starts h
    exact ⟨t, run, spent, fun k hk => (clocks k hk).trans (hd k hk), mem⟩
  have next (k : Nat) (hk : k < 8) := s.owedTime.nextClocks_clocks k hk
  rw [hottest_of_sensors (t := s.owedTime) (s := s) (by rw [s.owedTime_power]), s.owedTime_power] at next
  refine ⟨⟨_, rfl, rfl, rfl, rfl, rfl⟩, fun hot calm => ?_, fun held => ?_, fun y trip => ⟨fun late => ?_, fun early => ?_⟩,
    fun hn det => starts hn fun k hk => ?_, fun hn det above => starts hn fun k hk => ?_,
    fun hn det under below => starts hn fun k hk => ?_, fun hn det under above => starts hn fun k hk => ?_, fun hn => ?_, ?_⟩
  · have start : 20 ≤ s.power.overFor ∧ s.power.powerTrip.isNone = true := ⟨hot, Option.isNone_iff_eq_none.2 calm⟩
    refine ⟨_, congrArg Host.Outcome.next (if_pos start), ?_, fun k hk => ?_⟩
    · rw [State.logHub_power]; rfl
    · rw [State.stackClock, State.logHub_power]
      simp [State.setPower, show k ∉ s.power.thermalTrips from hk]
  · have stay : ¬(20 ≤ s.power.overFor ∧ s.power.powerTrip.isNone = true) := by
      rw [Option.isNone_iff_eq_none]
      rintro ⟨hot, calm⟩
      exact held.elim (fun h => Nat.not_le.2 h hot) fun h => h calm
    exact congrArg Host.Outcome.next (if_neg stay)
  · have ends : exec .powerTripEnd s = .next ((s.setPower { s.power with powerTrip := none }).logHub 0x89 0) := by
      show execPowerTripEnd s = _
      simp only [execPowerTripEnd, show s.power.powerTrip = some y from trip, if_pos late]
    refine ⟨_, ends, ?_, ?_⟩ <;> rw [State.logHub_power] <;> rfl
  · show execPowerTripEnd s = _
    simp only [execPowerTripEnd, show s.power.powerTrip = some y from trip, if_neg (Nat.not_le.2 early)]
  · rw [next k hk, if_pos det]
  · rw [next k hk, if_neg (by simpa using det), if_pos above]
  · rw [next k hk, if_neg (by simpa using det), if_neg (Nat.not_lt.2 under), if_pos below]
  · rw [next k hk, if_neg (by simpa using det), if_neg (Nat.not_lt.2 under), if_neg (by simpa using above)]
  · exact congrArg Host.Outcome.next (if_pos hn)
  · obtain ⟨sensors, -, trips⟩ := foldl_thermal (List.range 8) (s.setReadings readings).markSensors
    have marked := sameHeat_markSensors (s.setReadings readings)
    refine ⟨(List.range 8).foldl State.thermal (s.setReadings readings).markSensors, rfl, fun j r hj hr => ?_, fun k hk => ?_⟩
    · rw [State.sensor, sensors]
      exact (marked.reads _).trans (s.sensor_setReadings hr)
    · obtain ⟨hot, cool, between⟩ := trips List.nodup_range k (List.mem_range.2 hk)
      exact ⟨hot, cool, fun c h => (between c h).trans (by rw [marked.trips]; rfl)⟩

end Sys2Proof.Machine
end

section
/-! # The two resets (O52)

A reset leaves of every core its banks alone, without their registers, and boot writes of these the repairs in use. What boot leaves of
the rest is `State.steady`. -/

namespace Sys2Proof.Machine

/-! ### What boot leaves -/

/-- The state but for what boot may write: the cores, messages, Fen's shares, what flash gives the module, and the bits of GSTAT. -/
def State.steady (s : State) : State :=
  { s with
    cores := [], out := [], heldOut := [], fen := { scores := s.fen.scores }
    flash := { configs := s.flash.configs, firmware := s.flash.firmware, records := s.flash.records, boots := s.flash.boots }
    bar := { q := s.bar.q, recovery := s.bar.recovery } }

/-- Two cores that agree but for what stands beside the registers of their banks, and for the trace. -/
structure Core.SameRest (k l : Core) : Prop where
  harts : l.harts = k.harts
  ct : l.ct = k.ct
  st : l.st = k.st
  task : l.task = k.task
  regs : ∀ b, (l.bank b).regs = (k.bank b).regs

theorem Core.SameRest.refl (k : Core) : k.SameRest k := ⟨rfl, rfl, rfl, rfl, fun _ => rfl⟩

theorem Core.SameRest.trans {k l m : Core} (h : k.SameRest l) (g : l.SameRest m) : k.SameRest m :=
  ⟨g.harts.trans h.harts, g.ct.trans h.ct, g.st.trans h.st, g.task.trans h.task, fun b => (g.regs b).trans (h.regs b)⟩

/-- What a step of boot leaves as it was. -/
structure BootKeeps (s t : State) : Prop where
  steady : t.steady = s.steady
  cores : ∀ c, (s.core c).SameRest (t.core c)
  replreq : s.bar.replreq = true → t.bar.replreq = true

section
variable {s t u : State}

theorem BootKeeps.refl (s : State) : BootKeeps s s := ⟨rfl, fun _ => Core.SameRest.refl _, id⟩

theorem BootKeeps.trans (h : BootKeeps s t) (g : BootKeeps t u) : BootKeeps s u :=
  ⟨g.steady.trans h.steady, fun c => (h.cores c).trans (g.cores c), g.replreq ∘ h.replreq⟩

theorem BootKeeps.of_cores (steady : t.steady = s.steady) (cores : t.cores = s.cores)
    (replreq : s.bar.replreq = true → t.bar.replreq = true) : BootKeeps s t :=
  ⟨steady, fun c => by
    have same : t.core c = s.core c := by rw [State.core, cores, State.core]
    rw [same]; exact Core.SameRest.refl _, replreq⟩

theorem bootKeeps_foldl {α : Type} {f : State → α → State} (h : ∀ s a, BootKeeps s (f s a)) (l : List α) (s : State) :
    BootKeeps s (l.foldl f s) := by
  induction l generalizing s with
  | nil => exact BootKeeps.refl s
  | cons a l ih => exact (h s a).trans (ih _)

/-- What the steady part of a state tells is as it was. -/
theorem BootKeeps.read (h : BootKeeps s t) {α : Type} (f : State → α) (hf : ∀ u : State, f u.steady = f u) : f t = f s := by
  rw [← hf t, h.steady, hf]

theorem bootKeeps_setCore (s : State) {c : Nat} {k : Core} (h : (s.core c).SameRest k) : BootKeeps s (s.setCore c k) := by
  refine ⟨rfl, fun d => ?_, id⟩
  by_cases n : d = c
  · subst n; rw [State.core_setCore]; exact h
  · rw [State.core_setCore_of_ne _ _ n]; exact Core.SameRest.refl _

theorem bootKeeps_setBank (s : State) {c b : Nat} {x : Bank} (h : x.regs = (s.bank c b).regs) : BootKeeps s (s.setBank c b x) := by
  refine bootKeeps_setCore s ⟨rfl, rfl, rfl, rfl, fun e => ?_⟩
  by_cases n : e = b
  · subst n
    rw [Core.bank, Core.setBank, Tab.get_put_self, h]
    rfl
  · rw [Core.bank, Core.setBank, Tab.get_put_of_ne _ _ _ n]
    rfl

theorem bootKeeps_traceMeet (s : State) (c kind value : Nat) : BootKeeps s (s.traceMeet c kind value) := by
  unfold State.traceMeet
  dsimp only
  split
  · split
    · exact bootKeeps_setCore s ⟨rfl, rfl, rfl, rfl, fun _ => rfl⟩
    · exact BootKeeps.refl s
  · exact BootKeeps.refl s

theorem bootKeeps_logHub (s : State) (code detail : Nat) : BootKeeps s (s.logHub code detail) := by
  have meet := bootKeeps_traceMeet s 0xffff 0 code
  unfold State.logHub State.logEvent
  dsimp only
  split
  · exact BootKeeps.refl s
  · split <;> exact meet.trans (BootKeeps.of_cores rfl rfl id)

theorem bootKeeps_send (s : State) (m : Out) : BootKeeps s (s.send m) := by
  unfold State.send
  split <;> exact BootKeeps.of_cores rfl rfl id

theorem bootKeeps_requestReplacement (s : State) : BootKeeps s s.requestReplacement := by
  have vector (u : State) : BootKeeps u u.errVector := by
    unfold State.errVector
    split
    · exact bootKeeps_send ..
    · exact BootKeeps.refl u
  unfold State.requestReplacement
  split
  · exact BootKeeps.refl s
  · have asked : BootKeeps s { s with bar := { s.bar with replreq := true } } := BootKeeps.of_cores rfl rfl fun _ => rfl
    exact ((asked.trans (vector _)).trans (bootKeeps_send ..)).trans (bootKeeps_logHub ..)

theorem bootKeeps_logSlots (s : State) (l : List Slot) : BootKeeps s (s.logSlots l) :=
  bootKeeps_foldl (fun t x => by split; exacts [BootKeeps.refl t, bootKeeps_logHub ..]) l s

theorem bootKeeps_logConfigs (s : State) (ty : Nat) : BootKeeps s (s.logConfigs ty) :=
  bootKeeps_foldl (fun t x => by split; exacts [BootKeeps.refl t, bootKeeps_logHub ..]) _ s

theorem bootKeeps_loadCores (s : State) : BootKeeps s s.loadCores := by
  unfold State.loadCores
  split
  · exact BootKeeps.of_cores rfl rfl id
  · exact BootKeeps.refl s

/-- The repairs of banks touch no register. -/
theorem Core.sameRest_repair (k : Core) (r : Repairs) (c : Nat) :
    k.SameRest { k with banks := k.banks.mapVals fun b x => x.repair r c b } := by
  refine ⟨rfl, rfl, rfl, rfl, fun b => ?_⟩
  rw [Core.bank, Tab.get, Tab.find_mapVals, Core.bank, Tab.get]
  cases k.banks.find b <;> rfl

theorem bootKeeps_loadRepairs (s : State) (cold : Bool) : BootKeeps s (s.loadRepairs cold) := by
  unfold State.loadRepairs
  split
  · next r _ =>
    refine BootKeeps.trans (BootKeeps.trans (t := _) ?_ (bootKeeps_foldl (fun t e => ?_) _ _)) (bootKeeps_foldl (fun t e => ?_) _ _)
    · refine ⟨rfl, fun c => ?_, id⟩
      show (s.core c).SameRest (((s.cores.mapVals fun c k => { k with
        banks := k.banks.mapVals fun b x => x.repair r c b }).find c).getD {})
      rw [Tab.find_mapVals, State.core, Tab.get]
      cases s.cores.find c with
      | none => exact Core.SameRest.refl _
      | some k => exact k.sameRest_repair r c
    · exact bootKeeps_setBank t rfl
    · exact bootKeeps_setBank t rfl
  · exact BootKeeps.refl s

theorem bootKeeps_loadShares (s : State) : BootKeeps s s.loadShares := by
  unfold State.loadShares
  split <;> exact BootKeeps.of_cores rfl rfl id

theorem State.replay_none (h : s.flash.records = []) : s.replay = s := by
  simp [State.replay, h]

theorem State.selfTests_none (h : s.finds = []) : s.selfTests = s := by
  rw [State.selfTests, h, List.foldl_nil, ← h]

theorem bootKeeps_replreqAgain (s : State) : BootKeeps s s.replreqAgain := by
  unfold State.replreqAgain
  dsimp only
  split
  · exact bootKeeps_requestReplacement s
  · exact BootKeeps.refl s

/-! ### Boot (R455) -/

/-- The state with an image running, and the configuration records that fail verification logged. -/
def State.checked (s : State) (image : Slot) : State :=
  [1, 2, 3, 4].foldl (fun t ty => t.logConfigs ty) { s with flash := { s.flash with running := some image.hash } }

/-- What the configuration records in use give. -/
def State.configured (s : State) (cold : Bool) : State := (s.loadCores.loadRepairs cold).loadShares

theorem bootKeeps_checked (s : State) (image : Slot) : BootKeeps s (s.checked image) :=
  have runs : BootKeeps s { s with flash := { s.flash with running := some image.hash } } := BootKeeps.of_cores rfl rfl id
  runs.trans (bootKeeps_foldl bootKeeps_logConfigs [1, 2, 3, 4] _)

theorem bootKeeps_configured (s : State) (cold : Bool) : BootKeeps s (s.configured cold) :=
  ((bootKeeps_loadCores s).trans (bootKeeps_loadRepairs _ cold)).trans (bootKeeps_loadShares _)

/-- The module in recovery without firmware. -/
def State.stranded (s : State) : State :=
  { s with bar := { s.bar with recovery := true, rcause := 2, ready := false }, flash := { s.flash with running := none } }

/-- What firmware does once the records are judged. -/
def State.bringUp (s : State) (cold : Bool) : State :=
  if [1, 2, 3].any fun ty => (s.config ty).isNone then
    { s with bar := { s.bar with recovery := true, rcause := 1, ready := false } }
  else
    let t := (s.configured cold).replay.selfTests.replreqAgain
    { t with bar := { t.bar with ready := true } }

theorem State.boot_stranded (s : State) (cold : Bool) (h : bestSlot (s.logSlots s.flash.firmware).flash.firmware = none) :
    s.boot cold = (s.logSlots s.flash.firmware).stranded := by
  unfold State.boot
  generalize s.logSlots s.flash.firmware = t at *
  dsimp only
  rw [h]
  rfl

theorem State.boot_bringUp (s : State) (cold : Bool) {image : Slot}
    (h : bestSlot (s.logSlots s.flash.firmware).flash.firmware = some image) :
    s.boot cold = ((s.logSlots s.flash.firmware).checked image).bringUp cold := by
  unfold State.boot State.bringUp State.configured State.checked
  generalize s.logSlots s.flash.firmware = t at *
  dsimp only
  rw [h]

/-- Firmware and configuration that verify bring the module up. -/
theorem State.boot_up (s : State) (cold : Bool) (fw : (bestSlot s.flash.firmware).isSome = true)
    (configs : ∀ ty, 1 ≤ ty → ty ≤ 3 → (s.config ty).isSome = true) (records : s.flash.records = []) (finds : s.finds = []) :
    BootKeeps s (s.boot cold) ∧ (s.boot cold).bar.ready = true := by
  have slots := bootKeeps_logSlots s s.flash.firmware
  obtain ⟨image, best⟩ := Option.isSome_iff_exists.1 fw
  rw [← slots.read (fun u => u.flash.firmware) fun _ => rfl] at best
  have checked := slots.trans (bootKeeps_checked _ image)
  have verified : ([1, 2, 3].any fun ty => (((s.logSlots s.flash.firmware).checked image).config ty).isNone) = false := by
    have listed (ty : Nat) (low : 1 ≤ ty) (high : ty ≤ 3) :
        (((s.logSlots s.flash.firmware).checked image).config ty).isNone = false := by
      rw [checked.read (fun u => u.config ty) fun _ => rfl]
      simpa using configs ty low high
    simp [listed]
  have loaded := checked.trans (bootKeeps_configured _ cold)
  have replayed := State.replay_none ((loaded.read (fun u => u.flash.records) fun _ => rfl).trans records)
  have tested := State.selfTests_none ((loaded.read (fun u => u.finds) fun _ => rfl).trans finds)
  rw [State.boot_bringUp _ _ best, State.bringUp, if_neg (by rw [verified]; decide), replayed, tested]
  have again := loaded.trans (bootKeeps_replreqAgain _)
  generalize State.replreqAgain _ = t at again
  exact ⟨again.trans (BootKeeps.of_cores rfl rfl id), rfl⟩

/-- Without verified firmware the module is in recovery. -/
theorem State.boot_down (s : State) (cold : Bool) (fw : bestSlot s.flash.firmware = none) :
    ∃ t, BootKeeps s t ∧ s.boot cold = t.stranded := by
  have slots := bootKeeps_logSlots s s.flash.firmware
  rw [← slots.read (fun u => u.flash.firmware) fun _ => rfl] at fw
  exact ⟨_, slots, State.boot_stranded s cold fw⟩

/-! ### What a reset leaves (R57, R438) -/

/-- Cores, queues, tasks and lines of a module as they are after a reset. -/
structure Fresh (t : State) : Prop where
  hart : ∀ c b, t.hart c b = Hart.init b
  reg : ∀ c b r, t.reg c b r = {}
  ct : ∀ c, t.ct c = {}
  core : ∀ c, (t.core c).st = .free ∧ (t.core c).task = none
  queue : ∀ q, t.qblock q = {}
  tasks : t.sched.tasks = []
  msc : t.msc = []
  rlines : t.rlines = []

theorem Fresh.boot (h : Fresh s) (k : BootKeeps s t) : Fresh t where
  hart c b := by rw [State.hart, Core.hart, (k.cores c).harts]; exact h.hart c b
  reg c b r := by
    have regs := (k.cores c).regs b
    rw [State.reg, State.bank, Bank.reg, regs]
    exact h.reg c b r
  ct c := (k.cores c).ct.trans (h.ct c)
  core c := by rw [(k.cores c).st, (k.cores c).task]; exact h.core c
  queue q := (k.read (fun u => u.qblock q) fun _ => rfl).trans (h.queue q)
  tasks := (k.read (fun u => u.sched.tasks) fun _ => rfl).trans h.tasks
  msc := (k.read (fun u => u.msc) fun _ => rfl).trans h.msc
  rlines := (k.read (fun u => u.rlines) fun _ => rfl).trans h.rlines

/-- What the hardware keeps of a core has no hart, no register and no task. -/
theorem Core.kept_rest (k : Core) (warm dram : Bool) : (k.kept warm dram).harts = [] ∧ (k.kept warm dram).ct = {} ∧
    (k.kept warm dram).st = .free ∧ (k.kept warm dram).task = none ∧ ∀ b, ((k.kept warm dram).bank b).regs = [] := by
  refine ⟨rfl, rfl, rfl, rfl, fun b => ?_⟩
  show (Tab.get (k.banks.mapVals fun _ x => x.kept warm dram) b {}).regs = []
  rw [Tab.get, Tab.find_mapVals]
  cases k.banks.find b <;> rfl

theorem fresh_kept {cs : Tab Core} {warm dram : Bool} (cores : t.cores = cs.mapVals fun _ k => k.kept warm dram)
    (queues : t.bar.q = []) (tasks : t.sched.tasks = []) (msc : t.msc = []) (rlines : t.rlines = []) : Fresh t := by
  have core (c : Nat) : (t.core c).harts = [] ∧ (t.core c).ct = {} ∧ (t.core c).st = .free ∧ (t.core c).task = none ∧
      ∀ b, ((t.core c).bank b).regs = [] := by
    rw [State.core, cores, Tab.get, Tab.find_mapVals]
    cases cs.find c with
    | none => exact ⟨rfl, rfl, rfl, rfl, fun _ => rfl⟩
    | some k => exact k.kept_rest warm dram
  refine ⟨fun c b => ?_, fun c b r => ?_, fun c => ?_, fun c => ?_, fun q => ?_, tasks, msc, rlines⟩
  · obtain ⟨harts, -⟩ := core c
    rw [State.hart, Core.hart, harts, Tab.get_nil]
  · obtain ⟨-, -, -, -, regs⟩ := core c
    rw [State.reg, State.bank, Bank.reg, regs, Tab.get_nil]
  · obtain ⟨-, ct, -⟩ := core c
    exact ct
  · obtain ⟨-, -, st, task, -⟩ := core c
    exact ⟨st, task⟩
  · rw [State.qblock, queues, Tab.get_nil]

/-- Clusters that come up change the logic of cores, the soft repair of buses and the power record alone (R452). -/
theorem State.clustersUp_eq (s : State) : ∃ cs soft p,
    s.clustersUp = { s with cores := cs, flash := { s.flash with softRepair := soft }, power := p } := by
  have logic (n : Nat) (f : Nat → Nat → Nat → Sag → Sag) (g : Nat → Nat → Nat → Nat) (s : State) :
      ∃ cs, s.mapLogic n f g = { s with cores := cs } := by
    unfold State.mapLogic
    generalize clusterCores n = l
    induction l generalizing s with
    | nil => exact ⟨s.cores, rfl⟩
    | cons c l ih =>
      rw [List.foldl_cons]
      dsimp only
      split
      · exact ih s
      · obtain ⟨cs, h⟩ := ih (s.setCore c { s.core c with banks := (s.core c).banks.mapVals fun b x =>
          { x with sags := x.sags.mapVals (f c b), spareLanes := g c b x.spareLanes } })
        exact ⟨cs, h⟩
  have wakes (l : List (Nat × Cluster)) (s : State) : ∃ cs soft, l.foldl (fun t e => if e.2.state = 3 then t.wakeUp e.1 else t) s =
      { s with cores := cs, flash := { s.flash with softRepair := soft } } := by
    induction l generalizing s with
    | nil => exact ⟨s.cores, s.flash.softRepair, rfl⟩
    | cons e l ih =>
      rw [List.foldl_cons]
      split
      · obtain ⟨cs, h⟩ := logic e.1 _ _ (s.setSoft e.1 true)
        obtain ⟨cs', soft, h'⟩ := ih (s.wakeUp e.1)
        refine ⟨cs', soft, ?_⟩
        rw [h', State.wakeUp, h]
        rfl
      · exact ih s
  obtain ⟨cs, soft, h⟩ := wakes s.power.clusters s
  exact ⟨cs, soft, _, by unfold State.clustersUp; rw [h]⟩

/-! ### The two resets -/

/-- Where boot starts: flash and what self-test finds are as they were, and the module is not in recovery. -/
structure BootsFrom (s u : State) : Prop where
  fresh : Fresh u
  firmware : u.flash.firmware = s.flash.firmware
  config : ∀ ty, u.config ty = s.config ty
  records : u.flash.records = s.flash.records
  finds : u.finds = s.finds
  recovery : u.bar.recovery = false

/-- With verified firmware and configuration a reset leaves the module READY. -/
theorem BootsFrom.up (h : BootsFrom s u) (cold : Bool) (fw : (bestSlot s.flash.firmware).isSome = true)
    (configs : ∀ ty, 1 ≤ ty → ty ≤ 3 → (s.config ty).isSome = true) (records : s.flash.records = []) (finds : s.finds = []) :
    BootKeeps u (u.boot cold) ∧ (u.boot cold).bar.ready = true := by
  refine u.boot_up cold ?_ ?_ (h.records.trans records) (h.finds.trans finds)
  · rw [h.firmware]; exact fw
  · intro ty low high
    rw [h.config]
    exact configs ty low high

/-- Without verified firmware a reset leaves the module in recovery with RCAUSE 2. -/
theorem BootsFrom.down (h : BootsFrom s u) (cold : Bool) (fw : bestSlot s.flash.firmware = none) :
    Fresh (u.boot cold) ∧ (u.boot cold).bar.ready = false ∧ (u.boot cold).bar.recovery = true ∧ (u.boot cold).bar.rcause = 2 := by
  obtain ⟨t, kept, boot⟩ := u.boot_down cold (by rw [h.firmware]; exact fw)
  obtain ⟨hart, reg, ct, core, queue, tasks, msc, rlines⟩ := h.fresh.boot kept
  rw [boot]
  exact ⟨⟨hart, reg, ct, core, queue, tasks, msc, rlines⟩, rfl, rfl, rfl⟩

theorem State.coldReset_boots (s : State) : ∃ u, s.coldReset = u.boot true ∧ BootsFrom s u ∧ u.hctrs = [] ∧ u.mem = [] ∧
    u.side = [] ∧ u.now = 0 ∧ u.flash.boots = s.flash.boots + 1 :=
  ⟨_, rfl, ⟨fresh_kept (cs := s.cores) rfl rfl rfl rfl rfl, rfl, fun _ => rfl, rfl, rfl, rfl⟩, rfl, rfl, rfl, rfl, rfl⟩

/-- What a warm reset keeps of `s` in the state `u` in which boot starts. -/
structure WarmKeeps (s u : State) : Prop where
  now : u.now = s.now
  hctrs : u.hctrs = s.hctrs.mapVals fun _ x => { x with sems := [], bars := [] }
  scores : u.fen.scores = s.fen.scores
  replreq : u.bar.replreq = s.bar.replreq
  lost : s.power.retention = false → u.mem = [] ∧ u.side = []
  kept : s.power.retention = true → s.msc = [] → u.mem = s.mem ∧ u.side = s.side

theorem State.loseMsc_nil (h : s.msc = []) : s.loseMsc = s := by
  rw [State.loseMsc, h, List.foldl_nil]

theorem State.warmReset_boots (s : State) : ∃ u, s.warmReset = u.boot false ∧ BootsFrom s u ∧ WarmKeeps s u := by
  unfold State.warmReset
  dsimp only
  cases armed : s.power.retention with
  | false =>
    exact ⟨_, rfl, ⟨fresh_kept (cs := s.cores) (dram := false) rfl rfl rfl rfl rfl, rfl, fun _ => rfl, rfl, rfl, rfl⟩,
      rfl, rfl, rfl, rfl, fun _ => ⟨rfl, rfl⟩, fun on => absurd (armed.symm.trans on) (by decide)⟩
  | true =>
    obtain ⟨cs, soft, p, up⟩ := s.clustersUp_eq
    simp only [if_true, up]
    refine ⟨_, rfl, ⟨fresh_kept (cs := cs) (dram := true) rfl rfl rfl rfl rfl, rfl, fun _ => rfl, rfl, rfl, rfl⟩,
      rfl, rfl, rfl, rfl, fun off => absurd (armed.symm.trans off) (by decide), fun _ clean => ?_⟩
    have whole := State.loseMsc_nil (s := s.clustersUp) (by rw [up]; exact clean)
    rw [up] at whole
    have mem := congrArg State.mem whole
    have side := congrArg State.side whole
    exact ⟨mem, side⟩

end

theorem resets : Claims.Resets := by
  intro s good fresh
  have isFresh {t : State} (h : Fresh t) : fresh t :=
    ⟨h.hart, h.reg, h.ct, h.core, h.queue, h.tasks, h.msc, h.rlines⟩
  obtain ⟨c, cold, coldFrom, hctrs, mem, side, now, boots⟩ := s.coldReset_boots
  obtain ⟨w, warm, warmFrom, keeps⟩ := s.warmReset_boots
  refine ⟨fun ⟨fw, configs, records, finds⟩ => ?_, fun ⟨fw, configs, records, finds⟩ => ?_, fun fw i hi => ?_⟩
  · obtain ⟨kept, ready⟩ := coldFrom.up true fw configs records finds
    refine ⟨c.boot true, congrArg Host.Outcome.next cold, isFresh (coldFrom.fresh.boot kept), ?_, ?_, ?_, ?_, ready, ?_, ?_⟩
    · exact (kept.read (fun u => u.hctrs) fun _ => rfl).trans hctrs
    · exact (kept.read (fun u => u.mem) fun _ => rfl).trans mem
    · exact (kept.read (fun u => u.side) fun _ => rfl).trans side
    · exact (kept.read (fun u => u.now) fun _ => rfl).trans now
    · exact (kept.read (fun u => u.bar.recovery) fun _ => rfl).trans coldFrom.recovery
    · exact (kept.read (fun u => u.flash.boots) fun _ => rfl).trans boots
  · obtain ⟨kept, ready⟩ := warmFrom.up false fw configs records finds
    have mem := kept.read (fun u => u.mem) fun _ => rfl
    have side := kept.read (fun u => u.side) fun _ => rfl
    refine ⟨w.boot false, congrArg Host.Outcome.next warm, isFresh (warmFrom.fresh.boot kept), ?_, ready, ?_, ?_, ?_, ?_, ?_, ?_⟩
    · exact (kept.read (fun u => u.now) fun _ => rfl).trans keeps.now
    · exact (kept.read (fun u => u.bar.recovery) fun _ => rfl).trans warmFrom.recovery
    · exact (kept.read (fun u => u.hctrs) fun _ => rfl).trans keeps.hctrs
    · exact (kept.read (fun u => u.fen.scores) fun _ => rfl).trans keeps.scores
    · exact fun on => kept.replreq (keeps.replreq.trans on)
    · exact fun off => (keeps.lost off).imp mem.trans side.trans
    · exact fun on clean => (keeps.kept on clean).imp mem.trans side.trans
  · rcases List.mem_cons.1 hi with rfl | hi
    · obtain ⟨isNew, rest⟩ := coldFrom.down true fw
      exact ⟨c.boot true, congrArg Host.Outcome.next cold, isFresh isNew, rest⟩
    · rw [List.mem_singleton.1 hi]
      obtain ⟨isNew, rest⟩ := warmFrom.down false fw
      exact ⟨w.boot false, congrArg Host.Outcome.next warm, isFresh isNew, rest⟩

/-- Settles O52: each event of the governor by its definition, and a reset by what boot leaves of the state it starts from. -/
theorem powerAndResets : Obligations.PowerAndResets := ⟨powerEvents, resets⟩

end Sys2Proof.Machine
end

section
/-! # The checks of a record (O47)

`State.judge` makes the checks of R62 one behind the other: `State.judge_listed` is what it comes to for a record that has passed those
before its core set, and `State.judge_saved` what is left once the core set, the entry and the ranges have passed. -/

namespace Sys2Proof.Machine

/-! ### The checks before the core set -/

section
variable {s : State} {fn : Nat} {r : Record}

theorem State.judge_header (h : ¬(r.version = 1 ∧ r.rsvZero = true)) : s.judge fn r = .refuse s 0x01 := by
  have bad : r.version ≠ 1 ∨ (!r.rsvZero) = true := by
    rw [Bool.not_eq_true', ← Bool.not_eq_true]
    exact not_and_or.1 h
  unfold State.judge
  exact if_pos bad

/-- The entry of the address space has been read, of a record whose first bytes are good. -/
structure SpaceRead (s : State) (r : Record) : Prop where
  version : r.version = 1
  rsvZero : r.rsvZero = true
  table : (s.tableBytes (s.spaceAddr r.asid.toNat) 16).isSome = true

/-- The address space is one that the function may use. -/
structure SpaceGranted (s : State) (fn : Nat) (r : Record) : Prop extends SpaceRead s r where
  root : (s.spaceRoot r.asid.toNat).isSome = true
  granted : s.asidGranted fn r.asid.toNat = true

/-- What the checks behind the core set find. -/
def State.judgeCores (s : State) (fn : Nat) (r : Record) : Found (List Nat) → Judged
  | .wait s' => .wait s'
  | .no s' => .refuse s' 0x04
  | .ok s1 cores =>
    if r.entry.getLsbD 0 then .refuse s1 0x05
    else match s1.translate r.asid.toNat false r.entry.toNat .fetch false false with
    | .error e => if e.1 = walkWait then .wait (s.keepRequest (s1.walkRequest .hub e.2) .hub) else .refuse s1 0x05
    | .ok _ => match s1.rangesOf fn r with
      | .wait s' => .wait (s.keepRequest s' .hub)
      | .no s' => .refuse s' 0x06
      | .ok s2 ranges => match s2.judgeSave r cores ranges with
        | .wait s' => .wait (s.keepRequest s' .hub)
        | x => x

theorem SpaceRead.judge (h : SpaceRead s r) : s.judge fn r =
    if (s.spaceRoot r.asid.toNat).isNone ∨ !s.asidGranted fn r.asid.toNat then .refuse s 0x02
    else if r.modmask ≠ 0 ∧ !r.modmask.getLsbD s.flash.modId.toNat then .refuse s 0x03
    else s.judgeCores fn r (s.coresOf fn r) := by
  have good : ¬(r.version ≠ 1 ∨ (!r.rsvZero) = true) := by simp [h.version, h.rsvZero]
  have read : ¬(s.tableBytes (s.spaceAddr r.asid.toNat) 16).isNone = true := by
    simpa [Option.isSome_iff_ne_none] using h.table
  unfold State.judge
  dsimp only
  rw [if_neg good, if_neg read]
  rfl

theorem SpaceGranted.judge (h : SpaceGranted s fn r) : s.judge fn r =
    if r.modmask ≠ 0 ∧ !r.modmask.getLsbD s.flash.modId.toNat then .refuse s 0x03
    else s.judgeCores fn r (s.coresOf fn r) := by
  rw [h.toSpaceRead.judge, if_neg]
  simpa [h.granted, Option.isSome_iff_ne_none] using h.root

theorem SpaceGranted.judge_spans (h : SpaceGranted s fn r)
    (spans : r.modmask = 0 ∨ r.modmask.getLsbD s.flash.modId.toNat = true) :
    s.judge fn r = s.judgeCores fn r (s.coresOf fn r) := by
  rw [h.judge, if_neg]
  rintro ⟨some, not⟩
  rcases spans with none | mine
  · exact some none
  · rw [mine] at not; cases not

/-! ### The core set (R60) -/

theorem State.coresOf_bad (range : bit r.coreset.toNat 63 = false)
    (bad : fld r.coreset.toNat 16 11 = 0 ∨ 1024 < fld r.coreset.toNat 0 10 + fld r.coreset.toNat 16 11 ∨
      ∃ x ∈ (List.range (fld r.coreset.toNat 16 11)).map (fun j => fld r.coreset.toNat 0 10 + j), s.removed x = true) :
    s.coresOf fn r = .no s := by
  unfold State.coresOf
  dsimp only
  rw [if_pos (by rw [range]; rfl)]
  split
  · rfl
  · next fits =>
    have removed := bad.resolve_left fun h => fits (.inl h)
    have gone := removed.resolve_left fun h => fits (.inr h)
    exact if_pos (.inr (List.any_eq_true.2 gone))

theorem State.coresOf_good (range : bit r.coreset.toNat 63 = false) (some : 0 < fld r.coreset.toNat 16 11)
    (fits : fld r.coreset.toNat 0 10 + fld r.coreset.toNat 16 11 ≤ 1024)
    (there : ∀ x ∈ (List.range (fld r.coreset.toNat 16 11)).map (fun j => fld r.coreset.toNat 0 10 + j), s.removed x = false) :
    s.coresOf fn r = .ok s ((List.range (fld r.coreset.toNat 16 11)).map fun j => fld r.coreset.toNat 0 10 + j) := by
  unfold State.coresOf
  dsimp only
  rw [if_pos (by rw [range]; rfl), if_neg (by omega)]
  refine if_neg ?_
  rintro (none | gone)
  · have length := congrArg List.length none
    simp only [List.length_map, List.length_range, List.length_nil] at length
    omega
  · obtain ⟨x, mem, removed⟩ := List.any_eq_true.1 gone
    rw [there x mem] at removed
    cases removed

theorem State.coresOf_unaligned (listed : bit r.coreset.toNat 63 = true) (odd : fld r.coreset.toNat 0 48 % 128 ≠ 0) :
    s.coresOf fn r = .no s := by
  unfold State.coresOf
  dsimp only
  rw [if_neg (by rw [listed]; decide), if_pos odd]

/-! ### Ranges and save area (R63, R62) -/

theorem State.rangesOf_bad (bad : 4096 < r.nranges.toNat ∨ (0 < r.nranges.toNat ∧ r.ranges.toNat % 16 ≠ 0)) :
    s.rangesOf fn r = .no s := by
  unfold State.rangesOf
  dsimp only
  split
  · rfl
  · next few =>
    obtain ⟨some, odd⟩ := bad.resolve_left few
    rw [if_neg (Nat.ne_of_gt some), if_pos odd]

theorem State.rangesOf_none (none : r.nranges = 0) : s.rangesOf fn r = .ok s [] := by
  unfold State.rangesOf
  rw [none]
  rfl

/-- Page `j` of the save area, as the checks translate it. -/
def State.savePage (s : State) (r : Record) (va j : Nat) : Except Cause Loc :=
  s.translate r.asid.toNat false (va + j * 2 ^ 21) .col false true

theorem State.pagesBad_save (n va : Nat) (h : va % 2 ^ 21 = 0) : s.pagesBad r.asid.toNat true (n + 1) va =
    match s.savePage r va 0 with
    | .ok _ => s.pagesBad r.asid.toNat true n (va + 2 ^ 21)
    | .error e => some e := by
  have next : va / 2 ^ 21 * 2 ^ 21 + 2 ^ 21 = va + 2 ^ 21 := by omega
  rw [State.pagesBad, next, State.savePage, Nat.zero_mul, Nat.add_zero] <;> rfl

theorem State.savePage_succ (va j : Nat) : s.savePage r (va + 2 ^ 21) j = s.savePage r va (j + 1) := by
  have next : va + 2 ^ 21 + j * 2 ^ 21 = va + (j + 1) * 2 ^ 21 := by omega
  rw [State.savePage, next, State.savePage]

theorem State.pagesBad_none (n va : Nat) (aligned : va % 2 ^ 21 = 0) (ok : ∀ j, j < n → ∃ l, s.savePage r va j = .ok l) :
    s.pagesBad r.asid.toNat true n va = none := by
  induction n generalizing va with
  | zero => rfl
  | succ n ih =>
    obtain ⟨l, first⟩ := ok 0 (by omega)
    rw [State.pagesBad_save n va aligned, first]
    refine ih (va + 2 ^ 21) (by omega) fun j hj => ?_
    rw [State.savePage_succ]
    exact ok (j + 1) (by omega)

/-- The first page of a save area that does not translate is what the checks find. -/
theorem State.pagesBad_first (n va j : Nat) {e : Cause} (aligned : va % 2 ^ 21 = 0) (hj : j < n)
    (before : ∀ i, i < j → ∃ l, s.savePage r va i = .ok l) (bad : s.savePage r va j = .error e) :
    s.pagesBad r.asid.toNat true n va = some e := by
  induction n generalizing va j with
  | zero => omega
  | succ n ih =>
    rw [State.pagesBad_save n va aligned]
    cases j with
    | zero => rw [bad]
    | succ j =>
      obtain ⟨l, first⟩ := before 0 (by omega)
      rw [first]
      refine ih (va + 2 ^ 21) j (by omega) (by omega) (fun i hi => ?_) ?_
      · rw [State.savePage_succ]; exact before (i + 1) (by omega)
      · rw [State.savePage_succ]; exact bad

end

/-! ### The checks behind the core set -/

section
variable {s u w : State} {fn : Nat} {r : Record} {cores : List Nat} {ranges : List (Nat × Nat × Bool)} {l : Loc}

theorem State.judgeCores_entry (odd : r.entry.getLsbD 0 = true) : s.judgeCores fn r (.ok u cores) = .refuse u 0x05 :=
  if_pos odd

theorem State.judgeCores_unmapped {e : Cause} (he : u.translate r.asid.toNat false r.entry.toNat .fetch false false = .error e)
    (found : e.1 ≠ walkWait) : s.judgeCores fn r (.ok u cores) = .refuse u 0x05 := by
  unfold State.judgeCores
  dsimp only
  split
  · rfl
  · rw [he]; exact if_neg found

/-- What the checks of the ranges and behind them find. -/
def State.judgeRanges (s : State) (r : Record) (cores : List Nat) : Found (List (Nat × Nat × Bool)) → Judged
  | .wait s' => .wait (s.keepRequest s' .hub)
  | .no s' => .refuse s' 0x06
  | .ok s2 ranges => match s2.judgeSave r cores ranges with
    | .wait s' => .wait (s.keepRequest s' .hub)
    | x => x

theorem State.judgeCores_mapped (even : r.entry.getLsbD 0 = false)
    (hl : u.translate r.asid.toNat false r.entry.toNat .fetch false false = .ok l) :
    s.judgeCores fn r (.ok u cores) = s.judgeRanges r cores (u.rangesOf fn r) := by
  unfold State.judgeCores
  dsimp only
  rw [if_neg (by rw [even]; decide), hl]
  rfl

/-- What the checks of the save area and the work find, unless they wait. -/
theorem State.judgeRanges_ok {j : Judged} (hj : w.judgeSave r cores ranges = j) (answered : ∀ x, j ≠ .wait x) :
    s.judgeRanges r cores (.ok w ranges) = j := by
  unfold State.judgeRanges
  dsimp only
  rw [hj]
  cases j with
  | wait x => exact absurd rfl (answered x)
  | accept => rfl
  | refuse => rfl

/-- The save area that the record names is a row of pages. -/
def Record.saveAligned (r : Record) : Prop := r.savebase ≠ 0 ∧ r.savebase.toNat % 2 ^ 21 = 0

theorem Record.saveAligned_iff : ¬r.saveAligned ↔ r.savebase.toNat = 0 ∨ r.savebase.toNat % 2 ^ 21 ≠ 0 := by
  have zero : r.savebase = 0 ↔ r.savebase.toNat = 0 := ⟨fun h => by rw [h]; rfl, fun h => BitVec.eq_of_toNat_eq h⟩
  rw [Record.saveAligned, not_and_or, not_not, zero]

theorem State.judgeSave_unaligned (preempt : r.preempt = true) (bad : ¬r.saveAligned) :
    w.judgeSave r cores ranges = .refuse w 0x07 := by
  unfold State.judgeSave
  dsimp only
  rw [if_neg (by rw [preempt]; decide), if_pos (Record.saveAligned_iff.1 bad)]

theorem State.judgeSave_unmapped {j : Nat} {e : Cause} (preempt : r.preempt = true) (aligned : r.saveAligned)
    (hj : j < 4 * cores.length) (before : ∀ i, i < j → ∃ l, w.savePage r r.savebase.toNat i = .ok l)
    (bad : w.savePage r r.savebase.toNat j = .error e) (found : e.1 ≠ walkWait) :
    w.judgeSave r cores ranges = .refuse w 0x07 := by
  unfold State.judgeSave
  dsimp only
  rw [if_neg (by rw [preempt]; decide), if_neg (mt Record.saveAligned_iff.2 (not_not.2 aligned)),
    State.pagesBad_first _ _ j aligned.2 hj before bad]
  exact if_neg found

/-- With room to save it, a record is judged by its work alone. -/
theorem State.judgeSave_saved (saved : r.preempt = false ∨
      (r.saveAligned ∧ ∀ j, j < 4 * cores.length → ∃ l, w.savePage r r.savebase.toNat j = .ok l)) :
    w.judgeSave r cores ranges = if r.bounded ∧ r.work = 0 then .refuse w 0x08 else .accept w cores ranges := by
  unfold State.judgeSave
  dsimp only
  split
  · rfl
  · next preempt =>
    obtain ⟨aligned, pages⟩ := saved.resolve_left fun none => preempt (by rw [none]; rfl)
    rw [if_neg (mt Record.saveAligned_iff.2 (not_not.2 aligned)), State.pagesBad_none _ _ aligned.2 pages]

end

theorem recordChecks : Claims.RecordChecks := by
  intro s fn r asid well space ours spans first count listed page
  have read (h : space) : SpaceRead s r := ⟨h.1.1, h.1.2, h.2⟩
  have granted (h : ours) : SpaceGranted s fn r := ⟨read h.1, h.2.1, h.2.2⟩
  have cores (h : spans) : s.judge fn r = s.judgeCores fn r (s.coresOf fn r) := (granted h.1).judge_spans h.2
  refine ⟨State.judge_header, fun h bad => ?_, fun h some not => ?_, fun h range => ⟨fun bad => ?_, fun some fits there => ?_⟩,
    fun h isList odd => ?_, fun u h no => ?_, fun u l h ok => ?_⟩
  · rw [(read h).judge, if_pos (by simpa using bad)]
  · rw [(granted h).judge, if_pos ⟨some, by rw [not]; rfl⟩]
  · rw [cores h, State.coresOf_bad range bad]; rfl
  · exact State.coresOf_good range some fits there
  · rw [cores h, State.coresOf_unaligned isList odd]; rfl
  · rw [cores h, no]; rfl
  rw [cores h, ok]
  refine ⟨State.judgeCores_entry, fun cause detail he found => State.judgeCores_unmapped he found, fun loc even hl => ?_⟩
  rw [State.judgeCores_mapped even hl]
  refine ⟨fun bad => ?_, fun w no => ?_, State.rangesOf_none, fun w ranges listed => ?_⟩
  · rw [State.rangesOf_bad bad]; rfl
  · rw [no]; rfl
  rw [listed]
  refine ⟨fun preempt bad => ?_, fun j cause detail preempt aligned hj before bad found => ?_, fun saved bounded work => ?_,
    fun saved work => ?_⟩
  · exact State.judgeRanges_ok (State.judgeSave_unaligned preempt bad) fun _ => nofun
  · exact State.judgeRanges_ok (State.judgeSave_unmapped preempt aligned hj before bad found) fun _ => nofun
  · refine State.judgeRanges_ok ?_ fun _ => nofun
    rw [State.judgeSave_saved saved, if_pos ⟨bounded, work⟩]
  · refine State.judgeRanges_ok ?_ fun _ => nofun
    rw [State.judgeSave_saved saved, if_neg]
    rintro ⟨bounded, none⟩
    exact work.elim (fun not => absurd (bounded.symm.trans not) (by decide)) fun some => some none

end Sys2Proof.Machine
end

section
/-! # The acceptance unit and LAUNCH (O47)

What the unit reads for a record leaves the queues' registers, the requests of LAUNCH and the requester served last as they were
(`UnitKeeps`), so that a record judged ends as `State.judgeRecord` says of its own requester. -/

namespace Sys2Proof.Machine

/-! ### What reading for a record leaves -/

/-- The registers of the host, the requests of LAUNCH and the requester served last are the same. -/
structure UnitKeeps (s t : State) : Prop where
  bar : t.bar = s.bar
  launches : t.sched.launches = s.sched.launches
  lastAccepted : t.sched.lastAccepted = s.sched.lastAccepted

section
variable {s t u : State}

theorem UnitKeeps.refl (s : State) : UnitKeeps s s := ⟨rfl, rfl, rfl⟩

theorem UnitKeeps.trans (h : UnitKeeps s t) (g : UnitKeeps t u) : UnitKeeps s u :=
  ⟨g.bar.trans h.bar, g.launches.trans h.launches, g.lastAccepted.trans h.lastAccepted⟩

theorem unitKeeps_setHostData (s : State) (w : Waiter) (t : Tab Nat) : UnitKeeps s (s.setHostData w t) := by
  cases w <;> exact ⟨rfl, rfl, rfl⟩

theorem unitKeeps_setReq (s : State) (w : Waiter) (r : Option Req) : UnitKeeps s (s.setReq w r) := by
  cases w <;> exact ⟨rfl, rfl, rfl⟩

theorem unitKeeps_forget (s : State) (w : Waiter) : UnitKeeps s (s.forget w) :=
  (unitKeeps_setHostData s w []).trans (unitKeeps_setReq _ w none)

theorem unitKeeps_hadFirst (s : State) (w : Waiter) (line : Nat) : UnitKeeps s (s.hadFirst w line) := by
  unfold State.hadFirst
  split <;> exact ⟨rfl, rfl, rfl⟩

theorem unitKeeps_unitUsed (s : State) (utype n : Nat) : UnitKeeps s (s.unitUsed utype n) := by
  unfold State.unitUsed
  dsimp only
  split <;> exact ⟨rfl, rfl, rfl⟩

theorem unitKeeps_send (s : State) (m : Out) : UnitKeeps s (s.send m) := by
  unfold State.send
  split <;> exact ⟨rfl, rfl, rfl⟩

theorem unitKeeps_traceMeet (s : State) (c kind value : Nat) : UnitKeeps s (s.traceMeet c kind value) := by
  unfold State.traceMeet
  dsimp only
  split
  · split <;> exact ⟨rfl, rfl, rfl⟩
  · exact UnitKeeps.refl s

theorem unitKeeps_logHub (s : State) (code detail : Nat) : UnitKeeps s (s.logHub code detail) := by
  have meet := unitKeeps_traceMeet s 0xffff 0 code
  unfold State.logHub State.logEvent
  dsimp only
  split
  · exact UnitKeeps.refl s
  · split <;> exact meet.trans ⟨rfl, rfl, rfl⟩

theorem unitKeeps_e2eFound (s : State) (w : Waiter) (pa : Nat) : UnitKeeps s (s.e2eFound w pa) := by
  have scored (utype n pts : Nat) : UnitKeeps s (s.addScore utype n pts) := ⟨rfl, rfl, rfl⟩
  unfold State.e2eFound
  split <;> (split; exacts [scored _ _ _, scored _ _ _, (scored _ _ _).trans (unitKeeps_logHub ..)])

theorem unitKeeps_mscEvict (s : State) (key : Nat) : UnitKeeps s (s.mscEvict key) := by
  have gone (l : Tab RLine) (a : Nat) : UnitKeeps s { s.disownLine a with rlines := l } := ⟨rfl, rfl, rfl⟩
  unfold State.mscEvict
  dsimp only
  split
  · exact UnitKeeps.refl s
  split
  · exact ⟨rfl, rfl, rfl⟩
  split
  · exact UnitKeeps.refl s
  split
  · exact (gone _ _).trans (unitKeeps_send ..)
  · exact gone _ _

theorem unitKeeps_mscFill (s : State) (line : Nat) : UnitKeeps s (s.mscFill line) := by
  have room (key : Nat) : UnitKeeps s (s.mscRoom key) := by
    unfold State.mscRoom
    dsimp only
    split
    · exact UnitKeeps.refl s
    split
    · exact unitKeeps_mscEvict ..
    · exact UnitKeeps.refl s
  unfold State.mscFill
  split
  · exact UnitKeeps.refl s
  · exact (room _).trans ⟨rfl, rfl, rfl⟩

/-- What an access that is done has left. -/
def Acc.Keeps (s : State) : Acc → Prop
  | .done t _ _ => UnitKeeps s t
  | .wait _ => True

theorem State.foundHere_keeps (s : State) (w : Waiter) (pa n : Nat) (x : Side) : (s.foundHere w pa n x).Keeps s := by
  have found : UnitKeeps s (if x.cond = some .e2eBad then s.e2eFound w pa else s) := by
    split
    · exact unitKeeps_e2eFound ..
    · exact UnitKeeps.refl s
  exact ((found.trans (unitKeeps_unitUsed ..)).trans (unitKeeps_unitUsed ..)).trans (unitKeeps_mscFill ..)

theorem Acc.Keeps.of {a : Acc} (ha : a.Keeps t) (h : UnitKeeps s t) : a.Keeps s := by
  cases a with
  | done => exact h.trans ha
  | wait => trivial

theorem State.readHere_keeps (s : State) (w : Waiter) (va pa n : Nat) : (s.readHere w va pa n).Keeps s := by
  have here (x : Side) := (State.foundHere_keeps _ w pa n x).of (unitKeeps_hadFirst s w (lineOf pa))
  unfold State.readHere
  split
  · trivial
  split
  · exact UnitKeeps.refl s
  dsimp only
  split
  · split
    · split
      · exact (unitKeeps_setHostData ..).trans (unitKeeps_hadFirst ..)
      · trivial
    · exact here _
  · exact here _

theorem State.load_keeps (s : State) (w : Waiter) (va : Nat) (p : Place) (n : Nat) : (s.load w va p n).Keeps s := by
  unfold State.load
  split
  · trivial
  cases p with
  | here pa => exact State.readHere_keeps ..
  | remote m pa =>
    dsimp only
    split
    · trivial
    split
    · exact UnitKeeps.refl s
    · trivial
  | host bus =>
    dsimp only
    split
    · exact unitKeeps_setHostData ..
    · trivial

theorem State.unitRead_keeps (s : State) (w : Waiter) (va : Nat) (p : Place) (n : Nat) : (s.unitRead w va p n).Keeps s := by
  unfold State.unitRead
  split
  · exact UnitKeeps.refl s
  · exact State.load_keeps ..

/-- What lines that have been read, or one that is bad, have left. -/
def Lines.Keeps (s : State) : Lines → Prop
  | .got t _ => UnitKeeps s t
  | .bad t _ => UnitKeeps s t
  | .wait _ => True

theorem Lines.Keeps.got (h : UnitKeeps s t) (v : Nat) : (Lines.got t v).Keeps s := h

theorem Lines.Keeps.of {x : Lines} (hx : x.Keeps t) (h : UnitKeeps s t) : x.Keeps s := by
  cases x with
  | got => exact h.trans hx
  | bad => exact h.trans hx
  | wait => trivial

theorem State.lines_keeps (w : Waiter) (va n : Nat) (p : Place) (s : State) : (State.lines w va p n s).Keeps s := by
  induction n generalizing p s with
  | zero => exact UnitKeeps.refl s
  | succ n ih =>
    have first := s.unitRead_keeps w va p 64
    unfold State.lines
    split
    · trivial
    · next e => rw [e] at first; exact first
    · next s' v e =>
      rw [e] at first
      have rest := (ih (p.plus 64) s').of first
      generalize State.lines w va (p.plus 64) n s' = x at rest ⊢
      cases x with
      | got => exact .got rest _
      | bad => exact rest
      | wait => trivial

theorem State.recordLines_keeps (w : Waiter) (pa n : Nat) (s : State) : (State.recordLines w pa n s).Keeps s := by
  induction n generalizing pa s with
  | zero => exact UnitKeeps.refl s
  | succ n ih =>
    have first := s.readHere_keeps w 0 pa 64
    unfold State.recordLines
    split
    · trivial
    · next s' v c e =>
      rw [e] at first
      have rest := (ih (pa + 64) s').of first
      generalize State.recordLines w (pa + 64) n s' = x at rest ⊢
      cases x with
      | got => exact .got rest _
      | bad => exact rest
      | wait => trivial

/-- What a step of the checks that is done has left. -/
def Found.Keeps {α : Type} (s : State) : Found α → Prop
  | .ok t _ => UnitKeeps s t
  | .no t => UnitKeeps s t
  | .wait _ => True

theorem Found.Keeps.of {α : Type} {x : Found α} (hx : x.Keeps t) (h : UnitKeeps s t) : x.Keeps s := by
  cases x with
  | ok => exact h.trans hx
  | no => exact h.trans hx
  | wait => trivial

theorem State.refusedOr_keeps {α : Type} (s : State) (e : Cause) : (s.refusedOr e : Found α).Keeps s := by
  unfold State.refusedOr
  split
  · trivial
  · exact UnitKeeps.refl s

theorem State.coresOf_keeps (s : State) (fn : Nat) (r : Record) : (s.coresOf fn r).Keeps s := by
  have set {t : State} (h : UnitKeeps s t) (l : List Nat) :
      (if l = [] ∨ l.any t.removed then Found.no t else .ok t l : Found (List Nat)).Keeps s := by
    split <;> exact h
  unfold State.coresOf
  dsimp only
  split
  · split
    · exact UnitKeeps.refl s
    · exact set (UnitKeeps.refl s) _
  split
  · exact UnitKeeps.refl s
  split
  · exact State.refusedOr_keeps ..
  · next p _ =>
    have lines := State.lines_keeps .hub (fld r.coreset.toNat 0 48) 2 p s
    split
    · trivial
    · next e => rw [e] at lines; exact lines.trans (unitKeeps_forget ..)
    · next e => rw [e] at lines; exact set lines _

theorem State.rangeList_keeps (asid fn n va : Nat) (s : State) (acc : List (Nat × Nat × Bool)) :
    (State.rangeList asid fn n va s acc).Keeps s := by
  induction n generalizing va s acc with
  | zero => exact UnitKeeps.refl s
  | succ n ih =>
    unfold State.rangeList
    split
    · exact State.refusedOr_keeps ..
    · next p _ =>
      have read := s.unitRead_keeps .hub va p 16
      split
      · trivial
      · next e => rw [e] at read; exact read
      · next s' v e =>
        rw [e] at read
        have entry : (s'.rangeEntry asid v).Keeps s' := by
          unfold State.rangeEntry
          dsimp only
          split
          · exact UnitKeeps.refl s'
          split
          · exact State.refusedOr_keeps ..
          · exact UnitKeeps.refl s'
        split
        · next e => rw [e] at entry; exact read.trans entry
        · trivial
        · next t x e =>
          rw [e] at entry
          exact (ih (va + 16) t (x :: acc)).of (read.trans entry)

theorem State.rangesOf_keeps (s : State) (fn : Nat) (r : Record) : (s.rangesOf fn r).Keeps s := by
  unfold State.rangesOf
  dsimp only
  split
  · exact UnitKeeps.refl s
  split
  · exact UnitKeeps.refl s
  split
  · exact UnitKeeps.refl s
  · have list := State.rangeList_keeps r.asid.toNat fn r.nranges.toNat r.ranges.toNat s []
    generalize State.rangeList r.asid.toNat fn r.nranges.toNat r.ranges.toNat s [] = x at list ⊢
    cases x with
    | wait => trivial
    | ok => exact list
    | no => exact list

/-- What the checks of a record that are done have left. -/
def Judged.Keeps (s : State) : Judged → Prop
  | .accept t _ _ => UnitKeeps s t
  | .refuse t _ => UnitKeeps s t
  | .wait _ => True

theorem Judged.Keeps.of {x : Judged} (hx : x.Keeps t) (h : UnitKeeps s t) : x.Keeps s := by
  cases x with
  | accept => exact h.trans hx
  | refuse => exact h.trans hx
  | wait => trivial

theorem State.judgeSave_keeps (s : State) (r : Record) (cores : List Nat) (ranges : List (Nat × Nat × Bool)) :
    (s.judgeSave r cores ranges).Keeps s := by
  have last : (if r.bounded ∧ r.work = 0 then Judged.refuse s 0x08 else .accept s cores ranges).Keeps s := by
    split <;> exact UnitKeeps.refl s
  unfold State.judgeSave
  dsimp only
  split
  · exact last
  split
  · exact UnitKeeps.refl s
  split
  · split
    · trivial
    · exact UnitKeeps.refl s
  · exact last

theorem State.judge_keeps (s : State) (fn : Nat) (r : Record) : (s.judge fn r).Keeps s := by
  have cores := State.coresOf_keeps s fn r
  unfold State.judge
  dsimp only
  split
  · exact UnitKeeps.refl s
  split
  · trivial
  split
  · exact UnitKeeps.refl s
  split
  · exact UnitKeeps.refl s
  split
  · trivial
  · next e => rw [e] at cores; exact cores
  next s1 l e =>
  rw [e] at cores
  split
  · exact cores
  split
  · split
    · trivial
    · exact cores
  have ranges := State.rangesOf_keeps s1 fn r
  split
  · trivial
  · next e => rw [e] at ranges; exact cores.trans ranges
  next s2 rs e =>
  rw [e] at ranges
  have save := (State.judgeSave_keeps s2 r l rs).of (cores.trans ranges)
  generalize s2.judgeSave r l rs = x at save ⊢
  cases x with
  | wait => trivial
  | accept => exact save
  | refuse => exact save

end

/-! ### A task that enters (R72) -/

/-- A task of a record has entered a module, of which the rest that acceptance speaks of is as it was. -/
structure Enters (s t : State) (source fn : Nat) (r : Record) (cores : List Nat) (ranges : List (Nat × Nat × Bool)) : Prop where
  task : ∃ k : Task, t.sched.tasks = s.sched.tasks ++ [k] ∧ k.num = s.sched.nextNum ∧ k.recd = r ∧ k.cores = cores ∧
    k.ranges = ranges ∧ k.source = source ∧ k.fn = fn ∧ k.stage = .queued ∧ k.acceptedAt = s.now ∧ k.ends = none
  keeps : UnitKeeps s t
  serving : t.sched.serving = none
  mem : t.mem = s.mem

section
variable {s t u : State} {source q fn : Nat} {v : BitVec 2048} {r : Record} {cores : List Nat}
  {ranges : List (Nat × Nat × Bool)}

theorem State.sendAll_frame (l : List Out) (s : State) :
    (s.sendAll l).sched = s.sched ∧ (s.sendAll l).bar = s.bar ∧ (s.sendAll l).mem = s.mem := by
  induction l generalizing s with
  | nil => exact ⟨rfl, rfl, rfl⟩
  | cons m l ih =>
    obtain ⟨sched, bar, mem⟩ := ih (s.send m)
    have first : (s.send m).sched = s.sched ∧ (s.send m).bar = s.bar ∧ (s.send m).mem = s.mem := by
      unfold State.send
      split <;> exact ⟨rfl, rfl, rfl⟩
    exact ⟨sched.trans first.1, bar.trans first.2.1, mem.trans first.2.2⟩

theorem Enters.sendAll (h : Enters s t source fn r cores ranges) (l : List Out) :
    Enters s (t.sendAll l) source fn r cores ranges := by
  obtain ⟨sched, bar, mem⟩ := State.sendAll_frame l t
  refine ⟨?_, h.keeps.trans ⟨bar, ?_, ?_⟩, ?_, mem.trans h.mem⟩
  · rw [sched]; exact h.task
  · rw [sched]
  · rw [sched]
  · rw [sched]; exact h.serving

/-- A record accepted enters once the unit has finished with it. -/
theorem State.finished_enters (s : State) (source fn : Nat) (v : BitVec 2048) (r : Record) (cores : List Nat)
    (ranges : List (Nat × Nat × Bool)) :
    Enters s (s.finished.enterTask source fn v r cores ranges none) source fn r cores ranges := by
  unfold State.enterTask
  dsimp only
  split
  · exact ⟨⟨_, rfl, rfl, rfl, rfl, rfl, rfl, rfl, rfl, rfl, rfl⟩, ⟨rfl, rfl, rfl⟩, rfl, rfl⟩
  · apply Enters.sendAll
    exact ⟨⟨_, rfl, rfl, rfl, rfl, rfl, rfl, rfl, rfl, rfl, rfl⟩, ⟨rfl, rfl, rfl⟩, rfl, rfl⟩

/-! ### A record that has been read (R72, R73, R157) -/

theorem State.judgeRecord_accept (ring : q < 64) {epoch : Nat} (h : s.judge fn (record v.toNat) = .accept t cores ranges) :
    s.judgeRecord q fn v epoch = t.finished.enterTask q fn v (record v.toNat) cores ranges none := by
  unfold State.judgeRecord
  dsimp only
  rw [h]
  exact if_pos ring

theorem State.judgeRecord_refuse (ring : q < 64) {epoch code : Nat} (h : s.judge fn (record v.toNat) = .refuse t code) :
    s.judgeRecord q fn v epoch =
      { t.finished with sched := { t.finished.sched with
        refused := some (t.refusedRecord q fn (record v.toNat) code) } }.reportRefused := by
  unfold State.judgeRecord
  dsimp only
  rw [h]
  exact if_pos ring

theorem State.judgeRecord_launched {epoch : Nat} {l : LaunchReq} (h : s.judge fn (record v.toNat) = .accept t cores ranges)
    (oldest : t.sched.launches = [l]) :
    s.judgeRecord 64 fn v epoch = (t.finished.enterTask 64 fn v (record v.toNat) cores ranges none).launchEnd l 0 := by
  have enters := t.finished_enters 64 fn v (record v.toNat) cores ranges
  have first := enters.keeps.launches.trans oldest
  unfold State.judgeRecord
  dsimp only
  rw [h]
  dsimp only
  rw [if_neg (by decide), first]

theorem State.judgeRecord_unlaunched {epoch code : Nat} {l : LaunchReq} (h : s.judge fn (record v.toNat) = .refuse t code)
    (oldest : t.sched.launches = [l]) : s.judgeRecord 64 fn v epoch = t.finished.launchEnd l code := by
  have first : t.finished.sched.launches = [l] := oldest
  unfold State.judgeRecord
  dsimp only
  rw [h]
  dsimp only
  rw [if_neg (by decide), first]

/-- R77 to R79: a record with no SIGNAL and no message, for a ring with room that its function may write. -/
theorem State.putRecord_plain {h : Held} (signal : h.signal = 0) (cq : h.cq = 0)
    (allowed : s.dmaAllows h.fn ((s.qblock h.q).cqBase.toNat * 4096 + 32 * (s.qblock h.q).cqTail.toNat) 32 true = true) :
    ∃ tail phase, s.putRecord h =
      { s with out := s.out ++ [Out.recordWrite ((s.qblock h.q).cqBase.toNat * 4096 + 32 * (s.qblock h.q).cqTail.toNat)
        (if (s.qblock h.q).cqPasidEn then some (s.qblock h.q).cqPasid.toNat else none)
        (h.record.toNat + bnat (s.qblock h.q).cqPhase * 2 ^ 79)] }.setQ h.q
          { s.qblock h.q with cqTail := tail, cqPhase := phase } := by
  have unsignalled (u : State) : u.signal 0 = u := rfl
  have unsent (u : State) : u.message h.fn h.q 0 = u := rfl
  unfold State.putRecord
  dsimp only
  rw [if_pos allowed, signal, cq, unsignalled, unsent]
  exact ⟨_, _, rfl⟩

/-- R73: a refused record goes to its queue's ring. -/
theorem State.reportRefused_plain {h : Held} (refused : s.sched.refused = some h) (queue : s.noQueue h.fn h.q = false)
    (room : s.ringFull h.q = false) (first : (s.sched.held.any fun x => x.q == h.q) = false) :
    s.reportRefused = { s with sched := { s.sched with refused := none } }.putRecord h := by
  have open_ : ¬State.noQueue { s with sched := { s.sched with refused := none } } h.fn h.q = true := by
    rw [Bool.not_eq_true]; exact queue
  have goes : (!State.ringFull { s with sched := { s.sched with refused := none } } h.q &&
      !s.sched.held.any fun x => x.q == h.q) = true := by
    rw [first, show State.ringFull { s with sched := { s.sched with refused := none } } h.q = false from room]
    rfl
  unfold State.reportRefused
  rw [refused]
  dsimp only
  rw [if_neg open_, State.deliver, if_pos goes]

/-- What the report of a refused record leaves and writes. -/
theorem State.reportRefused_writes (s : State) {h : Held} (signal : h.signal = 0) (cq : h.cq = 0)
    (queue : s.noQueue h.fn h.q = false) (room : s.ringFull h.q = false)
    (first : (s.sched.held.any fun x => x.q == h.q) = false)
    (allowed : s.dmaAllows h.fn ((s.qblock h.q).cqBase.toNat * 4096 + 32 * (s.qblock h.q).cqTail.toNat) 32 true = true) :
    let t := { s with sched := { s.sched with refused := some h } }.reportRefused
    t.sched.tasks = s.sched.tasks ∧ t.sched.serving = s.sched.serving ∧ (t.qblock h.q).sqHead = (s.qblock h.q).sqHead ∧
      t.out = s.out ++ [Out.recordWrite ((s.qblock h.q).cqBase.toNat * 4096 + 32 * (s.qblock h.q).cqTail.toNat)
        (if (s.qblock h.q).cqPasidEn then some (s.qblock h.q).cqPasid.toNat else none)
        (h.record.toNat + bnat (s.qblock h.q).cqPhase * 2 ^ 79)] := by
  intro t
  have reported : t = State.putRecord { s with sched := { s.sched with refused := none } } h :=
    State.reportRefused_plain (s := { s with sched := { s.sched with refused := some h } }) rfl queue room first
  obtain ⟨tail, phase, put⟩ := State.putRecord_plain (s := { s with sched := { s.sched with refused := none } }) signal cq allowed
  rw [reported, put]
  refine ⟨rfl, rfl, ?_, rfl⟩
  rw [State.qblock, State.setQ]
  dsimp only
  rw [Tab.get_put_self]
  rfl

theorem State.reportRefused_none (h : s.sched.refused = none) : s.reportRefused = s := by
  unfold State.reportRefused
  rw [h]

/-! ### The turn of a queue (R71, R72) -/

/-- The unit serves a requester. -/
theorem State.accept_serves (refused : s.sched.refused = none) (tasks : s.sched.tasks.length < 4096)
    (idle : s.sched.serving = none) (turn : s.nextRequester = some q) :
    s.accept = (s.begin_ q).serveOn (.reading q (s.qblock q).sqOwner.toNat (s.qblock q).entry (s.qblock q).sqEpoch) := by
  have able : ¬(s.sched.refused.isSome = true ∨ Config.taskLimit ≤ s.sched.tasks.length) := by
    simp [refused, Config.taskLimit, tasks]
  unfold State.accept
  rw [State.reportRefused_none refused]
  dsimp only
  rw [if_neg able, idle, turn]

/-- The unit once the entry at the head of a queue has been read. -/
def State.unitAt (s1 : State) (q : Nat) (head : BitVec 16) : State :=
  ((s1.setQ q { s1.qblock q with sqHead := head }).forget .hub).served q

theorem State.acceptRing_read {pa epoch w : Nat} (read : State.recordLines .hub pa 4 s = .got t w)
    (enabled : (s.qblock q).sqEpoch = epoch) :
    s.acceptRing q fn pa epoch =
      (t.unitAt q (BitVec.ofNat 16 (((s.qblock q).sqHead.toNat + 1) % 2 ^ (s.qblock q).sqLog.toNat))).judgeRecord q fn
        (BitVec.ofNat 2048 w) epoch := by
  have kept := State.recordLines_keeps .hub pa 4 s
  rw [read] at kept
  have same : t.qblock q = s.qblock q := by rw [State.qblock, kept.bar, State.qblock]
  unfold State.acceptRing
  rw [read]
  dsimp only
  rw [State.unitAt, same, QBlock.pass, if_pos enabled]

/-- The head of the queue, and the requester served, as the checks leave them. -/
theorem State.unitAt_kept {head : BitVec 16} (h : UnitKeeps (t.unitAt q head) u) :
    (u.qblock q).sqHead = head ∧ u.sched.lastAccepted = q := by
  have block : (t.unitAt q head).qblock q = { t.qblock q with sqHead := head } := Tab.get_put_self ..
  have same : u.qblock q = (t.unitAt q head).qblock q := by rw [State.qblock, h.bar, State.qblock]
  exact ⟨by rw [same, block], h.lastAccepted⟩

end

section
variable {s s1 s2 : State} {q v code : Nat} {cores : List Nat} {ranges : List (Nat × Nat × Bool)}

/-- HEAD of a queue past its first entry. -/
def QBlock.nextHead (x : QBlock) : BitVec 16 := BitVec.ofNat 16 ((x.sqHead.toNat + 1) % 2 ^ x.sqLog.toNat)

/-- The turn of a queue whose next record has been read as `v`. -/
structure RingTurn (s s1 : State) (q v : Nat) : Prop where
  refused : s.sched.refused = none
  tasks : s.sched.tasks.length < 4096
  idle : s.sched.serving = none
  turn : s.nextRequester = some q
  ring : q < 64
  read : State.recordLines .hub (s.qblock q).entry 4 (s.begin_ q) = .got s1 v

theorem RingTurn.run (h : RingTurn s s1 q v) : exec .acceptRecord s =
    .next ((s1.unitAt q (s.qblock q).nextHead).judgeRecord q (s.qblock q).sqOwner.toNat (BitVec.ofNat 2048 v)
      (s.qblock q).sqEpoch) := by
  refine congrArg Host.Outcome.next ?_
  rw [State.accept_serves h.refused h.tasks h.idle h.turn, State.serveOn, if_pos h.ring]
  exact State.acceptRing_read h.read rfl

/-- A record of a ring that passes the checks becomes a task. -/
theorem RingTurn.accepted (h : RingTurn s s1 q v)
    (judged : (s1.unitAt q (s.qblock q).nextHead).judge (s.qblock q).sqOwner.toNat (record (BitVec.ofNat 2048 v).toNat) =
      .accept s2 cores ranges) :
    ∃ t, exec .acceptRecord s = .next t ∧
      Enters s2 t q (s.qblock q).sqOwner.toNat (record (BitVec.ofNat 2048 v).toNat) cores ranges ∧
      (t.qblock q).sqHead = (s.qblock q).nextHead ∧ t.sched.lastAccepted = q := by
  have kept := State.judge_keeps (s1.unitAt q (s.qblock q).nextHead) (s.qblock q).sqOwner.toNat
    (record (BitVec.ofNat 2048 v).toNat)
  rw [judged] at kept
  have enters := s2.finished_enters q (s.qblock q).sqOwner.toNat (BitVec.ofNat 2048 v) (record (BitVec.ofNat 2048 v).toNat)
    cores ranges
  refine ⟨_, ?_, enters, State.unitAt_kept (kept.trans enters.keeps)⟩
  rw [h.run, State.judgeRecord_accept h.ring judged]

/-- A record of a ring that the checks refuse is reported in its queue's completion ring. -/
theorem RingTurn.reported (h : RingTurn s s1 q v)
    (judged : (s1.unitAt q (s.qblock q).nextHead).judge (s.qblock q).sqOwner.toNat (record (BitVec.ofNat 2048 v).toNat) =
      .refuse s2 code)
    (queue : s2.noQueue (s.qblock q).sqOwner.toNat q = false) (room : s2.ringFull q = false)
    (first : (s2.sched.held.any fun x => x.q == q) = false)
    (allowed : s2.dmaAllows (s.qblock q).sqOwner.toNat ((s2.qblock q).cqBase.toNat * 4096 + 32 * (s2.qblock q).cqTail.toNat)
      32 true = true) :
    ∃ t, exec .acceptRecord s = .next t ∧ (t.qblock q).sqHead = (s.qblock q).nextHead ∧
      t.sched.tasks = s2.sched.tasks ∧ t.sched.serving = none ∧
      t.out = s2.out ++ [Out.recordWrite ((s2.qblock q).cqBase.toNat * 4096 + 32 * (s2.qblock q).cqTail.toNat)
        (if (s2.qblock q).cqPasidEn then some (s2.qblock q).cqPasid.toNat else none)
        ((s2.refusedRecord q (s.qblock q).sqOwner.toNat (record (BitVec.ofNat 2048 v).toNat) code).record.toNat +
          bnat (s2.qblock q).cqPhase * 2 ^ 79)] := by
  have kept := State.judge_keeps (s1.unitAt q (s.qblock q).nextHead) (s.qblock q).sqOwner.toNat
    (record (BitVec.ofNat 2048 v).toNat)
  rw [judged] at kept
  obtain ⟨head, -⟩ := State.unitAt_kept kept
  obtain ⟨tasks, serving, same, out⟩ := s2.finished.reportRefused_writes
    (h := s2.refusedRecord q (s.qblock q).sqOwner.toNat (record (BitVec.ofNat 2048 v).toNat) code) rfl rfl queue room first allowed
  refine ⟨_, ?_, same.trans head, tasks, serving, out⟩
  rw [h.run, State.judgeRecord_refuse h.ring judged]

/-! ### LAUNCH (R157) -/

/-- The unit with a LAUNCH alone in service. -/
def State.launchServed (s : State) (c va rd : Nat) : State :=
  { s with
    walkData := []
    sched := { s.sched with
      launches := [⟨c, va, rd, true⟩], lastAccepted := 64
      serving := some (.reading 64 (s.qblock 64).sqOwner.toNat (s.qblock 64).entry (s.qblock 64).sqEpoch) } }

theorem State.requests_ring (ring : q < 64) :
    s.requests q = ((s.qblock q).sqEn && (s.qblock q).sqHead != (s.qblock q).sqTail) :=
  if_neg (Nat.ne_of_lt ring)

/-- Where no queue has a record, it is the turn of LAUNCH. -/
theorem State.nextRequester_launch (queues : ∀ n, n < 64 → s.requests n = false) (launch : s.requests 64 = true) :
    s.nextRequester = some 64 := by
  unfold State.nextRequester
  have only (n : Nat) (hn : n < 65) (asks : s.requests n = true) : n = 64 := by
    by_contra other
    rw [queues n (by omega)] at asks
    cases asks
  cases found : ((List.range 65).map fun i => (s.sched.lastAccepted + 1 + i) % 65).find? s.requests with
  | none =>
    have not := List.find?_eq_none.1 found 64 (List.mem_map.2
      ⟨(64 + 65 - (s.sched.lastAccepted + 1) % 65) % 65, List.mem_range.2 (by omega), by omega⟩)
    exact absurd launch not
  | some n =>
    obtain ⟨i, -, hi⟩ := List.mem_map.1 (List.mem_of_find?_eq_some found)
    rw [only n (by omega) (List.find?_some found)]

theorem State.ctRelease_clean {c : Nat} (h : (s.ct c).dcache = []) : s.ctRelease c = .done s 0 none := by
  rw [State.ctRelease, h]
  rfl

/-- A LAUNCH of a thread with no Dirty word, alone at the unit. -/
structure LaunchTurn (s s1 : State) (c va rd v : Nat) (p : Place) : Prop where
  refused : s.sched.refused = none
  tasks : s.sched.tasks.length < 4096
  idle : s.sched.serving = none
  alone : s.sched.launches = []
  clean : (s.ct c).dcache = []
  queues : ∀ n, n < 64 → s.requests n = false
  place : (s.launchServed c va rd).colAt c ((s.launchServed c va rd).mach c) va 256 true false = .ok p
  read : State.lines (.ct c) va p 4 (s.launchServed c va rd) = .got s1 v

section
variable {c va rd : Nat} {p : Place}

theorem LaunchTurn.launch (h : LaunchTurn s s1 c va rd v p) : s.launch c va rd =
    (s1.forget (.ct c)).judgeRecord 64 ((s.launchServed c va rd).fnOf c) (BitVec.ofNat 2048 v) 0 := by
  let asked : State := { s with sched := { s.sched with launches := [⟨c, va, rd, false⟩] } }
  have turn : asked.nextRequester = some 64 := State.nextRequester_launch (s := asked)
    (fun n hn => (State.requests_ring hn).trans ((State.requests_ring (s := s) hn).symm.trans (h.queues n hn))) rfl
  have joins : s.launch c va rd = asked.accept := by
    unfold State.launch
    rw [State.ctRelease_clean h.clean]
    dsimp only
    rw [h.alone, List.any_nil, if_neg (by decide), List.nil_append]
    dsimp only
    rw [if_pos (c := asked.nextRequester = some 64 ∧ _) ⟨turn, by simp⟩]
    simp only [asked, h.idle]
  have started : (asked.begin_ 64).serveOn (.reading 64 (asked.qblock 64).sqOwner.toNat (asked.qblock 64).entry
      (asked.qblock 64).sqEpoch) = (asked.begin_ 64).acceptLaunch ⟨c, va, rd, false⟩ := rfl
  have served : { asked.begin_ 64 with sched := { (asked.begin_ 64).sched with
      lastAccepted := 64
      launches := (asked.begin_ 64).sched.launches.map fun (x : LaunchReq) => if x.core = c then { x with started := true } else x } } =
        s.launchServed c va rd := by
    simp only [asked, State.begin_, State.serve, List.map_cons, List.map_nil, if_true]
    rfl
  rw [joins, State.accept_serves (s := asked) h.refused h.tasks h.idle turn, started, State.acceptLaunch]
  dsimp only
  rw [served, h.place]
  dsimp only
  rw [h.read]

/-- The requests of LAUNCH when the checks have been made. -/
theorem LaunchTurn.oldest (h : LaunchTurn s s1 c va rd v p) (kept : UnitKeeps (s1.forget (.ct c)) s2) :
    s2.sched.launches = [⟨c, va, rd, true⟩] := by
  have read := State.lines_keeps (.ct c) va 4 p (s.launchServed c va rd)
  rw [h.read] at read
  exact ((UnitKeeps.trans read (unitKeeps_forget s1 (.ct c))).trans kept).launches

theorem State.ctDone_xreg (s : State) (c : Nat) {r : Nat} (v : Word) (named : r ≠ 0) :
    ((s.ctDone c r v).ct c).xreg r = v := by
  simp [State.ctDone, State.ct, State.setCt, Ct.xreg, Ct.setX, named]

/-- A LAUNCH that ends answers in rd and changes no task. -/
theorem State.launchEnd_answers (s : State) (l : LaunchReq) (code : Nat) :
    (s.launchEnd l code).sched.tasks = s.sched.tasks ∧
      (l.rd ≠ 0 → ((s.launchEnd l code).ct l.core).xreg l.rd = BitVec.ofNat 64 code) :=
  ⟨rfl, State.ctDone_xreg _ _ _⟩

theorem LaunchTurn.run {o : XH} (h : LaunchTurn s s1 s.actCore (s.rs1 o) o.d.toNat v p) (aligned : s.rs1 o % 256 = 0) :
    exec (.launch o) s = .next ((s1.forget (.ct s.actCore)).judgeRecord 64
      ((s.launchServed s.actCore (s.rs1 o) o.d.toNat).fnOf s.actCore) (BitVec.ofNat 2048 v) 0) :=
  (if_neg (not_not.2 aligned)).trans (congrArg Host.Outcome.next h.launch)

/-- A LAUNCH whose record passes the checks answers 0, and the record is a task. -/
theorem LaunchTurn.accepted {fn : Nat} (h : LaunchTurn s s1 c va rd v p)
    (judged : (s1.forget (.ct c)).judge fn (record (BitVec.ofNat 2048 v).toNat) = .accept s2 cores ranges) :
    ∃ t, (s1.forget (.ct c)).judgeRecord 64 fn (BitVec.ofNat 2048 v) 0 = t ∧
      (∃ u, Enters s2 u 64 fn (record (BitVec.ofNat 2048 v).toNat) cores ranges ∧ t.sched.tasks = u.sched.tasks) ∧
      (rd ≠ 0 → (t.ct c).xreg rd = 0) := by
  have kept := State.judge_keeps (s1.forget (.ct c)) fn (record (BitVec.ofNat 2048 v).toNat)
  rw [judged] at kept
  have enters := s2.finished_enters 64 fn (BitVec.ofNat 2048 v) (record (BitVec.ofNat 2048 v).toNat) cores ranges
  obtain ⟨tasks, answer⟩ := State.launchEnd_answers (s2.finished.enterTask 64 fn (BitVec.ofNat 2048 v)
    (record (BitVec.ofNat 2048 v).toNat) cores ranges none) ⟨c, va, rd, true⟩ 0
  exact ⟨_, State.judgeRecord_launched judged (h.oldest kept), ⟨_, enters, tasks⟩, answer⟩

/-- A LAUNCH whose record the checks refuse answers the refusal's code. -/
theorem LaunchTurn.reported {fn : Nat} (h : LaunchTurn s s1 c va rd v p)
    (judged : (s1.forget (.ct c)).judge fn (record (BitVec.ofNat 2048 v).toNat) = .refuse s2 code) :
    ∃ t, (s1.forget (.ct c)).judgeRecord 64 fn (BitVec.ofNat 2048 v) 0 = t ∧ t.sched.tasks = s2.sched.tasks ∧
      (rd ≠ 0 → (t.ct c).xreg rd = BitVec.ofNat 64 code) := by
  have kept := State.judge_keeps (s1.forget (.ct c)) fn (record (BitVec.ofNat 2048 v).toNat)
  rw [judged] at kept
  obtain ⟨tasks, answer⟩ := State.launchEnd_answers s2.finished ⟨c, va, rd, true⟩ code
  exact ⟨_, State.judgeRecord_unlaunched judged (h.oldest kept), tasks, answer⟩

end

end

end Sys2Proof.Machine
end

section
/-! # Wait conditions and the range flush (O47)

A page's translation moves with the address (`State.translate_page`), so that the lines of a range inside one page are flushed one behind
the other: `FlushRun` is what is left of such a range, and `FlushSame` what the flush leaves of the state. -/

namespace Sys2Proof.Machine

/-! ### Translations inside a page (R44, R46, R47) -/

/-- The place that a leaf gives an address. -/
def leafAt (e level va : Nat) : Loc :=
  let size := if level = 2 then 2 ^ 30 else 2 ^ 21
  ⟨fld e 58 6, fld e 12 28 * 4096 + va % size, size, e⟩

theorem vaIndex_page {va va' level : Nat} (page : va' / 2 ^ 21 = va / 2 ^ 21) (h : level ≤ 3) :
    vaIndex va' level = vaIndex va level := by
  have power : 2 ^ (48 - 9 * level) = 2 ^ 21 * 2 ^ (27 - 9 * level) := by
    rw [← Nat.pow_add]
    congr 1
    omega
  rw [vaIndex, vaIndex, fld, fld, power, ← Nat.div_div_eq_div_mul, ← Nat.div_div_eq_div_mul, page]

/-- Addresses of a page are walked over the same tables. -/
theorem walk_page {rd : Nat → Option Nat} {va va' : Nat} (page : va' / 2 ^ 21 = va / 2 ^ 21) (n table level : Nat)
    (h : level + n ≤ 4) : walk rd va' n table level = walk rd va n table level := by
  induction n generalizing table level with
  | zero => rfl
  | succ n ih =>
    rw [walk, walk, vaIndex_page page (by omega)]
    cases rd (table + 8 * vaIndex va level) with
    | none => rfl
    | some e =>
      dsimp only
      rw [ih _ _ (by omega)]

/-- A walk ends at a leaf that is not malformed. -/
theorem walk_leaf {rd : Nat → Option Nat} {va n table level e at_ : Nat} (h : walk rd va n table level = .ok (e, at_)) :
    malformed e at_ = false ∧ bit e 1 = true := by
  induction n generalizing table level with
  | zero => cases h
  | succ n ih =>
    rw [walk] at h
    cases found : rd (table + 8 * vaIndex va level) with
    | none => rw [found] at h; cases h
    | some x =>
      rw [found] at h
      dsimp only at h
      split at h
      · cases h
      split at h
      · cases h
      next good =>
      split at h
      · next leaf =>
        cases h
        exact ⟨by simpa using good, leaf⟩
      · exact ih h

/-- A leaf names a page at its own place (R46). -/
theorem leafAt_pa {e level : Nat} (va : Nat) (h : malformed e level = false) (leaf : bit e 1 = true) :
    (leafAt e level va).pa % 2 ^ 21 = va % 2 ^ 21 ∧ (leafAt e level va).pa < 2 ^ 40 := by
  simp only [malformed, leaf, if_true, Bool.or_eq_false_iff, Bool.and_eq_false_iff, bne_eq_false_iff_eq, beq_eq_false_iff_ne] at h
  obtain ⟨-, ⟨-, small⟩, large⟩ := h
  simp only [leafAt]
  simp only [fld] at small large ⊢
  split
  · next two =>
    have zero := large.resolve_left fun not => not two
    omega
  · omega

section
variable {s : State} {mach : Bool} {va : Nat} {k : Kind} {reads writes : Bool} {l : Loc}

theorem State.leafLoc_ok {e level : Nat} (h : s.leafLoc mach va k reads writes e level = .ok l) :
    l = leafAt e level va ∧ ∀ va', s.leafLoc mach va' k reads writes e level = .ok (leafAt e level va') := by
  unfold State.leafLoc at h ⊢
  dsimp only at h ⊢
  split at h
  · cases h
  next permitted =>
  split at h
  · cases h
  next compute =>
  split at h
  · cases h
  next mine =>
  cases h
  exact ⟨rfl, fun va' => by rw [if_neg permitted, if_neg compute, if_neg mine]; rfl⟩

/-- A column address translates by a leaf, as all addresses of its page do. -/
theorem State.translate_leaf {asid : Nat} (h : s.translate asid mach va .col reads writes = .ok l) :
    ∃ e level, malformed e level = false ∧ bit e 1 = true ∧ l = leafAt e level va ∧
      ∀ va', va' / 2 ^ 21 = va / 2 ^ 21 → s.translate asid mach va' .col reads writes = .ok (leafAt e level va') := by
  unfold State.translate at h ⊢
  dsimp only at h ⊢
  rw [if_neg (fun not => nomatch not.1)] at h
  split at h
  · cases h
  next read =>
  cases space : s.spaceRoot asid with
  | none => rw [space] at h; cases h
  | some root =>
    rw [space] at h
    dsimp only at h ⊢
    split at h
    · cases h
    next low =>
    cases leaf : Sys2Proof.Machine.walk (fun a => s.tableBytes a 8) va Config.levels (root * 4096) 1 with
    | error e => rw [leaf] at h; cases h
    | ok x =>
      obtain ⟨e, level⟩ := x
      rw [leaf] at h
      obtain ⟨good, isLeaf⟩ := walk_leaf leaf
      obtain ⟨rfl, moved⟩ := State.leafLoc_ok h
      refine ⟨e, level, good, isLeaf, rfl, fun va' page => ?_⟩
      have low' : ¬va' / 2 ^ 48 ≠ 0 := by omega
      rw [if_neg (fun not => nomatch not.1), if_neg read, if_neg low', walk_page page _ _ _ (by decide), leaf]
      exact moved va'

/-- A translation of a column address keeps the place in the page. -/
theorem State.translate_pa {asid : Nat} (h : s.translate asid mach va .col reads writes = .ok l) :
    l.pa % 2 ^ 21 = va % 2 ^ 21 ∧ l.pa < 2 ^ 40 := by
  obtain ⟨e, level, good, leaf, rfl, -⟩ := State.translate_leaf h
  exact leafAt_pa va good leaf

/-- Inside a page, places move as addresses do. -/
theorem State.translate_page {asid d : Nat} (h : s.translate asid mach va .col reads writes = .ok l)
    (inside : va % 2 ^ 21 + d < 2 ^ 21) :
    ∃ l', s.translate asid mach (va + d) .col reads writes = .ok l' ∧ l'.home = l.home ∧ l'.pa = l.pa + d := by
  obtain ⟨e, level, -, -, rfl, moved⟩ := State.translate_leaf h
  refine ⟨_, moved (va + d) (by omega), rfl, ?_⟩
  simp only [leafAt]
  split <;> omega

end

/-! ### Wait conditions (R74) -/

section
variable {s t u : State}

/-- A counter whose copies agree is read as it stands (R391). -/
theorem State.readCtr_agree {n : Nat} {v : BitVec 32} (good : (s.ctr true 0 n).failed = false) (h0 : (s.ctr true 0 n).c0 = v)
    (h1 : (s.ctr true 0 n).c1 = v) (h2 : (s.ctr true 0 n).c2 = v) : s.readCtr true 0 n = (s, some v) := by
  have vote : (s.ctr true 0 n).vote = some v := by simp [Ctr.vote, good, h0, h1]
  simp only [State.readCtr, vote, h0, h1, h2, and_self, if_true]

theorem State.waits_met (l : List Word) (met : ∀ w ∈ l, w.getLsbD 16 = true → ∃ v,
      (s.ctr true 0 (fld w.toNat 0 8)).failed = false ∧ (s.ctr true 0 (fld w.toNat 0 8)).c0 = v ∧
      (s.ctr true 0 (fld w.toNat 0 8)).c1 = v ∧ (s.ctr true 0 (fld w.toNat 0 8)).c2 = v ∧ fld w.toNat 32 32 ≤ v.toNat) :
    State.waits l s = (s, true, []) := by
  induction l with
  | nil => rfl
  | cons w l ih =>
    obtain ⟨first, rest⟩ := List.forall_mem_cons.1 met
    unfold State.waits
    cases on : w.getLsbD 16
    · exact ih rest
    · obtain ⟨v, good, h0, h1, h2, enough⟩ := first on
      simp only [State.readCtr_agree good h0 h1 h2, ih rest, enough, Bool.not_true, Bool.false_eq_true, if_false, decide_true,
        Bool.and_true]

/-! ### What the flush leaves (R75) -/

/-- The state but for the MSC, the flush's own lists and what control threads hold of lines. -/
structure FlushSame (s t : State) : Prop where
  tasks : t.sched.tasks = s.sched.tasks
  now : t.now = s.now
  mem : t.mem = s.mem
  side : t.side = s.side
  walkData : t.walkData = s.walkData
  bar : t.bar = s.bar
  flash : t.flash = s.flash
  power : t.power = s.power
  fen : t.fen = s.fen
  bank : ∀ c b, t.bank c b = s.bank c b

theorem FlushSame.refl (s : State) : FlushSame s s := ⟨rfl, rfl, rfl, rfl, rfl, rfl, rfl, rfl, rfl, fun _ _ => rfl⟩

theorem FlushSame.trans (h : FlushSame s t) (g : FlushSame t u) : FlushSame s u :=
  ⟨g.tasks.trans h.tasks, g.now.trans h.now, g.mem.trans h.mem, g.side.trans h.side, g.walkData.trans h.walkData,
    g.bar.trans h.bar, g.flash.trans h.flash, g.power.trans h.power, g.fen.trans h.fen,
    fun c b => (g.bank c b).trans (h.bank c b)⟩

theorem FlushSame.translate (h : FlushSame s t) (asid va : Nat) :
    t.translate asid false va .col true false = s.translate asid false va .col true false := by
  have bytes : t.tableBytes = s.tableBytes := by
    funext pa n
    rw [State.tableBytes, State.tableBytes, State.sideOf, State.sideOf, h.side, h.walkData, h.mem]
  unfold State.translate State.spaceRoot State.leafLoc State.spaceAddr
  rw [bytes, h.bar, h.flash]

/-- A line of this module that the engine need not wait for. -/
structure LineFree (s : State) (pa : Nat) : Prop where
  still : s.sensing pa = false
  awake : s.asleep pa = false
  slice : s.sliceHeld pa = false

theorem FlushSame.server (h : FlushSame s t) (pa : Nat) : t.server pa = s.server pa := by
  have removed : t.removed = s.removed := funext fun c => by rw [State.removed, State.removed, State.layer, State.layer, h.flash]
  unfold State.server State.relays
  rw [removed]

theorem FlushSame.asleep (h : FlushSame s t) (pa : Nat) : t.asleep pa = s.asleep pa := by
  unfold State.asleep
  rw [h.server]
  unfold State.unserved State.clusterOff State.busDown State.sliceHeld State.layer State.clusterAt
  rw [h.flash, h.fen, h.power]

theorem FlushSame.lineFree (h : FlushSame s t) {pa : Nat} (free : LineFree s pa) : LineFree t pa := by
  refine ⟨?_, (h.asleep pa).trans free.awake, ?_⟩
  · rw [← free.still, State.sensing, State.sensing, State.reg, State.reg, h.bank]
  · rw [← free.slice, State.sliceHeld, State.sliceHeld, h.fen]

/-! ### One line -/

theorem Tab.mem_drop {α : Type} {t : Tab α} {k : Nat} {e : Nat × α} : e ∈ t.drop k ↔ e ∈ t ∧ e.1 ≠ k := by
  induction t with
  | nil => simp [Tab.drop]
  | cons a t ih =>
    obtain ⟨j, x⟩ := a
    unfold Tab.drop
    split
    · next same =>
      rw [ih, List.mem_cons]
      refine ⟨fun ⟨rest, other⟩ => ⟨.inr rest, other⟩, fun ⟨all, other⟩ => ⟨all.resolve_left ?_, other⟩⟩
      rintro rfl
      exact other same
    · next differ =>
      rw [List.mem_cons, ih, List.mem_cons]
      refine ⟨?_, fun ⟨all, other⟩ => all.imp_right fun rest => ⟨rest, other⟩⟩
      rintro (rfl | ⟨rest, other⟩)
      · exact ⟨.inl rfl, differ⟩
      · exact ⟨.inr rest, other⟩

theorem Tab.drop_of_find_none {α : Type} {t : Tab α} {k : Nat} (h : t.find k = none) : t.drop k = t := by
  induction t with
  | nil => rfl
  | cons a t ih =>
    obtain ⟨j, x⟩ := a
    unfold Tab.find at h
    unfold Tab.drop
    split at h
    · cases h
    · next differ => rw [if_neg differ, ih h]

theorem State.mayEvict_here {line : Nat} (low : line < 2 ^ 34) (still : s.sensing (linePa line) = false) :
    s.mayEvict (s.flash.modId.toNat * 2 ^ 34 + line) = true := by
  have home : (s.flash.modId.toNat * 2 ^ 34 + line) / 2 ^ 34 = s.flash.modId.toNat := by omega
  have number : (s.flash.modId.toNat * 2 ^ 34 + line) % 2 ^ 34 = line := by omega
  rw [State.mayEvict, home, number, if_pos rfl, still]
  rfl

/-- A line of this module leaves the MSC. -/
theorem State.mscEvict_here {line : Nat} (low : line < 2 ^ 34) (still : s.sensing (linePa line) = false) :
    s.mscEvict (s.flash.modId.toNat * 2 ^ 34 + line) =
      { s.disownLine (dkey s.flash.modId.toNat (linePa line)) with msc := s.msc.drop line } := by
  have home : (s.flash.modId.toNat * 2 ^ 34 + line) / 2 ^ 34 = s.flash.modId.toNat := by omega
  have number : (s.flash.modId.toNat * 2 ^ 34 + line) % 2 ^ 34 = line := by omega
  unfold State.mscEvict
  dsimp only
  rw [s.mayEvict_here low still, home, number, if_neg (by decide), if_pos rfl]

theorem flushSame_evicted (s : State) (a : Nat) (m : Tab (Option (Nat × Side))) :
    FlushSame s { s.disownLine a with msc := m } := by
  refine ⟨rfl, rfl, rfl, rfl, rfl, rfl, rfl, rfl, rfl, fun c b => ?_⟩
  exact bank_of_sameWork (fun c b => sameWork_disownLine s c b a) c b

end

/-! ### The lines of a range (R75) -/

section
variable {s t u : State}

/-- The engine handles a line of this module, whether the MSC holds it or not. -/
theorem State.flushAt_here {pa : Nat} (aligned : pa % 64 = 0) (low : pa < 2 ^ 40) (free : LineFree s pa) :
    ∃ u, s.flushAt (.here pa) = some u ∧ FlushSame s u ∧ u.sched = s.sched ∧ u.msc = s.msc.drop (lineOf pa) := by
  unfold State.flushAt
  dsimp only
  cases held : s.msc.find (lineOf pa) with
  | none => exact ⟨s, rfl, FlushSame.refl s, rfl, (Tab.drop_of_find_none held).symm⟩
  | some x =>
    have line : lineOf pa < 2 ^ 34 := by unfold lineOf; omega
    have place : linePa (lineOf pa) = pa := by unfold linePa lineOf; omega
    have still : s.sensing (linePa (lineOf pa)) = false := by rw [place]; exact free.still
    have may : s.mayEvict (s.flash.modId.toNat * 2 ^ 34 + lineOf pa) = true := s.mayEvict_here line still
    dsimp only
    rw [free.awake, free.slice, may, Bool.and_false, if_neg (by decide), State.mscEvict_here line still]
    exact ⟨_, rfl, flushSame_evicted .., rfl, rfl⟩

/-- What is left of a range of `n` lines. -/
def flushRest (va n : Nat) : List (Nat × Nat) := if n = 0 then [] else [(va, 64 * n)]

/-- The range of a task being flushed, with `n` lines left from `va`, which lie from `pa` in this module. -/
structure FlushRun (s : State) (t : Task) (va pa n : Nat) : Prop where
  found : (s.sched.tasks.find? fun y => y.stage == .flushing) = some t
  left : s.sched.flushLeft = flushRest va n
  mapped : ∀ i, i < n → ∃ l, s.translate t.recd.asid.toNat false (va + 64 * i) .col true false = .ok l ∧
    l.home = s.flash.modId.toNat ∧ l.pa = pa + 64 * i
  free : ∀ i, i < n → LineFree s (pa + 64 * i)
  aligned : pa % 64 = 0
  fits : pa + 64 * n ≤ 2 ^ 40

section
variable {k : Task} {va pa n : Nat}

theorem nextLine_flushRest (va n : Nat) : nextLine (flushRest va (n + 1)) = flushRest (va + 64) n := by
  unfold flushRest
  rw [if_neg (by omega), nextLine]
  split
  · next last => rw [if_pos (by omega)]
  · next more => rw [if_neg (by omega), show 64 * (n + 1) - 64 = 64 * n by omega]

/-- One line of the range: it leaves the MSC, and the rest is left. -/
theorem FlushRun.line (h : FlushRun s k va pa (n + 1)) :
    FlushRun s.flushLine k (va + 64) (pa + 64) n ∧ FlushSame s s.flushLine ∧ s.flushLine.msc = s.msc.drop (lineOf pa) := by
  obtain ⟨l, mapped, home, place⟩ := h.mapped 0 (by omega)
  have first := h.free 0 (by omega)
  simp only [Nat.mul_zero, Nat.add_zero] at mapped place first
  have here : l.place s = .here pa := by rw [Loc.place, if_pos home, place]
  obtain ⟨u, flushed, same, sched, msc⟩ := State.flushAt_here h.aligned (by have := h.fits; omega) first
  have step : s.flushLine = u.flushPassed := by
    unfold State.flushLine
    rw [h.found, h.left, flushRest, if_neg (by omega)]
    dsimp only
    rw [mapped]
    dsimp only
    rw [here, flushed]
  have passed : FlushSame s u.flushPassed := same.trans ⟨rfl, rfl, rfl, rfl, rfl, rfl, rfl, rfl, rfl, fun _ _ => rfl⟩
  rw [step]
  refine ⟨⟨?_, ?_, fun i hi => ?_, fun i hi => ?_, ?_, ?_⟩, passed, msc⟩
  · rw [passed.tasks]; exact h.found
  · show nextLine u.sched.flushLeft = _
    rw [sched, h.left, nextLine_flushRest]
  · obtain ⟨l', mapped', home', place'⟩ := h.mapped (i + 1) (by omega)
    refine ⟨l', ?_, home'.trans (by rw [passed.flash]), by omega⟩
    rw [passed.translate, show va + 64 + 64 * i = va + 64 * (i + 1) by omega]
    exact mapped'
  · rw [show pa + 64 + 64 * i = pa + 64 * (i + 1) by omega]
    exact passed.lineFree (h.free (i + 1) (by omega))
  · have := h.aligned; omega
  · have := h.fits; omega

/-- All lines of the range: none is in the MSC any more. -/
theorem FlushRun.lines (h : FlushRun s k va pa n) :
    FlushRun (State.flushLines n s) k (va + 64 * n) (pa + 64 * n) 0 ∧ FlushSame s (State.flushLines n s) ∧
      ∀ e ∈ (State.flushLines n s).msc, e ∈ s.msc ∧ ∀ i, i < n → e.1 ≠ lineOf (pa + 64 * i) := by
  induction n generalizing s va pa with
  | zero => exact ⟨h, FlushSame.refl s, fun e he => ⟨he, fun i hi => absurd hi (by omega)⟩⟩
  | succ n ih =>
    obtain ⟨rest, same, msc⟩ := h.line
    obtain ⟨done, sames, gone⟩ := ih rest
    have more : s.sched.flushLeft ≠ [] := by rw [h.left, flushRest, if_neg (by omega)]; exact List.cons_ne_nil _ _
    rw [State.flushLines, if_neg more]
    refine ⟨?_, same.trans sames, fun e he => ?_⟩
    · rw [show va + 64 * (n + 1) = va + 64 + 64 * n by omega, show pa + 64 * (n + 1) = pa + 64 + 64 * n by omega]
      exact done
    · obtain ⟨before, others⟩ := gone e he
      rw [msc] at before
      obtain ⟨mem, first⟩ := Tab.mem_drop.1 before
      refine ⟨mem, fun i hi => ?_⟩
      cases i with
      | zero => exact first
      | succ i =>
        rw [show pa + 64 * (i + 1) = pa + 64 + 64 * i by omega]
        exact others i (by omega)

end

/-! ### The stages of a task (R74 to R76) -/

/-- The code discards of a flush touch no task and no line. -/
theorem State.dropCodes_frame (cores : List Nat) (l : List (Nat × Nat × Bool)) (s : State) :
    let u := l.foldl (fun u e => if e.2.2 then u.dropCode cores e.1 e.2.1 else u) s
    u.sched = s.sched ∧ u.mem = s.mem ∧ u.msc = s.msc := by
  have one (s : State) (va len : Nat) : (s.dropCode cores va len).sched = s.sched ∧ (s.dropCode cores va len).mem = s.mem ∧
      (s.dropCode cores va len).msc = s.msc := by
    unfold State.dropCode
    dsimp only
    induction cores generalizing s with
    | nil => exact ⟨rfl, rfl, rfl⟩
    | cons c cores ih => exact ih _
  dsimp only
  induction l generalizing s with
  | nil => exact ⟨rfl, rfl, rfl⟩
  | cons e l ih =>
    rw [List.foldl_cons]
    split
    · obtain ⟨sched, mem, msc⟩ := ih (s.dropCode cores e.1 e.2.1)
      obtain ⟨sched1, mem1, msc1⟩ := one s e.1 e.2.1
      exact ⟨sched.trans sched1, mem.trans mem1, msc.trans msc1⟩
    · exact ih s

section
variable {k : Task}

/-- The flush of a task of one module that has no line left makes it ready. -/
theorem State.endFlush_ready (task : s.task k.num = some k)
    (found : (s.sched.tasks.find? fun y => y.stage == .flushing) = some k) (alone : k.recd.modmask = 0)
    (left : s.sched.flushLeft = []) :
    s.endFlush.task k.num = some { k with stage := .ready, readyAt := s.now } ∧ s.endFlush.mem = s.mem ∧
      s.endFlush.msc = s.msc := by
  obtain ⟨sched, mem, msc⟩ := State.dropCodes_frame k.cores k.ranges s
  unfold State.endFlush
  rw [found]
  dsimp only
  rw [if_neg (not_not.2 left), if_pos alone]
  generalize k.ranges.foldl _ s = u at sched mem msc ⊢
  refine ⟨?_, mem, msc⟩
  have still : State.task (State.forget { u with sched := { u.sched with flushq := u.sched.flushq.erase k.num } } .flush) k.num =
      some k := by
    show u.sched.tasks.find? _ = _
    rw [sched]
    exact task
  exact State.task_mapTask still fun _ => rfl

theorem execWaitConditionsMet_queued (task : s.task k.num = some k) (queued : k.stage = .queued)
    (met : State.waits k.recd.waits s = (s, true, [])) :
    ∃ u, exec (.waitConditionsMet k.num) s = .next u ∧ u.task k.num = some { k with stage := .toFlush } ∧
      u.sched.flushq = s.sched.flushq ++ [k.num] := by
  refine ⟨s.toStage2 k.num, congrArg Host.Outcome.next ?_, State.task_mapTask (f := fun x => { x with stage := .toFlush }) task
    fun _ => rfl, rfl⟩
  unfold State.tryWaits
  rw [task]
  dsimp only
  rw [if_neg (not_not.2 queued), met]

theorem execRangeFlushStart_head (task : s.task k.num = some k) (idle : (s.sched.tasks.any fun y => y.stage == .flushing) = false)
    (head : s.flushOrder.head? = some k.num) :
    ∃ u, exec .rangeFlushStart s = .next u ∧ u.task k.num = some { k with stage := .flushing } ∧
      u.sched.flushLeft = (k.ranges.map fun e => (e.1, e.2.1)).filter fun e => e.2 != 0 := by
  have started : s.flushOrder.head?.bind s.task = some k := by rw [head]; exact task
  have run : s.startFlush = { s.mapTask k.num fun x => { x with stage := .flushing } with
      walkData := []
      sched := { (s.mapTask k.num fun x => { x with stage := .flushing }).sched with
        flushq := s.flushOrder, flushLeft := (k.ranges.map fun e => (e.1, e.2.1)).filter fun e => e.2 != 0 } } := by
    unfold State.startFlush
    rw [idle, if_neg (by decide), started]
  exact ⟨_, congrArg Host.Outcome.next run, State.task_mapTask (f := fun x => { x with stage := .flushing }) task fun _ => rfl, rfl⟩

/-- A range inside a page of this module is a run of the flush. -/
theorem flushRun_of_page {va len : Nat} {l : Loc} (found : (s.sched.tasks.find? fun y => y.stage == .flushing) = some k)
    (left : s.sched.flushLeft = [(va, len)]) (long : 0 < len) (whole : va % 64 = 0) (lines : len % 64 = 0)
    (page : va % 2 ^ 21 + len ≤ 2 ^ 21) (mapped : s.translate k.recd.asid.toNat false va .col true false = .ok l)
    (home : l.home = s.flash.modId.toNat) (free : ∀ pa, l.pa ≤ pa → pa < l.pa + len → LineFree s pa) :
    FlushRun s k va l.pa (len / 64) := by
  obtain ⟨place, low⟩ := State.translate_pa mapped
  refine ⟨found, ?_, fun i hi => ?_, fun i hi => free _ (by omega) (by omega), by omega, by omega⟩
  · rw [left, flushRest, if_neg (by omega), show 64 * (len / 64) = len by omega]
  · obtain ⟨l', moved, home', place'⟩ := State.translate_page (d := 64 * i) mapped (by omega)
    exact ⟨l', moved, home'.trans home, place'⟩

/-- The flush of a task of one module is complete where nothing is left. -/
theorem execRangeFlushComplete_empty (task : s.task k.num = some k)
    (found : (s.sched.tasks.find? fun y => y.stage == .flushing) = some k) (alone : k.recd.modmask = 0)
    (left : s.sched.flushLeft = []) :
    ∃ u, exec .rangeFlushComplete s = .next u ∧ u.task k.num = some { k with stage := .ready, readyAt := s.now } ∧
      u.mem = s.mem := by
  have none : s.linesLeft = 0 := by rw [State.linesLeft, left]; rfl
  obtain ⟨ready, mem, -⟩ := State.endFlush_ready task found alone left
  refine ⟨s.endFlush, ?_, ready, mem⟩
  show Host.Outcome.next (State.flushLines s.linesLeft s).endFlush = _
  rw [none, State.flushLines]

/-- The flush of a run of lines is complete with none of them in the MSC. -/
theorem FlushRun.complete {va pa n : Nat} (h : FlushRun s k va pa n) (task : s.task k.num = some k) (alone : k.recd.modmask = 0)
    (all : s.linesLeft = n) :
    ∃ u, exec .rangeFlushComplete s = .next u ∧ u.task k.num = some { k with stage := .ready, readyAt := s.now } ∧
      u.mem = s.mem ∧ ∀ e ∈ u.msc, ¬(pa ≤ linePa e.1 ∧ linePa e.1 < pa + 64 * n) := by
  obtain ⟨done, same, gone⟩ := h.lines
  have there : (State.flushLines n s).task k.num = some k := by
    rw [State.task, same.tasks]
    exact task
  obtain ⟨ready, mem, msc⟩ := State.endFlush_ready there done.found alone done.left
  refine ⟨(State.flushLines n s).endFlush, ?_, ?_, mem.trans same.mem, fun e he ⟨low, high⟩ => ?_⟩
  · show Host.Outcome.next (State.flushLines s.linesLeft s).endFlush = _
    rw [all]
  · rw [← same.now]; exact ready
  · rw [msc] at he
    obtain ⟨-, others⟩ := gone e he
    have place := h.aligned
    unfold linePa at low high
    refine others ((e.1 * 64 - pa) / 64) (by omega) ?_
    unfold lineOf
    omega

end

end

end Sys2Proof.Machine
end

section
/-! # A record's way to a task that is ready (O47) -/

namespace Sys2Proof.Machine

theorem recordBecomesReady : Claims.TaskAcceptance := by
  intro s s1 s2 q code v cores ranges x fn pa r entered free head turn unit
  have ring (h : turn) : RingTurn s s1 q v :=
    have ⟨⟨refused, tasks, idle⟩, next, queue, read⟩ := h
    ⟨refused, tasks, idle, next, queue, read⟩
  refine ⟨fun h judged => ?_, fun h judged queue room first allowed => (ring h).reported judged queue room first allowed, ?_, ?_⟩
  · obtain ⟨t, run, task, passed, served⟩ := (ring h).accepted judged
    exact ⟨t, run, task.task, passed, served, task.serving, task.mem⟩
  · intro o p c va s0 aligned clean alone able queues place read
    have lone : LaunchTurn s s1 c va o.d.toNat v p :=
      have ⟨refused, tasks, idle⟩ := able
      ⟨refused, tasks, idle, alone, clean, queues, place, read⟩
    have named (h : o.d ≠ 0) : o.d.toNat ≠ 0 := fun zero => h (BitVec.eq_of_toNat_eq zero)
    refine ⟨fun judged => ?_, fun judged => ?_⟩
    · obtain ⟨t, run, ⟨u, task, tasks⟩, answer⟩ := lone.accepted judged
      obtain ⟨k, new, fields⟩ := task.task
      exact ⟨t, (lone.run aligned).trans (congrArg Host.Outcome.next run), ⟨k, tasks.trans new, fields⟩, fun h => answer (named h)⟩
    · obtain ⟨t, run, tasks, answer⟩ := lone.reported judged
      exact ⟨t, (lone.run aligned).trans (congrArg Host.Outcome.next run), tasks, fun h => answer (named h)⟩
  · intro k task ready flushing
    refine ⟨fun queued met => execWaitConditionsMet_queued task queued (State.waits_met _ met), execRangeFlushStart_head task,
      fun ⟨found, alone⟩ left => execRangeFlushComplete_empty task found alone left,
      fun va len l ⟨found, alone⟩ left long whole lines page mapped home free => ?_⟩
    have run := flushRun_of_page found left long whole lines page mapped home fun pa low high =>
      have ⟨still, awake, slice⟩ := free pa low high
      ⟨still, awake, slice⟩
    have all : s.linesLeft = len / 64 := by
      rw [State.linesLeft, left]
      show 0 + (len + 63) / 64 = _
      omega
    obtain ⟨u, flushed, on, mem, gone⟩ := run.complete task alone all
    refine ⟨u, flushed, ⟨on, mem⟩, fun e he ⟨low, high⟩ => gone e he ⟨low, ?_⟩⟩
    rwa [show 64 * (len / 64) = len by omega]

/-- Settles O47: the checks in their order, the turns of a queue and of LAUNCH at the unit, and the stages up to ready. -/
theorem taskAcceptance : Obligations.TaskAcceptance := ⟨recordChecks, recordBecomesReady⟩

end Sys2Proof.Machine
end

section
/-! # A record held for a queue is written (O42)

The record goes to the tail of its ring, and the tail advances; SIGNAL and the message follow. SIGNAL may log and repair a
counter's copy on its way: `LogKeeps` is what that leaves. -/

namespace Sys2Proof.Machine

/-! ### What a log entry leaves -/

/-- What log entries and the hub's counters leave of a state; of a core they may set only how long its trace goes on (R422). -/
structure LogKeeps (s t : State) : Prop where
  out : t.out = s.out
  sched : t.sched = s.sched
  bar : t.bar = s.bar
  agenda : t.agenda = s.agenda
  mem : t.mem = s.mem
  core : ∀ c, ∃ n, t.core c = { s.core c with traceLeft := n }

section
variable {s t u : State}

theorem LogKeeps.refl (s : State) : LogKeeps s s := ⟨rfl, rfl, rfl, rfl, rfl, fun _ => ⟨_, rfl⟩⟩

theorem LogKeeps.trans (h : LogKeeps s t) (g : LogKeeps t u) : LogKeeps s u where
  out := g.out.trans h.out
  sched := g.sched.trans h.sched
  bar := g.bar.trans h.bar
  agenda := g.agenda.trans h.agenda
  mem := g.mem.trans h.mem
  core c := by
    obtain ⟨m, first⟩ := h.core c
    obtain ⟨n, second⟩ := g.core c
    exact ⟨n, by rw [second, first]⟩

theorem logKeeps_traceMeet (s : State) (c kind value : Nat) : LogKeeps s (s.traceMeet c kind value) := by
  unfold State.traceMeet
  dsimp only
  split
  · split
    · refine ⟨rfl, rfl, rfl, rfl, rfl, fun d => ?_⟩
      by_cases same : d = c
      · subst same; exact ⟨_, State.core_setCore ..⟩
      · exact ⟨_, State.core_setCore_of_ne _ _ same⟩
    · exact LogKeeps.refl s
  · exact LogKeeps.refl s

theorem logKeeps_logEvent (s : State) (code src core detail value : Nat) :
    LogKeeps s (s.logEvent code src core detail value) := by
  have meet := logKeeps_traceMeet s core 0 code
  unfold State.logEvent
  dsimp only
  split
  · exact LogKeeps.refl s
  · split <;> exact meet.trans ⟨rfl, rfl, rfl, rfl, rfl, fun _ => ⟨_, rfl⟩⟩

theorem logKeeps_foldl {α : Type} {f : State → α → State} (h : ∀ u a, LogKeeps u (f u a)) (l : List α) (s : State) :
    LogKeeps s (l.foldl f s) := by
  induction l generalizing s with
  | nil => exact LogKeeps.refl s
  | cons a l ih => exact (h s a).trans (ih (f s a))

theorem logKeeps_setCtr (s : State) (c n : Nat) (x : Ctr) : LogKeeps s (s.setCtr true c n x) :=
  ⟨rfl, rfl, rfl, rfl, rfl, fun _ => ⟨_, rfl⟩⟩

theorem logKeeps_readCtr (s : State) (c n : Nat) : LogKeeps s (s.readCtr true c n).1 := by
  unfold State.readCtr
  dsimp only
  split
  · exact logKeeps_setCtr s c n _
  · split
    · exact LogKeeps.refl s
    · dsimp only
      exact (logKeeps_setCtr s c n _).trans (logKeeps_logEvent ..)

theorem logKeeps_signal (s : State) (w : Word) : LogKeeps s (s.signal w) := by
  unfold State.signal
  split
  · exact LogKeeps.refl s
  · have read := logKeeps_readCtr s 0 (fld w.toNat 0 8)
    dsimp only
    split
    · next t missing => rw [missing] at read; exact read.trans (logKeeps_logEvent ..)
    · next t v found => rw [found] at read; exact read.trans (logKeeps_setCtr ..)

/-! ### SIGNAL (R78, R391, R393) -/

theorem State.signal_none {w : Word} (h : w.getLsbD 8 = false) : s.signal w = s := by
  rw [State.signal, h]
  rfl

/-- Three copies that agree are read as they are (R391). -/
theorem State.readCtr_agreed {hub : Bool} {c n : Nat} {v : BitVec 32} (good : (s.ctr hub c n).failed = false)
    (h0 : (s.ctr hub c n).c0 = v) (h1 : (s.ctr hub c n).c1 = v) (h2 : (s.ctr hub c n).c2 = v) :
    s.readCtr hub c n = (s, some v) := by
  have vote : (s.ctr hub c n).vote = some v := by simp [Ctr.vote, good, h0, h1]
  simp [State.readCtr, vote, h0, h1, h2]

/-- SIGNAL posts its amount to a counter of the hub whose copies agree, up to the limit (R393). -/
theorem State.signal_posts {w : Word} {v : BitVec 32} (on : w.getLsbD 8 = true)
    (good : (s.ctr true 0 (fld w.toNat 0 8)).failed = false) (h0 : (s.ctr true 0 (fld w.toNat 0 8)).c0 = v)
    (h1 : (s.ctr true 0 (fld w.toNat 0 8)).c1 = v) (h2 : (s.ctr true 0 (fld w.toNat 0 8)).c2 = v) :
    ((s.signal w).ctr true 0 (fld w.toNat 0 8)).c0 =
      BitVec.ofNat 32 (min (v.toNat + fld w.toNat 32 32) (2 ^ 32 - 1)) := by
  have posted : s.signal w = s.writeCtr true 0 (fld w.toNat 0 8) (ctrPost v (BitVec.ofNat 32 (fld w.toNat 32 32))) := by
    rw [State.signal, on]
    dsimp only
    rw [State.readCtr_agreed good h0 h1 h2]
    rfl
  have amount : (BitVec.ofNat 32 (fld w.toNat 32 32)).toNat = fld w.toNat 32 32 := by
    rw [ofNat_fld, toNat_ofNat_div]
  rw [posted, ← amount]
  simp [State.writeCtr, State.setCtr, State.ctr, ctrPost]

/-! ### The record (R77 to R79) -/

/-- A record is at the tail of its ring, and the tail has advanced. -/
def State.ringWritten (s : State) (h : Held) : State :=
  let x := s.qblock h.q
  let tail := (x.cqTail.toNat + 1) % 2 ^ x.cqLog.toNat
  { s with out := s.out ++ [Out.recordWrite (x.cqBase.toNat * 4096 + 32 * x.cqTail.toNat)
      (if x.cqPasidEn then some x.cqPasid.toNat else none) (h.record.toNat + bnat x.cqPhase * 2 ^ 79)] }.setQ h.q
    { x with cqTail := BitVec.ofNat 16 tail, cqPhase := if tail = 0 then !x.cqPhase else x.cqPhase }

theorem State.putRecord_allowed {h : Held}
    (allowed : s.dmaAllows h.fn ((s.qblock h.q).cqBase.toNat * 4096 + 32 * (s.qblock h.q).cqTail.toNat) 32 true = true) :
    s.putRecord h = ((s.ringWritten h).signal h.signal).message h.fn h.q h.cq := by
  unfold State.putRecord
  dsimp only
  rw [if_pos allowed]
  rfl

/-- A message with a vector that its function has is sent if it is asked for (R78). -/
theorem State.message_vector {fn : Nat} {cq : Word} (vector : fn = 0 ∨ cqVector cq < 64) (q : Nat) :
    s.message fn q cq =
      { s with out := s.out ++ if cqEnabled cq && cqIrq cq then [Out.msix fn (cqVector cq)] else [] } := by
  unfold State.message
  rw [if_pos vector]
  cases asked : cqEnabled cq && cqIrq cq
  · rw [if_pos (by simpa [or_iff_not_imp_left] using asked)]
    simp
  · rw [if_neg (by simpa using asked)]
    rfl

theorem State.writeHeld_first {q : Nat} {h : Held} (first : s.sched.held.find? (fun x => x.q == q) = some h)
    (room : s.ringFull q = false) :
    s.writeHeld q = { s with sched := { s.sched with held := s.sched.held.erase h } }.putRecord h := by
  simp [State.writeHeld, first, room]

end

theorem heldRecordWritten : Claims.HeldRecordWritten := by
  intro s q h first room x a tail allowed vector
  obtain rfl : h.q = q := by simpa using List.find?_some first
  generalize taken : ({ s with sched := { s.sched with held := s.sched.held.erase h } } : State) = u
  have block : u.qblock h.q = x := by rw [← taken]; rfl
  have written : s.writeHeld h.q = ((u.ringWritten h).signal h.signal).message h.fn h.q h.cq := by
    rw [State.writeHeld_first first room, taken, State.putRecord_allowed (by rw [block, ← taken]; exact allowed)]
  have keeps := logKeeps_signal (u.ringWritten h) h.signal
  rw [State.message_vector vector] at written
  have ring : ((u.ringWritten h).signal h.signal).qblock h.q =
      { x with cqTail := BitVec.ofNat 16 tail, cqPhase := if tail = 0 then !x.cqPhase else x.cqPhase } := by
    rw [State.qblock, keeps.bar, State.ringWritten, block]
    exact Tab.get_put_self ..
  have counters : (u.ringWritten h).hctrs = s.hctrs := by rw [← taken]; rfl
  have counter (n : Nat) : (u.ringWritten h).ctr true 0 n = s.ctr true 0 n := congrArg (Tab.get (α := Ctr) · n {}) counters
  refine ⟨_, congrArg Host.Outcome.next written, ?_, ?_, congrArg QBlock.cqTail ring, congrArg QBlock.cqPhase ring,
    fun off => ?_, fun v on good h0 h1 h2 => ?_, ?_⟩
  · dsimp only
    rw [keeps.out, State.ringWritten, block, ← taken]
    rfl
  · dsimp only
    rw [keeps.sched, ← taken]
    rfl
  · dsimp only
    rw [State.signal_none off, counters]
  · rw [← counter] at good h0 h1 h2
    exact State.signal_posts on good h0 h1 h2
  · dsimp only
    rw [keeps.mem, ← taken]
    rfl

end Sys2Proof.Machine
end

section
/-! # The harts of a core stop (O42)

The end of a task stops the harts of its cores as HKILL does (R155, R403). On a core with nothing in flight each stop only
makes its hart FAULTED: `Core.Halts` is what it leaves of the core, and `HaltsAt` what it leaves of the state. -/

namespace Sys2Proof.Machine

/-! ### Tables -/

theorem Tab.mem_put {α : Type} {t : Tab α} {k : Nat} {x : α} {e : Nat × α} (h : e ∈ t.put k x) : e = (k, x) ∨ e ∈ t := by
  induction t with
  | nil => exact .inl (List.mem_singleton.1 h)
  | cons a t ih =>
    obtain ⟨j, y⟩ := a
    simp only [Tab.put] at h
    split_ifs at h <;> grind

theorem Tab.mem_of_find {α : Type} {t : Tab α} {k : Nat} {x : α} (h : t.find k = some x) : (k, x) ∈ t := by
  induction t with
  | nil => cases h
  | cons a t ih =>
    obtain ⟨j, y⟩ := a
    simp only [Tab.find] at h
    split_ifs at h <;> grind

/-! ### A core at rest -/

/-- The hart has no retired store to perform and no copy in progress (R265, R395). -/
def Hart.Still (h : Hart) : Prop := h.stores = [] ∧ ∀ x ∈ h.slots, x.2.busy = false

/-- Every hart of the core is still. -/
def Core.Still (k : Core) : Prop := ∀ e ∈ k.harts, e.2.Still

/-- No hart of the core has a word in flight (R155), and its engine holds no operation (R360). -/
def Core.Idle (k : Core) : Prop := k.engine = [] ∧ ∀ b, (k.hart b).pend = none ∧ (k.hart b).young = []

theorem Core.Still.hart {k : Core} (h : k.Still) (b : Nat) : (k.hart b).Still := by
  unfold Core.hart Tab.get
  cases found : k.harts.find b with
  | none => exact ⟨rfl, fun _ none => absurd none List.not_mem_nil⟩
  | some x => exact h _ (Tab.mem_of_find found)

/-- What stopping a hart leaves of its core: whose it is, its banks, events and tiles, and its rest. -/
structure Core.Halts (k l : Core) : Prop where
  task : l.task = k.task
  ctx : l.ctx = k.ctx
  st : l.st = k.st
  banks : l.banks = k.banks
  evq : l.evq = k.evq
  tiles : l.tiles = k.tiles
  gangs : k.gangs = [] → l.gangs = []
  idle : k.Idle → l.Idle
  still : k.Still → l.Still

section
variable {k l m : Core}

theorem Core.Halts.refl (k : Core) : k.Halts k := ⟨rfl, rfl, rfl, rfl, rfl, rfl, id, id, id⟩

theorem Core.Halts.trans (h : k.Halts l) (g : l.Halts m) : k.Halts m where
  task := g.task.trans h.task
  ctx := g.ctx.trans h.ctx
  st := g.st.trans h.st
  banks := g.banks.trans h.banks
  evq := g.evq.trans h.evq
  tiles := g.tiles.trans h.tiles
  gangs := g.gangs ∘ h.gangs
  idle := g.idle ∘ h.idle
  still := g.still ∘ h.still

theorem Core.halts_traceLeft (k : Core) (n : Option Nat) : k.Halts { k with traceLeft := n } :=
  ⟨rfl, rfl, rfl, rfl, rfl, rfl, id, id, id⟩

theorem Core.halts_reds (k : Core) (reds : Tab (List RedPart)) : k.Halts { k with reds := reds } :=
  ⟨rfl, rfl, rfl, rfl, rfl, rfl, id, id, id⟩

/-- A hart changed in neither its work nor its stores and copies. -/
theorem Core.halts_setHart (k : Core) (b : Nat) {h : Hart} (stores : h.stores = (k.hart b).stores)
    (slots : h.slots = (k.hart b).slots) (idle : k.Idle → h.pend = none ∧ h.young = []) : k.Halts (k.setHart b h) where
  task := rfl
  ctx := rfl
  st := rfl
  banks := rfl
  evq := rfl
  tiles := rfl
  gangs := id
  idle rest := by
    refine ⟨rest.1, fun d => ?_⟩
    by_cases same : d = b
    · rw [same, Core.hart_setHart]; exact idle rest
    · rw [Core.hart_setHart_of_ne _ _ same]; exact rest.2 d
  still rest e he := by
    rcases Tab.mem_put he with rfl | old
    · have was := rest.hart b
      exact ⟨stores.trans was.1, by rw [slots]; exact was.2⟩
    · exact rest e old

/-- A gang changed in a core that has any. -/
theorem Core.halts_setGang (k : Core) (g : Nat) (x : Gang) (any : k.gangs ≠ []) : k.Halts (k.setGang g x) :=
  ⟨rfl, rfl, rfl, rfl, rfl, rfl, fun empty => absurd empty any, id, id⟩

end

/-! ### The stop of one hart -/

/-- What stopping harts of core `c` leaves of the state. -/
structure HaltsAt (c : Nat) (s t : State) : Prop where
  core : (s.core c).Halts (t.core c)
  others : ∀ d, d ≠ c → t.core d = s.core d
  sched : t.sched = s.sched
  agenda : t.agenda = s.agenda
  mem : t.mem = s.mem

section
variable {c b : Nat} {s t u : State}

theorem HaltsAt.refl (c : Nat) (s : State) : HaltsAt c s s := ⟨.refl _, fun _ _ => rfl, rfl, rfl, rfl⟩

theorem HaltsAt.trans (h : HaltsAt c s t) (g : HaltsAt c t u) : HaltsAt c s u where
  core := h.core.trans g.core
  others d n := (g.others d n).trans (h.others d n)
  sched := g.sched.trans h.sched
  agenda := g.agenda.trans h.agenda
  mem := g.mem.trans h.mem

theorem haltsAt_setCore {k : Core} (h : (s.core c).Halts k) : HaltsAt c s (s.setCore c k) where
  core := by rw [State.core_setCore]; exact h
  others _ n := State.core_setCore_of_ne _ _ n
  sched := rfl
  agenda := rfl
  mem := rfl

theorem haltsAt_setHart {h : Hart} (stores : h.stores = (s.hart c b).stores) (slots : h.slots = (s.hart c b).slots)
    (idle : (s.core c).Idle → h.pend = none ∧ h.young = []) : HaltsAt c s (s.setHart c b h) :=
  haltsAt_setCore ((s.core c).halts_setHart b stores slots idle)

theorem haltsAt_traceMeet (s : State) (c kind value : Nat) : HaltsAt c s (s.traceMeet c kind value) where
  core := by
    obtain ⟨n, core⟩ := (logKeeps_traceMeet s c kind value).core c
    rw [core]
    exact Core.halts_traceLeft ..
  others _ n := State.core_traceMeet_of_ne _ _ _ n
  sched := (logKeeps_traceMeet ..).sched
  agenda := (logKeeps_traceMeet ..).agenda
  mem := (logKeeps_traceMeet ..).mem

theorem haltsAt_noFirst (s : State) (c : Nat) (w : Waiter) : HaltsAt c s (s.noFirst w) := by
  unfold State.noFirst
  split
  · exact HaltsAt.refl c s
  · exact ⟨.refl _, fun _ _ => rfl, rfl, rfl, rfl⟩

theorem haltsAt_engineStop (idle : (s.core c).Idle) (b : Nat) : HaltsAt c s (s.engineStop c b) := by
  rw [State.engineStop_free (by simp [idle.1])]
  exact haltsAt_setCore ⟨rfl, rfl, rfl, rfl, rfl, rfl, id, fun rest => ⟨by simp [rest.1], rest.2⟩, id⟩

theorem State.keepYoung_none (alone : (s.hart c b).young = []) : s.keepYoung c b = s := by
  rw [State.keepYoung, alone]
  rfl

/-- What a stop does first, of a hart with nothing in flight. -/
theorem haltsAt_stopped (idle : (s.core c).Idle) (b : Nat) : HaltsAt c s ((s.engineStop c b).keepYoung c b) := by
  have engine := haltsAt_engineStop idle b
  rw [State.keepYoung_none ((engine.core.idle idle).2 b).2]
  exact engine

/-- A hart with no word in flight takes part in no transfer (R254). -/
theorem State.sergeTry_idle (rest : (s.hart c b).pend = none) (found : List Nat) : s.sergeTry found c b = none := by
  have sending : s.sending c b = none := by simp [State.sending, rest]
  have receiving : s.receiving c b = none := by simp [State.receiving, rest]
  simp [State.sergeTry, State.sergeMove, sending, receiving]

theorem State.stopHart_idle (idle : (s.core c).Idle) (b : Nat) :
    ∃ e, s.stopHart c b = ((s.engineStop c b).keepYoung c b, some e) := by
  have rest : (((s.engineStop c b).keepYoung c b).hart c b).pend = none :=
    (((haltsAt_stopped idle b).core.idle idle).2 b).1
  rw [State.stopHart, State.sergeTry_idle (idle.2 b).1, Option.getD_none, State.stopWork]
  simp only [rest]
  exact ⟨_, rfl⟩

theorem haltsAt_suspend (idle : (s.core c).Idle) (b cause detail egi : Nat) :
    HaltsAt c s (s.suspend c b cause detail egi) := by
  have first := haltsAt_noFirst s c (.hart c b)
  have stopped := first.trans (haltsAt_stopped (first.core.idle idle) b)
  refine stopped.trans ?_
  have rest := stopped.core.idle idle
  unfold State.suspend
  generalize ((s.noFirst (.hart c b)).engineStop c b).keepYoung c b = t at rest ⊢
  dsimp only
  refine HaltsAt.trans (haltsAt_setCore ?_) (haltsAt_traceMeet ..)
  split
  · next inBlock =>
    refine Core.Halts.trans ?_ (Core.halts_setGang _ _ _ fun empty => ?_)
    · exact Core.halts_setHart _ b rfl rfl fun idle => ⟨rfl, (idle.2 b).2⟩
    have noGang (g : Nat) : (t.core c).gang g = {} := by
      rw [Core.gang, show (t.core c).gangs = [] from empty]
      rfl
    simp [noGang] at inBlock
  · exact Core.halts_setHart _ b rfl rfl fun idle => ⟨rfl, (idle.2 b).2⟩

/-- A stop makes no record (R155). -/
theorem State.hartFault_stop (s : State) (c b detail egi : Nat) :
    s.hartFault c b 0x86 detail egi = s.suspend c b 0x86 detail egi := by
  unfold State.hartFault
  exact if_pos rfl

theorem haltsAt_takeYoung (alone : (s.hart c b).young = []) (n : Nat) (pc : BitVec 48) :
    HaltsAt c s (State.takeYoung n c b pc s) := by
  cases n with
  | zero => exact HaltsAt.refl c s
  | succ n =>
    simp only [State.takeYoung, alone]
    exact haltsAt_setHart rfl rfl fun idle => ⟨(idle.2 b).1, rfl⟩

theorem haltsAt_killed (idle : (s.core c).Idle) (b egi : Nat) : HaltsAt c s (s.killed c b egi) := by
  have rest := idle.2 b
  unfold State.killed
  generalize s.placeLeft c b = place
  obtain ⟨pc, left⟩ := place
  dsimp -zeta only
  extract_lets _ s0 s1
  have moved : HaltsAt c s s0 := by
    show HaltsAt c s (ite _ _ _)
    split
    · exact haltsAt_setHart rfl rfl fun _ => rest
    · rw [State.keepYoung_none rest.2]
      exact haltsAt_takeYoung rest.2 ..
  have faulted : HaltsAt c s s1 := by
    refine moved.trans ?_
    rw [show s1 = _ from State.hartFault_stop ..]
    exact haltsAt_suspend (moved.core.idle idle) ..
  clear_value s1
  exact faulted.trans (haltsAt_setHart rfl rfl fun idle => idle.2 b)

theorem haltsAt_killHart (idle : (s.core c).Idle) (b : Nat) : HaltsAt c s (s.killHart c b) := by
  unfold State.killHart
  split
  · exact HaltsAt.refl c s
  · exact HaltsAt.refl c s
  · obtain ⟨e, stop⟩ := State.stopHart_idle idle b
    have stopped := haltsAt_stopped idle b
    rw [stop]
    exact stopped.trans (haltsAt_killed (stopped.core.idle idle) ..)

theorem haltsAt_killHarts (idle : (s.core c).Idle) (bs : List Nat) : HaltsAt c s (s.killHarts c bs) := by
  unfold State.killHarts
  induction bs generalizing s with
  | nil => exact HaltsAt.refl c s
  | cons b bs ih =>
    have first := haltsAt_killHart idle b
    exact first.trans (ih (first.core.idle idle))

/-- A hart with no word in flight is midway through none. -/
theorem Hart.midway_none {h : Hart} (rest : h.pend = none) : h.midway = false := by
  rw [Hart.midway, rest]

theorem haltsAt_stopHarts (idle : (s.core c).Idle) (bs : List Nat) : HaltsAt c s (s.stopHarts c bs) := by
  have none : bs.filter (fun b => (s.hart c b).midway) = [] :=
    List.filter_eq_nil_iff.2 fun b _ => Bool.not_eq_true _ ▸ Hart.midway_none (idle.2 b).1
  rw [State.stopHarts, none]
  exact haltsAt_killHarts idle _

end

end Sys2Proof.Machine
end

section
/-! # A task ends (O42)

Of a task that can end at once, the harts stop, the work of its cores is disposed of, and the task is dropped. `WindsDown` is
what each of these leaves until the cores are freed; a core whose work has ended is `Core.Emptied`. -/

namespace Sys2Proof.Machine

/-! ### What is left of a core -/

/-- The bank belongs to no context, and its registers are clear (R423). -/
def Bank.Cleared (x : Bank) : Prop := x.owner = 0 ∧ x.regs = []

/-- The core has no gang, event or accumulator tile. -/
def Core.Blank (k : Core) : Prop := k.gangs = [] ∧ k.evq = [] ∧ k.tiles = []

/-- `l` has nothing left of the context that `k` has on the core. -/
def Core.Emptied (k l : Core) : Prop :=
  l.Blank ∧ (k.ctx ≠ 0 → ∀ b, (k.bank b).owner = k.ctx.toNat → (l.bank b).Cleared)

/-- What the end of a task leaves of core `k` until the core is freed. -/
structure Core.WindsDown (k l : Core) : Prop where
  task : l.task = k.task
  ctx : l.ctx = k.ctx
  st : l.st = k.st ∨ l.st = .ended
  idle : k.Idle → l.Idle
  still : k.Still → l.Still
  blank : k.Blank → l.Blank
  bank : ∀ b, ((l.bank b).owner = (k.bank b).owner ∧ (l.bank b).regs = (k.bank b).regs) ∨ (l.bank b).Cleared
  emptied : k.st ≠ .ended → l.st = .ended → k.Emptied l

section
variable {k l m : Core}

theorem Core.WindsDown.bank_cleared (h : k.WindsDown l) {b : Nat} (was : (k.bank b).Cleared) : (l.bank b).Cleared := by
  rcases h.bank b with ⟨owner, regs⟩ | clear
  · exact ⟨owner.trans was.1, regs.trans was.2⟩
  · exact clear

theorem Core.WindsDown.stays_ended (h : k.WindsDown l) (was : k.st = .ended) : l.st = .ended :=
  h.st.elim (·.trans was) id

theorem Core.Halts.windsDown (h : k.Halts l) : k.WindsDown l where
  task := h.task
  ctx := h.ctx
  st := .inl h.st
  idle := h.idle
  still := h.still
  blank := fun ⟨gangs, evq, tiles⟩ => ⟨h.gangs gangs, h.evq.trans evq, h.tiles.trans tiles⟩
  bank b := by rw [Core.bank, h.banks]; exact .inl ⟨rfl, rfl⟩
  emptied going ended := absurd (h.st.symm.trans ended) going

theorem Core.WindsDown.trans (h : k.WindsDown l) (g : l.WindsDown m) : k.WindsDown m where
  task := g.task.trans h.task
  ctx := g.ctx.trans h.ctx
  st := by
    rcases g.st with same | ended
    · exact h.st.imp same.trans same.trans
    · exact .inr ended
  idle := g.idle ∘ h.idle
  still := g.still ∘ h.still
  blank := g.blank ∘ h.blank
  bank b := by
    rcases h.bank b with ⟨owner, regs⟩ | clear
    · rw [← owner, ← regs]; exact g.bank b
    · exact .inr (g.bank_cleared clear)
  emptied going ended := by
    by_cases before : l.st = .ended
    · obtain ⟨blank, banks⟩ := h.emptied going before
      exact ⟨g.blank blank, fun context b owned => g.bank_cleared (banks context b owned)⟩
    · obtain ⟨blank, banks⟩ := g.emptied before ended
      refine ⟨blank, fun context b owned => ?_⟩
      rcases h.bank b with ⟨owner, -⟩ | clear
      · rw [h.ctx] at banks
        exact banks context b (owner.trans owned)
      · exact g.bank_cleared clear

/-! ### The disposal of a context (R403, R423) -/

theorem Tab.get_mapVals {α : Type} (t : Tab α) (f : Nat → α → α) (k : Nat) (d : α) :
    (t.mapVals f).get k d = ((t.find k).map (f k)).getD d := by
  rw [Tab.get, Tab.find_mapVals]

theorem Bank.dispose_cases (x : Bank) (n : Nat) :
    ((x.dispose n).owner = x.owner ∧ (x.dispose n).regs = x.regs ∧ ¬(x.owner = n ∧ n ≠ 0)) ∨ (x.dispose n).Cleared := by
  unfold Bank.dispose
  split
  · exact .inr ⟨rfl, rfl⟩
  · next other => exact .inl ⟨rfl, rfl, other⟩

/-- A bank of the context that is disposed of is cleared, and every other keeps its owner and registers. -/
theorem Core.bank_dropCtx (k : Core) (n b : Nat) :
    (((k.dropCtx n).bank b).owner = (k.bank b).owner ∧ ((k.dropCtx n).bank b).regs = (k.bank b).regs ∧
      ¬((k.bank b).owner = n ∧ n ≠ 0)) ∨ ((k.dropCtx n).bank b).Cleared := by
  rw [Core.bank, Core.dropCtx, Tab.get_mapVals, Core.bank, Tab.get]
  cases k.banks.find b with
  | none => exact .inr ⟨rfl, rfl⟩
  | some x =>
    dsimp only [Option.map_some, Option.getD_some]
    split
    · exact x.dispose_cases n
    · exact x.dispose_cases n

theorem Core.windsDown_dropCtx (k : Core) (n : Nat) : k.WindsDown (k.dropCtx n) where
  task := rfl
  ctx := rfl
  st := .inl rfl
  idle := id
  still := id
  blank := id
  bank b := (k.bank_dropCtx n b).imp_left fun ⟨owner, regs, _⟩ => ⟨owner, regs⟩
  emptied going ended := absurd ended going

theorem Hart.ended_still {h : Hart} (still : h.Still) (b : Nat) : (h.ended b).Still :=
  ⟨still.1, fun _ hx => still.2 _ (List.mem_filter.1 hx).1⟩

theorem Core.endWork_idle (k : Core) : k.endWork.Idle := by
  refine ⟨rfl, fun b => ?_⟩
  have hart : k.endWork.hart b = ((k.harts.find b).map fun h => h.ended b).getD (Hart.init b) :=
    Tab.get_mapVals k.harts (fun b h => h.ended b) b _
  rw [hart]
  cases k.harts.find b <;> exact ⟨rfl, rfl⟩

theorem Core.endWork_still (still : k.Still) : k.endWork.Still := by
  intro e he
  obtain ⟨d, hd, rfl⟩ := List.mem_map.1 he
  exact Hart.ended_still (still d hd) _

theorem Core.windsDown_endWork (k : Core) : k.WindsDown k.endWork where
  task := rfl
  ctx := rfl
  st := .inr rfl
  idle _ := k.endWork_idle
  still := Core.endWork_still
  blank _ := ⟨rfl, rfl, rfl⟩
  bank := (k.windsDown_dropCtx k.ctx.toNat).bank
  emptied _ _ := by
    refine ⟨⟨rfl, rfl, rfl⟩, fun context b owned => ?_⟩
    rcases k.bank_dropCtx k.ctx.toNat b with ⟨-, -, other⟩ | clear
    · exact absurd ⟨owned, fun zero => context (BitVec.eq_of_toNat_eq zero)⟩ other
    · exact clear

end

/-! ### What is left of the state -/

/-- What the end of a task on the cores `cs` leaves of the state until they are freed. -/
structure WindsDown (cs : List Nat) (s t : State) : Prop where
  core : ∀ c, (s.core c).WindsDown (t.core c)
  others : ∀ c, c ∉ cs → (t.core c).banks = (s.core c).banks ∧ (t.core c).harts = (s.core c).harts
  task : ∀ n x, s.task n = some x → ∃ y, t.task n = some y ∧ y.num = x.num ∧ y.cores = x.cores ∧ y.recd = x.recd
  agenda : t.agenda = s.agenda
  mem : t.mem = s.mem

section
variable {cs : List Nat} {c : Nat} {s t u : State}

theorem WindsDown.trans (h : WindsDown cs s t) (g : WindsDown cs t u) : WindsDown cs s u where
  core c := (h.core c).trans (g.core c)
  others c away := by
    obtain ⟨banks, harts⟩ := h.others c away
    obtain ⟨banks', harts'⟩ := g.others c away
    exact ⟨banks'.trans banks, harts'.trans harts⟩
  task n x found := by
    obtain ⟨y, isY, num, cores, recd⟩ := h.task n x found
    obtain ⟨z, isZ, num', cores', recd'⟩ := g.task n y isY
    exact ⟨z, isZ, num'.trans num, cores'.trans cores, recd'.trans recd⟩
  agenda := g.agenda.trans h.agenda
  mem := g.mem.trans h.mem

theorem WindsDown.holds (h : WindsDown cs s t) (c n : Nat) : t.holds c n = s.holds c n := by
  rw [State.holds, (h.core c).task, State.holds]

/-- The same tasks in both states. -/
theorem task_of_tasks (h : t.sched.tasks = s.sched.tasks) (n : Nat) : t.task n = s.task n := by
  rw [State.task, h, State.task]

theorem LogKeeps.windsDown (h : LogKeeps s t) (cs : List Nat) : WindsDown cs s t where
  core c := by
    obtain ⟨n, core⟩ := h.core c
    rw [core]
    exact (Core.halts_traceLeft _ n).windsDown
  others c _ := by
    obtain ⟨n, core⟩ := h.core c
    rw [core]
    exact ⟨rfl, rfl⟩
  task n x found := ⟨x, by rw [task_of_tasks (congrArg Sched.tasks h.sched)]; exact found, rfl, rfl, rfl⟩
  agenda := h.agenda
  mem := h.mem

theorem WindsDown.refl (cs : List Nat) (s : State) : WindsDown cs s s := (LogKeeps.refl s).windsDown cs

/-- A core of the task winds down, while others may lose parts in RED (R366). -/
theorem windsDown_of_core (mine : c ∈ cs) (core : (s.core c).WindsDown (t.core c))
    (others : ∀ d, d ≠ c → ∃ reds, t.core d = { s.core d with reds := reds })
    (tasks : t.sched.tasks = s.sched.tasks) (agenda : t.agenda = s.agenda) (mem : t.mem = s.mem) : WindsDown cs s t where
  core d := by
    by_cases same : d = c
    · rw [same]; exact core
    · obtain ⟨reds, left⟩ := others d same
      rw [left]
      exact (Core.halts_reds _ reds).windsDown
  others d away := by
    obtain ⟨reds, left⟩ := others d fun same => away (same ▸ mine)
    rw [left]
    exact ⟨rfl, rfl⟩
  task n x found := ⟨x, by rw [task_of_tasks tasks]; exact found, rfl, rfl, rfl⟩
  agenda := agenda
  mem := mem

theorem HaltsAt.windsDown (h : HaltsAt c s t) (mine : c ∈ cs) : WindsDown cs s t :=
  windsDown_of_core mine h.core.windsDown (fun d other => ⟨_, h.others d other⟩) (congrArg Sched.tasks h.sched) h.agenda h.mem

/-- A task changed in neither its number, its cores nor its record. -/
theorem windsDown_mapTask (cs : List Nat) (s : State) (n : Nat) {f : Task → Task} (num : ∀ x, (f x).num = x.num)
    (cores : ∀ x, (f x).cores = x.cores) (recd : ∀ x, (f x).recd = x.recd) : WindsDown cs s (s.mapTask n f) where
  core _ := (Core.Halts.refl _).windsDown
  others _ _ := ⟨rfl, rfl⟩
  task i x found := by
    have mapped : (s.mapTask n f).task i = some (if x.num = n then f x else x) := by
      show (s.sched.tasks.map _).find? _ = _
      rw [find?_map_num (fun x => by split <;> simp [num])]
      exact congrArg (Option.map _) found
    exact ⟨_, mapped, by split <;> simp [num], by split <;> simp [cores], by split <;> simp [recd]⟩
  agenda := rfl
  mem := rfl

/-- Steps in turn, each from a state that keeps `P`, which winding down keeps. -/
theorem windsDown_foldl {α : Type} {P : State → Prop} {f : State → α → State} {l : List α}
    (keep : ∀ u v, WindsDown cs u v → P u → P v) (step : ∀ u a, a ∈ l → P u → WindsDown cs u (f u a)) {s : State} (h : P s) :
    WindsDown cs s (l.foldl f s) := by
  induction l generalizing s with
  | nil => exact WindsDown.refl cs s
  | cons a l ih =>
    have first := step s a List.mem_cons_self h
    exact first.trans (ih (fun u b hb => step u b (List.mem_cons_of_mem _ hb)) (keep _ _ first h))

/-! ### The work on one core ends (R423) -/

theorem State.dropLaunch_keeps (s : State) (c : Nat) : (s.dropLaunch c).cores = s.cores ∧
    (s.dropLaunch c).sched.tasks = s.sched.tasks ∧ (s.dropLaunch c).agenda = s.agenda ∧ (s.dropLaunch c).mem = s.mem := by
  unfold State.dropLaunch
  dsimp only
  split <;> exact ⟨rfl, rfl, rfl, rfl⟩

theorem State.core_coreLeavesReds (s : State) (c d : Nat) :
    ∃ reds, (s.coreLeavesReds c).core d = { s.core d with reds := reds } := by
  rw [State.core, State.coreLeavesReds, Tab.get_mapVals, State.core, Tab.get]
  cases s.cores.find d with
  | none => exact ⟨[], rfl⟩
  | some k => exact ⟨_, rfl⟩

theorem State.core_endWork (s : State) (c d : Nat) :
    ∃ reds, (s.endWork c).core d = { (s.setCore c (s.core c).endWork).core d with reds := reds } := by
  obtain ⟨reds, core⟩ := (s.setCore c (s.core c).endWork).core_coreLeavesReds c d
  refine ⟨reds, ?_⟩
  rw [State.endWork, State.core, (State.dropLaunch_keeps ..).1]
  exact core

theorem State.endWork_tasks (s : State) (c : Nat) : (s.endWork c).sched.tasks = s.sched.tasks := by
  rw [State.endWork, (State.dropLaunch_keeps ..).2.1]
  rfl

theorem windsDown_endWork (mine : c ∈ cs) (s : State) : WindsDown cs s (s.endWork c) := by
  refine windsDown_of_core mine ?_ (fun d other => ?_) (s.endWork_tasks c) ?_ (s.endWork_mem c)
  · obtain ⟨reds, core⟩ := s.core_endWork c c
    rw [core, State.core_setCore]
    exact (s.core c).windsDown_endWork.trans (Core.halts_reds _ reds).windsDown
  · obtain ⟨reds, core⟩ := s.core_endWork c d
    exact ⟨reds, by rw [core, State.core_setCore_of_ne _ _ other]⟩
  · rw [State.endWork, (State.dropLaunch_keeps ..).2.2.1]
    rfl

theorem State.core_endWork_ended (s : State) (c : Nat) : ((s.endWork c).core c).st = .ended := by
  obtain ⟨reds, core⟩ := s.core_endWork c c
  rw [core, State.core_setCore]
  rfl

theorem windsDown_dropSaved (mine : c ∈ cs) (s : State) (n : Nat) : WindsDown cs s (s.dropSaved n c) := by
  have core (l : List (Nat × Saved)) (k : Core) : k.WindsDown (l.foldl (fun q e => q.dropCtx e.1) k) := by
    induction l generalizing k with
    | nil => exact (Core.Halts.refl k).windsDown
    | cons e l ih => exact (k.windsDown_dropCtx e.1).trans (ih _)
  refine windsDown_of_core mine ?_ (fun d other => ⟨_, State.core_setCore_of_ne _ _ other⟩) rfl rfl rfl
  rw [State.dropSaved, State.core_setCore]
  exact core _ _

/-! ### The cores of the task -/

/-- What the disposal of task `n` does of one core. -/
def State.disposeCore (n : Nat) (s : State) (c : Nat) : State :=
  let u := s.dropSaved n c
  if u.holds c n && (u.core c).st != .ended then u.endWork c else u

theorem windsDown_disposeCore (mine : c ∈ cs) (n : Nat) (s : State) : WindsDown cs s (s.disposeCore n c) := by
  have saved := windsDown_dropSaved mine s n
  unfold State.disposeCore
  dsimp only
  split
  · exact saved.trans (windsDown_endWork mine _)
  · exact saved

theorem State.core_disposeCore_ended {n : Nat} (holds : s.holds c n = true) : ((s.disposeCore n c).core c).st = .ended := by
  have held : (s.dropSaved n c).holds c n = true :=
    ((windsDown_dropSaved List.mem_cons_self s n : WindsDown [c] _ _).holds c n).trans holds
  unfold State.disposeCore
  dsimp only
  rw [held]
  split
  · exact State.core_endWork_ended ..
  · next ended => simpa using ended

theorem windsDown_disposeCores {n : Nat} {l : List Nat} (mine : ∀ c ∈ l, c ∈ cs) (s : State) :
    WindsDown cs s (l.foldl (State.disposeCore n) s) :=
  windsDown_foldl (P := fun _ => True) (fun _ _ _ => id) (fun u c hc _ => windsDown_disposeCore (mine c hc) n u) trivial

/-- Where the task holds a core, its work has ended there (R403). -/
theorem core_disposeCores_ended {n : Nat} {l : List Nat} (s : State) (here : c ∈ l) (holds : s.holds c n = true) :
    ((l.foldl (State.disposeCore n) s).core c).st = .ended := by
  induction l generalizing s with
  | nil => exact absurd here List.not_mem_nil
  | cons d l ih =>
    have first : WindsDown (d :: l) s (s.disposeCore n d) := windsDown_disposeCore List.mem_cons_self n s
    have rest : WindsDown (d :: l) (s.disposeCore n d) (l.foldl (State.disposeCore n) (s.disposeCore n d)) :=
      windsDown_disposeCores (fun c hc => List.mem_cons_of_mem d hc) _
    by_cases same : c = d
    · subst same
      exact (rest.core c).stays_ended (State.core_disposeCore_ended holds)
    · exact ih _ ((List.mem_cons.1 here).resolve_left same) ((first.holds c n).trans holds)

/-- What the stop of a task does of one core (R403). -/
def State.stopCore (s : State) (c : Nat) : State :=
  (s.setCt c { s.ct c with running := false }).stopHarts c (s.core c).harts.keys

theorem haltsAt_setCt (s : State) (c : Nat) (x : Ct) : HaltsAt c s (s.setCt c x) :=
  haltsAt_setCore ⟨rfl, rfl, rfl, rfl, rfl, rfl, id, id, id⟩

theorem haltsAt_stopCore (idle : (s.core c).Idle) : HaltsAt c s (s.stopCore c) := by
  have thread := haltsAt_setCt s c { s.ct c with running := false }
  exact thread.trans (haltsAt_stopHarts (thread.core.idle idle) _)

section
variable {x : Task} (idle : ∀ c ∈ x.cores, s.holds c x.num = true → (s.core c).Idle)
include idle

theorem windsDown_stopTask : WindsDown x.cores s (s.stopTask x) := by
  have work {c : Nat} (hc : c ∈ s.workCores x) : c ∈ x.cores ∧ (s.core c).Idle := by
    obtain ⟨mine, held⟩ := List.mem_filter.1 hc
    exact ⟨mine, idle c mine (Bool.and_eq_true_iff.1 held).1⟩
  refine windsDown_foldl (P := fun u => ∀ c ∈ s.workCores x, (u.core c).Idle) (fun u v down rest c hc => ?_)
    (fun u c hc rest => ?_) fun c hc => (work hc).2
  · exact (down.core c).idle (rest c hc)
  · exact (haltsAt_stopCore (rest c hc)).windsDown (work hc).1

/-- No hart of the task has still to stop. -/
theorem State.stopping_idle : s.stopping x = false := by
  simp only [State.stopping, State.anyMidway, List.any_eq_false]
  intro c hc
  obtain ⟨mine, held⟩ := List.mem_filter.1 hc
  have rest := idle c mine (Bool.and_eq_true_iff.1 held).1
  simp only [Bool.not_eq_true, List.any_eq_false]
  exact fun b _ => Hart.midway_none (rest.2 b).1

end

theorem State.copying_eq_false {x : Task} :
    s.copying x = false ↔ ∀ c ∈ x.cores, s.holds c x.num = true → (s.core c).Still := by
  simp only [State.copying, Core.Still, Hart.Still, List.any_eq_false, Bool.and_eq_true, not_and, Bool.not_eq_true,
    Bool.or_eq_false_iff, bne_eq_false_iff_eq]

/-! ### The task is dropped (R79, R94) -/

/-- What freeing the cores of task `n` does of one core. -/
def State.freeCore (n : Nat) (s : State) (c : Nat) : State :=
  if s.holds c n then s.setCore c (s.core c).release else s

theorem State.core_freeCore (n : Nat) (s : State) (c : Nat) :
    (s.freeCore n c).core c = if s.holds c n then (s.core c).release else s.core c := by
  unfold State.freeCore
  split
  · exact State.core_setCore ..
  · rfl

theorem State.core_freeCore_of_ne (n : Nat) (s : State) {c d : Nat} (other : d ≠ c) :
    (s.freeCore n c).core d = s.core d := by
  unfold State.freeCore
  split
  · exact State.core_setCore_of_ne _ _ other
  · rfl

theorem State.freed_not_held (n : Nat) (s : State) (c : Nat) : (s.freeCore n c).holds c n = false := by
  rw [State.holds, State.core_freeCore]
  split
  · rfl
  · next free => exact Bool.not_eq_true _ ▸ free

theorem core_freeCores (n : Nat) (l : List Nat) (s : State) (c : Nat) :
    (l.foldl (State.freeCore n) s).core c = if c ∈ l ∧ s.holds c n = true then (s.core c).release else s.core c := by
  induction l generalizing s with
  | nil => rw [if_neg fun here => absurd here.1 List.not_mem_nil]; rfl
  | cons d l ih =>
    rw [List.foldl_cons, ih]
    by_cases same : c = d
    · subst same
      simp [State.freed_not_held, State.core_freeCore]
    · rw [State.holds, State.core_freeCore_of_ne n s same, ← State.holds]
      simp [same]

theorem core_clustersBack (l : List Nat) (s : State) (c : Nat) :
    (l.foldl (fun u n => u.clusterBack n) s).core c = s.core c := by
  induction l generalizing s with
  | nil => rfl
  | cons n l ih =>
    obtain ⟨p, power⟩ := s.clusterBack_power n
    rw [List.foldl_cons, ih, power]
    rfl

theorem State.core_dropTask (s : State) (x : Task) (c : Nat) : (s.dropTask x).core c =
    if c ∈ x.cores ∧ s.holds c x.num = true then (s.core c).release else s.core c :=
  (core_clustersBack ..).trans (core_freeCores x.num x.cores s c)

theorem State.task_dropTask (s : State) (x : Task) : (s.dropTask x).task x.num = none := by
  refine List.find?_eq_none.2 fun y hy => ?_
  have other : (y.num != x.num) = true := (List.mem_filter.1 hy).2
  simpa using other

/-- `u` has dropped task `t` of `s`, once its work had ended on each core it held. -/
structure Dropped (s u : State) (t : Task) : Prop where
  drop : ∃ v y, u = v.dropTask y ∧ y.num = t.num ∧ y.cores = t.cores ∧ WindsDown t.cores s v ∧
    ∀ c ∈ t.cores, s.holds c t.num = true → (v.core c).st = .ended

theorem Dropped.of_windsDown {t x : Task} (down : WindsDown t.cores s u) {v : State} (h : Dropped u v x)
    (num : x.num = t.num) (cores : x.cores = t.cores) : Dropped s v t := by
  obtain ⟨w, y, drop, num', cores', rest, ended⟩ := h.drop
  rw [cores] at rest ended
  exact ⟨w, y, drop, num'.trans num, cores'.trans cores, down.trans rest,
    fun c mine held => ended c mine (by rw [num, down.holds]; exact held)⟩

theorem Dropped.gone {t : Task} (h : Dropped s u t) : Gone s u t := by
  obtain ⟨v, y, rfl, num, cores, down, ended⟩ := h.drop
  have core (c : Nat) : (v.dropTask y).core c =
      if c ∈ t.cores ∧ s.holds c t.num = true then (v.core c).release else v.core c := by
    rw [State.core_dropTask, num, cores, down.holds]
  refine ⟨by rw [← num]; exact v.task_dropTask y, fun c mine held => ?_, fun c mine held going => ?_, fun c away => ?_,
    (v.dropTask_mem y).trans down.mem⟩
  · rw [core, if_pos ⟨mine, held⟩]
    exact ⟨rfl, rfl, rfl⟩
  · obtain ⟨⟨gangs, evq, tiles⟩, banks⟩ := (down.core c).emptied going (ended c mine held)
    simp only [State.bank, core, if_pos (And.intro mine held)]
    exact ⟨gangs, evq, tiles, banks⟩
  · rw [core, if_neg fun here => away here.1]
    exact down.others c away

/-! ### The end of a task that asks for no record (R403) -/

theorem State.finishTask_noRecord {x : Task} (quiet : s.copying x = false) (noRecord : cqEnabled x.recd.cq = false)
    (e : TaskEnd) : (s.finishTask x e).1 = (s.signal x.recd.signal).dropTask x := by
  simp [State.finishTask, quiet, noRecord]

/-- The task's work is disposed of, and the task is left to its record (R403). -/
def State.disposed (s : State) (x : Task) (n : Nat) : State :=
  (s.disposeTask x).mapTask n fun x => { x with stage := .ending }

theorem State.goEnd_stopped {n : Nat} {x y : Task} {e : TaskEnd} (found : s.task n = some x) (ends : x.ends = some e)
    (running : x.stage = .running) (unsaved : s.saving x = false) (alone : s.sameClk = false)
    (stopped : (s.stopTask x).stopping x = false) (still : ((s.stopTask x).disposed x n).task n = some y) :
    s.goEnd n = (((s.stopTask x).disposed x n).finishTask y e).1 := by
  have going : ¬(x.stage = .ending) := by rw [running]; decide
  rw [State.disposed] at still
  simp [State.goEnd, State.disposed, found, ends, going, unsaved, alone, stopped, still]

/-- The end that has been decided of a task on its cores drops it. -/
theorem goEnd_drops {x : Task} {e : TaskEnd} (found : s.task x.num = some x) (ends : x.ends = some e)
    (running : x.stage = .running) (unsaved : s.saving x = false) (alone : s.sameClk = false)
    (quiet : s.copying x = false) (noRecord : cqEnabled x.recd.cq = false)
    (idle : ∀ c ∈ x.cores, s.holds c x.num = true → (s.core c).Idle) : Dropped s (s.goEnd x.num) x := by
  have stop := windsDown_stopTask idle
  have stopped : (s.stopTask x).stopping x = false :=
    State.stopping_idle fun c mine held => (stop.core c).idle (idle c mine ((stop.holds c _).symm.trans held))
  have dispose : WindsDown x.cores (s.stopTask x) ((s.stopTask x).disposeTask x) := windsDown_disposeCores (fun _ => id) _
  have marked : WindsDown x.cores ((s.stopTask x).disposeTask x) ((s.stopTask x).disposed x x.num) :=
    windsDown_mapTask _ _ _ (fun _ => rfl) (fun _ => rfl) fun _ => rfl
  have down := stop.trans (dispose.trans marked)
  obtain ⟨y, still, num, cores, recd⟩ := down.task _ x found
  have copied : ((s.stopTask x).disposed x x.num).copying y = false := by
    rw [State.copying_eq_false, num, cores]
    intro c mine held
    exact (down.core c).still (State.copying_eq_false.1 quiet c mine ((down.holds c _).symm.trans held))
  have signal := (logKeeps_signal ((s.stopTask x).disposed x x.num) y.recd.signal).windsDown x.cores
  refine ⟨_, y, ?_, num, cores, down.trans signal, fun c mine held => ?_⟩
  · rw [State.goEnd_stopped found ends running unsaved alone stopped still,
      State.finishTask_noRecord copied (by rw [recd]; exact noRecord)]
  · have ended : (((s.stopTask x).disposeTask x).core c).st = .ended :=
      core_disposeCores_ended _ mine ((stop.holds c _).trans held)
    exact ((marked.trans signal).core c).stays_ended ended

/-- The task once its end has been decided (R403). -/
def Task.decided (t : Task) (e : TaskEnd) (now : Nat) : Task := { t with ends := some e, endAt := now }

/-- A task that can end at once is dropped by its end. -/
theorem Ending.endTask {t : Task} (h : Ending s t) (e : TaskEnd) : Dropped s (s.endTask t.num e) t := by
  have decided : WindsDown t.cores s (s.mapTask t.num (·.decided e s.now)) :=
    windsDown_mapTask _ _ _ (fun _ => rfl) (fun _ => rfl) fun _ => rfl
  have found : (s.mapTask t.num (·.decided e s.now)).task t.num = some (t.decided e s.now) :=
    State.task_mapTask h.listed fun _ => rfl
  have drops : Dropped (s.mapTask t.num (·.decided e s.now)) ((s.mapTask t.num (·.decided e s.now)).goEnd t.num)
      (t.decided e s.now) :=
    goEnd_drops (x := t.decided e s.now) found rfl h.onCores h.unsaved h.alone h.quiet h.noRecord h.idle
  have goes : s.endTask t.num e = (s.mapTask t.num (·.decided e s.now)).goEnd t.num := by
    simp only [State.endTask, h.listed, h.going]
    rfl
  rw [goes]
  exact .of_windsDown decided drops rfl rfl

/-- A task that can end at once still can as its cores wind down. -/
theorem Ending.of_windsDown {t x : Task} (h : Ending s t) (down : WindsDown cs s u) (listed : u.task x.num = some x)
    (num : x.num = t.num) (cores : x.cores = t.cores) (recd : x.recd = t.recd) (ends : x.ends = none)
    (stage : x.stage = .running) : Ending u x where
  listed := listed
  going := ends
  onCores := stage
  unsaved := by
    have unsaved := h.unsaved
    simp only [State.saving, List.any_eq_false, Bool.and_eq_true, not_and, beq_iff_eq] at unsaved ⊢
    rw [num, cores]
    intro c mine held
    rcases (down.core c).st with same | ended
    · rw [same]; exact unsaved c mine ((down.holds c _).symm.trans held)
    · rw [ended]; decide
  quiet := by
    rw [State.copying_eq_false, num, cores]
    intro c mine held
    exact (down.core c).still (State.copying_eq_false.1 h.quiet c mine ((down.holds c _).symm.trans held))
  noRecord := by rw [recd]; exact h.noRecord
  idle := by
    rw [num, cores]
    intro c mine held
    exact (down.core c).idle (h.idle c mine ((down.holds c _).symm.trans held))
  alone := by rw [State.sameClk, down.agenda]; exact h.alone

/-! ### What ends it: a trap and the watchdog (R402, R404) -/

section
variable {t : Task}

theorem logKeeps_logTrap (s : State) (c code : Nat) : LogKeeps s (s.logTrap c code) := by
  unfold State.logTrap
  dsimp only
  split
  · exact LogKeeps.refl s
  · exact logKeeps_foldl (fun _ _ => logKeeps_logEvent ..) _ _

theorem taskFaultEnd_gone (h : Ending s t) {core code : Nat} (holds : s.holds core t.num = true)
    (cause : (s.ct core).disposition = some code) :
    ∃ u, exec (.taskFaultEnd t.num core code) s = .next u ∧ Gone s u t := by
  have keeps := logKeeps_logTrap s core code
  have logged := keeps.windsDown t.cores
  have listed : (s.logTrap core code).task t.num = some t := by
    rw [task_of_tasks (congrArg Sched.tasks keeps.sched)]; exact h.listed
  have ending : Ending (s.logTrap core code) t := h.of_windsDown logged listed rfl rfl rfl h.going h.onCores
  have run : exec (.taskFaultEnd t.num core code) s = .next ((s.logTrap core code).faultTask t.num core code) :=
    congrArg Host.Outcome.next (if_pos (by rw [holds, cause]; simp))
  exact ⟨_, run, (Dropped.of_windsDown logged (ending.endTask _) rfl rfl).gone⟩

theorem taskFaultEnd_other (s : State) (n : Nat) {core code : Nat} (other : (s.ct core).disposition ≠ some code) :
    exec (.taskFaultEnd n core code) s = .next s :=
  congrArg Host.Outcome.next (if_neg (by simp [other]))

theorem watchdog_gone (h : Ending s t) (limit : t.recd.watchdog ≠ 0) (reached : t.recd.watchdog.toNat * 1000 ≤ s.runTime t) :
    ∃ u, exec (.watchdogExpiry t.num) s = .next u ∧ Gone s u t := by
  have live : t.live = true := by simp [Task.live, h.onCores]
  have run : s.watchdog t.num = s.endTask t.num ⟨3, 0, 0⟩ := by
    simp only [State.watchdog, h.listed]
    exact if_pos ⟨limit, by simp [live], reached⟩
  exact ⟨_, congrArg Host.Outcome.next run, (h.endTask _).gone⟩

theorem watchdog_early (h : Ending s t)
    (early : t.recd.watchdog = 0 ∨ s.runTime t < t.recd.watchdog.toNat * 1000) :
    exec (.watchdogExpiry t.num) s = .next s := by
  have run : s.watchdog t.num = s := by
    simp only [State.watchdog, h.listed]
    refine if_neg fun ⟨limit, _, reached⟩ => ?_
    rcases early with zero | before
    · exact limit zero
    · omega
  exact congrArg Host.Outcome.next run

/-! ### TASKEND of its one core (R160) -/

/-- TASKEND has discarded the blocks not started, and the thread goes on to its end (R160). -/
def State.taskending (s : State) (c : Nat) : State :=
  (s.dropBlocks c).setCt c { (s.dropBlocks c).ct c with ending := true }

theorem haltsAt_taskending (s : State) (c : Nat) : HaltsAt c s (s.taskending c) := by
  have blocks : HaltsAt c s (s.dropBlocks c) :=
    haltsAt_setCore ⟨rfl, rfl, rfl, rfl, rfl, rfl, fun empty => by rw [empty]; rfl, id, id⟩
  exact blocks.trans (haltsAt_setCt ..)

theorem State.taskending_harts (s : State) (c : Nat) : ((s.taskending c).core c).harts = (s.core c).harts := by
  simp [State.taskending, State.dropBlocks]

theorem State.taskending_dcache (s : State) (c : Nat) : ((s.taskending c).ct c).dcache = (s.ct c).dcache := by
  simp [State.taskending, State.dropBlocks, State.ct]

theorem State.dropBlocks_run (s : State) (c : Nat) : (s.dropBlocks c).blocksRun c = s.blocksRun c := by
  simp [State.blocksRun, State.dropBlocks, Tab.mapVals, Function.comp_def]

theorem State.dropBlocks_split (s : State) (c : Nat) : (s.dropBlocks c).splitHarts c = s.splitHarts c := by
  simp [State.splitHarts, State.dropBlocks, State.hart, Core.hart]

/-- A core whose task asks for no record is not held back by a full hold (R79). -/
theorem State.endBlocked_noRecord {n : Nat} {x : Task} (found : s.task n = some x) (noRecord : cqEnabled x.recd.cq = false)
    (c : Nat) : s.endBlocked c n = false := by
  simp [State.endBlocked, found, noRecord]

/-- With no block in progress, no split hart and no word cached, TASKEND ends the core's work at once. -/
theorem State.taskend_done {n : Nat} {x : Task} (runs : s.blocksRun c = false) (alone : s.splitHarts c = [])
    (cache : (s.ct c).dcache = []) (quiet : s.coreQuiet c = true) (holds : s.holds c n = true) (found : s.task n = some x)
    (noRecord : cqEnabled x.recd.cq = false) : s.taskend c = (s.taskending c).coreDone c n := by
  have stop : (s.taskending c).stopHarts c [] = s.taskending c := rfl
  have release : (s.taskending c).ctRelease c = .done (s.taskending c) 0 none := by
    rw [State.ctRelease, State.taskending_dcache, cache]
    rfl
  have rest : (s.taskending c).coreQuiet c = true := by
    rw [State.coreQuiet, State.taskending_harts]
    exact quiet
  have task : ((s.taskending c).core c).task = some n := by
    rw [(haltsAt_taskending s c).core.task]
    simpa [State.holds] using holds
  have listed : (s.taskending c).task n = some x := found
  unfold State.taskend
  dsimp only
  rw [State.dropBlocks_run, runs, State.dropBlocks_split, alone, ← State.taskending, stop, release]
  simp [rest, task, State.endBlocked_noRecord listed noRecord, State.anyMidway]

/-- The task's work on core `c` has ended. -/
def Task.doneOn (t : Task) (c : Nat) : Task := { t with done := t.done ++ [c] }

theorem State.coreDone_last {n : Nat} {x : Task} (found : ((s.endWork c).mapTask n (·.doneOn c)).task n = some x)
    (last : x.cores.all x.done.contains = true) :
    s.coreDone c n = ((s.endWork c).mapTask n (·.doneOn c)).endTask n ⟨0, 0, 0⟩ := by
  unfold Task.doneOn at found ⊢
  simp only [State.coreDone, found, last, if_true]

/-- R160: the work on the one core of a task ends the task. -/
theorem coreDone_drops (h : Ending s t) (cores : t.cores = [c]) : Dropped s (s.coreDone c t.num) t := by
  have work : WindsDown t.cores s (s.endWork c) := windsDown_endWork (by rw [cores]; exact List.mem_cons_self) s
  have done := work.trans (windsDown_mapTask _ _ t.num (f := (·.doneOn c)) (fun _ => rfl) (fun _ => rfl) fun _ => rfl)
  have found : ((s.endWork c).mapTask t.num (·.doneOn c)).task t.num = some (t.doneOn c) :=
    State.task_mapTask (by rw [task_of_tasks (s.endWork_tasks c)]; exact h.listed) fun _ => rfl
  have last : (t.doneOn c).cores.all (t.doneOn c).done.contains = true := by simp [Task.doneOn, cores]
  have ending : Ending ((s.endWork c).mapTask t.num (·.doneOn c)) (t.doneOn c) :=
    h.of_windsDown done found rfl rfl rfl h.going h.onCores
  rw [State.coreDone_last found last]
  exact .of_windsDown done (ending.endTask _) rfl rfl

theorem taskend_gone (h : Ending s t) (cores : t.cores = [c]) (holds : s.holds c t.num = true)
    (runs : s.blocksRun c = false) (alone : s.splitHarts c = []) (cache : (s.ct c).dcache = [])
    (quiet : s.coreQuiet c = true) : Gone s (s.taskend c) t := by
  have begun : WindsDown t.cores s (s.taskending c) :=
    (haltsAt_taskending s c).windsDown (by rw [cores]; exact List.mem_cons_self)
  have ending : Ending (s.taskending c) t := h.of_windsDown begun h.listed rfl rfl rfl h.going h.onCores
  rw [State.taskend_done runs alone cache quiet holds h.listed h.noRecord]
  exact (Dropped.of_windsDown begun (coreDone_drops ending cores) rfl rfl).gone

end

end

theorem taskEnds : Claims.TaskEnds := by
  intro s t core code ending
  exact ⟨taskFaultEnd_gone ending, taskFaultEnd_other s t.num, watchdog_gone ending, watchdog_early ending,
    fun cores holds runs alone cache quiet _ => ⟨_, rfl, taskend_gone ending cores holds runs alone cache quiet⟩⟩

/-- Settles O42: the ends of a task whose work is at rest, and the record that its ring has room for. -/
theorem taskEndsAndRecords : Obligations.TaskEndsAndRecords := ⟨taskEnds, heldRecordWritten⟩

end Sys2Proof.Machine
end

section
/-! # What records, log entries and notices leave (O49 to O51)

A record enters a queue or waits in the hub, a log entry and a message leave, and a trace may begin its count: `HubKeeps` is what
all of these leave. -/

namespace Sys2Proof.Machine

/-- A core but for its event queue and how long its trace goes on (R144, R422). -/
def Core.unsent (k : Core) : Core := { k with evq := [], traceLeft := none }

/-- Fen but for the notices and what waits in the hub (R119, R144). -/
def Fen.unsent (f : Fen) : Fen := { f with nextSeq := 0, notices := [], latest := [], waiting := [] }

/-- The state but for its cores, and for what records, log entries and messages write. -/
def State.unsent (s : State) : State :=
  { s with
    cores := [], out := [], heldOut := [], bar := {}, fen := s.fen.unsent
    flash := { s.flash with log := [], lost := 0 } }

/-- `t` differs from `s` by records, log entries, notices and messages alone. -/
structure HubKeeps (s t : State) : Prop where
  rest : t.unsent = s.unsent
  core : ∀ c, (t.core c).unsent = (s.core c).unsent

section
variable {s t u : State}

theorem HubKeeps.refl (s : State) : HubKeeps s s := ⟨rfl, fun _ => rfl⟩

theorem HubKeeps.trans (h : HubKeeps s t) (g : HubKeeps t u) : HubKeeps s u :=
  ⟨g.rest.trans h.rest, fun c => (g.core c).trans (h.core c)⟩

theorem HubKeeps.of_cores (rest : t.unsent = s.unsent) (cores : t.cores = s.cores) : HubKeeps s t :=
  ⟨rest, fun c => by rw [State.core, cores, State.core]⟩

theorem HubKeeps.mem (h : HubKeeps s t) : t.mem = s.mem := congrArg (·.mem) h.rest

theorem HubKeeps.tasks (h : HubKeeps s t) : t.sched.tasks = s.sched.tasks := congrArg (·.sched.tasks) h.rest

theorem HubKeeps.subs (h : HubKeeps s t) : t.fen.subs = s.fen.subs := congrArg (·.fen.subs) h.rest

theorem HubKeeps.records (h : HubKeeps s t) : t.flash.records = s.flash.records := congrArg (·.flash.records) h.rest

theorem HubKeeps.layer (h : HubKeeps s t) (n : Nat) : t.layer n = s.layer n :=
  congrArg (·.flash.layers.get n {}) h.rest

theorem HubKeeps.bank (h : HubKeeps s t) (c b : Nat) : t.bank c b = s.bank c b :=
  congrArg (·.bank b) (h.core c)

theorem HubKeeps.reg (h : HubKeeps s t) (c b r : Nat) : t.reg c b r = s.reg c b r := congrArg (Bank.reg · r) (h.bank c b)

theorem HubKeeps.sag (h : HubKeeps s t) (c b k : Nat) : t.sag c b k = s.sag c b k := congrArg (Bank.sag · k) (h.bank c b)

theorem hubKeeps_foldl {α : Type} {f : State → α → State} (h : ∀ u a, HubKeeps u (f u a)) (l : List α) (s : State) :
    HubKeeps s (l.foldl f s) := by
  induction l generalizing s with
  | nil => exact .refl s
  | cons a l ih => exact (h s a).trans (ih _)

theorem hubKeeps_setCore (s : State) {c : Nat} {k : Core} (h : k.unsent = (s.core c).unsent) : HubKeeps s (s.setCore c k) := by
  refine ⟨rfl, fun d => ?_⟩
  by_cases same : d = c
  · subst same; rw [State.core_setCore, h]
  · rw [State.core_setCore_of_ne _ _ same]

theorem hubKeeps_traceMeet (s : State) (c kind value : Nat) : HubKeeps s (s.traceMeet c kind value) := by
  unfold State.traceMeet
  dsimp only
  split
  · split
    · exact hubKeeps_setCore s rfl
    · exact .refl s
  · exact .refl s

theorem hubKeeps_logHub (s : State) (code detail : Nat) : HubKeeps s (s.logHub code detail) := by
  have meet := hubKeeps_traceMeet s 0xffff 0 code
  unfold State.logHub State.logEvent
  dsimp only
  split
  · exact .refl s
  · split <;> exact meet.trans (.of_cores rfl rfl)

theorem hubKeeps_send (s : State) (m : Out) : HubKeeps s (s.send m) := by
  unfold State.send
  split <;> exact .of_cores rfl rfl

/-- R436. -/
theorem hubKeeps_requestReplacement (s : State) : HubKeeps s s.requestReplacement := by
  have errVector (t : State) : HubKeeps t t.errVector := by
    unfold State.errVector
    split
    · exact hubKeeps_send ..
    · exact .refl t
  unfold State.requestReplacement
  split
  · exact .refl s
  · have asks : HubKeeps s { s with bar := { s.bar with replreq := true } } := .of_cores rfl rfl
    exact ((asks.trans (errVector _)).trans (hubKeeps_send ..)).trans (hubKeeps_logHub ..)

/-! ### Records and notices (R119, R144) -/

theorem hubKeeps_hubRecord (s : State) (c : Nat) (r : EvRec) : HubKeeps s (s.hubRecord c r) := by
  have meet := hubKeeps_traceMeet s c 0 r.cause.toNat
  unfold State.hubRecord
  dsimp only
  split
  · exact meet.trans (hubKeeps_setCore _ rfl)
  · exact meet.trans (.of_cores rfl rfl)

theorem hubKeeps_notice (s : State) (kind flags utype unit grace effTime : Nat) (sentTo : List Nat) :
    HubKeeps s (s.notice kind flags utype unit grace effTime sentTo) := by
  unfold State.notice
  split
  · exact .refl s
  · have counted (q : Nat) (l : List Notice) (m : Tab Nat) :
        HubKeeps s { s with fen := { s.fen with nextSeq := q, notices := l, latest := m } } := .of_cores rfl rfl
    exact (counted _ _ _).trans (hubKeeps_foldl (fun _ _ => hubKeeps_hubRecord ..) _ _)

theorem State.traceMeet_evq (s : State) (c kind value d : Nat) : ((s.traceMeet c kind value).core d).evq = (s.core d).evq := by
  obtain ⟨n, core⟩ := (logKeeps_traceMeet s c kind value).core d
  rw [core]

theorem State.traceMeet_fen (s : State) (c kind value : Nat) : (s.traceMeet c kind value).fen = s.fen := by
  unfold State.traceMeet
  dsimp only
  split
  · split <;> rfl
  · rfl

/-- A running core's queue that has room, and no record that waits before it, takes a record at once. -/
theorem State.hubRecord_enters {c : Nat} (room : (s.core c).evq.length < 64) (running : (s.core c).st = .running)
    (first : s.waitingFor c = []) (r : EvRec) :
    ((s.hubRecord c r).core c).evq = (s.core c).evq ++ [r] ∧ (s.hubRecord c r).fen = s.fen := by
  have evq := s.traceMeet_evq c 0 r.cause.toNat c
  have fen := s.traceMeet_fen c 0 r.cause.toNat
  have st : ((s.traceMeet c 0 r.cause.toNat).core c).st = .running :=
    (congrArg Core.st ((hubKeeps_traceMeet s c 0 r.cause.toNat).core c)).trans running
  have alone : (s.fen.waiting.any fun e => e.1 == c) = false := by
    simpa [State.waitingFor, List.filterMap_eq_nil_iff] using first
  have enters : s.hubRecord c r = (s.traceMeet c 0 r.cause.toNat).setCore c
      { (s.traceMeet c 0 r.cause.toNat).core c with evq := (s.core c).evq ++ [r] } := by
    unfold State.hubRecord
    dsimp only
    rw [evq, fen, if_pos ⟨room, st, alone⟩]
  rw [enters, State.core_setCore]
  exact ⟨rfl, fen⟩

end

end Sys2Proof.Machine
end

section
/-! # Refresh and scrubbing (O49)

Every event of refresh writes the one SAG, and beside it at most budgets, records and, for a scrub, symbols of the sideband:
`SagOnly` is that frame. The rises of OWED that hub time has come to are taken one by one. -/

namespace Sys2Proof.Machine

/-! ### One SAG -/

@[simp] theorem State.sag_setSag (s : State) (c b k : Nat) (x : Sag) : (s.setSag c b k x).sag c b k = x := by
  simp [State.sag, State.setSag]

theorem State.sag_setSag_of_ne (s : State) {c b k d e j : Nat} (x : Sag) (h : ¬(d = c ∧ e = b ∧ j = k)) :
    (s.setSag c b k x).sag d e j = s.sag d e j := by
  unfold State.sag State.setSag
  by_cases bank : d = c ∧ e = b
  · obtain ⟨rfl, rfl⟩ := bank
    rw [State.bank_setBank, Bank.sag, Bank.setSag, Tab.get_put_of_ne _ _ _ fun same => h ⟨rfl, rfl, same⟩, Bank.sag]
  · rw [State.bank_setBank_of_ne _ _ bank]

@[simp] theorem State.reg_setSag (s : State) (c b k d e r : Nat) (x : Sag) : (s.setSag c b k x).reg d e r = s.reg d e r := by
  unfold State.reg State.setSag
  by_cases bank : d = c ∧ e = b
  · obtain ⟨rfl, rfl⟩ := bank
    rw [State.bank_setBank, Bank.reg_setSag]
  · rw [State.bank_setBank_of_ne _ _ bank]

/-- Memory, the registers and every SAG but one are the same. -/
structure SagOnly (c b k : Nat) (s t : State) : Prop where
  mem : t.mem = s.mem
  reg : ∀ d e r, t.reg d e r = s.reg d e r
  sag : ∀ d e j, ¬(d = c ∧ e = b ∧ j = k) → t.sag d e j = s.sag d e j

section
variable {c b k : Nat} {s t u : State}

theorem SagOnly.refl (s : State) : SagOnly c b k s s := ⟨rfl, fun _ _ _ => rfl, fun _ _ _ _ => rfl⟩

theorem SagOnly.trans (h : SagOnly c b k s t) (g : SagOnly c b k t u) : SagOnly c b k s u :=
  ⟨g.mem.trans h.mem, fun d e r => (g.reg d e r).trans (h.reg d e r), fun d e j n => (g.sag d e j n).trans (h.sag d e j n)⟩

theorem sagOnly_setSag (s : State) (x : Sag) : SagOnly c b k s (s.setSag c b k x) :=
  ⟨rfl, fun _ _ _ => State.reg_setSag .., fun _ _ _ n => State.sag_setSag_of_ne _ _ n⟩

theorem HubKeeps.sagOnly (h : HubKeeps s t) : SagOnly c b k s t := ⟨h.mem, h.reg, fun _ _ _ _ => h.sag ..⟩

/-! ### OWED (R232, R234) -/

/-- The SAG takes rise `i`, where its OWED rises (R232). -/
def Sag.rise (x : Sag) (i : Nat) : Sag :=
  { x with risen := i, owed := min 96 (x.owed + 1), forced := x.forced || decide (95 ≤ x.owed) }

/-- OWED rises at the hub time of number `i`: W is 16 ms, or 32 ms and `i` even; the cluster is ON. -/
def State.rises (s : State) (c i : Nat) : Prop := s.clusterOn c = true ∧ (s.hotCore c = true ∨ i % 2 = 0)

theorem State.owedStep_rises {i : Nat} (rises : s.rises c i) : s.owedStep c b k i =
    if (s.sag c b k).owed = 63 ∧ s.programRefresh c = true then
      (s.setSag c b k ((s.sag c b k).rise i)).hubRecord c (s.deadlineRecord c b k i)
    else s.setSag c b k ((s.sag c b k).rise i) := by
  obtain ⟨on, due⟩ := rises
  have forced : (min 96 ((s.sag c b k).owed + 1) == 96) = decide (95 ≤ (s.sag c b k).owed) := by
    rw [Bool.eq_iff_iff]; simp
  have passes : ¬((!s.clusterOn c || !s.hotCore c && i % 2 == 1) = true) := by
    rcases due with hot | even
    · simp [on, hot]
    · simp [on, even]
  unfold State.owedStep Sag.rise
  dsimp only
  rw [if_neg passes, forced]

theorem State.owedStep_passes {i : Nat} (passes : ¬s.rises c i) :
    s.owedStep c b k i = s.setSag c b k { s.sag c b k with risen := i } := by
  unfold State.owedStep
  dsimp only
  refine if_pos ?_
  by_contra rises
  refine passes ?_
  simpa [State.rises, or_iff_not_imp_left] using rises

theorem sagOnly_owedStep (i : Nat) : SagOnly c b k s (s.owedStep c b k i) := by
  by_cases rises : s.rises c i
  · rw [State.owedStep_rises rises]
    split
    · exact (sagOnly_setSag s _).trans (hubKeeps_hubRecord ..).sagOnly
    · exact sagOnly_setSag s _
  · rw [State.owedStep_passes rises]
    exact sagOnly_setSag s _

theorem State.sag_owedStep (i : Nat) : (s.owedStep c b k i).sag c b k = (s.sag c b k).rise i ∨
    (s.owedStep c b k i).sag c b k = { s.sag c b k with risen := i } := by
  by_cases rises : s.rises c i
  · refine .inl ?_
    rw [State.owedStep_rises rises]
    split
    · rw [(hubKeeps_hubRecord ..).sag, State.sag_setSag]
    · exact State.sag_setSag ..
  · refine .inr ?_
    rw [State.owedStep_passes rises, State.sag_setSag]

/-- The next `n` rises: their number, and what they make of OWED. -/
theorem owedSteps_spec (n : Nat) (s : State) :
    SagOnly c b k s (State.owedSteps c b k n s) ∧
    ((State.owedSteps c b k n s).sag c b k).risen = (s.sag c b k).risen + n ∧
    ((s.sag c b k).owed ≤ 96 → (s.sag c b k).owed ≤ ((State.owedSteps c b k n s).sag c b k).owed ∧
      ((State.owedSteps c b k n s).sag c b k).owed ≤ 96) := by
  induction n generalizing s with
  | zero => exact ⟨.refl s, rfl, fun most => ⟨le_rfl, most⟩⟩
  | succ n ih =>
    have only : SagOnly c b k s (s.owedStep c b k ((s.sag c b k).risen + 1)) := sagOnly_owedStep _
    obtain ⟨frame, count, bounds⟩ := ih (s.owedStep c b k ((s.sag c b k).risen + 1))
    refine ⟨only.trans frame, ?_⟩
    rw [State.owedSteps]
    rcases s.sag_owedStep (c := c) (b := b) (k := k) ((s.sag c b k).risen + 1) with rise | pass
    · rw [rise, Sag.rise] at count bounds
      dsimp only at count bounds
      omega
    · rw [pass] at count bounds
      dsimp only at count bounds
      omega

/-- OWED_INCREMENT at the next of a SAG's hub times (R232). -/
theorem State.owedUp_next (now : riseCount s.now = (s.sag c b k).risen + 1) :
    s.owedUp c b k = s.owedStep c b k ((s.sag c b k).risen + 1) := by
  rw [State.owedUp, now, Nat.add_sub_cancel_left]
  rfl

theorem execOwedIncrement_rises (now : riseCount s.now = (s.sag c b k).risen + 1)
    (rises : s.rises c ((s.sag c b k).risen + 1)) :
    ∃ t, exec (.owedIncrement c b k) s = .next t ∧ SagOnly c b k s t ∧
      t.sag c b k = (s.sag c b k).rise ((s.sag c b k).risen + 1) ∧
      ((s.sag c b k).owed = 63 → s.programRefresh c = true → (s.core c).evq.length < 64 → s.waitingFor c = [] →
        (t.core c).evq = (s.core c).evq ++ [s.deadlineRecord c b k ((s.sag c b k).risen + 1)]) := by
  refine ⟨_, congrArg Host.Outcome.next (State.owedUp_next now), sagOnly_owedStep _, ?_,
    fun deadline program room first => ?_⟩
  · rw [State.owedStep_rises rises]
    split
    · rw [(hubKeeps_hubRecord ..).sag, State.sag_setSag]
    · exact State.sag_setSag ..
  · have running : (s.core c).st = .running := by
      simp only [State.programRefresh, Bool.and_eq_true, beq_iff_eq] at program
      exact program.1.2
    rw [State.owedStep_rises rises, if_pos ⟨deadline, program⟩]
    have core : (s.setSag c b k ((s.sag c b k).rise ((s.sag c b k).risen + 1))).core c = (s.core c).setBank b _ :=
      State.core_setBank ..
    obtain ⟨evq, -⟩ := State.hubRecord_enters (s := s.setSag c b k ((s.sag c b k).rise ((s.sag c b k).risen + 1)))
      (by rw [core]; exact room) (by rw [core]; exact running) first (s.deadlineRecord c b k ((s.sag c b k).risen + 1))
    rw [evq, core]
    rfl

theorem execOwedIncrement_passes (now : riseCount s.now = (s.sag c b k).risen + 1)
    (passes : ¬s.rises c ((s.sag c b k).risen + 1)) :
    ∃ t, exec (.owedIncrement c b k) s = .next t ∧ SagOnly c b k s t ∧
      t.sag c b k = { s.sag c b k with risen := (s.sag c b k).risen + 1 } := by
  refine ⟨_, congrArg Host.Outcome.next (State.owedUp_next now), sagOnly_owedStep _, ?_⟩
  rw [State.owedStep_passes passes, State.sag_setSag]

theorem execOwedIncrement_early (early : riseCount s.now ≤ (s.sag c b k).risen) :
    exec (.owedIncrement c b k) s = .next s := by
  refine congrArg Host.Outcome.next ?_
  rw [State.owedUp, Nat.sub_eq_zero_of_le early]
  rfl

theorem execOwedIncrement_late (late : (s.sag c b k).risen ≤ riseCount s.now) :
    ∃ t, exec (.owedIncrement c b k) s = .next t ∧ SagOnly c b k s t ∧ (t.sag c b k).risen = riseCount s.now ∧
      ((s.sag c b k).owed ≤ 96 → (s.sag c b k).owed ≤ (t.sag c b k).owed ∧ (t.sag c b k).owed ≤ 96) := by
  obtain ⟨frame, count, bounds⟩ := owedSteps_spec (c := c) (b := b) (k := k) (riseCount s.now - (s.sag c b k).risen) s
  exact ⟨_, rfl, frame, count.trans (Nat.add_sub_cancel' late), bounds⟩

/-! ### A row is refreshed (R233, R234) -/

theorem State.charge_cores (s : State) (d : Nat) (w : Class) (n : Nat) : (s.charge d w n).cores = s.cores := by
  unfold State.charge
  split <;> rfl

theorem State.sag_charge (s : State) (d : Nat) (w : Class) (n c b k : Nat) : (s.charge d w n).sag c b k = s.sag c b k := by
  simp only [State.sag, State.bank, State.core, State.charge_cores]

theorem sagOnly_charge (s : State) (d : Nat) (w : Class) (n : Nat) : SagOnly c b k s (s.charge d w n) :=
  ⟨s.charge_mem d w n, fun d e r => by simp only [State.reg, State.bank, State.core, State.charge_cores],
    fun _ _ _ _ => State.sag_charge ..⟩

/-- A SAG written, and a class charged. -/
theorem setSag_charge (s : State) (x : Sag) (w : Class) (n : Nat) :
    SagOnly c b k s ((s.setSag c b k x).charge c w n) ∧ ((s.setSag c b k x).charge c w n).sag c b k = x :=
  ⟨(sagOnly_setSag s x).trans (sagOnly_charge ..), by rw [State.sag_charge, State.sag_setSag]⟩

/-- What HW_REFRESH_ROW asks for (R36, R104, R187, R233). -/
def State.refreshable (s : State) (c b k : Nat) : Prop :=
  s.clusterOn c = true ∧ s.hwRefreshes c = true ∧ (s.sag c b k).owed ≠ 0 ∧ s.sagIdle c b k = true ∧
    s.wantsSag c b k = false ∧ s.affords c .refresh 1 = true

theorem State.refreshable_iff : s.refreshable c b k ↔ (s.clusterOn c && s.hwRefreshes c && (s.sag c b k).owed != 0 &&
    s.sagIdle c b k && !s.wantsSag c b k && s.affords c .refresh 1) = true := by
  simp [State.refreshable, and_assoc]

theorem execHwRefreshRow_refreshes (h : s.refreshable c b k) :
    ∃ t, exec (.hwRefreshRow c b k) s = .next t ∧ SagOnly c b k s t ∧
      t.sag c b k = { (s.sag c b k).refresh with busy := true } :=
  ⟨_, congrArg Host.Outcome.next (if_pos (State.refreshable_iff.1 h)), setSag_charge s _ .refresh 1⟩

theorem execHwRefreshRow_not (h : ¬s.refreshable c b k) : exec (.hwRefreshRow c b k) s = .next s :=
  congrArg Host.Outcome.next (if_neg (mt State.refreshable_iff.2 h))

theorem execForcedRefreshRow_forced (on : s.clusterOn c = true) (forced : (s.sag c b k).forced = true)
    (free : (s.sag c b k).busy = false) (returned : (s.sag c b k).step = false) :
    ∃ t, exec (.forcedRefreshRow c b k) s = .next t ∧ SagOnly c b k s t ∧
      t.sag c b k = { (s.sag c b k).refresh with busy := true, forced := decide (64 < (s.sag c b k).refresh.owed) } :=
  ⟨_, congrArg Host.Outcome.next (if_pos (by simp [on, forced, free, returned])), setSag_charge s _ .refresh 1⟩

/-! ### Scrubbing (R113) -/

/-- Entries that read as the default may be left out of a table whose keys are distinct. -/
theorem Tab.get_filter_ne {α : Type} [DecidableEq α] {t : Tab α} (nodup : t.keys.Nodup) (d : α) (n : Nat) :
    Tab.get (t.filter fun e => e.2 != d) n d = t.get n d := by
  induction t with
  | nil => rfl
  | cons e t ih =>
    obtain ⟨fresh, rest⟩ := List.nodup_cons.1 nodup
    have absent : Tab.find (t.filter fun e => e.2 != d) e.1 = none := by
      by_contra listed
      obtain ⟨x, found⟩ := Option.ne_none_iff_exists'.1 listed
      exact fresh (List.mem_map.2 ⟨_, (List.mem_filter.1 (Tab.mem_of_find found)).1, rfl⟩)
    have ih := ih rest
    simp only [Tab.get] at ih ⊢
    by_cases default : e.2 = d
    · rw [List.filter_cons_of_neg (by simp [default])]
      by_cases here : e.1 = n
      · rw [← here, absent]; simp [Tab.find, default]
      · rw [ih]; simp [Tab.find, here]
    · rw [List.filter_cons_of_pos (by simp [default])]
      by_cases here : e.1 = n
      · simp [Tab.find, here]
      · simp [Tab.find, here, ih]

/-- What a scrub makes of the sideband of line `n` (R113). -/
def Side.scrubbed (lo hi n : Nat) (x : Side) : Side :=
  if lo ≤ n ∧ n < hi ∧ x.badSymbols ≤ 2 then { x with badSymbols := 0 } else x

theorem scrubSide_get {side : Tab Side} (nodup : side.keys.Nodup) (lo hi n : Nat) :
    (scrubSide lo hi side).get n {} = Side.scrubbed lo hi n (side.get n {}) := by
  have mapped : scrubSide lo hi side = (side.mapVals (Side.scrubbed lo hi)).filter fun e => e.2 != {} := by
    unfold scrubSide Tab.mapVals
    congr 2
    funext e
    unfold Side.scrubbed
    split <;> rfl
  have keys : (side.mapVals (Side.scrubbed lo hi)).keys = side.keys := by
    simp [Tab.keys, Tab.mapVals]
  have default : Side.scrubbed lo hi n {} = {} := by unfold Side.scrubbed; split <;> rfl
  rw [mapped, Tab.get_filter_ne (by rw [keys]; exact nodup), Tab.get_mapVals, Tab.get]
  cases side.find n with
  | none => exact default.symm
  | some x => rfl

/-- A scrub of a row by which no cell is found stuck (R113). -/
theorem execScrubRow_scrubs {row : Nat} (on : s.clusterOn c = true) (idle : s.sagIdle c b k = true)
    (unwanted : s.wantsSag c b k = false) (low : row < 512)
    (affords : s.affords c .scrub (s.scrubClk (lineOf (rowPa c b k row)) row) = true) :
    ∃ t, exec (.scrubRow c b k row []) s = .next t ∧ SagOnly c b k s t ∧ t.sag c b k = { s.sag c b k with busy := true } ∧
      t.side = scrubSide (lineOf (rowPa c b k row)) (lineOf (rowPa c b k row) + 128) s.side := by
  let scrubbed : State :=
    { s with side := scrubSide (lineOf (rowPa c b k row)) (lineOf (rowPa c b k row) + 128) s.side }
  have run : s.scrub c b k row [] =
      (scrubbed.charge c .scrub (s.scrubClk (lineOf (rowPa c b k row)) row)).setSagBusy c b k true := by
    unfold State.scrub
    dsimp only
    rw [if_pos (by simp [on, idle, unwanted, affords]), if_pos low]
    rfl
  have corrected : SagOnly c b k s scrubbed := ⟨rfl, fun _ _ _ => rfl, fun _ _ _ _ => rfl⟩
  have charged := corrected.trans (sagOnly_charge scrubbed c .scrub (s.scrubClk (lineOf (rowPa c b k row)) row))
  refine ⟨_, congrArg Host.Outcome.next run, charged.trans (sagOnly_setSag _ _), ?_, rfl⟩
  exact (State.sag_setSag ..).trans (congrArg (fun x : Sag => { x with busy := true }) (State.sag_charge ..))

end

/-- Settles O49: rises are taken one by one, a refresh and a scrub write their one SAG, and a scrub only symbols beside it. -/
theorem refreshEvents : Obligations.RefreshEvents := by
  intro s c b k row x kept hw i rises line
  have frame {t : State} (h : SagOnly c b k s t) : kept t := ⟨h.mem, h.reg, h.sag⟩
  refine ⟨fun now due => ?_, fun now passes => ?_, execOwedIncrement_early, fun late => ?_, fun due => ?_,
    execHwRefreshRow_not, fun on forced free returned => ?_, ?_, fun on idle unwanted affords low nodup => ?_⟩
  · obtain ⟨t, run, only, rest⟩ := execOwedIncrement_rises now due
    exact ⟨t, run, frame only, rest⟩
  · obtain ⟨t, run, only, rest⟩ := execOwedIncrement_passes now passes
    exact ⟨t, run, frame only, rest⟩
  · obtain ⟨t, run, only, rest⟩ := execOwedIncrement_late late
    exact ⟨t, run, frame only, rest⟩
  · obtain ⟨t, run, only, rest⟩ := execHwRefreshRow_refreshes due
    exact ⟨t, run, frame only, rest⟩
  · obtain ⟨t, run, only, sag⟩ := execForcedRefreshRow_forced on forced free returned
    have until64 : decide (64 < x.owed - 1) = decide (65 < x.owed) := by
      rw [decide_eq_decide]; omega
    refine ⟨t, run, frame only, sag.trans ?_⟩
    rw [← until64]
    rfl
  · exact ⟨_, rfl, frame (sagOnly_setSag s _), State.sag_setSag ..⟩
  · obtain ⟨t, run, only, sag, side⟩ := execScrubRow_scrubs on idle unwanted low affords
    have read (n : Nat) : t.sideOf n = Side.scrubbed line (line + 128) n (s.sideOf n) := by
      rw [State.sideOf, side, scrubSide_get nodup]; rfl
    refine ⟨t, run, frame only, sag, fun n lo hi => ?_, fun n out => ?_⟩
    · rw [read, Side.scrubbed]
      simp only [lo, hi, true_and]
    · rw [read, Side.scrubbed, if_neg (by omega)]

end Sys2Proof.Machine
end

section
/-! # Core leases (O50)

A lease starts at once on an idle core and is announced to a running one; at EFFTIME the hub asks the core for a pause. Where a
test has passed, the end of the lease lowers the score. -/

namespace Sys2Proof.Machine

section
variable {s : State} {c : Nat} {x : Lease} {t : Task}

/-! ### Tasks and requests -/

theorem State.bind_task (s : State) (holds : (s.core c).task = some t.num) (task : s.task t.num = some t) :
    (s.core c).task.bind s.task = some t := by
  rw [holds]; exact task

theorem State.leaseIdle_running (running : (s.core c).st = .running) : s.leaseIdle c = false := by
  simp [State.leaseIdle, running]

/-- R407: a pause is asked of a core that nothing is asked of. -/
theorem State.ask_pause (free : (s.ct c).req = 0) : (s.ask c 2).fen = s.fen ∧ ((s.ask c 2).ct c).req = 2 := by
  unfold State.ask
  dsimp only
  rw [free]
  split <;> exact ⟨rfl, congrArg Ct.req (State.ct_setCt ..)⟩

/-! ### A lease starts (R110, R117, R120) -/

theorem execCoreLeaseStart_not {kind : Nat} (barred : s.leaseAllowed c kind = false) :
    exec (.coreLeaseStart c kind) s = .next s :=
  congrArg Host.Outcome.next (if_pos (by simp [barred]))

theorem State.leaseStart_new {kind : Nat} (allowed : s.leaseAllowed c kind = true) (new : s.fen.leases.find c = none) :
    s.leaseStart c kind = (s.setLease c { kind := min kind 2 }).leaseTry c := by
  simp only [State.leaseStart, allowed, new, Bool.not_true, Bool.false_eq_true, if_false]

theorem State.leaseTry_idle (found : s.fen.leases.find c = some x) (pending : x.inForce = false) (unsent : x.seq = 0)
    (idle : s.leaseIdle c = true) : s.leaseTry c = s.setLease c { x with inForce := true, effTime := s.now } := by
  simp [State.leaseTry, found, pending, unsent, idle]

theorem execCoreLeaseStart_idle {kind : Nat} (allowed : s.leaseAllowed c kind = true) (new : s.fen.leases.find c = none)
    (idle : s.leaseIdle c = true) : ∃ u, exec (.coreLeaseStart c kind) s = .next u ∧
      u.fen.leases.find c = some { kind := min kind 2, seq := 0, effTime := s.now, inForce := true } ∧ u.mem = s.mem := by
  have starts : s.leaseStart c kind = (s.setLease c { kind := min kind 2 }).setLease c
      { kind := min kind 2, effTime := s.now, inForce := true } := by
    rw [State.leaseStart_new allowed new]
    exact State.leaseTry_idle (x := { kind := min kind 2 }) (Tab.find_put_self ..) rfl rfl idle
  exact ⟨_, congrArg Host.Outcome.next starts, Tab.find_put_self .., rfl⟩

/-- An urgent lease on a core that runs, with nothing asked of it, is announced with the grace (R120). -/
theorem State.leaseTry_urgent (found : s.fen.leases.find c = some x) (pending : x.inForce = false) (unsent : x.seq = 0)
    (urgent : x.kind = 1) (running : (s.core c).st = .running) (free : (s.ct c).req = 0)
    (holds : (s.core c).task = some t.num) (task : s.task t.num = some t) (going : t.ends = none) :
    let eff := s.now + s.fen.shares.grace * 1000
    s.leaseTry c = (s.notice 0 1 1 c s.fen.shares.grace eff (s.recipients c)).setLease c
      { x with seq := s.fen.nextSeq, effTime := eff } := by
  simp [State.leaseTry, found, pending, unsent, State.leaseIdle_running running, State.bind_task s holds task, urgent,
    Lease.flags, running, free, going]

/-- The record of a notice (R119). -/
def Notice.record (n : Notice) (now : Nat) : EvRec :=
  { cause := 0x81, src := 1, bank := 0, gang := 0, detail := 0, time := now, hpc := 0, body := n.body }

/-- A notice to one running core whose queue has room enters at once (R119, R144). -/
theorem State.notice_enters (room : (s.core c).evq.length < 64) (running : (s.core c).st = .running)
    (first : s.waitingFor c = []) (kind flags utype unit grace eff : Nat) :
    let n : Notice := ⟨s.fen.nextSeq, kind, flags, utype, unit, grace, eff, [c], none⟩
    ((s.notice kind flags utype unit grace eff [c]).core c).evq = (s.core c).evq ++ [n.record s.now] ∧
      (s.notice kind flags utype unit grace eff [c]).fen.nextSeq = s.fen.nextSeq + 1 := by
  let n : Notice := ⟨s.fen.nextSeq, kind, flags, utype, unit, grace, eff, [c], (s.core c).task⟩
  let counted : State := { s with fen := { s.fen with
    nextSeq := s.fen.nextSeq + 1, notices := s.fen.notices ++ [n]
    latest := if utype = 1 then s.fen.latest.put unit s.fen.nextSeq else s.fen.latest } }
  have sent : s.notice kind flags utype unit grace eff [c] = counted.hubRecord c (n.record s.now) :=
    if_neg (List.cons_ne_nil c [])
  obtain ⟨evq, fen⟩ := State.hubRecord_enters (s := counted) room running first (n.record s.now)
  exact ⟨by rw [sent, evq]; rfl, by rw [sent, fen]⟩

theorem execCoreLeaseStart_urgent (allowed : s.leaseAllowed c 1 = true) (new : s.fen.leases.find c = none)
    (running : (s.core c).st = .running) (free : (s.ct c).req = 0) (holds : (s.core c).task = some t.num)
    (task : s.task t.num = some t) (going : t.ends = none) (alone : s.recipients c = [c])
    (room : (s.core c).evq.length < 64) (first : s.waitingFor c = []) :
    let eff := s.now + s.fen.shares.grace * 1000
    let n : Notice := ⟨s.fen.nextSeq, 0, 1, 1, c, s.fen.shares.grace, eff, [c], none⟩
    ∃ u, exec (.coreLeaseStart c 1) s = .next u ∧
      u.fen.leases.find c = some { kind := 1, seq := s.fen.nextSeq, effTime := eff, inForce := false } ∧
      (u.core c).evq = (s.core c).evq ++ [n.record s.now] ∧ u.fen.nextSeq = s.fen.nextSeq + 1 := by
  intro eff n
  let pending := s.setLease c { kind := 1 }
  have starts : s.leaseStart c 1 = (pending.notice 0 1 1 c s.fen.shares.grace eff [c]).setLease c
      { kind := 1, seq := s.fen.nextSeq, effTime := eff } := by
    have sends := State.leaseTry_urgent (s := pending) (x := { kind := 1 }) (t := t) (Tab.find_put_self ..) rfl rfl rfl
      running free holds task going
    rw [show pending.recipients c = [c] from alone] at sends
    exact (State.leaseStart_new allowed new).trans sends
  obtain ⟨evq, seq⟩ := State.notice_enters (s := pending) room running first 0 1 1 c s.fen.shares.grace eff
  exact ⟨_, congrArg Host.Outcome.next starts, Tab.find_put_self .., evq, seq⟩

/-! ### EFFTIME (R121) -/

theorem execLeaseEfftime_early (found : s.fen.leases.find c = some x) (early : s.now < x.effTime) :
    exec (.leaseEfftime c) s = .next s := by
  refine congrArg Host.Outcome.next ?_
  simp only [State.leaseDue, found]
  exact if_neg fun due => by omega

theorem execLeaseEfftime_pauses (found : s.fen.leases.find c = some x) (pending : x.inForce = false) (sent : x.seq ≠ 0)
    (due : x.effTime ≤ s.now) (running : (s.core c).st = .running) (holds : (s.core c).task = some t.num)
    (task : s.task t.num = some t) (saves : t.recd.preempt = true) (free : (s.ct c).req = 0) :
    ∃ u, exec (.leaseEfftime c) s = .next u ∧ u.fen.leases.find c = some { x with inForce := true } ∧ (u.ct c).req = 2 := by
  have strikes : s.leaseDue c = (s.setLease c { x with inForce := true }).ask c 2 := by
    have busy : (s.setLease c { x with inForce := true }).leaseIdle c = false := State.leaseIdle_running running
    have bound : ((s.setLease c { x with inForce := true }).core c).task.bind
        (s.setLease c { x with inForce := true }).task = some t := State.bind_task s holds task
    simp [State.leaseDue, found, pending, sent, due, State.leaseStrike, busy, bound, saves]
  obtain ⟨fen, req⟩ := State.ask_pause (s := s.setLease c { x with inForce := true }) free
  exact ⟨_, congrArg Host.Outcome.next strikes, by rw [fen]; exact Tab.find_put_self .., req⟩

/-! ### The end of a lease (R117, R118, R122) -/

theorem State.wakePaused_fen (s : State) (c : Nat) : (s.wakePaused c).fen = s.fen := by
  unfold State.wakePaused
  dsimp only
  split <;> rfl

theorem State.wakePaused_flash (s : State) (c : Nat) : (s.wakePaused c).flash = s.flash := by
  unfold State.wakePaused
  dsimp only
  split <;> rfl

/-- The score of a unit that has passed a test of a kind (R117, R118). -/
def Score.passed (x : Score) (kind : Nat) : Score :=
  if kind = 2 then { x.change 512 with probation := true } else if kind = 1 then x.change 128 else x

theorem State.score_setScore (s : State) (utype n : Nat) (x : Score) : (s.setScore utype n x).score utype n = x :=
  Tab.get_put_self ..

theorem State.score_passed (s : State) (utype n kind : Nat) :
    (s.passed utype n kind).score utype n = (s.score utype n).passed kind := by
  unfold State.passed Score.passed
  dsimp only
  split_ifs
  · exact State.score_setScore ..
  · exact State.score_setScore ..
  · rfl

theorem Score.passed_value (x : Score) (kind : Nat) :
    (x.passed kind).value = if kind = 2 then 512 else if kind = 1 then 128 else x.value := by
  unfold Score.passed
  split_ifs <;> rfl

theorem Score.passed_probation (x : Score) (kind : Nat) :
    (x.passed kind).probation = if kind = 2 then true else if kind = 1 then false else x.probation := by
  unfold Score.passed
  split_ifs
  · rfl
  · exact Bool.and_false _
  · rfl

theorem execLeaseEnd_passed (found : s.fen.leases.find c = some x) (inForce : x.inForce = true) (unsent : x.seq = 0)
    (saved : (s.core c).st ≠ .saving) (free : (s.ct c).req = 0) :
    ∃ u, exec (.leaseEnd c true) s = .next u ∧ u.fen.leases.find c = none ∧ u.fen.lastLease.find c = some s.now ∧
      u.score 1 c = (s.score 1 c).passed x.kind ∧ u.mem = s.mem := by
  let passed := s.passed 1 c x.kind
  let ended : State := { passed with fen := { passed.fen with
    leases := passed.fen.leases.drop c, lastLease := passed.fen.lastLease.put c s.now } }
  have free : (s.core c).ct.req = 0 := free
  have run : s.leaseEnd c true = ended.wakePaused c := by
    simp [State.leaseEnd, found, inForce, unsent, saved, free, ended, passed]
  refine ⟨_, congrArg Host.Outcome.next run, ?_, ?_, ?_, ?_⟩
  · rw [State.wakePaused_fen]; exact Tab.find_drop_self ..
  · rw [State.wakePaused_fen]; exact Tab.find_put_self ..
  · rw [State.score, State.wakePaused_fen]
    exact State.score_passed ..
  · rw [State.wakePaused_mem]
    exact State.passed_mem ..

end

theorem leasesComeIntoForceAndEnd : Claims.LeaseEvents := by
  intro s c kind x t grace eff value
  refine ⟨execCoreLeaseStart_idle, execCoreLeaseStart_not, execCoreLeaseStart_urgent, fun found pending sent =>
    ⟨execLeaseEfftime_early found, execLeaseEfftime_pauses found pending sent⟩, fun found inForce unsent saved free => ?_⟩
  obtain ⟨u, run, gone, last, score, mem⟩ := execLeaseEnd_passed found inForce unsent saved free
  exact ⟨u, run, gone, last, by rw [score, Score.passed_value], by rw [score, Score.passed_probation], mem⟩

end Sys2Proof.Machine
end

section
/-! # CAPQ and CAPACK (O50)

Both are answered from Fen's tables. CAPACK for the core's own lease ends the core's work: the task goes on where its work on
another core has not ended. -/

namespace Sys2Proof.Machine

section
variable {s : State} {o : XH} {t : Task} {n : Notice} {x : Lease} {c seq : Nat}

/-- R158. -/
theorem execCapq_answers (listed : s.rs1 o < 1024) (holds : (s.core s.actCore).task = some t.num)
    (task : s.task t.num = some t) (mine : s.rs1 o ∈ t.cores) :
    exec (.capq o) s = .next (s.ctDone s.actCore o.d.toNat
      (BitVec.ofNat 64 (s.fen.latest.get (s.rs1 o) 0 * 2 ^ 32 + s.capState (s.rs1 o)))) := by
  show execCapq o s = _
  have good : ¬(1024 ≤ s.rs1 o ∨ (!t.cores.contains (s.rs1 o)) = true) := by simp [listed, mine]
  simp only [execCapq, State.bind_task s holds task, if_neg good]
  rfl

theorem execCapack_runs (small : s.rs1 o < 2 ^ 32) :
    exec (.capack o) s = (s.capack s.actCore (s.rs1 o)).end o.d :=
  congrArg (XRes.end · o.d) (if_neg (Nat.not_le.2 small))

theorem State.capack_unsent (unsent : (s.fen.notices.find? fun y => y.seq == seq && y.sentTo.contains c) = none) :
    s.capack c seq = .done s 0 := by
  rw [State.capack, unsent]

section
variable (found : (s.fen.notices.find? fun y => y.seq == seq && y.sentTo.contains c) = some n)
include found

theorem State.capack_again (other : ¬(n.utype = 1 ∧ n.kind = 0 ∧ n.unit = c)) (acked : s.fen.acks.contains (c, seq) = true) :
    s.capack c seq = .done s 0 := by
  simp only [State.capack, found]
  rw [if_neg other, if_pos acked]

theorem State.capack_first (other : ¬(n.utype = 1 ∧ n.kind = 0 ∧ n.unit = c)) (new : s.fen.acks.contains (c, seq) = false) :
    s.capack c seq = .done { s with fen := { s.fen with acks := s.fen.acks ++ [(c, seq)] } } 1 := by
  simp only [State.capack, found]
  rw [if_neg other, if_neg (Bool.eq_false_iff.1 new)]

/-- With no block, no split hart and no word cached, the core is withdrawn before EFFTIME (R121, R159). -/
theorem State.capack_withdraws (own : n.utype = 1 ∧ n.kind = 0 ∧ n.unit = c) (leased : s.fen.leases.find c = some x)
    (same : x.seq = seq) (pending : x.inForce = false) (ready : s.capackReady c = true) (early : s.now < x.effTime)
    (cache : (s.ct c).dcache = []) :
    s.capack c seq = .wait (s.withdrawCore c x) := by
  have release : s.ctRelease c = .done s 0 none := by
    rw [State.ctRelease, cache]
    rfl
  simp only [State.capack, found, leased]
  rw [if_pos own, if_neg (by simp [same, pending]), if_neg (by simp [ready, early]), release]

end

/-! ### The withdrawal of a core (R121, R159) -/

/-- Core `c` has acknowledged that it is withdrawn. -/
def Task.ackedBy (t : Task) (c : Nat) : Task := { t with acked := t.acked ++ [c] }

theorem State.endWork_leases (s : State) (c : Nat) : (s.endWork c).fen.leases = s.fen.leases := by
  unfold State.endWork State.dropLaunch
  dsimp only
  split <;> rfl

theorem State.ct_endWork (s : State) (c : Nat) : (s.endWork c).ct c = (s.ct c).stopped := by
  obtain ⟨reds, core⟩ := s.core_endWork c c
  rw [State.ct, core, State.core_setCore]
  rfl

/-- The task of a core whose work has ended goes on where another core of it is at work (R160). -/
theorem State.coreDone_goes_on {m : Nat} (task : s.task m = some t) (num : t.num = m) (free : (s.ct c).req = 0)
    (other : ∃ y ∈ t.cores, y ≠ c ∧ y ∉ t.done) : s.coreDone c m = (s.endWork c).mapTask m (·.doneOn c) := by
  subst num
  have found : ((s.endWork c).mapTask t.num (·.doneOn c)).task t.num = some (t.doneOn c) :=
    State.task_mapTask (by rw [task_of_tasks (s.endWork_tasks c)]; exact task) fun _ => rfl
  have going : ¬((t.doneOn c).cores.all (t.doneOn c).done.contains = true) := by
    obtain ⟨y, mine, apart, busy⟩ := other
    simp only [Task.doneOn, List.all_eq_true, not_forall]
    exact ⟨y, mine, by simp [apart, busy]⟩
  unfold Task.doneOn at found going ⊢
  simp only [State.coreDone, found, if_neg going, free]
  rfl

theorem withdrawCore_ends (holds : (s.core c).task = some t.num) (task : s.task t.num = some t) (free : (s.ct c).req = 0)
    (other : ∃ y ∈ t.cores, y ≠ c ∧ y ∉ t.done) :
    let u := s.withdrawCore c x
    u.fen.leases.find c = some { x with inForce := true } ∧ (u.core c).st = .ended ∧ (u.ct c).running = false ∧
      u.task t.num = some ((t.ackedBy c).doneOn c) := by
  let marked := (s.setLease c { x with inForce := true }).mapTask t.num (·.ackedBy c)
  have acked : marked.task t.num = some (t.ackedBy c) := State.task_mapTask (s := s.setLease c _) task fun _ => rfl
  have done : s.withdrawCore c x = (marked.endWork c).mapTask t.num (·.doneOn c) := by
    have assigned : ((s.setLease c { x with inForce := true }).core c).task = some t.num := holds
    rw [State.withdrawCore, assigned]
    exact State.coreDone_goes_on acked rfl free other
  dsimp only
  rw [done]
  refine ⟨?_, State.core_endWork_ended marked c, congrArg Ct.running (marked.ct_endWork c), ?_⟩
  · show (marked.endWork c).fen.leases.find c = _
    rw [State.endWork_leases]
    exact Tab.find_put_self ..
  · exact State.task_mapTask (t := t.ackedBy c) (by rw [task_of_tasks (marked.endWork_tasks c)]; exact acked) fun _ => rfl

/-- rd of an Xhlm instruction that is done (R146). -/
theorem State.xreg_ctDone {r : Nat} (h : r ≠ 0) (v : Word) : ((s.ctDone c r v).ct c).xreg r = v := by
  simp [State.ctDone, State.ct, Ct.xreg, Ct.setX, h]

end

theorem capacityWords : Claims.CapacityWords := by
  intro o s t n x c a
  refine ⟨execCapq_answers, fun small unsent => ?_, fun small found =>
    ⟨fun other => ⟨fun acked => ?_, fun new => ?_⟩, ?_⟩⟩
  · rw [execCapack_runs small, State.capack_unsent unsent]
    rfl
  · rw [execCapack_runs small, State.capack_again found other acked]
    rfl
  · refine ⟨_, by rw [execCapack_runs small, State.capack_first found other new]; rfl, rfl, fun rd => ?_⟩
    exact State.xreg_ctDone (fun zero => rd (BitVec.eq_of_toNat_eq zero)) 1
  · intro utype kind unit leased same pending ready early cache free holds task other
    have run : exec (.capack o) s = .next (s.withdrawCore c x) := by
      rw [execCapack_runs small, State.capack_withdraws found ⟨utype, kind, unit⟩ leased same pending ready early cache]
      rfl
    obtain ⟨inForce, ended, stopped, done⟩ := withdrawCore_ends (x := x) holds task free other
    exact ⟨_, _, run, inForce, ended, stopped, done, rfl, rfl⟩

/-- Settles O50: a lease by its state and its core's, and CAPQ and CAPACK from Fen's tables and the work of the core. -/
theorem leaseEvents : Obligations.LeaseEvents := ⟨leasesComeIntoForceAndEnd, capacityWords⟩

end Sys2Proof.Machine
end

section
/-! # Test steps (O51)

A step enters Fen's list and reserves its SAG; its end takes it out, and zeros the rows it tested. -/

namespace Sys2Proof.Machine

/-! ### Rows of zeros (R113) -/

theorem rowCells_zero (a k : Nat) : rowCells a k 0 = [] := by
  cases k <;> rfl

theorem Mem.get_place_zero (m : Mem) (pa k a : Nat) :
    (m.place pa k 0).get a = if pa ≤ a ∧ a < pa + 2 ^ k then 0 else m.get a := by
  split
  · next inside =>
    refine Mem.get_of_absent fun e he => ?_
    rw [Mem.place, rowCells_zero, List.nil_append] at he
    rcases List.mem_append.1 he with below | above
    · have := Mem.lt_of_mem_below below; omega
    · have := Mem.le_of_mem_above above; omega
  · next outside => exact Mem.get_place_outside m pa k 0 a (by omega)

/-- Byte `a` is in one of the rows. -/
def InRows (c b k : Nat) (rows : List Nat) (a : Nat) : Prop :=
  ∃ r ∈ rows, rowPa c b k r ≤ a ∧ a < rowPa c b k r + 8192

section
variable {s t : State} {c b k : Nat} {rows : List Nat}

/-- What becomes of a state as rows are zeroed, beside their bytes. -/
theorem zeroRows_rest (c b k : Nat) (rows : List Nat) (s : State) : ∃ mem side msc touched,
    rows.foldl (fun t row => t.zeroRow (rowPa c b k row)) s =
      { s with mem := mem, side := side, msc := msc, touched := touched } := by
  induction rows generalizing s with
  | nil => exact ⟨_, _, _, _, rfl⟩
  | cons row rows ih =>
    have zeroed : ∃ mem side msc touched,
        s.zeroRow (rowPa c b k row) = { s with mem := mem, side := side, msc := msc, touched := touched } := by
      unfold State.zeroRow State.touchPage
      split <;> exact ⟨_, _, _, _, rfl⟩
    obtain ⟨mem, side, msc, touched, first⟩ := zeroed
    obtain ⟨mem', side', msc', touched', rest⟩ := ih (s.zeroRow (rowPa c b k row))
    exact ⟨mem', side', msc', touched', by rw [List.foldl_cons, rest, first]⟩

theorem zeroRows_get (rows : List Nat) (s : State) (a : Nat) :
    (InRows c b k rows a → (rows.foldl (fun t row => t.zeroRow (rowPa c b k row)) s).mem.get a = 0) ∧
    (¬InRows c b k rows a → (rows.foldl (fun t row => t.zeroRow (rowPa c b k row)) s).mem.get a = s.mem.get a) := by
  induction rows generalizing s with
  | nil => exact ⟨fun ⟨_, absent, _⟩ => absurd absent List.not_mem_nil, fun _ => rfl⟩
  | cons row rows ih =>
    obtain ⟨inside, outside⟩ := ih (s.zeroRow (rowPa c b k row))
    have here : (s.zeroRow (rowPa c b k row)).mem.get a =
        if rowPa c b k row ≤ a ∧ a < rowPa c b k row + 8192 then 0 else s.mem.get a := by
      rw [State.zeroRow, State.touchPage_mem]
      exact Mem.get_place_zero ..
    have split : InRows c b k (row :: rows) a ↔
        (rowPa c b k row ≤ a ∧ a < rowPa c b k row + 8192) ∨ InRows c b k rows a := by
      simp [InRows]
    rw [split, List.foldl_cons]
    by_cases later : InRows c b k rows a
    · exact ⟨fun _ => inside later, fun none => absurd (.inr later) none⟩
    · rw [outside later, here]
      refine ⟨fun either => if_pos (either.resolve_right later), fun none => if_neg fun now => none (.inl now)⟩

/-! ### A step starts (R112) -/

theorem charges_rest (w : Nat → Nat) (l : List Nat) (s : State) : ∃ spent heldTo,
    l.foldl (fun t c => t.charge c .test (w c)) s = { s with fen := { s.fen with spent := spent, heldTo := heldTo } } := by
  induction l generalizing s with
  | nil => exact ⟨_, _, rfl⟩
  | cons c l ih =>
    obtain ⟨spent, heldTo, rest⟩ := ih (s.charge c .test (w c))
    exact ⟨spent, heldTo, by rw [List.foldl_cons, rest]; rfl⟩

/-- A step has entered Fen's list, and its cores are charged (R112). -/
def State.stepEnters (s : State) (u : FenUnit) : State :=
  let s1 := (stepCores u).foldl (fun t c => t.charge c .test (100 * s.clockOf c)) s
  { s1 with fen := { s1.fen with
    steps := s1.fen.steps ++ [u], stepKinds := s1.fen.stepKinds.put (unitKey (unitOf u).1 (unitOf u).2) (s.testKind u) } }

theorem stepEnters_spec (s : State) (u : FenUnit) :
    (s.stepEnters u).fen.steps = s.fen.steps ++ [u] ∧
    (s.stepEnters u).fen.stepKinds.find (unitKey (unitOf u).1 (unitOf u).2) = some (s.testKind u) ∧
    (s.stepEnters u).cores = s.cores ∧ (s.stepEnters u).mem = s.mem := by
  obtain ⟨spent, heldTo, charged⟩ := charges_rest (fun c => 100 * s.clockOf c) (stepCores u) s
  unfold State.stepEnters
  rw [charged]
  exact ⟨rfl, Tab.find_put_self .., rfl, rfl⟩

/-- The rows that a step on a SAG is to write may be written (R113). -/
def State.mayTest (s : State) (u : FenUnit) (rows : List Nat) : Prop :=
  ∀ d e j, u = .sag d e j → rows.all (s.mayPattern d e j) = true

theorem execFenStepStart_sag (ready : s.stepReady (.sag c b k) = true) (may : rows.all (s.mayPattern c b k) = true) :
    exec (.fenStepStart ⟨.sag c b k, rows⟩) s = .next ((s.stepEnters (.sag c b k)).setSag c b k
      { (s.stepEnters (.sag c b k)).sag c b k with step := true, testing := rows }) :=
  congrArg Host.Outcome.next (if_neg (by simp only [ready, may]; decide))

theorem execFenStepStart_other {u : FenUnit} (ready : s.stepReady u = true) (other : ∀ c b k, u ≠ .sag c b k) :
    exec (.fenStepStart ⟨u, rows⟩) s = .next (s.stepEnters u) := by
  have go : ¬((!s.stepReady u || !true) = true) := by simp [ready]
  cases u with
  | sag c b k => exact absurd rfl (other c b k)
  | bus _ _ | port _ | slice _ _ => exact congrArg Host.Outcome.next (if_neg go)

theorem execFenStepStart_starts {u : FenUnit} (ready : s.stepReady u = true) (may : s.mayTest u rows) :
    ∃ t, exec (.fenStepStart ⟨u, rows⟩) s = .next t ∧ t.fen.steps = s.fen.steps ++ [u] ∧
      t.fen.stepKinds.find (unitKey (unitOf u).1 (unitOf u).2) = some (s.testKind u) ∧
      (u = .sag c b k → t.sag c b k = { s.sag c b k with step := true, testing := rows }) ∧ t.mem = s.mem := by
  obtain ⟨steps, kind, cores, mem⟩ := stepEnters_spec s u
  by_cases onSag : ∃ d e j, u = .sag d e j
  · obtain ⟨d, e, j, rfl⟩ := onSag
    refine ⟨_, execFenStepStart_sag ready (may d e j rfl), steps, kind, fun same => ?_, mem⟩
    obtain ⟨rfl, rfl, rfl⟩ : d = c ∧ e = b ∧ j = k := by simpa using same
    rw [State.sag_setSag]
    simp only [State.sag, State.bank, State.core, cores]
  · exact ⟨_, execFenStepStart_other ready fun d e j same => onSag ⟨d, e, j, same⟩, steps, kind,
      fun same => absurd ⟨c, b, k, same⟩ onSag, mem⟩

theorem execFenStepStart_unready {u : FenUnit} (unready : s.stepReady u = false) :
    exec (.fenStepStart ⟨u, rows⟩) s = .next s :=
  congrArg Host.Outcome.next (if_pos (by rw [unready]; rfl))

theorem execFenStepStart_barred (barred : rows.all (s.mayPattern c b k) = false) :
    exec (.fenStepStart ⟨.sag c b k, rows⟩) s = .next s :=
  congrArg Host.Outcome.next (if_pos (by simp only [barred, Bool.not_false, Bool.or_true]))

/-! ### A step ends (R113, R114) -/

/-- The step on a unit has left Fen's list (R114). -/
def State.stepLeaves (s : State) (u : FenUnit) : State :=
  let key := unitKey (unitOf u).1 (unitOf u).2
  { s with fen := { s.fen with
    steps := s.fen.steps.erase u, stepKinds := s.fen.stepKinds.drop key, stepEnded := s.fen.stepEnded.put key s.now } }

/-- The cells that enter the map of stuck cells (R268). -/
def Sag.newlyStuck (x : Sag) (cells : List Nat) : List Nat := (cells.filter fun n => !x.stuck.contains n).eraseDups

theorem Sag.stuck_newly (x : Sag) (cell : Nat) : cell ∈ x.stuck ++ x.newlyStuck [cell] := by
  by_cases known : cell ∈ x.stuck
  · exact List.mem_append_left _ known
  · have new : [cell].filter (fun n => !x.stuck.contains n) = [cell] := by simp [known]
    rw [Sag.newlyStuck, new]
    exact List.mem_append_right _ (List.mem_singleton.2 rfl)

theorem State.markStuck_eq (s : State) (c b k : Nat) (cells : List Nat) :
    s.markStuck c b k cells = s ∧ (s.sag c b k).newlyStuck cells = [] ∨
    s.markStuck c b k cells = s.setSag c b k
      { s.sag c b k with stuck := (s.sag c b k).stuck ++ (s.sag c b k).newlyStuck cells } := by
  by_cases none : (s.sag c b k).newlyStuck cells = []
  · exact .inl ⟨if_pos none, none⟩
  · exact .inr (if_neg none)

theorem Sag.newlyStuck_nil (x : Sag) : x.newlyStuck [] = [] := rfl

theorem State.spareLanes_setSag (s : State) (c b k : Nat) (x : Sag) :
    ((s.setSag c b k x).bank c b).spareLanes = (s.bank c b).spareLanes := by
  rw [State.setSag, State.bank_setBank]
  rfl

/-- A SAG has left its step: what became of it, and of all but memory and the SAG (R113, R114, R268). -/
structure Returned (c b k : Nat) (cells : List Nat) (s t : State) : Prop where
  sag : t.sag c b k = { s.sag c b k with
    step := false, testing := [], stuck := (s.sag c b k).stuck ++ (s.sag c b k).newlyStuck cells }
  lanes : (t.bank c b).spareLanes = (s.bank c b).spareLanes
  fen : t.fen = s.fen
  flash : t.flash = s.flash
  now : t.now = s.now
  power : t.power = s.power

theorem returned_sagReturns (s : State) (c b k : Nat) (cells : List Nat) :
    Returned c b k cells s (s.sagReturns c b k cells) := by
  let freed := s.setSag c b k { s.sag c b k with step := false, testing := [] }
  obtain ⟨mem, side, msc, touched, zeroed⟩ := zeroRows_rest c b k ((s.sag c b k).testing.filter (· < 512)) freed
  let clean : State := { freed with mem := mem, side := side, msc := msc, touched := touched }
  have run : s.sagReturns c b k cells = clean.markStuck c b k cells := congrArg (State.markStuck · c b k cells) zeroed
  have sag : clean.sag c b k = { s.sag c b k with step := false, testing := [] } := State.sag_setSag ..
  have lanes : (clean.bank c b).spareLanes = (s.bank c b).spareLanes := State.spareLanes_setSag ..
  rw [run]
  rcases clean.markStuck_eq c b k cells with ⟨same, none⟩ | marked
  · rw [same]
    rw [sag] at none
    have none : (s.sag c b k).newlyStuck cells = [] := none
    exact ⟨by rw [sag, none, List.append_nil], lanes, rfl, rfl, rfl, rfl⟩
  · rw [marked]
    exact ⟨by rw [State.sag_setSag, sag]; rfl, (State.spareLanes_setSag ..).trans lanes, rfl, rfl, rfl, rfl⟩

/-- Where no cell was found stuck, the SAG has only left its step. -/
theorem Returned.sag_nil (h : Returned c b k [] s t) : t.sag c b k = { s.sag c b k with step := false, testing := [] } := by
  rw [h.sag, Sag.newlyStuck_nil, List.append_nil]

theorem State.passed_rest (s : State) (utype n kind : Nat) :
    ∃ scores, s.passed utype n kind = { s with fen := { s.fen with scores := scores } } := by
  unfold State.passed
  dsimp only
  split_ifs <;> exact ⟨_, rfl⟩

section
variable {u : FenUnit} {cells : List Nat} (listed : s.fen.steps.contains u = true)
include listed

theorem State.stepEnd_sag (here : u = .sag c b k) (ok : Bool) : s.stepEnd u ok cells =
    let t := (s.stepLeaves u).sagReturns c b k (cells.filter (· < 528 * 65536))
    if ok then t.passed (unitOf u).1 (unitOf u).2 (s.fen.stepKinds.get (unitKey (unitOf u).1 (unitOf u).2) 0)
    else t.unitFails u cells 1 := by
  subst here
  exact if_neg (by simp only [listed]; decide)

theorem State.stepEnd_other (other : ∀ c b k, u ≠ .sag c b k) : s.stepEnd u true cells =
    (s.stepLeaves u).passed (unitOf u).1 (unitOf u).2 (s.fen.stepKinds.get (unitKey (unitOf u).1 (unitOf u).2) 0) := by
  have go : ¬((!s.fen.steps.contains u) = true) := by simp only [listed]; decide
  cases u with
  | sag c b k => exact absurd rfl (other c b k)
  | bus _ _ | port _ | slice _ _ => exact if_neg go

/-- A step on a SAG that passes (R113, R114). -/
theorem execFenStepEnd_sag (here : u = .sag c b k) : ∃ t, exec (.fenStepEnd u true []) s = .next t ∧
    t.fen.steps = s.fen.steps.erase u ∧ t.fen.stepEnded.find (unitKey (unitOf u).1 (unitOf u).2) = some s.now ∧
    t.sag c b k = { s.sag c b k with step := false, testing := [] } ∧ ((s.sag c b k).testing = [] → t.mem = s.mem) ∧
    ∀ a, (InRows c b k ((s.sag c b k).testing.filter (· < 512)) a → t.mem.get a = 0) ∧
      (¬InRows c b k ((s.sag c b k).testing.filter (· < 512)) a → t.mem.get a = s.mem.get a) := by
  let t := (s.stepLeaves u).sagReturns c b k []
  have returned : Returned c b k [] (s.stepLeaves u) t := returned_sagReturns ..
  obtain ⟨scores, passed⟩ := t.passed_rest (unitOf u).1 (unitOf u).2
    (s.fen.stepKinds.get (unitKey (unitOf u).1 (unitOf u).2) 0)
  have run := (State.stepEnd_sag (cells := []) listed here true).trans passed
  refine ⟨_, congrArg Host.Outcome.next run, congrArg Fen.steps returned.fen, ?_, returned.sag_nil, fun none => ?_,
    zeroRows_get _ _⟩
  · show t.fen.stepEnded.find _ = _
    rw [returned.fen]
    exact Tab.find_put_self ..
  · have none : ((s.stepLeaves u).sag c b k).testing = [] := none
    show ((s.stepLeaves u).sagReturns c b k []).mem = s.mem
    rw [State.sagReturns, State.markStuck_mem, ← State.sag, none]
    rfl

/-- A step that passes, on a unit that is no SAG, writes Fen's tables alone. -/
theorem execFenStepEnd_other (other : ∀ c b k, u ≠ .sag c b k) : ∃ t, exec (.fenStepEnd u true []) s = .next t ∧
    t.fen.steps = s.fen.steps.erase u ∧ t.fen.stepEnded.find (unitKey (unitOf u).1 (unitOf u).2) = some s.now ∧
    t.mem = s.mem := by
  obtain ⟨scores, passed⟩ := (s.stepLeaves u).passed_rest (unitOf u).1 (unitOf u).2
    (s.fen.stepKinds.get (unitKey (unitOf u).1 (unitOf u).2) 0)
  have run := (State.stepEnd_other (cells := []) listed other).trans passed
  exact ⟨_, congrArg Host.Outcome.next run, rfl, Tab.find_put_self .., rfl⟩

end

end

end Sys2Proof.Machine
end

section
/-! # Repairs, remaps and shrinks (O51)

A row or a lane that fails is recorded, and a row is moved at once where its SAG and the budget allow. A finished copy and a
finished shrink change one nibble of their layer's map. -/

namespace Sys2Proof.Machine

section
variable {s t : State} {c b k : Nat}

/-! ### Budgets (R103, R104) -/

/-- What the budgets of a core are computed from. -/
def State.meters (s : State) : State :=
  { now := s.now, power := s.power, flash := { layers := s.flash.layers }
    fen := { shares := s.fen.shares, hotCols := s.fen.hotCols, periods := s.fen.periods, spent := s.fen.spent,
             heldTo := s.fen.heldTo } }

theorem State.affords_congr (h : t.meters = s.meters) (c : Nat) (w : Class) (n : Nat) : t.affords c w n = s.affords c w n := by
  have read (u : State) : u.meters.affords c w n = u.affords c w n := by cases w <;> rfl
  rw [← read t, h, read]

theorem HubKeeps.meters (h : HubKeeps s t) : t.meters = s.meters := congrArg (·.meters) h.rest

theorem Returned.meters {cells : List Nat} (h : Returned c b k cells s t) : t.meters = s.meters := by
  rw [State.meters, h.fen, h.flash, h.now, h.power]
  rfl

theorem State.regionOf_congr (h : t.flash = s.flash) (c : Nat) : t.regionOf c = s.regionOf c := by
  rw [State.regionOf, State.layer, h]
  rfl

/-! ### The record of a repair (R427, R428) -/

theorem State.retire_room (room : s.flash.records.length < 2048) (utype action reason unit logical key : Nat) :
    ∃ r : Retired, r.action = action ∧ r.unit = unit ∧ r.time = s.now ∧
      HubKeeps { s with flash := { s.flash with records := s.flash.records ++ [r] } }
        (s.retire_ utype action reason unit logical key) := by
  refine ⟨{ utype := utype, action := action, reason := reason, unit := unit, time := s.now, boots := s.flash.boots,
            logical := logical, history := (s.fen.scores.get key {}).history }, rfl, rfl, rfl, ?_⟩
  have room : s.flash.records.length < Config.retireSize := room
  unfold State.retire_
  dsimp only
  rw [if_pos room]
  split
  · exact hubKeeps_requestReplacement _
  · exact .refl _

/-! ### Rows (R104, R187, R426) -/

/-- A repair row takes over: the SAG is busy with the copy, and one more is in use. -/
theorem State.substitute_spec (s : State) (x : RowSub) :
    let g := s.sag x.core x.bank x.sag
    (s.substitute x).sag x.core x.bank x.sag = { g with spareRows := g.spareRows + 1, busy := true } ∧
    (s.substitute x).flash.records = s.flash.records ∧ (s.substitute x).fen.subs = s.fen.subs := by
  intro g
  let moved := s.setSag x.core x.bank x.sag { g with spareRows := g.spareRows + 1, busy := true }
  let line := lineOf (rowPa x.core x.bank x.sag x.row)
  let copied := if x.row < 512 then moved.copyLines line (line + 128) else moved
  let written := (copied.charge x.core .test 2).writeConfig 2
  have told : HubKeeps written (s.substitute x) := hubKeeps_notice ..
  have copy : copied.cores = moved.cores ∧ copied.flash.records = s.flash.records ∧ copied.fen.subs = s.fen.subs := by
    simp only [copied]
    split <;> exact ⟨rfl, rfl, rfl⟩
  obtain ⟨cores, records, subs⟩ := copy
  have bank : written.sag x.core x.bank x.sag = moved.sag x.core x.bank x.sag := by
    show ((Tab.get copied.cores x.core {}).bank x.bank).sag x.sag = _
    rw [cores]
    rfl
  exact ⟨(told.sag _ _ _).trans (bank.trans (State.sag_setSag ..)), told.records.trans records, told.subs.trans subs⟩

/-- A row that is to be substituted is at once, or waits for its SAG and for budget (R104, R187). -/
theorem State.trySub_spec {x : RowSub} (alone : s.fen.subs = [x]) :
    let g := s.sag x.core x.bank x.sag
    let now := s.sagIdle x.core x.bank x.sag = true ∧ s.affords x.core .test 2 = true
    (s.trySub x).flash.records = s.flash.records ∧ ((s.trySub x).sag x.core x.bank x.sag).stuck = g.stuck ∧
    (now → ((s.trySub x).sag x.core x.bank x.sag).spareRows = g.spareRows + 1 ∧
      ((s.trySub x).sag x.core x.bank x.sag).busy = true ∧ (s.trySub x).fen.subs = []) ∧
    (¬now → ((s.trySub x).sag x.core x.bank x.sag).spareRows = g.spareRows ∧ (s.trySub x).fen.subs = [x]) := by
  intro g now
  by_cases h : now
  · have run : s.trySub x = { s with fen := { s.fen with subs := s.fen.subs.erase x } }.substitute x := if_pos (by simpa using h)
    obtain ⟨sag, records, subs⟩ := State.substitute_spec { s with fen := { s.fen with subs := s.fen.subs.erase x } } x
    rw [run, sag, records, subs]
    exact ⟨rfl, rfl, fun _ => ⟨rfl, rfl, by simp [alone]⟩, fun not => absurd h not⟩
  · have run : s.trySub x = s := if_neg (by rw [Bool.and_eq_true]; exact h)
    rw [run]
    exact ⟨rfl, rfl, fun yes => absurd yes h, fun _ => ⟨rfl, alone⟩⟩

/-- A row fails while a repair row is free and no row waits for one (R425, R426). -/
theorem State.rowFails_spec {row : Nat} (spare : (s.sag c b k).spareRows < 8) (room : s.flash.records.length < 2048)
    (clear : s.fen.subs = []) :
    let t := s.rowFails c b k row 1
    let now := s.sagIdle c b k = true ∧ s.affords c .test 2 = true
    (t.sag c b k).stuck = (s.sag c b k).stuck ∧
    (now → (t.sag c b k).spareRows = (s.sag c b k).spareRows + 1 ∧ (t.sag c b k).busy = true ∧ t.fen.subs = []) ∧
    (¬now → (t.sag c b k).spareRows = (s.sag c b k).spareRows ∧ t.fen.subs = [⟨c, b, k, row⟩]) ∧
    ∃ r, t.flash.records = s.flash.records ++ [r] ∧ r.action = 2 ∧ r.unit = unitField c (s.regionOf c) b k row 0 0 ∧
      r.time = s.now := by
  intro t now
  obtain ⟨r, action, unit, time, retired⟩ := State.retire_room room 7 2 1 (unitField c (s.regionOf c) b k row 0 0) c
    (unitKey 2 (sagUnit c b k))
  let kept := s.retire_ 7 2 1 (unitField c (s.regionOf c) b k row 0 0) c (unitKey 2 (sagUnit c b k))
  let asked : State := { kept with fen := { kept.fen with subs := kept.fen.subs ++ [⟨c, b, k, row⟩] } }
  have run : t = asked.trySub ⟨c, b, k, row⟩ := by
    have free : ¬(8 ≤ (s.sag c b k).spareRows + s.subsOf c b k) := by
      rw [State.subsOf, clear]
      exact Nat.not_le.2 spare
    show s.rowFails c b k row 1 = _
    rw [State.rowFails, clear, if_neg (by simp)]
    exact if_neg free
  have sag : asked.sag c b k = s.sag c b k := retired.sag c b k
  have affords : asked.affords c .test 2 = s.affords c .test 2 := State.affords_congr (t := asked) retired.meters c .test 2
  have idle : asked.sagIdle c b k = s.sagIdle c b k := by
    show (!(asked.sag c b k).busy && !(asked.sag c b k).forced && !(asked.sag c b k).step) = _
    rw [sag]
    rfl
  have asks : asked.fen.subs = [⟨c, b, k, row⟩] := by
    show kept.fen.subs ++ _ = _
    rw [retired.subs, clear]
    rfl
  obtain ⟨records, stuck, atOnce, later⟩ := State.trySub_spec asks
  rw [idle, affords, sag] at atOnce later
  rw [sag] at stuck
  rw [run]
  exact ⟨stuck, atOnce, later, r, records.trans retired.records, action, unit, time⟩

/-- A failed step leaves its SAG, and hands what it found to the next rung (R114, R425). -/
theorem stepEnd_fails (listed : s.fen.steps.contains (.sag c b k) = true) (cells : List Nat) : ∃ t,
    exec (.fenStepEnd (.sag c b k) false cells) s = .next (t.unitFails (.sag c b k) cells 1) ∧
    Returned c b k (cells.filter (· < 528 * 65536)) (s.stepLeaves (.sag c b k)) t :=
  ⟨_, congrArg Host.Outcome.next (State.stepEnd_sag listed rfl false), returned_sagReturns ..⟩

/-- A step finds a row of its SAG failed (R426). -/
theorem execFenStepEnd_row {cell : Nat} (listed : s.fen.steps.contains (.sag c b k) = true)
    (spare : (s.sag c b k).spareRows < 8) (room : s.flash.records.length < 2048) (row : cell < 528 * 65536)
    (clear : s.fen.subs = []) :
    let now := (s.sag c b k).busy = false ∧ (s.sag c b k).forced = false ∧ s.affords c .test 2 = true
    ∃ t r, exec (.fenStepEnd (.sag c b k) false [cell]) s = .next t ∧
      (now → (t.sag c b k).spareRows = (s.sag c b k).spareRows + 1 ∧ (t.sag c b k).busy = true ∧ t.fen.subs = []) ∧
      (¬now → (t.sag c b k).spareRows = (s.sag c b k).spareRows ∧ t.fen.subs = [⟨c, b, k, cell / 65536⟩]) ∧
      cell ∈ (t.sag c b k).stuck ∧ t.flash.records = s.flash.records ++ [r] ∧ r.action = 2 ∧
      r.unit = unitField c (s.regionOf c) b k (cell / 65536) 0 0 ∧ r.time = s.now := by
  intro now
  obtain ⟨back, run, returned⟩ := stepEnd_fails listed [cell]
  rw [show [cell].filter (· < 528 * 65536) = [cell] by simp [row]] at returned
  have sag : back.sag c b k = { s.sag c b k with
    step := false, testing := [], stuck := (s.sag c b k).stuck ++ (s.sag c b k).newlyStuck [cell] } := returned.sag
  have fails : back.unitFails (.sag c b k) [cell] 1 = back.rowFails c b k (cell / 65536) 1 :=
    if_pos (show cell / 65536 < 528 by omega)
  obtain ⟨stuck, atOnce, later, r, records, action, unit, time⟩ := State.rowFails_spec (s := back) (c := c) (b := b) (k := k)
    (row := cell / 65536) (by rw [sag]; exact spare) (by rw [returned.flash]; exact room) (by rw [returned.fen]; exact clear)
  have ready : (back.sagIdle c b k = true ∧ back.affords c .test 2 = true) ↔ now := by
    have affords : back.affords c .test 2 = s.affords c .test 2 := State.affords_congr (returned.meters.trans rfl) c .test 2
    have idle : back.sagIdle c b k = (!(s.sag c b k).busy && !(s.sag c b k).forced && !false) := by
      rw [State.sagIdle, ← State.sag, sag]
    rw [idle, affords]
    simp [now, and_assoc]
  rw [ready, sag] at atOnce later
  refine ⟨_, r, run.trans (congrArg Host.Outcome.next fails), atOnce, later, ?_, ?_, action, ?_, time.trans returned.now⟩
  · rw [stuck, sag]
    exact Sag.stuck_newly _ cell
  · rw [records, returned.flash]
    rfl
  · rw [unit, State.regionOf_congr returned.flash]
    rfl

/-! ### Lanes (R22, R425) -/

/-- A lane fails while a spare lane of its bank is free. -/
theorem State.laneFails_spec {lane : Nat} (spare : (s.bank c b).spareLanes < 2) (room : s.flash.records.length < 2048) :
    let t := s.laneFails c b lane 1
    t.bank c b = { s.bank c b with spareLanes := (s.bank c b).spareLanes + 1 } ∧
    ∃ r, t.flash.records = s.flash.records ++ [r] ∧ r.action = 1 ∧ r.unit = unitField c (s.regionOf c) b 0 0 lane 0 ∧
      r.time = s.now := by
  intro t
  obtain ⟨r, action, unit, time, retired⟩ := State.retire_room room 6 1 1 (unitField c (s.regionOf c) b 0 0 lane 0) c
    (unitKey 1 c)
  have run : t = ((s.retire_ 6 1 1 (unitField c (s.regionOf c) b 0 0 lane 0) c (unitKey 1 c)).setBank c b
      { s.bank c b with spareLanes := (s.bank c b).spareLanes + 1 }).writeConfig 2 := if_neg (Nat.not_le.2 spare)
  rw [run]
  exact ⟨State.bank_setBank .., r, retired.records, action, unit, time⟩

/-- A step on a SAG finds a lane of its bank failed. -/
theorem execFenStepEnd_lane {cell : Nat} (listed : s.fen.steps.contains (.sag c b k) = true)
    (spare : (s.bank c b).spareLanes < 2) (room : s.flash.records.length < 2048) (lane : 528 * 65536 ≤ cell) :
    ∃ t r, exec (.fenStepEnd (.sag c b k) false [cell]) s = .next t ∧
      (t.bank c b).spareLanes = (s.bank c b).spareLanes + 1 ∧ (t.sag c b k).stuck = (s.sag c b k).stuck ∧
      t.flash.records = s.flash.records ++ [r] ∧ r.action = 1 ∧
      r.unit = unitField c (s.regionOf c) b 0 0 (cell / 65536 - 528) 0 ∧ r.time = s.now := by
  obtain ⟨back, run, returned⟩ := stepEnd_fails listed [cell]
  rw [show [cell].filter (· < 528 * 65536) = [] by simp [lane]] at returned
  have fails : back.unitFails (.sag c b k) [cell] 1 = back.laneFails c b (cell / 65536 - 528) 1 :=
    if_neg (show ¬cell / 65536 < 528 by omega)
  have lanes : (back.bank c b).spareLanes = (s.bank c b).spareLanes := returned.lanes
  obtain ⟨bank, r, records, action, unit, time⟩ := State.laneFails_spec (s := back) (c := c) (b := b)
    (lane := cell / 65536 - 528) (by rw [lanes]; exact spare) (by rw [returned.flash]; exact room)
  refine ⟨_, r, run.trans (congrArg Host.Outcome.next fails), ?_, ?_, ?_, action, ?_, time.trans returned.now⟩
  · rw [bank, ← lanes]
  · have kept : (back.laneFails c b (cell / 65536 - 528) 1).sag c b k = back.sag c b k := by
      rw [State.sag, bank]
      rfl
    rw [kept, returned.sag_nil]
    rfl
  · rw [records, returned.flash]
    rfl
  · rw [unit, State.regionOf_congr returned.flash]
    rfl

/-! ### The map of a layer (R430) -/

/-- The fields of a number below a place do not depend on what stands at and above it. -/
theorem fld_below {lo n m a len : Nat} (h : a + len ≤ n) : fld (lo + 2 ^ n * m) a len = fld lo a len := by
  obtain ⟨d, rfl⟩ := Nat.exists_eq_add_of_le h
  rw [fld, fld, Nat.add_assoc, Nat.pow_add, Nat.mul_assoc, Nat.add_mul_div_left _ _ (Nat.two_pow_pos a), Nat.pow_add,
    Nat.mul_assoc, Nat.add_mul_mod_self_left]

/-- The fields above a place are those of what stands there. -/
theorem fld_above {lo n m a len : Nat} (small : lo < 2 ^ n) (h : n ≤ a) : fld (lo + 2 ^ n * m) a len = fld m (a - n) len := by
  obtain ⟨d, rfl⟩ := Nat.exists_eq_add_of_le h
  rw [fld, fld, Nat.pow_add, ← Nat.div_div_eq_div_mul, Nat.add_mul_div_left _ _ (Nat.two_pow_pos n), Nat.div_eq_of_lt small,
    Nat.zero_add, Nat.add_sub_cancel_left]

/-- A map with logical id `i` served by region `x` (R431). -/
def remapped (v i x : Nat) : Nat := v - fld v (4 * i) 4 * 2 ^ (4 * i) + x * 2 ^ (4 * i)

/-- The map cut at nibble `i`, before and after. -/
theorem remapped_cut {v i x : Nat} (id : i < 8) (map : v < 2 ^ 32) (region : x < 16) : ∃ lo hi, lo < 2 ^ (4 * i) ∧
    v = lo + 2 ^ (4 * i) * (fld v (4 * i) 4 + 2 ^ 4 * hi) ∧ remapped v i x = lo + 2 ^ (4 * i) * (x + 2 ^ 4 * hi) ∧
    remapped v i x < 2 ^ 32 := by
  have cut : v = v % 2 ^ (4 * i) + 2 ^ (4 * i) * (fld v (4 * i) 4 + 2 ^ 4 * (v / 2 ^ (4 * i) / 2 ^ 4)) := by
    rw [fld, Nat.mod_add_div, Nat.mod_add_div]
  have low : v % 2 ^ (4 * i) < 2 ^ (4 * i) := Nat.mod_lt _ (Nat.two_pow_pos _)
  have top : 2 ^ 32 = 2 ^ (4 * i) * (2 ^ 4 * 2 ^ (28 - 4 * i)) := by
    rw [← Nat.pow_add, ← Nat.pow_add]
    congr 1
    omega
  generalize v % 2 ^ (4 * i) = lo at cut low
  generalize v / 2 ^ (4 * i) / 2 ^ 4 = hi at cut
  have after : remapped v i x = lo + 2 ^ (4 * i) * (x + 2 ^ 4 * hi) := by
    have split := Nat.mul_add (2 ^ (4 * i))
    rw [split] at cut ⊢
    rw [remapped, Nat.mul_comm (fld v _ _), Nat.mul_comm x]
    omega
  refine ⟨lo, hi, low, cut, after, ?_⟩
  have inside : hi < 2 ^ (28 - 4 * i) := by
    by_contra out
    have : 2 ^ (4 * i) * (2 ^ 4 * 2 ^ (28 - 4 * i)) ≤ 2 ^ (4 * i) * (fld v (4 * i) 4 + 2 ^ 4 * hi) :=
      Nat.mul_le_mul_left _ (by omega)
    omega
  have fits : 2 ^ (4 * i) * (x + 2 ^ 4 * hi + 1) ≤ 2 ^ (4 * i) * (2 ^ 4 * 2 ^ (28 - 4 * i)) :=
    Nat.mul_le_mul_left _ (by omega)
  rw [Nat.mul_add_one] at fits
  rw [after, top]
  omega

/-- A remap changes the nibble of its logical id alone (R431). -/
theorem fld_remapped {v i x : Nat} (id : i < 8) (map : v < 2 ^ 32) (region : x < 16) (j : Nat) :
    fld (BitVec.ofNat 32 (remapped v i x)).toNat (4 * j) 4 = if j = i then x else fld v (4 * j) 4 := by
  obtain ⟨lo, hi, low, before, after, small⟩ := remapped_cut id map region
  rw [BitVec.toNat_ofNat, Nat.mod_eq_of_lt small, after]
  rcases Nat.lt_trichotomy j i with below | rfl | above
  · rw [if_neg (by omega), before, fld_below (by omega), fld_below (by omega)]
  · rw [if_pos rfl, fld_above low le_rfl, Nat.sub_self, fld_below (by omega), fld]
    simpa using region
  · have old : fld v (4 * i) 4 < 2 ^ 4 := Nat.mod_lt _ (by decide)
    rw [if_neg (by omega), before, fld_above low (by omega), fld_above low (by omega), fld_above region (by omega),
      fld_above old (by omega)]

theorem fld_or (v w lo len : Nat) : fld (v ||| w) lo len = fld v lo len ||| fld w lo len := by
  rw [fld, ← Nat.shiftRight_eq_div_pow, Nat.shiftRight_or_distrib, Nat.or_mod_two_pow, Nat.shiftRight_eq_div_pow,
    Nat.shiftRight_eq_div_pow, fld, fld]

/-- A shrink writes 0xF to the nibble of its logical id alone (R433). -/
theorem fld_shrunk (map : BitVec 32) {i j : Nat} (id : i < 8) (other : j < 8) :
    fld (map ||| BitVec.ofNat 32 (15 * 2 ^ (4 * i))).toNat (4 * j) 4 = if j = i then 15 else fld map.toNat (4 * j) 4 := by
  have mask : ∀ i < 8, ∀ j < 8, fld (BitVec.ofNat 32 (15 * 2 ^ (4 * i))).toNat (4 * j) 4 = if j = i then 15 else 0 := by
    decide
  have nibble : fld map.toNat (4 * j) 4 < 16 := Nat.mod_lt _ (by decide)
  rw [BitVec.toNat_or, fld_or, mask i id j other]
  split
  · have full : ∀ x < 16, x ||| 15 = 15 := by decide
    exact full _ nibble
  · exact Nat.or_zero _

/-! ### Copies and shrinks that are finished (R431, R433) -/

/-- A core on which nothing runs, and of which nothing is asked. -/
def State.halted (s : State) (c : Nat) : Prop := (s.core c).st ∉ [.running, .loading, .saving] ∧ (s.ct c).req = 0

theorem State.layer_of_layers {n : Nat} {l : Layer} (h : t.flash.layers = s.flash.layers.put n l) : t.layer n = l := by
  rw [State.layer, h, Tab.get_put_self]

theorem State.halted.rests (h : s.halted c) : (s.core c).st ≠ .saving ∧ (s.core c).st ≠ .running ∧
    (s.core c).st ≠ .loading ∧ (s.core c).ct.req = 0 := by
  obtain ⟨idle, free⟩ := h
  simp only [List.mem_cons, List.not_mem_nil, or_false, not_or] at idle
  obtain ⟨notRunning, notLoading, notSaving⟩ := idle
  exact ⟨notSaving, notRunning, notLoading, free⟩

theorem execRemapCopyComplete_copied {n i spare : Nat} (copying : (s.layer n).remap = some (i, spare))
    (halted : s.halted (n * 8 + i)) : ∃ t, exec (.remapCopyComplete n) s = .next t ∧
      (t.layer n).map = BitVec.ofNat 32 (remapped (s.layer n).map.toNat i spare) ∧ (t.layer n).remap = none ∧
      t.mem = s.mem := by
  let served : Layer := { s.layer n with
    map := BitVec.ofNat 32 (remapped (s.layer n).map.toNat i spare), remap := none
    retired := (s.layer n).retired ||| BitVec.ofNat 9 (2 ^ fld (s.layer n).map.toNat (4 * i) 4) }
  have layer : (s.remapEnd n).layer n = served := by
    obtain ⟨saving, running, loading, free⟩ := halted.rests
    refine State.layer_of_layers (s := s) ?_
    simp only [State.remapEnd, copying]
    rw [if_neg (by simp [saving, running, loading, free]), State.wakePaused_flash]
    rfl
  exact ⟨_, rfl, by rw [layer], by rw [layer], s.remapEnd_mem n⟩

theorem State.removeTasks_absent (absent : ∀ t ∈ s.sched.tasks, c ∉ t.cores) : s.removeTasks c = s := by
  have none (l : List Task) (h : ∀ t ∈ l, c ∉ t.cores) : l.foldl (fun u t =>
      if !t.cores.contains c || t.ends.isSome || (t.live && t.acked.contains c) then u else u.faultTask t.num c 0x85) s = s := by
    induction l with
    | nil => rfl
    | cons t l ih =>
      obtain ⟨here, rest⟩ := List.forall_mem_cons.1 h
      rw [List.foldl_cons, if_pos (by simp [here]), ih rest]
  exact none _ absent

theorem State.requestReplacement_replreq (s : State) : s.requestReplacement.bar.replreq = true := by
  unfold State.requestReplacement
  split
  · next asked => exact asked
  · have asks : ({ s with bar := { s.bar with replreq := true } } : State).errVector.bar.replreq = true := by
      unfold State.errVector
      split
      · exact (bootKeeps_send ..).replreq rfl
      · rfl
    exact (bootKeeps_logHub ..).replreq ((bootKeeps_send ..).replreq asks)

/-- A shrink of one logical id, for which nothing was stopped, is finished (R433, R436). -/
theorem execShrinkComplete_removed {n i : Nat} (shrinking : (s.layer n).shrink = [i]) (stopped : (s.layer n).stopped = [])
    (halted : ∀ j, j < 8 → s.halted (n * 8 + j)) (absent : ∀ t ∈ s.sched.tasks, n * 8 + i ∉ t.cores) :
    ∃ t, exec (.shrinkComplete n) s = .next t ∧
      (t.layer n).map = (s.layer n).map ||| BitVec.ofNat 32 (15 * 2 ^ (4 * i)) ∧ (t.layer n).shrink = [] ∧
      t.bar.replreq = true ∧ t.mem = s.mem := by
  let removed : Layer := { s.layer n with
    map := (s.layer n).map ||| BitVec.ofNat 32 (15 * 2 ^ (4 * i)), shrink := [], stopped := []
    retired := (s.layer n).retired ||| BitVec.ofNat 9 (2 ^ fld (s.layer n).map.toNat (4 * i) 4) }
  let written := (s.setLayer n removed).writeConfig 1
  have asks : HubKeeps written written.requestReplacement := hubKeeps_requestReplacement _
  let unleased : State := { written.requestReplacement with fen := { written.requestReplacement.fen with
    leases := written.requestReplacement.fen.leases.drop (n * 8 + i) } }
  have gone : unleased.removeTasks (n * 8 + i) = unleased :=
    State.removeTasks_absent (s := unleased) (by rw [show unleased.sched.tasks = s.sched.tasks from asks.tasks]; exact absent)
  have run : s.shrinkEnd n = unleased := by
    have idle : ((List.range 8).any fun j => (s.core (n * 8 + j)).st == .running || (s.core (n * 8 + j)).st == .loading ||
        (s.core (n * 8 + j)).st == .saving || (s.core (n * 8 + j)).ct.req != 0) = false := by
      rw [List.any_eq_false]
      intro j hj
      obtain ⟨saving, running, loading, free⟩ := (halted j (List.mem_range.1 hj)).rests
      simp [saving, running, loading, free]
    unfold State.shrinkEnd
    dsimp only
    rw [shrinking, stopped, idle, if_neg (by simp)]
    exact gone
  have layer : unleased.layer n = removed := (asks.layer n).trans (State.layer_of_layers (s := s) rfl)
  exact ⟨_, congrArg Host.Outcome.next run, by rw [layer], by rw [layer], written.requestReplacement_replreq, asks.mem⟩

/-! ### Decay (R116) -/

theorem execScoreDecay_halves (s : State) : ∃ t, exec .scoreDecay s = .next t ∧
    ∀ y, (s.fen.scores.get y {}).value ≤ 65535 → (t.fen.scores.get y {}).value = (s.fen.scores.get y {}).value / 2 := by
  refine ⟨_, rfl, fun y low => ?_⟩
  show (Tab.get (s.fen.scores.mapVals fun _ x => x.change (x.value / 2)) y {}).value = _
  rw [Tab.get_mapVals, Tab.get] at *
  cases found : s.fen.scores.find y with
  | none => rfl
  | some x =>
    rw [found] at low
    exact Nat.min_eq_left (show x.value / 2 ≤ 65535 from (Nat.div_le_self ..).trans low)

end

/-- Settles O51: steps by what enters and leaves Fen's list and by the rows zeroed, failures by the record and the repair that follow
it, and the core map by the one nibble that changes. -/
theorem testAndRepairEvents : Obligations.TestAndRepairEvents := by
  intro s c b k n cell i spare rows u x l key halted
  refine ⟨execFenStepStart_starts, execFenStepStart_unready, execFenStepStart_barred, fun listed => ?_, execFenStepEnd_row,
    execFenStepEnd_lane, fun id region copying rest => ?_, fun id shrinking stopped rest absent => ?_, execScoreDecay_halves s⟩
  · by_cases onSag : ∃ d e j, u = .sag d e j
    · obtain ⟨d, e, j, rfl⟩ := onSag
      obtain ⟨t, run, steps, ended, sag, untested, zeros⟩ := execFenStepEnd_sag listed rfl
      refine ⟨t, run, steps, ended, fun same => ?_, fun none => untested (none d e j rfl), fun same _ => ?_⟩
      · obtain ⟨rfl, rfl, rfl⟩ : d = c ∧ e = b ∧ j = k := by simpa using same
        exact sag
      · obtain ⟨rfl, rfl, rfl⟩ : d = c ∧ e = b ∧ j = k := by simpa using same
        have tested (a : Nat) : InRows d e j (x.testing.filter (· < 512)) a ↔
            ∃ r ∈ x.testing, r < 512 ∧ rowPa d e j r ≤ a ∧ a < rowPa d e j r + 8192 := by
          simp [InRows, and_assoc]
        exact ⟨fun a inside => (zeros a).1 ((tested a).2 inside), fun a outside => (zeros a).2 (mt (tested a).1 outside)⟩
    · obtain ⟨t, run, steps, ended, mem⟩ := execFenStepEnd_other listed fun d e j same => onSag ⟨d, e, j, same⟩
      exact ⟨t, run, steps, ended, fun same => absurd ⟨c, b, k, same⟩ onSag, fun _ => mem,
        fun same => absurd ⟨c, b, k, same⟩ onSag⟩
  · obtain ⟨t, run, map, remap, mem⟩ := execRemapCopyComplete_copied copying rest
    refine ⟨t, run, ?_, fun j _ other => ?_, remap, mem⟩
    · rw [map, fld_remapped id l.map.isLt region, if_pos rfl]
    · rw [map, fld_remapped id l.map.isLt region, if_neg other]
  · obtain ⟨t, run, map, shrink, replreq, mem⟩ := execShrinkComplete_removed shrinking stopped rest absent
    refine ⟨t, run, ?_, fun j low other => ?_, shrink, replreq, mem⟩
    · rw [map, fld_shrunk l.map id id, if_pos rfl]
    · rw [map, fld_shrunk l.map id low, if_neg other]

end Sys2Proof.Machine
end

section
/-! # Decoding the word of an instruction (O58)

One lemma a format says what its word reads as, operand by operand and at the bits that its row fixes; the decoder then follows the
major, the minor and those bits to the instruction's row. -/

namespace Sys2Proof

/-! ### Fields -/

theorem ofNat_mod_eq_iff {n m : Nat} {x : BitVec n} : BitVec.ofNat n (m % 2 ^ n) = x ↔ m % 2 ^ n = x.toNat := by
  rw [← BitVec.toNat_inj, BitVec.toNat_ofNat, Nat.mod_mod]

theorem bit_eq_iff {w n : Nat} {b : Bool} : bit w n = b ↔ w / 2 ^ n % 2 = bnat b := by
  have := Nat.mod_lt (w / 2 ^ n) (show 0 < 2 by decide)
  cases b <;> simp [bit, bnat]

/-! ### What a format's word reads as

`k` is the constant part of the word: it is zero where the format holds its operands, and is read elsewhere. -/

@[simp] theorem S3.reads (o : S3) {k : Nat} (free : k / 2 ^ 7 % 2 = 0 ∧ k / 2 ^ 14 % 2 ^ 12 = 0) :
    S3.dec (k + o.enc) = o ∧ fld (k + o.enc) 26 6 = k / 2 ^ 26 % 2 ^ 6 ∧ fld (k + o.enc) 0 7 = k % 2 ^ 7 ∧
      fld (k + o.enc) 8 6 = k / 2 ^ 8 % 2 ^ 6 := by
  obtain ⟨d, a, b, p⟩ := o
  have := d.isLt; have := a.isLt; have := b.isLt; have := bnat_le p
  simp only [S3.dec, S3.enc, S3.mk.injEq, ofNat_mod_eq_iff, bit_eq_iff, fld]
  omega

@[simp] theorem SI.reads (o : SI) {k : Nat} (free : k % 2 ^ 26 = 0) :
    SI.dec (k + o.enc) = o ∧ fld (k + o.enc) 26 6 = k / 2 ^ 26 % 2 ^ 6 := by
  obtain ⟨d, a, i⟩ := o
  have := d.isLt; have := a.isLt; have := i.isLt
  simp only [SI.dec, SI.enc, SI.mk.injEq, ofNat_mod_eq_iff, fld]
  omega

@[simp] theorem SH.reads (o : SH) {k : Nat} (free : k % 2 ^ 6 = 0 ∧ k / 2 ^ 18 % 2 ^ 8 = 0) :
    SH.dec (k + o.enc) = o ∧ fld (k + o.enc) 26 6 = k / 2 ^ 26 % 2 ^ 6 ∧ fld (k + o.enc) 6 10 = k / 2 ^ 6 % 2 ^ 10 ∧
      fld (k + o.enc) 16 2 = k / 2 ^ 16 % 2 ^ 2 := by
  obtain ⟨d, a, s⟩ := o
  have := d.isLt; have := a.isLt; have := s.isLt
  simp only [SH.dec, SH.enc, SH.mk.injEq, ofNat_mod_eq_iff, fld]
  omega

@[simp] theorem LI.reads (o : LI) {k : Nat} (free : k % 2 ^ 26 = 0) :
    LI.dec (k + o.enc) = o ∧ fld (k + o.enc) 26 6 = k / 2 ^ 26 % 2 ^ 6 := by
  obtain ⟨d, i⟩ := o
  have := d.isLt; have := i.isLt
  simp only [LI.dec, LI.enc, LI.mk.injEq, ofNat_mod_eq_iff, fld]
  omega

@[simp] theorem BR.reads (o : BR) {k : Nat} (free : k % 2 ^ 15 = 0 ∧ k / 2 ^ 18 % 2 ^ 8 = 0) :
    BR.dec (k + o.enc) = o ∧ fld (k + o.enc) 26 6 = k / 2 ^ 26 % 2 ^ 6 ∧
      fld (k + o.enc) 15 3 = k / 2 ^ 15 % 2 ^ 3 := by
  obtain ⟨a, b, o⟩ := o
  have := a.isLt; have := b.isLt; have := o.isLt
  simp only [BR.dec, BR.enc, BR.mk.injEq, ofNat_mod_eq_iff, fld]
  omega

@[simp] theorem JL.reads (o : JL) {k : Nat} (free : k % 2 ^ 26 = 0) :
    JL.dec (k + o.enc) = o ∧ fld (k + o.enc) 26 6 = k / 2 ^ 26 % 2 ^ 6 := by
  obtain ⟨l, o⟩ := o
  have := l.isLt; have := o.isLt
  simp only [JL.dec, JL.enc, JL.mk.injEq, ofNat_mod_eq_iff, fld]
  omega

@[simp] theorem R1.reads (o : R1) {k : Nat} (free : k / 2 ^ 7 % 2 = 0 ∧ k / 2 ^ 22 % 2 ^ 4 = 0) :
    R1.dec (k + o.enc) = o ∧ fld (k + o.enc) 26 6 = k / 2 ^ 26 % 2 ^ 6 ∧ fld (k + o.enc) 0 7 = k % 2 ^ 7 ∧
      fld (k + o.enc) 8 14 = k / 2 ^ 8 % 2 ^ 14 ∧ (k / 2 ^ 8 % 2 ^ 18 ≠ 0 → fld (k + o.enc) 8 18 ≠ 0) := by
  obtain ⟨r, p⟩ := o
  have := r.isLt; have := bnat_le p
  simp only [R1.dec, R1.enc, R1.mk.injEq, ofNat_mod_eq_iff, bit_eq_iff, fld]
  omega

@[simp] theorem P0.reads (o : P0) {k : Nat} (free : k / 2 ^ 7 % 2 = 0) :
    P0.dec (k + o.enc) = o ∧ fld (k + o.enc) 26 6 = k / 2 ^ 26 % 2 ^ 6 ∧ fld (k + o.enc) 0 7 = k % 2 ^ 7 ∧
      fld (k + o.enc) 8 14 = k / 2 ^ 8 % 2 ^ 14 ∧ fld (k + o.enc) 8 18 = k / 2 ^ 8 % 2 ^ 18 := by
  obtain ⟨p⟩ := o
  have := bnat_le p
  simp only [P0.dec, P0.enc, P0.mk.injEq, bit_eq_iff, fld]
  omega

@[simp] theorem N10.reads (o : N10) {k : Nat} (free : k / 2 ^ 7 % 2 ^ 11 = 0) :
    N10.dec (k + o.enc) = o ∧ fld (k + o.enc) 26 6 = k / 2 ^ 26 % 2 ^ 6 ∧ fld (k + o.enc) 0 7 = k % 2 ^ 7 ∧
      fld (k + o.enc) 18 8 = k / 2 ^ 18 % 2 ^ 8 ∧ fld (k + o.enc) 7 1 = bnat o.p := by
  obtain ⟨n, p⟩ := o
  have := n.isLt; have := bnat_le p
  simp only [N10.dec, N10.enc, N10.mk.injEq, ofNat_mod_eq_iff, bit_eq_iff, fld]
  omega

@[simp] theorem PS.reads (o : PS) {k : Nat} (free : k / 2 ^ 8 % 2 ^ 3 = 0 ∧ k / 2 ^ 18 % 2 ^ 8 = 0) :
    PS.dec (k + o.enc) = o ∧ fld (k + o.enc) 26 6 = k / 2 ^ 26 % 2 ^ 6 ∧ fld (k + o.enc) 0 7 = k % 2 ^ 7 ∧
      fld (k + o.enc) 7 1 = k / 2 ^ 7 % 2 ^ 1 ∧ fld (k + o.enc) 11 7 = k / 2 ^ 11 % 2 ^ 7 := by
  obtain ⟨a, b, c⟩ := o
  have := a.isLt; have := b.isLt; have := c.isLt
  simp only [PS.dec, PS.enc, PS.mk.injEq, ofNat_mod_eq_iff, fld]
  omega

@[simp] theorem LK.reads (o : LK) {k : Nat} (free : k / 2 ^ 7 % 2 ^ 3 = 0 ∧ k / 2 ^ 22 % 2 ^ 4 = 0) :
    LK.dec (k + o.enc) = o ∧ fld (k + o.enc) 26 6 = k / 2 ^ 26 % 2 ^ 6 ∧ fld (k + o.enc) 0 7 = k % 2 ^ 7 ∧
      fld (k + o.enc) 10 12 = k / 2 ^ 10 % 2 ^ 12 := by
  obtain ⟨r, x, p⟩ := o
  have := r.isLt; have := x.isLt; have := bnat_le p
  simp only [LK.dec, LK.enc, LK.mk.injEq, ofNat_mod_eq_iff, bit_eq_iff, fld]
  omega

@[simp] theorem RT.reads (o : RT) {k : Nat} (free : k / 2 ^ 7 % 2 ^ 5 = 0 ∧ k / 2 ^ 22 % 2 ^ 4 = 0) :
    RT.dec (k + o.enc) = o ∧ fld (k + o.enc) 26 6 = k / 2 ^ 26 % 2 ^ 6 ∧ fld (k + o.enc) 0 7 = k % 2 ^ 7 ∧
      fld (k + o.enc) 12 10 = k / 2 ^ 12 % 2 ^ 10 := by
  obtain ⟨r, t, p⟩ := o
  have := r.isLt; have := t.isLt; have := bnat_le p
  simp only [RT.dec, RT.enc, RT.mk.injEq, ofNat_mod_eq_iff, bit_eq_iff, fld]
  omega

@[simp] theorem SV.reads (o : SV) {k : Nat} (free : k / 2 ^ 7 % 2 ^ 6 = 0 ∧ k / 2 ^ 18 % 2 ^ 8 = 0) :
    SV.dec (k + o.enc) = o ∧ fld (k + o.enc) 26 6 = k / 2 ^ 26 % 2 ^ 6 ∧ fld (k + o.enc) 0 7 = k % 2 ^ 7 ∧
      fld (k + o.enc) 13 5 = k / 2 ^ 13 % 2 ^ 5 := by
  obtain ⟨d, a, g, t, p⟩ := o
  have := d.isLt; have := a.isLt; have := bnat_le g; have := t.isLt; have := bnat_le p
  simp only [SV.dec, SV.enc, SV.mk.injEq, ofNat_mod_eq_iff, bit_eq_iff, fld]
  omega

@[simp] theorem RM.reads (o : RM) {k : Nat} (free : k / 2 ^ 7 % 2 ^ 7 = 0) :
    RM.dec (k + o.enc) = o ∧ fld (k + o.enc) 26 6 = k / 2 ^ 26 % 2 ^ 6 ∧ fld (k + o.enc) 0 7 = k % 2 ^ 7 ∧
      fld (k + o.enc) 14 12 = k / 2 ^ 14 % 2 ^ 12 := by
  obtain ⟨e, n, s, r, p⟩ := o
  have := bnat_le e; have := bnat_le n; have := bnat_le s; have := r.isLt; have := bnat_le p
  simp only [RM.dec, RM.enc, RM.mk.injEq, ofNat_mod_eq_iff, bit_eq_iff, fld]
  omega

@[simp] theorem R2.reads (o : R2) {k : Nat} (free : k / 2 ^ 7 % 2 = 0 ∧ k / 2 ^ 18 % 2 ^ 8 = 0) :
    R2.dec (k + o.enc) = o ∧ fld (k + o.enc) 26 6 = k / 2 ^ 26 % 2 ^ 6 ∧ fld (k + o.enc) 0 7 = k % 2 ^ 7 ∧
      fld (k + o.enc) 8 10 = k / 2 ^ 8 % 2 ^ 10 ∧ (k / 2 ^ 12 % 2 ^ 10 ≠ 0 → fld (k + o.enc) 12 10 ≠ 0) := by
  obtain ⟨d, a, p⟩ := o
  have := d.isLt; have := a.isLt; have := bnat_le p
  simp only [R2.dec, R2.enc, R2.mk.injEq, ofNat_mod_eq_iff, bit_eq_iff, fld]
  omega

@[simp] theorem RW.reads (o : RW) {k : Nat} (free : k / 2 ^ 7 % 2 = 0 ∧ k / 2 ^ 10 % 2 = 0 ∧ k / 2 ^ 18 % 2 ^ 7 = 0) :
    RW.dec (k + o.enc) = o ∧ fld (k + o.enc) 26 6 = k / 2 ^ 26 % 2 ^ 6 ∧ fld (k + o.enc) 0 7 = k % 2 ^ 7 ∧
      fld (k + o.enc) 8 2 = k / 2 ^ 8 % 2 ^ 2 ∧ fld (k + o.enc) 11 7 = k / 2 ^ 11 % 2 ^ 7 ∧
      fld (k + o.enc) 25 1 = k / 2 ^ 25 % 2 ^ 1 := by
  obtain ⟨x, a, g, p⟩ := o
  have := x.isLt; have := a.isLt; have := bnat_le g; have := bnat_le p
  simp only [RW.dec, RW.enc, RW.mk.injEq, ofNat_mod_eq_iff, bit_eq_iff, fld]
  omega

@[simp] theorem KG.reads (o : KG) {k : Nat} (free : k / 2 ^ 7 % 2 = 0 ∧ k / 2 ^ 10 % 2 = 0 ∧ k / 2 ^ 22 % 2 ^ 3 = 0) :
    KG.dec (k + o.enc) = o ∧ fld (k + o.enc) 26 6 = k / 2 ^ 26 % 2 ^ 6 ∧ fld (k + o.enc) 0 7 = k % 2 ^ 7 ∧
      fld (k + o.enc) 8 2 = k / 2 ^ 8 % 2 ^ 2 ∧ fld (k + o.enc) 11 11 = k / 2 ^ 11 % 2 ^ 11 ∧
      fld (k + o.enc) 25 1 = k / 2 ^ 25 % 2 ^ 1 := by
  obtain ⟨x, g, p⟩ := o
  have := x.isLt; have := bnat_le g; have := bnat_le p
  simp only [KG.dec, KG.enc, KG.mk.injEq, ofNat_mod_eq_iff, bit_eq_iff, fld]
  omega

@[simp] theorem KN.reads (o : KN) {k : Nat} (free : k / 2 ^ 7 % 2 = 0 ∧ k / 2 ^ 14 % 2 ^ 3 = 0 ∧ k / 2 ^ 22 % 2 ^ 3 = 0) :
    KN.dec (k + o.enc) = o ∧ fld (k + o.enc) 26 6 = k / 2 ^ 26 % 2 ^ 6 ∧ fld (k + o.enc) 0 7 = k % 2 ^ 7 ∧
      fld (k + o.enc) 8 6 = k / 2 ^ 8 % 2 ^ 6 ∧ fld (k + o.enc) 17 5 = k / 2 ^ 17 % 2 ^ 5 ∧
      fld (k + o.enc) 25 1 = k / 2 ^ 25 % 2 ^ 1 := by
  obtain ⟨x, n, p⟩ := o
  have := x.isLt; have := n.isLt; have := bnat_le p
  simp only [KN.dec, KN.enc, KN.mk.injEq, ofNat_mod_eq_iff, bit_eq_iff, fld]
  omega

@[simp] theorem HD.reads (o : HD) {k : Nat} (free : k / 2 ^ 7 % 2 = 0 ∧ k / 2 ^ 14 % 2 ^ 10 = 0) :
    HD.dec (k + o.enc) = o ∧ fld (k + o.enc) 26 6 = k / 2 ^ 26 % 2 ^ 6 ∧ fld (k + o.enc) 0 7 = k % 2 ^ 7 ∧
      fld (k + o.enc) 8 6 = k / 2 ^ 8 % 2 ^ 6 ∧ fld (k + o.enc) 24 2 = k / 2 ^ 24 % 2 ^ 2 := by
  obtain ⟨n, a, b, p⟩ := o
  have := n.isLt; have := a.isLt; have := b.isLt; have := bnat_le p
  simp only [HD.dec, HD.enc, HD.mk.injEq, ofNat_mod_eq_iff, bit_eq_iff, fld]
  omega

@[simp] theorem HK.reads (o : HK) {k : Nat}
    (free : k / 2 ^ 7 % 2 = 0 ∧ k / 2 ^ 10 % 2 = 0 ∧ k / 2 ^ 18 % 2 ^ 2 = 0 ∧ k / 2 ^ 22 % 2 ^ 3 = 0) :
    HK.dec (k + o.enc) = o ∧ fld (k + o.enc) 26 6 = k / 2 ^ 26 % 2 ^ 6 ∧ fld (k + o.enc) 0 7 = k % 2 ^ 7 ∧
      fld (k + o.enc) 8 2 = k / 2 ^ 8 % 2 ^ 2 ∧ fld (k + o.enc) 11 7 = k / 2 ^ 11 % 2 ^ 7 ∧
      fld (k + o.enc) 20 2 = k / 2 ^ 20 % 2 ^ 2 ∧ fld (k + o.enc) 25 1 = k / 2 ^ 25 % 2 ^ 1 := by
  obtain ⟨x, n, g, p⟩ := o
  have := x.isLt; have := n.isLt; have := bnat_le g; have := bnat_le p
  simp only [HK.dec, HK.enc, HK.mk.injEq, ofNat_mod_eq_iff, bit_eq_iff, fld]
  omega

@[simp] theorem HP.reads (o : HP) {k : Nat} (free : k / 2 ^ 7 % 2 = 0 ∧ k / 2 ^ 18 % 2 ^ 6 = 0) :
    HP.dec (k + o.enc) = o ∧ fld (k + o.enc) 26 6 = k / 2 ^ 26 % 2 ^ 6 ∧ fld (k + o.enc) 0 7 = k % 2 ^ 7 ∧
      fld (k + o.enc) 8 10 = k / 2 ^ 8 % 2 ^ 10 ∧ fld (k + o.enc) 24 2 = k / 2 ^ 24 % 2 ^ 2 := by
  obtain ⟨n, r, p⟩ := o
  have := n.isLt; have := r.isLt; have := bnat_le p
  simp only [HP.dec, HP.enc, HP.mk.injEq, ofNat_mod_eq_iff, bit_eq_iff, fld]
  omega

@[simp] theorem V3.reads (o : V3) {k : Nat} (free : k / 2 ^ 7 % 2 ^ 19 = 0) :
    V3.dec (k + o.enc) = o ∧ fld (k + o.enc) 26 6 = k / 2 ^ 26 % 2 ^ 6 ∧ fld (k + o.enc) 0 7 = k % 2 ^ 7 := by
  obtain ⟨d, a, b, m, g, f, p⟩ := o
  have := d.isLt; have := a.isLt; have := b.isLt; have := m.isLt; have := bnat_le g; have := f.isLt; have := bnat_le p
  simp only [V3.dec, V3.enc, V3.mk.injEq, ofNat_mod_eq_iff, bit_eq_iff, fld]
  omega

@[simp] theorem V2.reads (o : V2) {k : Nat} (free : k / 2 ^ 7 % 2 = 0 ∧ k / 2 ^ 10 % 2 ^ 4 = 0 ∧ k / 2 ^ 18 % 2 ^ 8 = 0) :
    V2.dec (k + o.enc) = o ∧ fld (k + o.enc) 26 6 = k / 2 ^ 26 % 2 ^ 6 ∧ fld (k + o.enc) 0 7 = k % 2 ^ 7 ∧
      fld (k + o.enc) 8 2 = k / 2 ^ 8 % 2 ^ 2 ∧ fld (k + o.enc) 14 4 = k / 2 ^ 14 % 2 ^ 4 := by
  obtain ⟨d, a, m, g, p⟩ := o
  have := d.isLt; have := a.isLt; have := m.isLt; have := bnat_le g; have := bnat_le p
  simp only [V2.dec, V2.enc, V2.mk.injEq, ofNat_mod_eq_iff, bit_eq_iff, fld]
  omega

@[simp] theorem VS.reads (o : VS) {k : Nat} (free : k / 2 ^ 7 % 2 ^ 11 = 0 ∧ k / 2 ^ 22 % 2 ^ 4 = 0) :
    VS.dec (k + o.enc) = o ∧ fld (k + o.enc) 26 6 = k / 2 ^ 26 % 2 ^ 6 ∧ fld (k + o.enc) 0 7 = k % 2 ^ 7 ∧
      fld (k + o.enc) 18 4 = k / 2 ^ 18 % 2 ^ 4 := by
  obtain ⟨d, b, m, g, f, p⟩ := o
  have := d.isLt; have := b.isLt; have := m.isLt; have := bnat_le g; have := f.isLt; have := bnat_le p
  simp only [VS.dec, VS.enc, VS.mk.injEq, ofNat_mod_eq_iff, bit_eq_iff, fld]
  omega

@[simp] theorem VE.reads (o : VE) {k : Nat} (free : k / 2 ^ 7 % 2 = 0 ∧ k / 2 ^ 10 % 2 = 0 ∧ k / 2 ^ 14 % 2 ^ 12 = 0) :
    VE.dec (k + o.enc) = o ∧ fld (k + o.enc) 26 6 = k / 2 ^ 26 % 2 ^ 6 ∧ fld (k + o.enc) 0 7 = k % 2 ^ 7 ∧
      fld (k + o.enc) 8 2 = k / 2 ^ 8 % 2 ^ 2 ∧ fld (k + o.enc) 11 3 = k / 2 ^ 11 % 2 ^ 3 := by
  obtain ⟨d, a, b, g, p⟩ := o
  have := d.isLt; have := a.isLt; have := b.isLt; have := bnat_le g; have := bnat_le p
  simp only [VE.dec, VE.enc, VE.mk.injEq, ofNat_mod_eq_iff, bit_eq_iff, fld]
  omega

@[simp] theorem TW.reads (o : TW) {k : Nat} (free : k / 2 ^ 8 % 2 ^ 2 = 0 ∧ k / 2 ^ 14 % 2 ^ 12 = 0) :
    TW.dec (k + o.enc) = o ∧ fld (k + o.enc) 26 6 = k / 2 ^ 26 % 2 ^ 6 ∧ fld (k + o.enc) 0 7 = k % 2 ^ 7 ∧
      fld (k + o.enc) 7 1 = k / 2 ^ 7 % 2 ^ 1 ∧ fld (k + o.enc) 10 4 = k / 2 ^ 10 % 2 ^ 4 := by
  obtain ⟨d, a, b, f⟩ := o
  have := d.isLt; have := a.isLt; have := b.isLt; have := f.isLt
  simp only [TW.dec, TW.enc, TW.mk.injEq, ofNat_mod_eq_iff, fld]
  omega

@[simp] theorem TX.reads (o : TX) {k : Nat} (free : k / 2 ^ 18 % 2 ^ 8 = 0) :
    TX.dec (k + o.enc) = o ∧ fld (k + o.enc) 26 6 = k / 2 ^ 26 % 2 ^ 6 ∧ fld (k + o.enc) 0 7 = k % 2 ^ 7 ∧
      fld (k + o.enc) 7 11 = k / 2 ^ 7 % 2 ^ 11 := by
  obtain ⟨d, a⟩ := o
  have := d.isLt; have := a.isLt
  simp only [TX.dec, TX.enc, TX.mk.injEq, ofNat_mod_eq_iff, fld]
  omega

@[simp] theorem VC.reads (o : VC) {k : Nat} (free : k / 2 ^ 7 % 2 = 0 ∧ k / 2 ^ 10 % 2 ^ 16 = 0) :
    VC.dec (k + o.enc) = o ∧ fld (k + o.enc) 26 6 = k / 2 ^ 26 % 2 ^ 6 ∧ fld (k + o.enc) 0 7 = k % 2 ^ 7 ∧
      fld (k + o.enc) 8 2 = k / 2 ^ 8 % 2 ^ 2 := by
  obtain ⟨d, a, b, m, g, p⟩ := o
  have := d.isLt; have := a.isLt; have := b.isLt; have := m.isLt; have := bnat_le g; have := bnat_le p
  simp only [VC.dec, VC.enc, VC.mk.injEq, ofNat_mod_eq_iff, bit_eq_iff, fld]
  omega

@[simp] theorem VF.reads (o : VF) {k : Nat} (free : k / 2 ^ 7 % 2 = 0 ∧ k / 2 ^ 11 % 2 ^ 15 = 0) :
    VF.dec (k + o.enc) = o ∧ fld (k + o.enc) 26 6 = k / 2 ^ 26 % 2 ^ 6 ∧ fld (k + o.enc) 0 7 = k % 2 ^ 7 ∧
      fld (k + o.enc) 8 3 = k / 2 ^ 8 % 2 ^ 3 := by
  obtain ⟨d, a, b, m, p⟩ := o
  have := d.isLt; have := a.isLt; have := b.isLt; have := m.isLt; have := bnat_le p
  simp only [VF.dec, VF.enc, VF.mk.injEq, ofNat_mod_eq_iff, bit_eq_iff, fld]
  omega

@[simp] theorem XF.reads (o : XF) {k : Nat} (free : k / 2 ^ 7 % 2 ^ 19 = 0) :
    XF.dec (k + o.enc) = o ∧ fld (k + o.enc) 26 6 = k / 2 ^ 26 % 2 ^ 6 ∧ fld (k + o.enc) 0 7 = k % 2 ^ 7 := by
  obtain ⟨a, b, s, n, p⟩ := o
  have := a.isLt; have := b.isLt; have := s.isLt; have := n.isLt; have := bnat_le p
  simp only [XF.dec, XF.enc, XF.mk.injEq, ofNat_mod_eq_iff, bit_eq_iff, fld]
  omega

@[simp] theorem XW.reads (o : XW) {k : Nat} (free : k / 2 ^ 7 % 2 = 0 ∧ k / 2 ^ 16 % 2 ^ 2 = 0 ∧ k / 2 ^ 22 % 2 ^ 4 = 0) :
    XW.dec (k + o.enc) = o ∧ fld (k + o.enc) 26 6 = k / 2 ^ 26 % 2 ^ 6 ∧ fld (k + o.enc) 0 7 = k % 2 ^ 7 ∧
      fld (k + o.enc) 8 8 = k / 2 ^ 8 % 2 ^ 8 ∧ fld (k + o.enc) 18 4 = k / 2 ^ 18 % 2 ^ 4 := by
  obtain ⟨d, s, p⟩ := o
  have := d.isLt; have := s.isLt; have := bnat_le p
  simp only [XW.dec, XW.enc, XW.mk.injEq, ofNat_mod_eq_iff, bit_eq_iff, fld]
  omega

@[simp] theorem VM.reads (o : VM) {k : Nat} (free : k / 2 ^ 7 % 2 ^ 18 = 0) :
    VM.dec (k + o.enc) = o ∧ fld (k + o.enc) 26 6 = k / 2 ^ 26 % 2 ^ 6 ∧ fld (k + o.enc) 0 7 = k % 2 ^ 7 ∧
      fld (k + o.enc) 25 1 = k / 2 ^ 25 % 2 ^ 1 := by
  obtain ⟨d, a, b, m, g, f, p⟩ := o
  have := d.isLt; have := a.isLt; have := b.isLt; have := m.isLt; have := bnat_le g; have := f.isLt; have := bnat_le p
  simp only [VM.dec, VM.enc, VM.mk.injEq, ofNat_mod_eq_iff, bit_eq_iff, fld]
  omega

@[simp] theorem VX.reads (o : VX) {k : Nat} (free : k / 2 ^ 7 % 2 = 0 ∧ k / 2 ^ 10 % 2 ^ 6 = 0 ∧ k / 2 ^ 18 % 2 ^ 8 = 0) :
    VX.dec (k + o.enc) = o ∧ fld (k + o.enc) 26 6 = k / 2 ^ 26 % 2 ^ 6 ∧ fld (k + o.enc) 0 7 = k % 2 ^ 7 ∧
      fld (k + o.enc) 8 2 = k / 2 ^ 8 % 2 ^ 2 ∧ fld (k + o.enc) 16 2 = k / 2 ^ 16 % 2 ^ 2 := by
  obtain ⟨d, a, t, m, g, p⟩ := o
  have := d.isLt; have := a.isLt; have := t.isLt; have := m.isLt; have := bnat_le g; have := bnat_le p
  simp only [VX.dec, VX.enc, VX.mk.injEq, ofNat_mod_eq_iff, bit_eq_iff, fld]
  omega

@[simp] theorem VI.reads (o : VI) {k : Nat}
    (free : k / 2 ^ 7 % 2 = 0 ∧ k / 2 ^ 11 % 2 ^ 3 = 0 ∧ k / 2 ^ 18 % 2 ^ 3 = 0 ∧ k / 2 ^ 22 % 2 ^ 4 = 0) :
    VI.dec (k + o.enc) = o ∧ fld (k + o.enc) 26 6 = k / 2 ^ 26 % 2 ^ 6 ∧ fld (k + o.enc) 0 7 = k % 2 ^ 7 ∧
      fld (k + o.enc) 8 3 = k / 2 ^ 8 % 2 ^ 3 ∧ fld (k + o.enc) 14 4 = k / 2 ^ 14 % 2 ^ 4 ∧
      fld (k + o.enc) 21 1 = k / 2 ^ 21 % 2 ^ 1 := by
  obtain ⟨d, a, m, p⟩ := o
  have := d.isLt; have := a.isLt; have := m.isLt; have := bnat_le p
  simp only [VI.dec, VI.enc, VI.mk.injEq, ofNat_mod_eq_iff, bit_eq_iff, fld]
  omega

@[simp] theorem M3.reads (o : M3) {k : Nat}
    (free : k / 2 ^ 7 % 2 = 0 ∧ k / 2 ^ 14 % 2 ^ 3 = 0 ∧ k / 2 ^ 18 % 2 ^ 3 = 0 ∧ k / 2 ^ 22 % 2 ^ 3 = 0) :
    M3.dec (k + o.enc) = o ∧ fld (k + o.enc) 26 6 = k / 2 ^ 26 % 2 ^ 6 ∧ fld (k + o.enc) 0 7 = k % 2 ^ 7 ∧
      fld (k + o.enc) 8 6 = k / 2 ^ 8 % 2 ^ 6 ∧ fld (k + o.enc) 17 1 = k / 2 ^ 17 % 2 ^ 1 ∧
      fld (k + o.enc) 21 1 = k / 2 ^ 21 % 2 ^ 1 ∧ fld (k + o.enc) 25 1 = k / 2 ^ 25 % 2 ^ 1 := by
  obtain ⟨d, a, b, p⟩ := o
  have := d.isLt; have := a.isLt; have := b.isLt; have := bnat_le p
  simp only [M3.dec, M3.enc, M3.mk.injEq, ofNat_mod_eq_iff, bit_eq_iff, fld]
  omega

@[simp] theorem M2.reads (o : M2) {k : Nat} (free : k / 2 ^ 7 % 2 = 0 ∧ k / 2 ^ 18 % 2 ^ 3 = 0 ∧ k / 2 ^ 22 % 2 ^ 3 = 0) :
    M2.dec (k + o.enc) = o ∧ fld (k + o.enc) 26 6 = k / 2 ^ 26 % 2 ^ 6 ∧ fld (k + o.enc) 0 7 = k % 2 ^ 7 ∧
      fld (k + o.enc) 8 10 = k / 2 ^ 8 % 2 ^ 10 ∧ fld (k + o.enc) 21 1 = k / 2 ^ 21 % 2 ^ 1 ∧
      fld (k + o.enc) 25 1 = k / 2 ^ 25 % 2 ^ 1 := by
  obtain ⟨d, a, p⟩ := o
  have := d.isLt; have := a.isLt; have := bnat_le p
  simp only [M2.dec, M2.enc, M2.mk.injEq, ofNat_mod_eq_iff, bit_eq_iff, fld]
  omega

@[simp] theorem M4.reads (o : M4) {k : Nat} (free : k / 2 ^ 7 % 2 = 0 ∧ k / 2 ^ 18 % 2 ^ 3 = 0 ∧ k / 2 ^ 22 % 2 ^ 4 = 0) :
    M4.dec (k + o.enc) = o ∧ fld (k + o.enc) 26 6 = k / 2 ^ 26 % 2 ^ 6 ∧ fld (k + o.enc) 0 7 = k % 2 ^ 7 ∧
      fld (k + o.enc) 8 10 = k / 2 ^ 8 % 2 ^ 10 ∧ fld (k + o.enc) 21 1 = k / 2 ^ 21 % 2 ^ 1 := by
  obtain ⟨d, a, p⟩ := o
  have := d.isLt; have := a.isLt; have := bnat_le p
  simp only [M4.dec, M4.enc, M4.mk.injEq, ofNat_mod_eq_iff, bit_eq_iff, fld]
  omega

@[simp] theorem MK.reads (o : MK) {k : Nat} (free : k / 2 ^ 7 % 2 ^ 3 = 0 ∧ k / 2 ^ 14 % 2 ^ 7 = 0 ∧ k / 2 ^ 22 % 2 ^ 3 = 0) :
    MK.dec (k + o.enc) = o ∧ fld (k + o.enc) 26 6 = k / 2 ^ 26 % 2 ^ 6 ∧ fld (k + o.enc) 0 7 = k % 2 ^ 7 ∧
      fld (k + o.enc) 10 4 = k / 2 ^ 10 % 2 ^ 4 ∧ fld (k + o.enc) 21 1 = k / 2 ^ 21 % 2 ^ 1 ∧
      fld (k + o.enc) 25 1 = k / 2 ^ 25 % 2 ^ 1 := by
  obtain ⟨d, a, x, f, p⟩ := o
  have := d.isLt; have := a.isLt; have := x.isLt; have := f.isLt; have := bnat_le p
  simp only [MK.dec, MK.enc, MK.mk.injEq, ofNat_mod_eq_iff, bit_eq_iff, fld]
  omega

@[simp] theorem M1.reads (o : M1) {k : Nat} (free : k / 2 ^ 7 % 2 = 0 ∧ k / 2 ^ 22 % 2 ^ 3 = 0) :
    M1.dec (k + o.enc) = o ∧ fld (k + o.enc) 26 6 = k / 2 ^ 26 % 2 ^ 6 ∧ fld (k + o.enc) 0 7 = k % 2 ^ 7 ∧
      fld (k + o.enc) 8 14 = k / 2 ^ 8 % 2 ^ 14 ∧ fld (k + o.enc) 25 1 = k / 2 ^ 25 % 2 ^ 1 := by
  obtain ⟨d, p⟩ := o
  have := d.isLt; have := bnat_le p
  simp only [M1.dec, M1.enc, M1.mk.injEq, ofNat_mod_eq_iff, bit_eq_iff, fld]
  omega

@[simp] theorem MV.reads (o : MV) {k : Nat} (free : k / 2 ^ 7 % 2 = 0 ∧ k / 2 ^ 18 % 2 ^ 7 = 0) :
    MV.dec (k + o.enc) = o ∧ fld (k + o.enc) 26 6 = k / 2 ^ 26 % 2 ^ 6 ∧ fld (k + o.enc) 0 7 = k % 2 ^ 7 ∧
      fld (k + o.enc) 8 10 = k / 2 ^ 8 % 2 ^ 10 ∧ fld (k + o.enc) 25 1 = k / 2 ^ 25 % 2 ^ 1 := by
  obtain ⟨d, a, p⟩ := o
  have := d.isLt; have := a.isLt; have := bnat_le p
  simp only [MV.dec, MV.enc, MV.mk.injEq, ofNat_mod_eq_iff, bit_eq_iff, fld]
  omega

@[simp] theorem X3.reads (o : X3) {k : Nat} (free : k / 2 ^ 7 % 2 = 0 ∧ k / 2 ^ 16 % 2 ^ 10 = 0) :
    X3.dec (k + o.enc) = o ∧ fld (k + o.enc) 26 6 = k / 2 ^ 26 % 2 ^ 6 ∧ fld (k + o.enc) 0 7 = k % 2 ^ 7 ∧
      fld (k + o.enc) 8 8 = k / 2 ^ 8 % 2 ^ 8 ∧ (k / 2 ^ 8 % 2 ^ 12 ≠ 0 → fld (k + o.enc) 8 12 ≠ 0) := by
  obtain ⟨q, a, b, p⟩ := o
  have := q.isLt; have := a.isLt; have := b.isLt; have := bnat_le p
  simp only [X3.dec, X3.enc, X3.mk.injEq, ofNat_mod_eq_iff, bit_eq_iff, fld]
  omega

@[simp] theorem XS.reads (o : XS) {k : Nat} (free : k / 2 ^ 7 % 2 = 0 ∧ k / 2 ^ 10 % 2 ^ 16 = 0) :
    XS.dec (k + o.enc) = o ∧ fld (k + o.enc) 26 6 = k / 2 ^ 26 % 2 ^ 6 ∧ fld (k + o.enc) 0 7 = k % 2 ^ 7 ∧
      fld (k + o.enc) 8 2 = k / 2 ^ 8 % 2 ^ 2 := by
  obtain ⟨q, a, b, x, s, n, p⟩ := o
  have := q.isLt; have := a.isLt; have := b.isLt; have := x.isLt; have := bnat_le s; have := bnat_le n; have := bnat_le p
  simp only [XS.dec, XS.enc, XS.mk.injEq, ofNat_mod_eq_iff, bit_eq_iff, fld]
  omega

@[simp] theorem XZ.reads (o : XZ) {k : Nat} (free : k / 2 ^ 7 % 2 = 0 ∧ k / 2 ^ 10 % 2 = 0 ∧ k / 2 ^ 24 % 2 ^ 2 = 0) :
    XZ.dec (k + o.enc) = o ∧ fld (k + o.enc) 26 6 = k / 2 ^ 26 % 2 ^ 6 ∧ fld (k + o.enc) 0 7 = k % 2 ^ 7 ∧
      fld (k + o.enc) 8 2 = k / 2 ^ 8 % 2 ^ 2 ∧ fld (k + o.enc) 11 13 = k / 2 ^ 11 % 2 ^ 13 := by
  obtain ⟨q, i, p⟩ := o
  have := q.isLt; have := bnat_le i; have := bnat_le p
  simp only [XZ.dec, XZ.enc, XZ.mk.injEq, ofNat_mod_eq_iff, bit_eq_iff, fld]
  omega

@[simp] theorem XD.reads (o : XD) {k : Nat} (free : k / 2 ^ 7 % 2 = 0 ∧ k / 2 ^ 11 % 2 = 0 ∧ k / 2 ^ 20 % 2 ^ 6 = 0) :
    XD.dec (k + o.enc) = o ∧ fld (k + o.enc) 26 6 = k / 2 ^ 26 % 2 ^ 6 ∧ fld (k + o.enc) 0 7 = k % 2 ^ 7 ∧
      fld (k + o.enc) 8 3 = k / 2 ^ 8 % 2 ^ 3 ∧ fld (k + o.enc) 12 4 = k / 2 ^ 12 % 2 ^ 4 ∧
      fld (k + o.enc) 12 8 = k / 2 ^ 12 % 2 ^ 8 := by
  obtain ⟨q, d, z, p⟩ := o
  have := q.isLt; have := d.isLt; have := bnat_le z; have := bnat_le p
  simp only [XD.dec, XD.enc, XD.mk.injEq, ofNat_mod_eq_iff, bit_eq_iff, fld]
  omega

@[simp] theorem XDW.reads (o : XDW) {k : Nat} (free : k / 2 ^ 7 % 2 = 0 ∧ k / 2 ^ 11 % 2 = 0 ∧ k / 2 ^ 16 % 2 ^ 10 = 0) :
    XDW.dec (k + o.enc) = o ∧ fld (k + o.enc) 26 6 = k / 2 ^ 26 % 2 ^ 6 ∧ fld (k + o.enc) 0 7 = k % 2 ^ 7 ∧
      fld (k + o.enc) 8 3 = k / 2 ^ 8 % 2 ^ 3 ∧ fld (k + o.enc) 12 4 = k / 2 ^ 12 % 2 ^ 4 := by
  obtain ⟨q, d, e, z, p⟩ := o
  have := q.isLt; have := d.isLt; have := e.isLt; have := bnat_le z; have := bnat_le p
  simp only [XDW.dec, XDW.enc, XDW.mk.injEq, ofNat_mod_eq_iff, bit_eq_iff, fld]
  omega

@[simp] theorem XL.reads (o : XL) {k : Nat} (free : k / 2 ^ 7 % 2 = 0 ∧ k / 2 ^ 20 % 2 ^ 6 = 0) :
    XL.dec (k + o.enc) = o ∧ fld (k + o.enc) 26 6 = k / 2 ^ 26 % 2 ^ 6 ∧ fld (k + o.enc) 0 7 = k % 2 ^ 7 ∧
      fld (k + o.enc) 8 8 = k / 2 ^ 8 % 2 ^ 8 ∧ fld (k + o.enc) 8 12 = k / 2 ^ 8 % 2 ^ 12 := by
  obtain ⟨q, a, p⟩ := o
  have := q.isLt; have := a.isLt; have := bnat_le p
  simp only [XL.dec, XL.enc, XL.mk.injEq, ofNat_mod_eq_iff, bit_eq_iff, fld]
  omega

@[simp] theorem XQ.reads (o : XQ) {k : Nat} (free : k / 2 ^ 7 % 2 = 0 ∧ k / 2 ^ 24 % 2 ^ 2 = 0) :
    XQ.dec (k + o.enc) = o ∧ fld (k + o.enc) 26 6 = k / 2 ^ 26 % 2 ^ 6 ∧ fld (k + o.enc) 0 7 = k % 2 ^ 7 ∧
      fld (k + o.enc) 8 16 = k / 2 ^ 8 % 2 ^ 16 := by
  obtain ⟨q, p⟩ := o
  have := q.isLt; have := bnat_le p
  simp only [XQ.dec, XQ.enc, XQ.mk.injEq, ofNat_mod_eq_iff, bit_eq_iff, fld]
  omega

@[simp] theorem TD.reads (o : TD) {k : Nat}
    (free : k / 2 ^ 7 % 2 = 0 ∧ k / 2 ^ 14 % 2 ^ 3 = 0 ∧ k / 2 ^ 18 % 2 ^ 3 = 0 ∧ k / 2 ^ 22 % 2 ^ 3 = 0) :
    TD.dec (k + o.enc) = o ∧ fld (k + o.enc) 26 6 = k / 2 ^ 26 % 2 ^ 6 ∧ fld (k + o.enc) 0 7 = k % 2 ^ 7 ∧
      fld (k + o.enc) 8 6 = k / 2 ^ 8 % 2 ^ 6 ∧ fld (k + o.enc) 17 1 = k / 2 ^ 17 % 2 ^ 1 ∧
      fld (k + o.enc) 21 1 = k / 2 ^ 21 % 2 ^ 1 ∧ fld (k + o.enc) 25 1 = k / 2 ^ 25 % 2 ^ 1 := by
  obtain ⟨d, x, a, p⟩ := o
  have := d.isLt; have := x.isLt; have := a.isLt; have := bnat_le p
  simp only [TD.dec, TD.enc, TD.mk.injEq, ofNat_mod_eq_iff, bit_eq_iff, fld]
  omega

@[simp] theorem TM.reads (o : TM) {k : Nat} (free : k / 2 ^ 7 % 2 = 0 ∧ k / 2 ^ 14 % 2 ^ 7 = 0 ∧ k / 2 ^ 22 % 2 ^ 3 = 0) :
    TM.dec (k + o.enc) = o ∧ fld (k + o.enc) 26 6 = k / 2 ^ 26 % 2 ^ 6 ∧ fld (k + o.enc) 0 7 = k % 2 ^ 7 ∧
      fld (k + o.enc) 8 6 = k / 2 ^ 8 % 2 ^ 6 ∧ fld (k + o.enc) 21 1 = k / 2 ^ 21 % 2 ^ 1 ∧
      fld (k + o.enc) 25 1 = k / 2 ^ 25 % 2 ^ 1 := by
  obtain ⟨d, a, s, p⟩ := o
  have := d.isLt; have := a.isLt; have := s.isLt; have := bnat_le p
  simp only [TM.dec, TM.enc, TM.mk.injEq, ofNat_mod_eq_iff, bit_eq_iff, fld]
  omega

@[simp] theorem TS.reads (o : TS) {k : Nat} (free : k / 2 ^ 7 % 2 = 0 ∧ k / 2 ^ 14 % 2 ^ 7 = 0 ∧ k / 2 ^ 22 % 2 ^ 3 = 0) :
    TS.dec (k + o.enc) = o ∧ fld (k + o.enc) 26 6 = k / 2 ^ 26 % 2 ^ 6 ∧ fld (k + o.enc) 0 7 = k % 2 ^ 7 ∧
      fld (k + o.enc) 8 6 = k / 2 ^ 8 % 2 ^ 6 ∧ fld (k + o.enc) 21 1 = k / 2 ^ 21 % 2 ^ 1 ∧
      fld (k + o.enc) 25 1 = k / 2 ^ 25 % 2 ^ 1 := by
  obtain ⟨d, x, r, p⟩ := o
  have := d.isLt; have := x.isLt; have := r.isLt; have := bnat_le p
  simp only [TS.dec, TS.enc, TS.mk.injEq, ofNat_mod_eq_iff, bit_eq_iff, fld]
  omega

@[simp] theorem RD.reads (o : RD) {k : Nat} (free : k / 2 ^ 8 % 2 ^ 2 = 0 ∧ k / 2 ^ 11 % 2 ^ 15 = 0) :
    RD.dec (k + o.enc) = o ∧ fld (k + o.enc) 26 6 = k / 2 ^ 26 % 2 ^ 6 ∧ fld (k + o.enc) 0 7 = k % 2 ^ 7 ∧
      fld (k + o.enc) 7 1 = k / 2 ^ 7 % 2 ^ 1 ∧ fld (k + o.enc) 10 1 = k / 2 ^ 10 % 2 ^ 1 := by
  obtain ⟨d, a, b, o, s⟩ := o
  have := d.isLt; have := a.isLt; have := b.isLt; have := o.isLt; have := s.isLt
  simp only [RD.dec, RD.enc, RD.mk.injEq, ofNat_mod_eq_iff, fld]
  omega

@[simp] theorem CN.reads (o : CN) {k : Nat} (free : k / 2 ^ 7 % 2 ^ 10 = 0 ∧ k / 2 ^ 18 % 2 ^ 8 = 0) :
    CN.dec (k + o.enc) = o ∧ fld (k + o.enc) 26 6 = k / 2 ^ 26 % 2 ^ 6 ∧ fld (k + o.enc) 0 7 = k % 2 ^ 7 ∧
      fld (k + o.enc) 17 1 = k / 2 ^ 17 % 2 ^ 1 := by
  obtain ⟨d, b, h, i, p⟩ := o
  have := d.isLt; have := b.isLt; have := bnat_le h; have := i.isLt; have := bnat_le p
  simp only [CN.dec, CN.enc, CN.mk.injEq, ofNat_mod_eq_iff, bit_eq_iff, fld]
  omega

@[simp] theorem FN.reads (o : FN) {k : Nat} (free : k / 2 ^ 7 % 2 ^ 5 = 0) :
    FN.dec (k + o.enc) = o ∧ fld (k + o.enc) 26 6 = k / 2 ^ 26 % 2 ^ 6 ∧ fld (k + o.enc) 0 7 = k % 2 ^ 7 ∧
      fld (k + o.enc) 12 14 = k / 2 ^ 12 % 2 ^ 14 := by
  obtain ⟨s, x, p⟩ := o
  have := s.isLt; have := x.isLt; have := bnat_le p
  simp only [FN.dec, FN.enc, FN.mk.injEq, ofNat_mod_eq_iff, bit_eq_iff, fld]
  omega

@[simp] theorem LDo.reads (o : LDo) {k : Nat} (free : k % 2 ^ 26 = 0) :
    LDo.dec (k + o.enc) = o ∧ fld (k + o.enc) 26 6 = k / 2 ^ 26 % 2 ^ 6 := by
  obtain ⟨d, a, o, q, u, w⟩ := o
  have := d.isLt; have := a.isLt; have := o.isLt; have := bnat_le q; have := bnat_le u; have := w.isLt
  simp only [LDo.dec, LDo.enc, LDo.mk.injEq, ofNat_mod_eq_iff, bit_eq_iff, fld]
  omega

@[simp] theorem STo.reads (o : STo) {k : Nat} (free : k % 2 ^ 2 = 0 ∧ k / 2 ^ 3 % 2 ^ 23 = 0) :
    STo.dec (k + o.enc) = o ∧ fld (k + o.enc) 26 6 = k / 2 ^ 26 % 2 ^ 6 ∧
      fld (k + o.enc) 2 1 = k / 2 ^ 2 % 2 ^ 1 := by
  obtain ⟨d, a, o, q, w⟩ := o
  have := d.isLt; have := a.isLt; have := o.isLt; have := bnat_le q; have := w.isLt
  simp only [STo.dec, STo.enc, STo.mk.injEq, ofNat_mod_eq_iff, bit_eq_iff, fld]
  omega

@[simp] theorem AM.reads (o : AM) {k : Nat} (free : k / 2 ^ 7 % 2 = 0 ∧ k / 2 ^ 9 % 2 ^ 17 = 0) :
    AM.dec (k + o.enc) = o ∧ fld (k + o.enc) 26 6 = k / 2 ^ 26 % 2 ^ 6 ∧ fld (k + o.enc) 0 7 = k % 2 ^ 7 ∧
      fld (k + o.enc) 8 1 = k / 2 ^ 8 % 2 ^ 1 := by
  obtain ⟨d, a, b, s, o, w, p⟩ := o
  have := d.isLt; have := a.isLt; have := b.isLt; have := s.isLt; have := o.isLt; have := bnat_le w; have := bnat_le p
  simp only [AM.dec, AM.enc, AM.mk.injEq, ofNat_mod_eq_iff, bit_eq_iff, fld]
  omega

/-! ### Words of the control thread -/

@[simp] theorem XH.reads (o : XH) {k : Nat} (free : k / 2 ^ 7 % 2 ^ 7 = 0 ∧ k / 2 ^ 15 % 2 ^ 10 = 0) :
    XH.dec (k + o.enc) = o ∧ fld (k + o.enc) 0 7 = k % 2 ^ 7 ∧ fld (k + o.enc) 25 7 = k / 2 ^ 25 % 2 ^ 7 ∧
      fld (k + o.enc) 14 1 = k / 2 ^ 14 % 2 ^ 1 := by
  obtain ⟨b, a, g, d⟩ := o
  have := b.isLt; have := a.isLt; have := g.isLt; have := d.isLt
  simp only [XH.dec, XH.enc, XH.mk.injEq, ofNat_mod_eq_iff, fld]
  omega

/-- A CTBAR instruction holds its operation where the others hold a gang. -/
theorem XH.counter_reads (o : XH) (zero : o.g = 0) {k : Nat} (free : k / 2 ^ 7 % 2 ^ 5 = 0 ∧ k / 2 ^ 15 % 2 ^ 10 = 0) :
    ((XH.dec (k + o.enc)).b = o.b ∧ (XH.dec (k + o.enc)).a = o.a ∧ (XH.dec (k + o.enc)).d = o.d) ∧
      fld (k + o.enc) 0 7 = k % 2 ^ 7 ∧ fld (k + o.enc) 25 7 = k / 2 ^ 25 % 2 ^ 7 ∧
      fld (k + o.enc) 12 3 = k / 2 ^ 12 % 2 ^ 3 := by
  obtain ⟨b, a, g, d⟩ := o
  obtain rfl : g = 0 := zero
  have := b.isLt; have := a.isLt; have := d.isLt
  simp only [XH.dec, XH.enc, ofNat_mod_eq_iff, fld, BitVec.ofNat_eq_ofNat, BitVec.toNat_ofNat]
  omega

theorem XH.with_no_gang (o : XH) (zero : o.g = 0) : (⟨o.b, o.a, 0#2, o.d⟩ : XH) = o := by
  cases o; cases zero; rfl

theorem decodeCt_of_xhlm {w : Nat} {i : Instr} (reads : decodeXhlm w = some i) : decodeCt w = some i := by
  rw [decodeCt, reads]; rfl

theorem decodeCt_of_row {w : Nat} (other : fld w 0 7 ≠ 0x0b) : decodeCt w = decodeCtRow w := by
  rw [decodeCt, decodeXhlm, if_pos (by simpa using other)]; rfl

@[simp] theorem CtM.load_reads (o : CtM) : CtM.decLoad o.encLoad = o ∧ fld o.encLoad 0 7 = 0x03 := by
  obtain ⟨f3, r, a, i⟩ := o
  have := f3.isLt; have := r.isLt; have := a.isLt; have := i.isLt
  simp only [CtM.decLoad, CtM.encLoad, CtM.mk.injEq, ofNat_mod_eq_iff, fld]
  omega

@[simp] theorem CtM.store_reads (o : CtM) : CtM.decStore o.encStore = o ∧ fld o.encStore 0 7 = 0x23 := by
  obtain ⟨f3, r, a, i⟩ := o
  have := f3.isLt; have := r.isLt; have := a.isLt
  have := Nat.mod_lt i.toNat (show 0 < 32 by decide)
  have := Nat.div_lt_of_lt_mul (k := 2 ^ 7) (show i.toNat < 32 * 2 ^ 7 from i.isLt)
  have parts := Nat.div_add_mod' i.toNat 32
  generalize code : CtM.encStore ⟨f3, r, a, i⟩ = w
  have reads : fld w 0 7 = 0x23 ∧ fld w 12 3 = f3.toNat ∧ fld w 20 5 = r.toNat ∧ fld w 15 5 = a.toNat ∧
      fld w 25 7 = i.toNat / 32 ∧ fld w 7 5 = i.toNat % 32 := by
    rw [← code]
    simp only [CtM.encStore, fld]
    clear parts
    generalize i.toNat / 32 = high, i.toNat % 32 = low at *
    omega
  simp [CtM.decStore, reads, parts]

@[simp] theorem CtA.reads (o : CtA) : CtA.dec o.enc = o ∧ fld o.enc 0 7 = 0x2f ∧ fld o.enc 13 2 = 1 ∧
    fld o.enc 27 5 = o.f5.toNat := by
  obtain ⟨f5, d64, aq, rl, d, a, b⟩ := o
  have := f5.isLt; have := bnat_le d64; have := bnat_le aq; have := bnat_le rl
  have := d.isLt; have := a.isLt; have := b.isLt
  simp only [CtA.dec, CtA.enc, CtA.mk.injEq, ofNat_mod_eq_iff, bit_eq_iff, fld]
  omega

theorem decodeCt_lr (o : CtA) (wf : (Instr.ctLr o).wf = true) : decodeCt o.enc = some (.ctLr o) := by
  have code : o.f5 = 2 ∧ o.b = 0 := by simpa [Instr.wf] using wf
  rw [decodeCt_of_row (by simp)]
  simp [decodeCtRow, code.1, wf]

theorem decodeCt_sc (o : CtA) (wf : (Instr.ctSc o).wf = true) : decodeCt o.enc = some (.ctSc o) := by
  have code : o.f5 = 3 := by simpa [Instr.wf] using wf
  rw [decodeCt_of_row (by simp)]
  simp [decodeCtRow, code, wf]

theorem decodeCt_amo (o : CtA) (wf : (Instr.ctAmo o).wf = true) : decodeCt o.enc = some (.ctAmo o) := by
  have code : o.f5 ∈ amoCodes := by simpa [Instr.wf] using wf
  have notLr : o.f5.toNat ≠ 2 := fun h => by rw [BitVec.eq_of_toNat_eq (y := 2) h] at code; revert code; decide
  have notSc : o.f5.toNat ≠ 3 := fun h => by rw [BitVec.eq_of_toNat_eq (y := 3) h] at code; revert code; decide
  rw [decodeCt_of_row (by simp)]
  simp [decodeCtRow, wf]

theorem decodeCt_fence (o : CtF) :
    decodeCt (0x0f + o.succ.toNat * 2 ^ 20 + o.pred.toNat * 2 ^ 24 + o.fm.toNat * 2 ^ 28) = some (.ctFence o) := by
  obtain ⟨fm, pred, succ⟩ := o
  generalize code : 0x0f + succ.toNat * 2 ^ 20 + pred.toNat * 2 ^ 24 + fm.toNat * 2 ^ 28 = w
  have := fm.isLt; have := pred.isLt; have := succ.isLt
  have reads : fld w 0 7 = 0x0f ∧ fld w 12 3 = 0 ∧ fld w 28 4 = fm.toNat ∧ fld w 24 4 = pred.toNat ∧
      fld w 20 4 = succ.toNat := by
    simp only [fld]; omega
  rw [decodeCt_of_row (by simp [reads])]
  simp [decodeCtRow, reads]

theorem decodeCt_csr (o : CtC) (wf : (Instr.ctCsrAccess o).wf = true) :
    decodeCt (0x73 + o.d.toNat * 2 ^ 7 + o.f3.toNat * 2 ^ 12 + o.a.toNat * 2 ^ 15 + o.csr.toNat * 2 ^ 20) =
      some (.ctCsrAccess o) := by
  obtain ⟨f3, d, a, csr⟩ := o
  generalize code : 0x73 + d.toNat * 2 ^ 7 + f3.toNat * 2 ^ 12 + a.toNat * 2 ^ 15 + csr.toNat * 2 ^ 20 = w
  have := f3.isLt; have := d.isLt; have := a.isLt; have := csr.isLt
  have reads : fld w 0 7 = 0x73 ∧ fld w 12 3 = f3.toNat ∧ fld w 7 5 = d.toNat ∧ fld w 15 5 = a.toNat ∧
      fld w 20 12 = csr.toNat := by
    simp only [fld]; omega
  have kind : f3 ≠ 0 ∧ f3 ≠ 4 := by simpa [Instr.wf] using wf
  have notSys : f3.toNat ≠ 0 := fun h => kind.1 (BitVec.eq_of_toNat_eq h)
  have notXhlm : f3.toNat ≠ 4 := fun h => kind.2 (BitVec.eq_of_toNat_eq h)
  rw [decodeCt_of_row (by simp [reads])]
  simp [decodeCtRow, reads]

/-! ### Words of the harts -/

theorem decodeHart_of_major {w : Nat} (low : fld w 26 6 ≠ 0) (high : fld w 26 6 ≠ 0x3f) : decodeHart w = decodeMajor w := by
  unfold decodeHart
  rw [if_neg]
  simp only [Bool.or_eq_true, beq_iff_eq, not_or]
  constructor <;> rintro rfl <;> contradiction

theorem decodeHart_psetB0 (a : BitVec 4) : decodeHart (0x2c000604 + a.toNat * 2 ^ 22) = .ok (.psetB0 a) := by
  generalize code : 0x2c000604 + a.toNat * 2 ^ 22 = w
  have := a.isLt
  have reads : fld w 26 6 = 0x0b ∧ fld w 0 7 = 0x04 ∧ fld w 7 1 = 0 ∧ fld w 11 7 = 0 ∧ fld w 7 15 = 12 ∧ fld w 8 3 = 6 ∧
      fld w 22 4 = a.toNat := by
    simp only [fld]; omega
  simp [decodeHart_of_major, decodeMajor, pick, PS.dec, Instr.wf, reads]

/-- The word of an instruction decodes to it, by the harts' decoder or the control thread's. -/
def Instr.ReadsBack (i : Instr) : Prop :=
  ∀ w, i.wf = true → encode i = some w → decodeHart w = .ok i ∨ decodeCt w = some i

theorem S3.readsBack (o : S3) : ∀ i ∈ ([
    .add, .sub, .and, .or, .xor, .sll, .srl, .sra, .mul, .mulh, .mulhu, .div, .divu, .rem, .remu, .min, .max, .minu,
    .maxu, .slt, .sltu] : List (S3 → Instr)), (i o).ReadsBack := by
  intro i mem w wf coded
  fin_cases mem <;> obtain rfl := Option.some.inj coded <;> exact .inl (by simp [decodeHart_of_major, decodeMajor, pick, wf])

theorem SI.readsBack (o : SI) : ∀ i ∈ ([
    .addi, .andi, .ori, .xori, .jalr] : List (SI → Instr)), (i o).ReadsBack := by
  intro i mem w wf coded
  fin_cases mem <;> obtain rfl := Option.some.inj coded <;> exact .inl (by simp [decodeHart_of_major, decodeMajor, pick, wf])

theorem SH.readsBack (o : SH) : ∀ i ∈ ([
    .slli, .srli, .srai] : List (SH → Instr)), (i o).ReadsBack := by
  intro i mem w wf coded
  fin_cases mem <;> obtain rfl := Option.some.inj coded <;> exact .inl (by simp [decodeHart_of_major, decodeMajor, pick, wf])

theorem BR.readsBack (o : BR) : ∀ i ∈ ([
    .beq, .bne, .blt, .bge, .bltu, .bgeu] : List (BR → Instr)), (i o).ReadsBack := by
  intro i mem w wf coded
  fin_cases mem <;> obtain rfl := Option.some.inj coded <;> exact .inl (by simp [decodeHart_of_major, decodeMajor, pick, wf])

theorem V3.readsBack (o : V3) : ∀ i ∈ ([
    .vadd, .vsub, .vmul, .vmulh, .vdiv, .vrem, .vmin, .vmax, .vabsd, .vand, .vor, .vxor, .vsll, .vsrl, .vsra, .vfma,
    .vfms, .vfnma, .vminadd, .vadc, .vsbc, .vaddm, .vsel, .vslup, .vsldn] : List (V3 → Instr)), (i o).ReadsBack := by
  intro i mem w wf coded
  fin_cases mem <;> obtain rfl := Option.some.inj coded <;> exact .inl (by simp [decodeHart_of_major, decodeMajor, pick, wf])

theorem V2.readsBack (o : V2) : ∀ i ∈ ([
    .vmov, .vneg, .vabs, .vnot, .vclz, .vpopc, .vsqrt, .vrcp, .vrsqrt, .vexp2, .vlog2, .vtanh, .vcvt, .vquant, .vcmprs,
    .vexpnd, .vrev, .vredSum, .vredMax, .vredMin, .vredAnd, .vredOr, .vredXor, .vredSexp,
    .vhist] : List (V2 → Instr)), (i o).ReadsBack := by
  intro i mem w wf coded
  fin_cases mem <;> obtain rfl := Option.some.inj coded <;> exact .inl (by simp [decodeHart_of_major, decodeMajor, pick, wf])

theorem VC.readsBack (o : VC) : ∀ i ∈ ([
    .ldg, .sts, .lds, .stst, .vgathr] : List (VC → Instr)), (i o).ReadsBack := by
  intro i mem w wf coded
  fin_cases mem <;> obtain rfl := Option.some.inj coded <;> exact .inl (by simp [decodeHart_of_major, decodeMajor, pick, wf])

theorem VM.readsBack (o : VM) : ∀ i ∈ ([
    .vcmpEq, .vcmpNe, .vcmpLt, .vcmpLe, .vcmpGt, .vcmpGe, .vcmpUnord] : List (VM → Instr)), (i o).ReadsBack := by
  intro i mem w wf coded
  fin_cases mem <;> obtain rfl := Option.some.inj coded <;> exact .inl (by simp [decodeHart_of_major, decodeMajor, pick, wf])

theorem M3.readsBack (o : M3) : ∀ i ∈ ([
    .mand, .mor, .mxor, .mandn] : List (M3 → Instr)), (i o).ReadsBack := by
  intro i mem w wf coded
  fin_cases mem <;> obtain rfl := Option.some.inj coded <;> exact .inl (by simp [decodeHart_of_major, decodeMajor, pick, wf])

theorem AM.readsBack (o : AM) : ∀ i ∈ ([
    .amoadd, .amoswap, .amocas, .amomin, .amomax, .amoand, .amoor, .amoxor] : List (AM → Instr)), (i o).ReadsBack := by
  intro i mem w wf coded
  fin_cases mem <;> obtain rfl := Option.some.inj coded <;> exact .inl (by simp [decodeHart_of_major, decodeMajor, pick, wf])

theorem LK.readsBack (o : LK) : ∀ i ∈ ([
    .xsend, .xrecv, .xpeek] : List (LK → Instr)), (i o).ReadsBack := by
  intro i mem w wf coded
  fin_cases mem <;> obtain rfl := Option.some.inj coded <;> exact .inl (by simp [decodeHart_of_major, decodeMajor, pick, wf])

theorem RT.readsBack (o : RT) : ∀ i ∈ ([
    .hrd, .hwr, .vcfg, .vtag] : List (RT → Instr)), (i o).ReadsBack := by
  intro i mem w wf coded
  fin_cases mem <;> obtain rfl := Option.some.inj coded <;> exact .inl (by simp [decodeHart_of_major, decodeMajor, pick, wf])

theorem RW.readsBack (o : RW) : ∀ i ∈ ([
    .act, .wb, .wbp] : List (RW → Instr)), (i o).ReadsBack := by
  intro i mem w wf coded
  fin_cases mem <;> obtain rfl := Option.some.inj coded <;> exact .inl (by simp [decodeHart_of_major, decodeMajor, pick, wf])

theorem P0.readsBack (o : P0) : ∀ i ∈ ([
    .stop, .yield, .nop, .mmodeOff] : List (P0 → Instr)), (i o).ReadsBack := by
  intro i mem w wf coded
  fin_cases mem <;> obtain rfl := Option.some.inj coded <;> exact .inl (by simp [decodeHart_of_major, decodeMajor, pick, wf])

theorem R1.readsBack (o : R1) : ∀ i ∈ ([
    .bfetch, .evt, .mmode, .mmodeRd] : List (R1 → Instr)), (i o).ReadsBack := by
  intro i mem w wf coded
  fin_cases mem <;> obtain rfl := Option.some.inj coded <;> exact .inl (by simp [decodeHart_of_major, decodeMajor, pick, wf])

theorem XH.readsBack (o : XH) : ∀ i ∈ ([
    .gdef, .bcast, .bcastn, .gwait, .gset, .hget, .hstat, .hresume, .hkill, .evwait, .evpoll, .launch, .capq,
    .capack] : List (XH → Instr)), (i o).ReadsBack := by
  intro i mem w wf coded
  fin_cases mem <;> obtain rfl := Option.some.inj coded <;>
    exact .inr (decodeCt_of_xhlm (by simp [decodeXhlm, xpick, wf]))

theorem R2.readsBack (o : R2) : ∀ i ∈ ([
    .vtagRd, .shsnd, .shrcv, .vhmerge] : List (R2 → Instr)), (i o).ReadsBack := by
  intro i mem w wf coded
  fin_cases mem <;> obtain rfl := Option.some.inj coded <;> exact .inl (by simp [decodeHart_of_major, decodeMajor, pick, wf])

/-- Settles O58: the reserved fields are zero in the word, so each operand is read where it was put, format by format. -/
theorem decodeEncode : Obligations.DecodeEncode := by
  intro i w wf coded
  cases i with
  | add o | sub o | and o | or o | xor o | sll o | srl o | sra o | mul o | mulh o | mulhu o | div o | divu o | rem o
  | remu o | min o | max o | minu o | maxu o | slt o | sltu o =>
    exact S3.readsBack o _ (by simp) w wf coded
  | addi o | andi o | ori o | xori o | jalr o =>
    exact SI.readsBack o _ (by simp) w wf coded
  | slli o | srli o | srai o =>
    exact SH.readsBack o _ (by simp) w wf coded
  | beq o | bne o | blt o | bge o | bltu o | bgeu o =>
    exact BR.readsBack o _ (by simp) w wf coded
  | vadd o | vsub o | vmul o | vmulh o | vdiv o | vrem o | vmin o | vmax o | vabsd o | vand o | vor o | vxor o
  | vsll o | vsrl o | vsra o | vfma o | vfms o | vfnma o | vminadd o | vadc o | vsbc o | vaddm o | vsel o | vslup o
  | vsldn o =>
    exact V3.readsBack o _ (by simp) w wf coded
  | vmov o | vneg o | vabs o | vnot o | vclz o | vpopc o | vsqrt o | vrcp o | vrsqrt o | vexp2 o | vlog2 o | vtanh o
  | vcvt o | vquant o | vcmprs o | vexpnd o | vrev o | vredSum o | vredMax o | vredMin o | vredAnd o | vredOr o
  | vredXor o | vredSexp o | vhist o =>
    exact V2.readsBack o _ (by simp) w wf coded
  | ldg o | sts o | lds o | stst o | vgathr o =>
    exact VC.readsBack o _ (by simp) w wf coded
  | vcmpEq o | vcmpNe o | vcmpLt o | vcmpLe o | vcmpGt o | vcmpGe o | vcmpUnord o =>
    exact VM.readsBack o _ (by simp) w wf coded
  | mand o | mor o | mxor o | mandn o =>
    exact M3.readsBack o _ (by simp) w wf coded
  | amoadd o | amoswap o | amocas o | amomin o | amomax o | amoand o | amoor o | amoxor o =>
    exact AM.readsBack o _ (by simp) w wf coded
  | xsend o | xrecv o | xpeek o =>
    exact LK.readsBack o _ (by simp) w wf coded
  | hrd o | hwr o | vcfg o | vtag o =>
    exact RT.readsBack o _ (by simp) w wf coded
  | act o | wb o | wbp o =>
    exact RW.readsBack o _ (by simp) w wf coded
  | stop o | yield o | nop o | mmodeOff o =>
    exact P0.readsBack o _ (by simp) w wf coded
  | bfetch o | evt o | mmode o | mmodeRd o =>
    exact R1.readsBack o _ (by simp) w wf coded
  | vtagRd o | shsnd o | shrcv o | vhmerge o =>
    exact R2.readsBack o _ (by simp) w wf coded
  | limm o | lshi o | jal o | pset o | trapi o | brk o | setvl o | setrm o | pre o | ref o | sdef o | sld o | sst o
  | spos o | sposRd o | vsplat o | vextr o | vinsr o | twrot o | twbfly o | twbcast o | twxpose o | ldgff o
  | xfer o | xwait o | vcvtmxImp o | vcvtmxExp o | vfirst o | viota o | mnot o | mpopc o | mshl o | mshr o | mset o
  | mclr o | mfromv o | mtov o | mop o | mops o | mzero o | mdrain o | mdrainW o | mldacc o | mldaccW o | mtile o
  | mtileRel o | tdot o | tdotm o | tstk o | red o | barrive o | barwait o | semwait o | sempost o | fence o | ld o
  | st o =>
    obtain rfl := Option.some.inj coded
    exact .inl (by simp [decodeHart_of_major, decodeMajor, pick, wf])
  | psetB0 a =>
    obtain rfl := Option.some.inj coded
    exact .inl (decodeHart_psetB0 a)
  | repb o =>
    obtain rfl := Option.some.inj coded
    have split : o.p = false := by simpa [Instr.wf] using wf
    exact .inl (by simp [decodeHart_of_major, decodeMajor, pick, wf, split, bnat])
  | pnot => exact .inl (Option.some.inj coded ▸ by decide)
  | gdef o | bcast o | bcastn o | gwait o | gset o | hget o | hstat o | hresume o | hkill o | evwait o | evpoll o
  | launch o | capq o | capack o =>
    exact XH.readsBack o _ (by simp) w wf coded
  | ctbarArrive o | ctbarWait o | ctbarSemwait o | ctbarSempost o | ctbarSet o =>
    obtain rfl := Option.some.inj coded
    have zero : o.g = 0 := by simpa [Instr.wf, XH.noG] using wf
    exact .inr (decodeCt_of_xhlm (by simp [decodeXhlm, xpick, wf, o.counter_reads zero, o.with_no_gang zero]))
  | taskend => exact .inr (Option.some.inj coded ▸ by decide)
  | ctLoad o =>
    obtain rfl := Option.some.inj coded
    exact .inr (by simp [decodeCt, decodeXhlm, decodeCtRow, wf])
  | ctStore o =>
    obtain rfl := Option.some.inj coded
    exact .inr (by simp [decodeCt, decodeXhlm, decodeCtRow, wf])
  | ctAmo o =>
    obtain rfl := Option.some.inj coded
    exact .inr (decodeCt_amo o wf)
  | ctLr o =>
    obtain rfl := Option.some.inj coded
    exact .inr (decodeCt_lr o wf)
  | ctSc o =>
    obtain rfl := Option.some.inj coded
    exact .inr (decodeCt_sc o wf)
  | ctFence o =>
    obtain rfl := Option.some.inj coded
    exact .inr (decodeCt_fence o)
  | ctFenceI | ctEcall | ctEbreak | ctWfi | ctMret => exact .inr (Option.some.inj coded ▸ by decide)
  | ctCsrAccess o =>
    obtain rfl := Option.some.inj coded
    exact .inr (decodeCt_csr o wf)
  | _ => cases coded

end Sys2Proof
end

section
/-! # Links and special registers (O5, O6)

A word that updates one hart, its own or another, and goes on; with it the words on the link queues and on the special
registers are one case a queue and one case a register. -/

namespace Sys2Proof.Machine

/-- A word that puts one hart's new state in place and leaves where that hart stands alone retires on its own. -/
theorem Op.exec_setHart (o : Op) {s : State} {c b e : Nat} {h' : Hart} (h : Ready s c b o.p) (hl : o.lock = false)
    (ha : o.act s s c b = .ok (s.setHart c e h') .next) (hy : h'.young = (s.hart c e).young)
    (hv : h'.blockVa = (s.hart c e).blockVa) :
    o.exec s = .next ((s.setHart c e h').retired c b (o.goes .next)) := by
  have hb : ((s.setHart c e h').hart c b).young = [] ∧ ((s.setHart c e h').hart c b).blockVa = (s.hart c b).blockVa := by
    by_cases he : b = e
    · subst he; simp [hy, hv, h.alone]
    · rw [State.hart_setHart_of_ne _ _ fun hh => he hh.2]; exact ⟨h.alone, rfl⟩
  exact Op.exec_ok o h hl ha (by simpa using h.noTrace) (by simpa using h.noRing) hb.1
    (Hart.near_of_inside _ o.goes_next (by rw [hb.2]; exact h.inside))

/-- Such a word on its own hart. -/
theorem Op.exec_hartDone (o : Op) {s : State} {c b : Nat} (f : Hart → Hart) (h : Ready s c b o.p) (hl : o.lock = false)
    (hr : o.rep = none) (ha : o.act s s c b = .ok (s.setHart c b (f (s.hart c b))) .next)
    (hy : (f (s.hart c b)).young = (s.hart c b).young) (hv : (f (s.hart c b)).blockVa = (s.hart c b).blockVa) :
    o.exec s = .next (s.hartDone c b f) := by
  rw [Op.exec_setHart o h hl ha hy hv]
  simp [State.retired, State.hartDone, Op.goes, hr]

/-- A word that changes nothing only goes on. -/
theorem Op.exec_goesOn (o : Op) {s : State} {c b : Nat} (h : Ready s c b o.p) (hl : o.lock = false)
    (hr : o.rep = none) (ha : o.act s s c b = .ok s .next) : o.exec s = .next (s.retired c b .next) := by
  rw [Op.exec_ok o h hl ha h.noTrace h.noRing h.alone (Hart.near_of_inside _ o.goes_next h.inside)]
  simp [Op.goes, hr]

@[simp] theorem Hart.young_setG (h : Hart) (r : Nat) (v : Word) : (h.setG r v).young = h.young := by
  unfold Hart.setG; split <;> rfl
@[simp] theorem Hart.blockVa_setG (h : Hart) (r : Nat) (v : Word) : (h.setG r v).blockVa = h.blockVa := by
  unfold Hart.setG; split <;> rfl

@[simp] theorem Hart.young_setRecvQueue (h : Hart) (k : Nat) (q : List Word) : (h.setRecvQueue k q).young = h.young := by
  unfold Hart.setRecvQueue; split <;> rfl
@[simp] theorem Hart.blockVa_setRecvQueue (h : Hart) (k : Nat) (q : List Word) :
    (h.setRecvQueue k q).blockVa = h.blockVa := by
  unfold Hart.setRecvQueue; split <;> rfl

/-- R220: a receive on a queue that is not empty. -/
theorem exec_xrecv {o : LK} {s : State} {c b : Nat} (h : Ready s c b o.p) {x : Word} {q : List Word}
    (hq : (s.hart c b).recvQueue o.k.toNat = x :: q) :
    exec (.xrecv o) s = .next (s.hartDone c b fun h => (h.setRecvQueue o.k.toNat q).setG o.r.toNat x) :=
  Op.exec_hartDone _ (fun h => (h.setRecvQueue o.k.toNat q).setG o.r.toNat x) h rfl rfl (by simp only [hq]) (by simp) (by simp)

/-- What a peek does to its hart (R220). -/
def Hart.peeked (o : LK) (h : Hart) : Hart :=
  match h.recvQueue o.k.toNat with
  | [] => { h with hp := false }
  | v :: _ => { h with hp := true }.setG o.r.toNat v

/-- R220: a peek waits for nothing. -/
theorem exec_xpeek {o : LK} {s : State} {c b : Nat} (h : Ready s c b o.p) :
    exec (.xpeek o) s = .next (s.hartDone c b (Hart.peeked o)) :=
  hartOp_exec (.xpeek o) o.p (Hart.peeked o) h (by unfold Hart.peeked; split <;> simp)
    (by unfold Hart.peeked; split; · rfl
        · rw [Hart.blockVa_setG]; rfl)

/-- The queue that a link's number names is empty where each number's own queue is. -/
theorem Hart.recvQueue_empty {h : Hart} {k : BitVec 2} (h0 : k = 0 → h.fromE = []) (h1 : k = 1 → h.fromW = [])
    (h2 : 2 ≤ k.toNat → h.fromCT = []) : h.recvQueue k.toNat = [] := by
  unfold Hart.recvQueue
  split
  case h_1 hk => exact h0 (BitVec.eq_of_toNat_eq hk)
  case h_2 hk => exact h1 (BitVec.eq_of_toNat_eq hk)
  case h_3 n0 n1 =>
    have n0' : k.toNat ≠ 0 := n0
    have n1' : k.toNat ≠ 1 := n1
    exact h2 (by omega)

/-- R220: a send to the east neighbour, or to the hart itself, with room. -/
theorem exec_xsend_east {o : LK} {s : State} {c b : Nat} (h : Ready s c b o.p) (hk : o.k = 0)
    (hn : (s.hart c ((s.core c).east b)).fromW.length < 4) :
    exec (.xsend o) s = .next ((s.setHart c ((s.core c).east b) { s.hart c ((s.core c).east b) with
      fromW := (s.hart c ((s.core c).east b)).fromW ++ [(s.hart c b).greg o.r.toNat] }).retired c b .next) := by
  obtain ⟨r, k, p⟩ := o
  subst hk
  exact Op.exec_setHart _ h rfl (if_neg fun hd => absurd (of_decide_eq_true hd) (Nat.not_le.2 hn)) rfl rfl

/-- R220: a send to the west neighbour with room. -/
theorem exec_xsend_west {o : LK} {s : State} {c b : Nat} (h : Ready s c b o.p) (hk : o.k = 1)
    (hn : (s.hart c ((s.core c).west b)).fromE.length < 4) :
    exec (.xsend o) s = .next ((s.setHart c ((s.core c).west b) { s.hart c ((s.core c).west b) with
      fromE := (s.hart c ((s.core c).west b)).fromE ++ [(s.hart c b).greg o.r.toNat] }).retired c b .next) := by
  obtain ⟨r, k, p⟩ := o
  subst hk
  exact Op.exec_setHart _ h rfl (if_neg fun hd => absurd (of_decide_eq_true hd) (Nat.not_le.2 hn)) rfl rfl

/-- R220: a send to the control thread with room. -/
theorem exec_xsend_ct {o : LK} {s : State} {c b : Nat} (h : Ready s c b o.p) (hk : o.k = 2)
    (hn : (s.hart c b).toCT.length < 4) :
    exec (.xsend o) s =
      .next (s.hartDone c b fun h => { h with toCT := h.toCT ++ [(s.hart c b).greg o.r.toNat] }) := by
  obtain ⟨r, k, p⟩ := o
  subst hk
  exact Op.exec_hartDone _ (fun h => { h with toCT := h.toCT ++ [(s.hart c b).greg r.toNat] }) h rfl rfl
    (if_neg fun hd => absurd (of_decide_eq_true hd) (Nat.not_le.2 hn)) rfl rfl

/-- R220: a receive and a peek of a queue that is not empty, with the queue they read and what a receive leaves of it. -/
theorem exec_xrecv_xpeek {o : LK} {s : State} {c b k : Nat} (h : Ready s c b o.p) (hk : o.k.toNat = k) {x : Word}
    {q : List Word} (hq : (s.hart c b).recvQueue k = x :: q) :
    exec (.xrecv o) s = .next (s.hartDone c b fun h => (h.setRecvQueue k q).setG o.r.toNat x) ∧
      exec (.xpeek o) s = .next (s.hartDone c b fun h => { h with hp := true }.setG o.r.toNat x) := by
  subst hk
  refine ⟨exec_xrecv h hq, ?_⟩
  rw [exec_xpeek h]
  simp [State.hartDone, Hart.peeked, hq]

/-- Settles O5: one case for each queue that a word sends to or receives from. -/
theorem linkWords : Obligations.LinkWords := by
  unfold Obligations.LinkWords
  intro o s c b hr
  refine ⟨exec_xsend_east hr, exec_xsend_west hr, exec_xsend_ct hr, fun x q hk hq => ?_, fun x q hk hq => ?_,
    fun x q hk hq => ?_, fun h0 h1 h2 => ?_⟩
  · exact exec_xrecv_xpeek (k := 0) hr (by rw [hk]; rfl) hq
  · exact exec_xrecv_xpeek (k := 1) hr (by rw [hk]; rfl) hq
  · exact exec_xrecv_xpeek (k := 2) hr (by rw [hk]; rfl) hq
  · rw [exec_xpeek hr]
    simp [State.hartDone, Hart.peeked, Hart.recvQueue_empty h0 h1 h2]

@[simp] theorem Hart.young_setSreg (h : Hart) (n : Nat) (v : Word) : (h.setSreg n v).young = h.young := by
  unfold Hart.setSreg; split <;> rfl
@[simp] theorem Hart.blockVa_setSreg (h : Hart) (n : Nat) (v : Word) : (h.setSreg n v).blockVa = h.blockVa := by
  unfold Hart.setSreg; split <;> rfl

/-- R357: the engine is not busy for a hart none of whose operations it holds. -/
theorem State.engineBusy_free {s : State} {c b : Nat} (h : ∀ x ∈ (s.core c).engine, x.bank ≠ b) :
    s.engineBusy c b = false := by
  simpa [State.engineBusy] using h

/-- R224: a read of a special register; of the flags, once the engine holds no operation of the hart. -/
theorem exec_hrd {o : RT} {s : State} {c b : Nat} (h : Ready s c b o.p) (hf : o.t = 9 → s.engineBusy c b = false) :
    exec (.hrd o) s = .next (s.hartDone c b fun h => h.setG o.r.toNat (s.sreg c b o.t.toNat)) := by
  refine Op.exec_hartDone _ (fun h => h.setG o.r.toNat (s.sreg c b o.t.toNat)) h rfl rfl (if_neg ?_) (by simp) (by simp)
  simpa using hf

/-- R224: a write of a special register with a value that the register takes. -/
theorem exec_hwr {o : RT} {s : State} {c b : Nat} (h : Ready s c b o.p) (hf : o.t = 9 → s.engineBusy c b = false)
    (hv : sregRefused o.t.toNat (s.greg c b o.r.toNat) = false) :
    exec (.hwr o) s = .next (s.hartDone c b fun h => h.setSreg o.t.toNat (s.greg c b o.r.toNat)) := by
  refine Op.exec_hartDone _ (fun h => h.setSreg o.t.toNat (s.greg c b o.r.toNat)) h rfl rfl
    ((if_neg ?_).trans (if_neg ?_)) (by simp) (by simp)
  · simpa using hf
  · simp [hv]

/-- Every register but `rmode` takes every value. -/
theorem sregRefused_of_ne {n : Nat} (v : Word) (h : n ≠ 1) : sregRefused n v = false := by
  simp [sregRefused, h]

/-- R224: a read and a write of the special register of number `n`. -/
theorem exec_hrd_hwr {o : RT} {s : State} {c b : Nat} (n : Nat) (h : Ready s c b o.p) (ht : o.t.toNat = n)
    (hf : n = 9 → s.engineBusy c b = false) :
    exec (.hrd o) s = .next (s.hartDone c b fun h => h.setG o.r.toNat (s.sreg c b n)) ∧
      (sregRefused n (s.greg c b o.r.toNat) = false →
        exec (.hwr o) s = .next (s.hartDone c b fun h => h.setSreg n (s.greg c b o.r.toNat))) := by
  have hf' : o.t = 9 → s.engineBusy c b = false := fun e => hf (by rw [← ht, e]; rfl)
  subst ht
  exact ⟨exec_hrd h hf', exec_hwr h hf'⟩

/-- R221: an event record that has room, of a hart whose accesses are performed. -/
theorem exec_evt {o : R1} {s : State} {c b : Nat} (h : Ready s c b o.p) (hq : (s.hart c b).quiet = true)
    (hn : (s.core c).evq.length < 64) :
    exec (.evt o) s = .next ((s.setCore c { s.core c with
      evq := (s.core c).evq ++ [s.evtRecord c b (s.greg c b o.r.toNat)] }).retired c b .next) := by
  have hh (x : List EvRec) : (s.setCore c { s.core c with evq := x }).hart c b = s.hart c b :=
    State.hart_setCore _ _ (by rfl) _ _
  refine Op.exec_ok _ h rfl (g := .next) (if_neg ?_) ?_ ?_ ?_ ?_
  · have hd : decide (Config.eventQueueSize ≤ (s.core c).evq.length) = false := decide_eq_false (Nat.not_le.2 hn)
    simp [hq, hd]
  · simpa using h.noTrace
  · simpa [State.ct] using h.noRing
  · rw [hh]; exact h.alone
  · rw [hh]; exact Hart.near_of_inside _ (by simp [Op.goes]) h.inside

/-- Settles O6: a case for each special register. -/
theorem systemWords : Obligations.SystemWords := by
  unfold Obligations.SystemWords
  intro o e s c b
  refine ⟨fun hr => ?_, fun hr hq hn => exec_evt hr hq hn⟩
  have both (n : Nat) (ht : o.t = BitVec.ofNat 4 n) (hn : n < 16 := by decide)
      (hf : n = 9 → s.engineBusy c b = false := by intro h9; cases h9) := exec_hrd_hwr n hr (by rw [ht]; simp; omega) hf
  refine ⟨fun ht => ?_, fun ht => ?_, fun ht => ?_, fun ht => ?_, fun ht => ?_, fun ht => ?_, fun ht => ?_, fun ht => ?_,
    fun ht => ?_, fun ht he => ?_, fun ht => ?_⟩
  · exact ⟨(both 0 ht).1, (both 0 ht).2 rfl⟩
  · exact ⟨(both 1 ht).1, fun hv => (both 1 ht).2 (decide_eq_false (Nat.not_le.2 hv))⟩
  · exact ⟨(both 2 ht).1, (both 2 ht).2 rfl⟩
  · exact ⟨(both 3 ht).1, (both 3 ht).2 rfl⟩
  · exact ⟨(both 4 ht).1, (both 4 ht).2 rfl⟩
  · exact ⟨(both 5 ht).1, (both 5 ht).2 rfl⟩
  · exact ⟨(both 6 ht).1, (both 6 ht).2 rfl⟩
  · exact ⟨(both 7 ht).1, (both 7 ht).2 rfl⟩
  · exact ⟨(both 8 ht).1, (both 8 ht).2 rfl⟩
  · have hb := State.engineBusy_free he
    exact ⟨(both 9 ht (hf := fun _ => hb)).1, (both 9 ht (hf := fun _ => hb)).2 rfl⟩
  · exact ⟨(both 10 ht).1, (both 10 ht).2 rfl⟩

end Sys2Proof.Machine
end

section
/-! # Faults of a hart (O7)

What a fault leaves beside its hart is one relation (`State.Beside`), and what it makes of the hart one equation
(`State.hart_suspend`). Under a stop of the engine a hart keeps every field but its pending work and its flags. -/

namespace Sys2Proof.Machine

/-! ### Beside a hart -/

/-- What lies beside hart (c, b) stands as it stood: the other harts of the core, its banks and control thread, the other cores,
memory and its sideband. -/
structure State.Beside (s t : State) (c b : Nat) : Prop where
  harts : ∀ x, x ≠ b → t.hart c x = s.hart c x
  banks : ∀ x, t.bank c x = s.bank c x
  ct : t.ct c = s.ct c
  cores : ∀ d, d ≠ c → t.core d = s.core d
  mem : t.mem = s.mem
  side : t.side = s.side

theorem State.Beside.trans {s t u : State} {c b : Nat} (h : s.Beside t c b) (k : t.Beside u c b) : s.Beside u c b where
  harts x n := (k.harts x n).trans (h.harts x n)
  banks x := (k.banks x).trans (h.banks x)
  ct := k.ct.trans h.ct
  cores d n := (k.cores d n).trans (h.cores d n)
  mem := k.mem.trans h.mem
  side := k.side.trans h.side

/-- A core that differs in one hart, and in nothing that the relation speaks of. -/
theorem State.beside_setCore (s : State) {c b : Nat} {k : Core} (harts : ∀ x, x ≠ b → k.hart x = (s.core c).hart x)
    (banks : k.banks = (s.core c).banks) (ct : k.ct = (s.core c).ct) : s.Beside (s.setCore c k) c b where
  harts x n := by rw [State.hart, State.core_setCore, harts x n, State.hart]
  banks x := State.bank_setCore s c banks c x
  ct := by rw [State.ct, State.core_setCore, ct, State.ct]
  cores d n := State.core_setCore_of_ne s _ n
  mem := rfl
  side := rfl

theorem State.beside_setHart (s : State) (c b : Nat) (h : Hart) : s.Beside (s.setHart c b h) c b :=
  State.beside_setCore s (fun _ n => Core.hart_setHart_of_ne _ _ n) rfl rfl

theorem State.beside_noFirst (s : State) (w : Waiter) (c b : Nat) : s.Beside (s.noFirst w) c b where
  harts x _ := State.hart_noFirst s c x w
  banks x := by rw [State.bank, State.core_noFirst, State.bank]
  ct := by rw [State.ct, State.core_noFirst, State.ct]
  cores d _ := State.core_noFirst s w d
  mem := State.noFirst_mem ..
  side := by unfold State.noFirst; split <;> rfl

theorem State.beside_traceMeet (s : State) (c b kind value : Nat) : s.Beside (s.traceMeet c kind value) c b where
  harts x _ := State.hart_traceMeet s c c x kind value
  banks x := bank_of_sameWork (fun c' b' => sameWork_traceMeet s c' b' c kind value) c x
  ct := by
    obtain ⟨n, core⟩ := (logKeeps_traceMeet s c kind value).core c
    rw [State.ct, core, State.ct]
  cores d n := State.core_traceMeet_of_ne s kind value n
  mem := State.traceMeet_mem ..
  side := by
    unfold State.traceMeet
    dsimp only
    split
    · split <;> rfl
    · rfl

/-! ### The hart of a fault -/

/-- The state with the engine's operations and the words behind the present one ended or withdrawn for a hart (R360, R463). -/
def State.workEnded (s : State) (c b : Nat) : State := ((s.noFirst (.hart c b)).engineStop c b).keepYoung c b

/-- A hart that a fault has suspended (R138, R400), with the pass it is left in. -/
def Hart.suspended (h : Hart) (cause detail egi : Nat) (repact : Bool) (repi : BitVec 32) (bcastKind : Bool) : Hart :=
  { h with
    st := .faulted, hcause := BitVec.ofNat 8 cause, htval := BitVec.ofNat 64 detail, egi := BitVec.ofNat 5 egi,
    repact := repact, repi := repi, bcastKind := bcastKind, faultVa := h.blockVa, after := 0
    pend := none, blk := [], req := none, hostGot := [], bpSkip := false, latchOwned := false
    dying := false, far := none }

theorem Hart.hpc_suspended (h : Hart) (cause detail egi : Nat) (repact : Bool) (repi : BitVec 32) (bcastKind : Bool) :
    (h.suspended cause detail egi repact repi bcastKind).hpc = h.hpc := rfl

/-- A suspension replaces the hart, and the participants of its gang's block, in the stopped state. -/
theorem State.suspend_eq (s : State) (c b cause detail egi : Nat) : ∃ repact repi bcastKind k,
    s.suspend c b cause detail egi = ((s.workEnded c b).setCore c k).traceMeet c 0 cause ∧
      k.hart b = ((s.workEnded c b).hart c b).suspended cause detail egi repact repi bcastKind ∧
      (∀ x, x ≠ b → k.hart x = ((s.workEnded c b).core c).hart x) ∧ k.banks = ((s.workEnded c b).core c).banks ∧
      k.ct = ((s.workEnded c b).core c).ct ∧ k.evq = ((s.workEnded c b).core c).evq := by
  unfold State.suspend
  rw [show ((s.noFirst (.hart c b)).engineStop c b).keepYoung c b = s.workEnded c b from rfl]
  generalize s.workEnded c b = ended
  extract_lets t h k g run inBlock h1 k1 gang k2
  refine ⟨h1.repact, h1.repi, h1.bcastKind, k2, rfl, ?_, fun x n => ?_, ?_, ?_, ?_⟩
  all_goals by_cases hb : inBlock = true
  all_goals simp only [k2, hb, if_true, if_false, Bool.false_eq_true]
  · exact Core.hart_setHart ..
  · exact Core.hart_setHart ..
  · exact Core.hart_setHart_of_ne _ _ n
  · exact Core.hart_setHart_of_ne _ _ n
  all_goals rfl

theorem State.hart_suspend (s : State) (c b cause detail egi : Nat) : ∃ repact repi bcastKind,
    (s.suspend c b cause detail egi).hart c b =
      ((s.workEnded c b).hart c b).suspended cause detail egi repact repi bcastKind := by
  obtain ⟨repact, repi, bcastKind, k, eq, hart, -⟩ := s.suspend_eq c b cause detail egi
  refine ⟨repact, repi, bcastKind, ?_⟩
  rw [eq, State.hart_traceMeet, State.hart, State.core_setCore, hart]

theorem State.beside_suspend (s : State) (c b cause detail egi : Nat) :
    (s.workEnded c b).Beside (s.suspend c b cause detail egi) c b := by
  obtain ⟨_, _, _, k, eq, -, harts, banks, ct, -⟩ := s.suspend_eq c b cause detail egi
  rw [eq]
  exact (State.beside_setCore _ harts banks ct).trans (State.beside_traceMeet ..)

theorem State.evq_suspend (s : State) (c b cause detail egi : Nat) :
    ((s.suspend c b cause detail egi).core c).evq = ((s.workEnded c b).core c).evq := by
  obtain ⟨_, _, _, k, eq, -, -, -, -, evq⟩ := s.suspend_eq c b cause detail egi
  rw [eq, State.traceMeet_evq, State.core_setCore, evq]

/-! ### A hart whose word stands alone, with no operation in the engine -/

/-- Nothing of a hart is to be stopped: its core stays, but for what the filter of the engine's queue keeps. -/
theorem State.workEnded_free {s : State} {c b : Nat} (alone : (s.hart c b).young = [])
    (free : ∀ x ∈ (s.core c).engine, x.bank ≠ b) : ∃ l,
    s.workEnded c b = (s.noFirst (.hart c b)).setCore c { s.core c with engine := l } := by
  refine ⟨(s.core c).engine.filter fun e => !(e.bank == b && !e.taken), ?_⟩
  unfold State.workEnded
  rw [State.engineStop_free (by rwa [State.core_noFirst]), State.keepYoung, State.hart_setCore _ _ (by rfl),
    State.hart_noFirst, alone, State.core_noFirst]
  rfl

theorem State.beside_workEnded {s : State} {c b : Nat} (alone : (s.hart c b).young = [])
    (free : ∀ x ∈ (s.core c).engine, x.bank ≠ b) : s.Beside (s.workEnded c b) c b := by
  obtain ⟨l, eq⟩ := State.workEnded_free alone free
  rw [eq]
  refine (State.beside_noFirst ..).trans (State.beside_setCore _ (fun x _ => ?_) ?_ ?_) <;> rw [State.core_noFirst]
  rfl

theorem State.hart_workEnded {s : State} {c b : Nat} (alone : (s.hart c b).young = [])
    (free : ∀ x ∈ (s.core c).engine, x.bank ≠ b) : (s.workEnded c b).hart c b = s.hart c b := by
  obtain ⟨l, eq⟩ := State.workEnded_free alone free
  rw [eq, State.hart, State.core_setCore, State.hart]
  rfl

theorem State.evq_workEnded {s : State} {c b : Nat} (alone : (s.hart c b).young = [])
    (free : ∀ x ∈ (s.core c).engine, x.bank ≠ b) : ((s.workEnded c b).core c).evq = (s.core c).evq := by
  obtain ⟨l, eq⟩ := State.workEnded_free alone free
  rw [eq, State.core_setCore]

/-! ### The record of a fault -/

/-- A hart with the records that wait in it. -/
def Hart.withRecords (h : Hart) (l : List EvRec) : Hart := { h with evWait := l }

theorem Hart.hpc_withRecords (h : Hart) (l : List EvRec) : (h.withRecords l).hpc = h.hpc := rfl

/-- The record of a fault enters the queue, or waits in the hart: its hart changes in nothing else. -/
theorem State.hart_hartFault (s : State) (c b cause detail egi : Nat) : ∃ l, (s.hartFault c b cause detail egi).hart c b =
    ((s.suspend c b cause detail egi).hart c b).withRecords l := by
  unfold State.hartFault
  generalize s.suspend c b cause detail egi = t
  dsimp only
  split
  · exact ⟨_, rfl⟩
  · split
    · exact ⟨_, State.hart_setCore t c (by rfl) c b⟩
    · exact ⟨_, State.hart_setHart ..⟩

theorem State.beside_hartFault (s : State) (c b cause detail egi : Nat) :
    (s.suspend c b cause detail egi).Beside (s.hartFault c b cause detail egi) c b := by
  unfold State.hartFault
  generalize s.suspend c b cause detail egi = t
  dsimp only
  split
  · exact ⟨fun _ _ => rfl, fun _ => rfl, rfl, fun _ _ => rfl, rfl, rfl⟩
  · split
    · exact State.beside_setCore t (fun _ _ => rfl) rfl rfl
    · exact State.beside_setHart ..

theorem hartFaultTaken : Claims.HartFaultTaken := by
  intro s c b cause detail egi h t alone free
  obtain ⟨repact, repi, bcastKind, sus⟩ := s.hart_suspend c b cause detail egi
  obtain ⟨l, hart⟩ := s.hart_hartFault c b cause detail egi
  rw [sus, State.hart_workEnded alone free] at hart
  have beside := ((State.beside_workEnded alone free).trans (s.beside_suspend c b cause detail egi)).trans
    (s.beside_hartFault c b cause detail egi)
  have evq := (s.evq_suspend c b cause detail egi).trans (State.evq_workEnded alone free)
  change t.hart c b = _ at hart
  rw [hart]
  refine ⟨rfl, rfl, rfl, rfl, rfl, rfl, rfl, rfl, rfl, rfl, rfl, fun hc room none quiet => ?_, fun hc => ?_,
    beside.harts, beside.banks, beside.ct, beside.cores, beside.mem, beside.side⟩
  · have enters : ((s.suspend c b cause detail egi).core c).evq.length < Config.eventQueueSize ∧
        (s.hart c b).quiet = true ∧ (s.hart c b).evWait = [] := ⟨by rw [evq]; exact room, quiet, none⟩
    change ((s.hartFault c b cause detail egi).core c).evq = _
    unfold State.hartFault
    dsimp only
    rw [if_neg hc, if_pos enters, State.core_setCore, evq]
  · change ((s.hartFault c b cause detail egi).core c).evq = _
    unfold State.hartFault
    dsimp only
    rw [if_pos hc, evq]

/-! ### A stop of the engine -/

/-- A view of a hart that does not depend on its pending work or its flags. -/
structure Hart.Steady {α : Type} (f : Hart → α) : Prop where
  pend : ∀ h p, f { h with pend := p } = f h
  flags : ∀ h x, f { h with flags := x } = f h

/-- A hart is replaced by one that a view does not tell from it. -/
theorem State.view_setHart {α : Type} {f : Hart → α} (s : State) (c b d e : Nat) {h : Hart} (k : f h = f (s.hart c b)) :
    f ((s.setHart c b h).hart d e) = f (s.hart d e) := by
  by_cases n : d = c ∧ e = b
  · obtain ⟨rfl, rfl⟩ := n; rw [State.hart_setHart, k]
  · rw [State.hart_setHart_of_ne _ _ n]

section
variable {α : Type} {f : Hart → α} (v : Hart.Steady f) (s : State) (c b d e : Nat)
include v

theorem Hart.Steady.setPend (p : Option Pend) : f ((s.setPend c b p).hart d e) = f (s.hart d e) :=
  State.view_setHart s c b d e (v.pend (s.hart c b) p)

theorem Hart.Steady.accepted : f ((s.accepted c b).hart d e) = f (s.hart d e) := by
  unfold State.accepted
  split
  · exact v.setPend ..
  · rfl

theorem Hart.Steady.acceptedIf (x : Bool) : f ((s.acceptedIf x c b).hart d e) = f (s.hart d e) := by
  cases x
  · rfl
  · exact v.accepted ..

theorem Hart.Steady.outerEnd (op : EngOp) (mops : Option (Nat × Nat)) (agree again : Bool) :
    f ((s.outerEnd c op mops agree again).hart d e) = f (s.hart d e) := by
  unfold State.outerEnd
  extract_lets bank q t trapping s1 s2 m fl h
  have same : s2.hart d e = s.hart d e := by
    show (if agree then s1 else s1.addScore 1 c 64).hart d e = s.hart d e
    cases agree <;> rfl
  split
  · rw [v.acceptedIf, State.hart_setTile, State.hart_addScore, same]
  split
  · split
    · rw [State.engTrap, v.setPend, same]
    · rw [same]
  · have flags : f { h with flags := h.flags ||| fl } =
        f ((s2.setTile c q { t with bits := packRows m.rows }).hart c bank) := by
      rw [v.flags, State.hart_setTile]
    rw [v.acceptedIf, State.view_setHart _ _ _ _ _ flags, State.hart_setTile, same]

theorem Hart.Steady.engineEnd (agree again : Bool) : f ((s.engineEnd c agree again).hart d e) = f (s.hart d e) := by
  unfold State.engineEnd
  split
  · rfl
  · split
    · rfl
    · dsimp only
      split
      · rw [v.outerEnd, State.hart_dropHead]
      · rw [v.outerEnd, State.hart_dropHead]
      · rw [v.accepted, State.hart_setTile, State.hart_dropHead]
      · rw [v.accepted, State.hart_setTile, State.hart_dropHead]
      · rw [State.hart_dropHead]

/-- R360: of a hart, a stop of the engine changes the pending work and the flags alone. -/
theorem Hart.Steady.engineStop : f ((s.engineStop c b).hart d e) = f (s.hart d e) := by
  unfold State.engineStop
  extract_lets s1 mine s2
  have run : f (s1.hart d e) = f (s.hart d e) := by
    show f (State.hart (match (s.core c).engine with
      | op :: _ => if op.bank = b && op.taken then s.engineEnd c true true else s
      | [] => s) d e) = _
    split
    · split
      · exact v.engineEnd ..
      · rfl
    · rfl
  have drained (l : List EngOp) (t : State) : (l.foldl (fun t e => t.closeDrain c e) t).hart d e = t.hart d e := by
    induction l generalizing t with
    | nil => rfl
    | cons x l ih => rw [List.foldl_cons, ih, State.hart_closeDrain]
  rw [State.hart_setCore _ _ (by rfl), ← run]
  exact congrArg f (drained mine s1)

end

/-- A stopped hart stands where it stood, where no word behind its own has issued. -/
theorem State.hpc_workEnded {s : State} {c b : Nat} (alone : (s.hart c b).young = []) :
    ((s.workEnded c b).hart c b).hpc = (s.hart c b).hpc := by
  have young : (((s.noFirst (.hart c b)).engineStop c b).hart c b).young = [] := by
    rw [Hart.Steady.engineStop (f := Hart.young) ⟨fun _ _ => rfl, fun _ _ => rfl⟩, State.hart_noFirst, alone]
  unfold State.workEnded
  rw [State.keepYoung, young]
  show (((s.noFirst (.hart c b)).engineStop c b).hart c b).hpc = _
  rw [Hart.Steady.engineStop (f := Hart.hpc) ⟨fun _ _ => rfl, fun _ _ => rfl⟩, State.hart_noFirst]

theorem State.hpc_hartFault {s : State} {c b : Nat} (alone : (s.hart c b).young = []) (cause detail egi : Nat) :
    ((s.hartFault c b cause detail egi).hart c b).hpc = (s.hart c b).hpc := by
  obtain ⟨_, hart⟩ := s.hart_hartFault c b cause detail egi
  obtain ⟨_, _, _, sus⟩ := s.hart_suspend c b cause detail egi
  have place := congrArg Hart.hpc sus
  rw [Hart.hpc_suspended, State.hpc_workEnded alone] at place
  have kept := congrArg Hart.hpc hart
  rw [Hart.hpc_withRecords] at kept
  exact kept.trans place

/-- A word that does nothing but raise a cause. -/
def raisesOp (i : Instr) (p : Bool) (cause detail : Nat) : Op :=
  { instr := i, p := p, act := fun _ s _ _ => .trap s cause detail 0 }

/-- R222: such a word suspends its hart where it stands. -/
theorem raisesOp_exec (i : Instr) {p : Bool} {s : State} {c b cause : Nat} (detail : Nat) (h : Ready s c b p)
    (hw : cause ≠ walkWait) :
    ∃ t, (raisesOp i p cause detail).exec s = .next t ∧ (t.hart c b).st = .faulted ∧
      (t.hart c b).hcause = BitVec.ofNat 8 cause ∧ (t.hart c b).htval = BitVec.ofNat 64 detail ∧
      (t.hart c b).hpc = (s.hart c b).hpc ∧ (t.hart c b).g = (s.hart c b).g ∧ t.mem = s.mem := by
  have faults := (s.marked c b ((raisesOp i p cause detail).note s c b)).hartFault_faults c b cause detail 0
  refine ⟨_, Op.exec_trap (raisesOp i p cause detail) h rfl rfl hw, faults.st, faults.cause, faults.detail, ?_, ?_,
    faults.mem⟩
  · rw [State.hpc_hartFault (by simpa [State.marked] using h.alone)]
    simp [State.marked]
  · rw [faults.g]
    simp [State.marked]

theorem softwareTraps : Claims.SoftwareTraps := fun o _ _ _ h =>
  ⟨raisesOp_exec (.trapi o) (cause := 0x08) _ h (by decide), raisesOp_exec (.brk o) (cause := 0xc1) _ h (by decide)⟩

/-- Settles O7: the hart of a fault as `hart_suspend` gives it, and the two words that raise a cause. -/
theorem hartFaults : Obligations.HartFaults := ⟨hartFaultTaken, softwareTraps⟩

end Sys2Proof.Machine
end

section
/-! # Gangs and harts under the control thread (O36, O37)

What a completion of the control thread leaves of gangs, harts and banks; GDEF as one pass over the harts of the core. -/

namespace Sys2Proof.Machine

/-! ### What a completion leaves -/

theorem State.gang_setCore (s : State) (c : Nat) {k : Core} (h : k.gangs = (s.core c).gangs) (d g : Nat) :
    (s.setCore c k).gang d g = s.gang d g := by
  by_cases n : d = c
  · subst n; simp [State.gang, Core.gang, h]
  · simp [State.gang, State.core_setCore_of_ne _ _ n]

@[simp] theorem State.gang_setCt (s : State) (c d g : Nat) (x : Ct) : (s.setCt c x).gang d g = s.gang d g :=
  State.gang_setCore s c (by rfl) d g

section
variable (s : State) (c r d b : Nat) (v : Word)

@[simp] theorem State.hart_ctDone : (s.ctDone c r v).hart d b = s.hart d b :=
  (State.hart_setCore _ _ (by rfl) d b).trans (State.hart_setCt ..)

@[simp] theorem State.bank_ctDone : (s.ctDone c r v).bank d b = s.bank d b :=
  (State.bank_setCore _ _ (by rfl) d b).trans (State.bank_setCt ..)

@[simp] theorem State.gang_ctDone : (s.ctDone c r v).gang d b = s.gang d b :=
  (State.gang_setCore _ _ (by rfl) d b).trans (State.gang_setCt ..)

end

@[simp] theorem State.gang_setGang (s : State) (c g : Nat) (x : Gang) : (s.setGang c g x).gang c g = x := by
  simp [State.gang, State.setGang]

theorem State.gang_setGang_of_ne (s : State) (c : Nat) {g q : Nat} (x : Gang) (n : q ≠ g) :
    (s.setGang c g x).gang c q = s.gang c q := by
  simp [State.gang, State.setGang, Core.gang, Core.setGang, Tab.get_put_of_ne _ _ _ n]

@[simp] theorem State.hart_setGang (s : State) (c g d b : Nat) (x : Gang) : (s.setGang c g x).hart d b = s.hart d b :=
  State.hart_setCore s c (by rfl) d b

@[simp] theorem State.bank_setGang (s : State) (c g d b : Nat) (x : Gang) : (s.setGang c g x).bank d b = s.bank d b :=
  State.bank_setCore s c (by rfl) d b

/-- The end of an Xhlm instruction that is done. -/
theorem XRes.end_done (s : State) (v : Word) (d : BitVec 5) : (XRes.done s v).end d = .next (s.ctDone s.actCore d.toNat v) := rfl

/-! ### A pass over harts -/

/-- Each hart of a list is changed by `m`, where `m` changes it. -/
def State.passHarts (c : Nat) (m : Nat → Hart → Hart) (l : List Nat) (s : State) : State :=
  l.foldl (fun t b => if m b (t.hart c b) = t.hart c b then t else t.setHart c b (m b (t.hart c b))) s

/-- One step of a pass, as an update whatever it changes. -/
theorem State.passHarts_step (s : State) (c b : Nat) (m : Nat → Hart → Hart) (e : Nat) :
    (if m b (s.hart c b) = s.hart c b then s else s.setHart c b (m b (s.hart c b))).hart c e =
      if e = b then m b (s.hart c b) else s.hart c e := by
  split
  case isTrue h => split <;> simp_all
  case isFalse h =>
    split
    · subst e; simp
    · rw [State.hart_setHart_of_ne _ _ (by tauto)]

theorem State.hart_passHarts (c : Nat) (m : Nat → Hart → Hart) {l : List Nat} (h : l.Nodup) (s : State) (b : Nat) :
    (s.passHarts c m l).hart c b = if b ∈ l then m b (s.hart c b) else s.hart c b := by
  induction l generalizing s with
  | nil => rfl
  | cons a l ih =>
    obtain ⟨fresh, rest⟩ := List.nodup_cons.1 h
    change State.hart (State.passHarts c m l _) c b = _
    rw [ih rest, State.passHarts_step]
    by_cases hb : b = a
    · subst b; simp [fresh]
    · simp [hb]

/-- What no update of a hart touches stays under a pass. -/
theorem State.keeps_passHarts {α : Type} {f : State → α} (keep : ∀ s c b h, f (State.setHart s c b h) = f s) (c : Nat)
    (m : Nat → Hart → Hart) (l : List Nat) (s : State) : f (s.passHarts c m l) = f s := by
  induction l generalizing s with
  | nil => rfl
  | cons a l ih =>
    refine (ih _).trans ?_
    dsimp only
    split
    · rfl
    · exact keep ..

/-! ### GDEF (R148) -/

/-- What GDEF makes of hart `b`, with the members it finds and those it sets. -/
def Hart.regrouped (old new b : Nat) (h : Hart) : Hart :=
  let h1 := if old.testBit b || new.testBit b then h.noLinks else h
  if old.testBit b && !new.testBit b then { h1 with st := .free, after := 0 }
  else if new.testBit b && !old.testBit b then { h1 with st := .member, after := 0 } else h1

/-- Where GDEF leaves a hart: FREE or MEMBER as it leaves or joins, its links empty in either case or both, and its scalar registers
as they were. -/
theorem Hart.regrouped_stands (old new b : Nat) (h : Hart) :
    (h.regrouped old new b).st = (if old.testBit b && !new.testBit b then .free
        else if new.testBit b && !old.testBit b then .member else h.st) ∧
      ((old.testBit b || new.testBit b) = true →
        (h.regrouped old new b).fromW = [] ∧ (h.regrouped old new b).fromE = [] ∧
        (h.regrouped old new b).fromCT = [] ∧ (h.regrouped old new b).toCT = []) ∧
      (h.regrouped old new b).g = h.g := by
  unfold Hart.regrouped
  cases old.testBit b <;> cases new.testBit b <;> exact ⟨rfl, by simp [Hart.noLinks], rfl⟩

/-- R148: GDEF of a gang at rest, whose new members are of no other gang. -/
theorem State.gdef_quiet {s : State} {c g new : Nat} (hold : Bool) (queue : (s.gang c g).queue = [])
    (run : (s.gang c g).run = none) (still : ∀ b ∈ (s.gang c g).banks, (s.hart c b).st ≠ .split)
    (own : ∀ b, b < 32 → new.testBit b = true → (s.core c).gangOf b = none ∨ (s.core c).gangOf b = some g) :
    s.gdef c g new hold = .done ((s.passHarts c (Hart.regrouped (s.gang c g).members.toNat new) (List.range 32)).setGang c g
      { s.gang c g with members := BitVec.ofNat 32 new, hold := hold }) (BitVec.ofNat 64 (s.gang c g).members.toNat) := by
  have ready : ¬((s.gang c g).queue ≠ [] ∨ (s.gang c g).run.isSome = true ∨
      ((s.gang c g).banks.any fun b => ((s.core c).hart b).st == .split) = true) := by
    simpa [queue, run, State.hart] using still
  unfold State.gdef
  refine (if_neg ready).trans ?_
  split
  case h_1 b taken =>
    have hb := List.mem_range.1 (List.mem_of_find?_eq_some taken)
    have other := List.find?_some taken
    rw [Bool.and_eq_true] at other
    obtain ⟨on, other⟩ := other
    rcases own b hb on with h | h <;> simp [h] at other
  case h_2 => rfl

/-- R148: GDEF as the control thread executes it. -/
theorem execGdef_quiet {o : XH} {s : State} (a : s.rs1 o < 2 ^ 32) (n : s.rs2 o < 2) :
    exec (.gdef o) s = (s.gdef s.actCore o.g.toNat (s.rs1 o) (s.rs2 o == 1)).end o.d :=
  congrArg (XRes.end · o.d) (if_neg (by omega))

/-! ### BCAST and BCASTN (R149) -/

/-- R149: fetched blocks join the queue of a gang that has members and room. -/
theorem State.bcast_queued {s s1 : State} {c g va n : Nat} {blks : List (List Nat × Nat)} (some_ : (s.gang c g).members ≠ 0)
    (fetched : State.fetchBlocks c n va s [] = .inr (s1, blks)) (room : (s1.gang c g).queue.length + n ≤ 8) :
    s.bcast c g va n = .done (s1.setGang c g { s1.gang c g with
      queue := (s1.gang c g).queue ++ blks.zipIdx.map fun e =>
        ({ words := e.1.1, va := e.1.2, seq := ((s1.gang c g).nextSeq.toNat + e.2) % 2 ^ 32 } : Queued)
      nextSeq := (s1.gang c g).nextSeq + BitVec.ofNat 32 n }) ((s1.gang c g).nextSeq.setWidth 64) := by
  unfold State.bcast
  rw [if_neg some_, fetched]
  exact if_neg (Nat.not_lt.2 room)

/-- One block that is fetched with a good header. -/
theorem State.fetchBlocks_one {s s1 : State} {c va v : Nat} (line : s.ctLine c va = .done s1 v)
    (good : headerGood ((blockWords v).headD 0) = true) :
    State.fetchBlocks c 1 va s [] = .inr (s1, [(blockWords v, va)]) := by
  simp [State.fetchBlocks, line, good, -List.headD_eq_head?_getD]

/-- The blocks of queue entries that are numbered in their order. -/
theorem map_queued (blks : List (List Nat × Nat)) (seq : Nat → Nat) :
    (blks.zipIdx.map fun e => ({ words := e.1.1, va := e.1.2, seq := seq e.2 } : Queued)).map (fun e => (e.words, e.va)) =
      blks := by
  rw [List.map_map]
  exact List.zipIdx_map_fst 0 blks

/-- R150: what GWAIT answers, and the acquire of one whose condition is met. -/
theorem XRes.end_gwait (s : State) (met : Bool) (faulted : Nat) (d : BitVec 5) :
    (XRes.done (if met then s.ctAcquire s.actCore else s) (BitVec.ofNat 64 (bnat met * 2 ^ 32 + faulted))).end d =
      .next ((if met then s.ctAcquire s.actCore else s).ctDone s.actCore d.toNat
        (BitVec.ofNat 64 ((if met then 2 ^ 32 else 0) + faulted))) := by
  cases met <;> rfl

/-- Settles O36: an instruction at a time, with GDEF's pass over the harts. -/
theorem gangInstructions : Obligations.GangInstructions := by
  unfold Obligations.GangInstructions
  intro o s s1 v blks c g x a n old faulted met
  refine ⟨fun ha hn queue run still own => ?_, fun ha some_ line good room => ?_, fun ha hn0 hn8 some_ fetched room => ?_,
    fun hn goes => ?_⟩
  · have run := State.gdef_quiet (n == 1) queue run still own
    have harts := State.hart_passHarts c (Hart.regrouped old a) (l := List.range 32) List.nodup_range s
    have gangs (q : Nat) := State.keeps_passHarts (f := fun u => u.gang c q) (fun _ _ _ _ => State.gang_setHart ..) c
      (Hart.regrouped old a) (List.range 32) s
    have banks (b : Nat) := State.keeps_passHarts (f := fun u => u.bank c b) (fun _ _ _ _ => State.bank_setHart ..) c
      (Hart.regrouped old a) (List.range 32) s
    have core := State.keeps_passHarts (f := State.actCore) (fun _ _ _ _ => rfl) c (Hart.regrouped old a) (List.range 32) s
    have mem := State.keeps_passHarts (f := State.mem) (fun _ _ _ _ => rfl) c (Hart.regrouped old a) (List.range 32) s
    change s.gdef c g a (n == 1) = .done ((s.passHarts c (Hart.regrouped old a) (List.range 32)).setGang c g _) _ at run
    generalize s.passHarts c (Hart.regrouped old a) (List.range 32) = t at run harts gangs banks core mem
    refine ⟨_, (execGdef_quiet ha hn).trans ((congrArg (XRes.end · o.d) run).trans (XRes.end_done ..)), fun hd => ?_, ?_,
      fun q hq => ?_, fun b hb => ?_, mem⟩
    · rw [State.setGang_actCore, core]
      exact State.xreg_ctDone (by simpa [← BitVec.toNat_inj] using hd) _
    · rw [State.gang_ctDone, State.gang_setGang]
    · rw [State.gang_ctDone, State.gang_setGang_of_ne _ _ _ hq, gangs]
    · obtain ⟨st, links, regs⟩ := Hart.regrouped_stands old a b (s.hart c b)
      rw [State.hart_ctDone, State.hart_setGang, harts, if_pos (List.mem_range.2 hb)]
      exact ⟨st, links, regs, by rw [State.bank_ctDone, State.bank_setGang, banks]⟩
  · have run := State.bcast_queued some_ (State.fetchBlocks_one line good) (n := 1) (by exact room)
    refine (congrArg (XRes.end · o.d) ((if_neg (not_not.2 ha)).trans run)).trans ?_
    rfl
  · have run := State.bcast_queued some_ fetched room
    refine ⟨_, (congrArg (XRes.end · o.d) ((if_neg (by omega)).trans run)).trans (XRes.end_done ..), ?_, ?_, rfl⟩
    · rw [State.gang_ctDone, State.gang_setGang, List.map_append]
      exact congrArg (_ ++ ·) (map_queued blks fun i => ((s1.gang c g).nextSeq.toNat + i) % 2 ^ 32)
    · rw [State.gang_ctDone, State.gang_setGang]
  · have going : ¬((!met && faulted == []) = true) := by
      rcases goes with h | h <;> simp [h]
    exact (congrArg (XRes.end · o.d) ((if_neg (by omega)).trans (if_neg going))).trans (XRes.end_gwait ..)

end Sys2Proof.Machine
end

section
/-! # The control thread and its harts (O37)

The selectors of GSET and HGET, and HKILL of a split hart at rest: nothing is to be stopped, so that the hart faults where it
stands. -/

namespace Sys2Proof.Machine

/-! ### Selectors (R151) -/

theorem selector_scalar {b n : Nat} (hb : b < 32) (hn : n < 16) : selector (b + n * 2 ^ 8) = some (0, n, b) := by
  have idx : fld (b + n * 2 ^ 8) 8 4 = n := by simp only [fld]; omega
  have bank : fld (b + n * 2 ^ 8) 0 5 = b := by simp only [fld]; omega
  have zero : fld (b + n * 2 ^ 8) 5 3 = 0 := by simp only [fld]; omega
  have space : fld (b + n * 2 ^ 8) 12 2 = 0 := by simp only [fld]; omega
  unfold selector
  rw [idx, bank, zero, space]
  exact if_neg (by omega)

theorem selector_special {b n : Nat} (hb : b < 32) (hn : n < 11) :
    selector (b + n * 2 ^ 8 + 2 ^ 12) = some (1, n, b) := by
  have idx : fld (b + n * 2 ^ 8 + 2 ^ 12) 8 4 = n := by simp only [fld]; omega
  have bank : fld (b + n * 2 ^ 8 + 2 ^ 12) 0 5 = b := by simp only [fld]; omega
  have zero : fld (b + n * 2 ^ 8 + 2 ^ 12) 5 3 = 0 := by simp only [fld]; omega
  have space : fld (b + n * 2 ^ 8 + 2 ^ 12) 12 2 = 1 := by simp only [fld]; omega
  unfold selector
  rw [idx, bank, zero, space]
  exact if_neg (by omega)

theorem selector_link {b : Nat} (hb : b < 32) : selector (b + 2 ^ 13) = some (2, 0, b) := by
  have idx : fld (b + 2 ^ 13) 8 4 = 0 := by simp only [fld]; omega
  have bank : fld (b + 2 ^ 13) 0 5 = b := by simp only [fld]; omega
  have zero : fld (b + 2 ^ 13) 5 3 = 0 := by simp only [fld]; omega
  have space : fld (b + 2 ^ 13) 12 2 = 2 := by simp only [fld]; omega
  unfold selector
  rw [idx, bank, zero, space]
  exact if_neg (by omega)

/-! ### GSET and HGET (R152) -/

section
variable {o : XH} {s : State} {n b : Nat}

theorem execGset_scalar (sel : selector (s.rs1 o) = some (0, n, b)) (may : s.mayAct s.actCore b = true) :
    exec (.gset o) s = .next ((s.setHart s.actCore b
      ((s.hart s.actCore b).setG n ((s.ct s.actCore).xreg o.b.toNat))).ctDone s.actCore o.d.toNat 0) := by
  show execGset o s = _
  simp [execGset, sel, may, XRes.end]

theorem execHget_scalar (sel : selector (s.rs1 o) = some (0, n, b)) (may : s.mayAct s.actCore b = true) :
    exec (.hget o) s = .next (s.ctDone s.actCore o.d.toNat ((s.hart s.actCore b).greg n)) := by
  show execHget o s = _
  simp [execHget, sel, may, XRes.end]

theorem execGset_special (sel : selector (s.rs1 o) = some (1, n, b)) (may : s.mayAct s.actCore b = true) {h1 : Hart}
    (takes : (s.hart s.actCore b).gsetSreg n ((s.ct s.actCore).xreg o.b.toNat) = some h1) :
    exec (.gset o) s = .next ((s.setHart s.actCore b h1).ctDone s.actCore o.d.toNat 0) := by
  show execGset o s = _
  simp [execGset, sel, may, takes, XRes.end]

theorem execHget_special (sel : selector (s.rs1 o) = some (1, n, b)) (may : s.mayAct s.actCore b = true) :
    exec (.hget o) s = .next (s.ctDone s.actCore o.d.toNat (s.sreg s.actCore b n)) := by
  show execHget o s = _
  simp [execHget, sel, may, XRes.end]

theorem execGset_link (sel : selector (s.rs1 o) = some (2, n, b)) (room : (s.hart s.actCore b).fromCT.length < 4) :
    exec (.gset o) s = .next ((s.setHart s.actCore b { s.hart s.actCore b with
      fromCT := (s.hart s.actCore b).fromCT ++ [(s.ct s.actCore).xreg o.b.toNat] }).ctDone s.actCore o.d.toNat 0) := by
  have full : ¬ Config.linkQueueSize ≤ (s.hart s.actCore b).fromCT.length := Nat.not_le.2 room
  show execGset o s = _
  simp [execGset, sel, full, XRes.end]

theorem execHget_link (sel : selector (s.rs1 o) = some (2, n, b)) {x : Word} {q : List Word}
    (queue : (s.hart s.actCore b).toCT = x :: q) :
    exec (.hget o) s =
      .next ((s.setHart s.actCore b { s.hart s.actCore b with toCT := q }).ctDone s.actCore o.d.toNat x) := by
  show execHget o s = _
  simp [execHget, sel, queue, XRes.end]

end

/-! ### HSTAT, HRESUME and HKILL -/

theorem execHstat_answers {o : XH} {s : State} {b : Nat} (ha : s.rs1 o = b) (hb : b < 32) :
    exec (.hstat o) s = .next (s.ctDone s.actCore o.d.toNat (s.hartStatus s.actCore b)) := by
  subst ha
  exact congrArg (XRes.end · o.d) (if_neg (Nat.not_le.2 hb))

theorem execHresume_faulted {o : XH} {s : State} {b : Nat} (ha : s.rs1 o = b) (hb : b < 32)
    (st : (s.hart s.actCore b).st = .faulted) :
    exec (.hresume o) s = .next ((s.setHart s.actCore b (s.hart s.actCore b).resume).ctDone s.actCore o.d.toNat 0) := by
  subst ha
  exact congrArg (XRes.end · o.d) ((if_neg (Nat.not_le.2 hb)).trans (if_neg (not_not.2 st)))

/-- R154, R222: a hart whose word was not done goes on at its place, and after the word for TRAPI and BRK. -/
theorem Hart.resume_stands {h : Hart} (left : h.after = 0) : h.resume.st = .split ∧ h.resume.hpc = h.hpc ∧
    h.resume.egi = h.egi ∧ h.resume.after = if h.hcause = 0x08 ∨ h.hcause = 0xc1 then 1 else 0 := by
  have small : (if h.hcause = 0x08 ∨ h.hcause = 0xc1 then 1 else 0) ≠ 2 := by split <;> decide
  unfold Hart.resume
  simp only [left, ne_eq, not_true_eq_false, if_false, if_neg small]
  exact ⟨trivial, trivial, trivial, trivial⟩

/-- R155: HKILL of harts none of which is midway through a word. -/
theorem execHkill_all {o : XH} {s : State} (ha : s.rs1 o < 2 ^ 32)
    (quick : ∀ x, x < 32 → (s.rs1 o).testBit x = true → (s.hart s.actCore x).midway = false) :
    exec (.hkill o) s = .next ((s.killHarts s.actCore ((List.range 32).filter fun x => (s.rs1 o).testBit x)).ctDone
      (s.killHarts s.actCore ((List.range 32).filter fun x => (s.rs1 o).testBit x)).actCore o.d.toNat 0) := by
  have named : ∀ x ∈ (List.range 32).filter fun x => (s.rs1 o).testBit x, (s.hart s.actCore x).midway = false := by
    intro x hx
    obtain ⟨hx, on⟩ := List.mem_filter.1 hx
    exact quick x (List.mem_range.1 hx) on
  have late : (((List.range 32).filter fun x => (s.rs1 o).testBit x).filter fun x => (s.hart s.actCore x).midway) = [] :=
    List.filter_eq_nil_iff.2 fun x hx => by simp [named x hx]
  have quick : (((List.range 32).filter fun x => (s.rs1 o).testBit x).filter fun x => !(s.hart s.actCore x).midway) =
      (List.range 32).filter fun x => (s.rs1 o).testBit x :=
    List.filter_eq_self.2 fun x hx => by simp [named x hx]
  refine (congrArg (XRes.end · o.d) ((if_neg (Nat.not_le.2 ha)).trans ?_)).trans (XRes.end_done ..)
  dsimp only
  rw [late, quick]
  exact if_neg (not_not.2 rfl)

/-- R201: a hart with nothing in flight stands at its boundary: its core is as it was. -/
theorem State.stopHart_rest {s : State} {c b : Nat} (idle : (s.hart c b).pend = none) (alone : (s.hart c b).young = [])
    (engine : (s.core c).engine = []) :
    s.stopHart c b = (s.setCore c (s.core c), some (s.hart c b).egi.toNat) := by
  have hart : (s.setCore c (s.core c)).hart c b = s.hart c b := State.hart_setCore s c rfl c b
  have kept : (s.core c).engine.filter (fun e => !(e.bank == b && !e.taken)) = (s.core c).engine := by simp [engine]
  have stop : (s.engineStop c b).keepYoung c b = s.setCore c (s.core c) := by
    rw [State.engineStop_free (by simp [engine]), kept]
    show (s.setCore c (s.core c)).keepYoung c b = _
    rw [State.keepYoung, hart, alone]
    rfl
  unfold State.stopHart State.stopWork
  rw [State.sergeTry_idle idle, Option.getD_none, stop]
  dsimp only
  rw [hart, idle]

/-- R154: what is left of the block of a stopped hart is kept with it. -/
def State.leaveAfter (s : State) (c b left : Nat) : State := s.setHart c b { s.hart c b with after := left }

theorem State.leaveAfter_stands (s : State) (c b left : Nat) : ((s.leaveAfter c b left).hart c b).st = (s.hart c b).st ∧
    ((s.leaveAfter c b left).hart c b).hcause = (s.hart c b).hcause ∧ (s.leaveAfter c b left).bank c b = s.bank c b ∧
    ((s.leaveAfter c b left).core c).evq = (s.core c).evq := by
  unfold State.leaveAfter
  rw [State.hart_setHart, State.bank_setHart, State.core_setHart]
  exact ⟨rfl, rfl, rfl, rfl⟩

/-- R155: a split hart that stands at its boundary is killed where it stands. -/
theorem State.killed_split {s : State} {c b : Nat} (st : (s.hart c b).st = .split) (egi : Nat) : ∃ left n, s.killed c b egi =
    ((s.setHart c b { s.hart c b with egi := BitVec.ofNat 5 egi }).hartFault c b 0x86 0 n).leaveAfter c b left := by
  have place : s.placeLeft c b = ((s.hart c b).hpc, (s.hart c b).after) := by
    have out : s.inBlock c b = false := by unfold State.inBlock; rw [st]
    simp [State.placeLeft, out, st]
  unfold State.killed
  rw [place]
  dsimp only
  rw [if_pos rfl]
  exact ⟨_, _, rfl⟩

/-- R155: HKILL of a split hart with nothing in flight: its cause is 0x86, with no record, and its bank stays. -/
theorem State.killHart_split {s : State} {c b : Nat} (st : (s.hart c b).st = .split) (idle : (s.hart c b).pend = none)
    (alone : (s.hart c b).young = []) (engine : (s.core c).engine = []) :
    ((s.killHart c b).hart c b).st = .faulted ∧ ((s.killHart c b).hart c b).hcause = 0x86 ∧
      (s.killHart c b).bank c b = s.bank c b ∧ ((s.killHart c b).core c).evq = (s.core c).evq := by
  have hart : (s.setCore c (s.core c)).hart c b = s.hart c b := State.hart_setCore s c rfl c b
  have kill : s.killHart c b = (s.setCore c (s.core c)).killed c b (s.hart c b).egi.toNat := by
    unfold State.killHart
    rw [st, State.stopHart_rest idle alone engine]
  have bank : (s.setCore c (s.core c)).bank c b = s.bank c b := State.bank_setCore s c rfl c b
  have core : (s.setCore c (s.core c)).core c = s.core c := State.core_setCore ..
  rw [kill]
  generalize s.setCore c (s.core c) = s1 at hart bank core
  obtain ⟨left, n, killed⟩ := State.killed_split (by rw [hart]; exact st) (s.hart c b).egi.toNat (s := s1)
  obtain ⟨faulted, cause, -, -, -, -, -, -, -, -, -, -, evq, -, banks, -⟩ := hartFaultTaken
    (s1.setHart c b { s1.hart c b with egi := BitVec.ofNat 5 (s.hart c b).egi.toNat }) c b 0x86 0 n
    (by rw [State.hart_setHart, hart]; exact alone)
    (by rw [State.core_setHart, core]; exact fun x hx => absurd (engine ▸ hx : x ∈ []) List.not_mem_nil)
  rw [State.core_setHart, core] at evq
  rw [killed]
  generalize State.hartFault _ c b 0x86 0 n = t at faulted cause evq banks ⊢
  obtain ⟨st, hcause, bk, eq⟩ := t.leaveAfter_stands c b left
  rw [st, hcause, bk, eq, banks, State.bank_setHart, bank]
  exact ⟨faulted, cause, rfl, evq rfl⟩

/-- Settles O37: an instruction at a time, by the space that its selector names. -/
theorem hartInstructions : Obligations.HartInstructions := by
  unfold Obligations.HartInstructions
  intro o s n b h1 hb hn c h v a
  refine ⟨fun sel may => ?_, fun sel hn may => ?_, fun sel room => ?_, fun x q sel queue => ?_,
    fun ha => execHstat_answers ha hb, fun ha st => execHresume_faulted ha hb st, Hart.resume_stands,
    fun ha quick => ⟨_, execHkill_all ha quick, rfl⟩, State.killHart_split⟩
  · have sel : selector (s.rs1 o) = some (0, n, b) := (congrArg selector sel).trans (selector_scalar hb hn)
    exact ⟨execGset_scalar sel may, execHget_scalar sel may⟩
  · have sel : selector (s.rs1 o) = some (1, n, b) := (congrArg selector sel).trans (selector_special hb hn)
    exact ⟨execGset_special sel may, execHget_special sel may⟩
  · exact execGset_link ((congrArg selector sel).trans (selector_link hb)) room
  · exact execHget_link ((congrArg selector sel).trans (selector_link hb)) queue

end Sys2Proof.Machine
end

section
/-! # Event records and counters under the control thread (O38)

A record that is stored leaves its queue, and one that waits enters it; a counter whose copies agree is read as it is, and a thread
with no Dirty word has nothing to release before it changes one. -/

namespace Sys2Proof.Machine

/-! ### Records (R144, R156) -/

/-- R156: the oldest record is stored, and taken from its queue. -/
theorem State.takeEvent_stored {s s1 : State} {c va n : Nat} {r : EvRec} {rest : List EvRec} (i : Instr) (wait : Bool)
    (aligned : va % 64 = 0) (queue : (s.core c).evq = r :: rest) (stored : s.storeRecord c va r.bits = .done s1 n) :
    s.takeEvent c va i wait =
      .done ((State.drainEvents 64 c (s1.setCore c { s1.core c with evq := rest })).ctAcquire c) (r.cause.setWidth 64) := by
  unfold State.takeEvent
  rw [if_neg (not_not.2 aligned), queue]
  dsimp only
  rw [stored]
  rfl

/-- R144: of the records that wait, a hart's oldest enters a queue that has room for one. -/
theorem State.drainEvents_one {s : State} {d b : Nat} {e : EvRec} (room : (s.core d).evq.length = 63)
    (runs : (s.core d).st = .running) (oldest : s.oldestWaiting d = some (e, some b)) :
    ((State.drainEvents 64 d s).core d).evq = (s.core d).evq ++ [e] ∧
      ((State.drainEvents 64 d s).hart d b).evWait = (s.hart d b).evWait.drop 1 := by
  have open_ : ¬(Config.eventQueueSize ≤ (s.core d).evq.length ∨ (s.core d).st ≠ .running) := by
    simp [Config.eventQueueSize, room, runs]
  let s1 := s.setCore d { s.core d with evq := (s.core d).evq ++ [e] }
  let s2 := s1.setHart d b { s1.hart d b with evWait := (s1.hart d b).evWait.drop 1 }
  have queue : (s2.core d).evq = (s.core d).evq ++ [e] := by
    rw [State.core_setHart, State.core_setCore]
    rfl
  have full : Config.eventQueueSize ≤ (s2.core d).evq.length ∨ (s2.core d).st ≠ .running := by
    rw [queue, List.length_append, room]
    exact .inl (le_refl 64)
  have run : State.drainEvents 64 d s = s2 := by
    rw [State.drainEvents, if_neg open_, oldest]
    show State.drainEvents 63 d s2 = s2
    rw [State.drainEvents, if_pos full]
  have hart : s1.hart d b = s.hart d b := State.hart_setCore s d (by rfl) d b
  rw [run]
  refine ⟨queue, ?_⟩
  rw [State.hart_setHart, hart]

theorem eventInstructions : Claims.EventInstructions := by
  intro o s s1 r rest n c va
  refine ⟨fun aligned queue stored => ⟨?_, ?_⟩, fun aligned empty => ?_, fun d e b room runs oldest => ?_⟩
  · exact (congrArg (XRes.end · o.d) (State.takeEvent_stored _ true aligned queue stored)).trans (XRes.end_done ..)
  · exact (congrArg (XRes.end · o.d) (State.takeEvent_stored _ false aligned queue stored)).trans (XRes.end_done ..)
  · have none : s.takeEvent c va (.evpoll o) false = .done s 0 := by
      unfold State.takeEvent
      rw [if_neg (not_not.2 aligned), empty]
      rfl
    exact congrArg (XRes.end · o.d) none
  · obtain ⟨queue, waits⟩ := State.drainEvents_one room runs oldest
    exact ⟨_, rfl, queue, waits, State.drainEvents_mem ..⟩

/-! ### Releases of a thread with no Dirty word (R381) -/

/-- A word that is not Dirty is not written out. -/
theorem State.writeOut_still {s : State} {c : Nat} (still : ∀ e ∈ (s.ct c).dcache, e.2.st ≠ .dirty) (key : Nat) :
    s.writeOut c key = .done s 0 none := by
  unfold State.writeOut
  split
  case h_1 x found => rw [if_pos (still (key, x) (Tab.mem_of_find found))]
  case h_2 => rfl

theorem State.ctRelease_still {s : State} {c : Nat} (still : ∀ e ∈ (s.ct c).dcache, e.2.st ≠ .dirty) :
    s.ctRelease c = .done s 0 none := by
  unfold State.ctRelease
  induction (s.ct c).dcache.keys with
  | nil => rfl
  | cons k ks ih => rw [State.writeOutAll, State.writeOut_still still]; exact ih

/-! ### Counters -/

@[simp] theorem State.ctr_setCtr (s : State) (hub : Bool) (c n : Nat) (x : Ctr) : (s.setCtr hub c n x).ctr hub c n = x := by
  cases hub <;> simp [State.ctr, State.setCtr]

@[simp] theorem State.actCore_setCtr (s : State) (hub : Bool) (c n : Nat) (x : Ctr) :
    (s.setCtr hub c n x).actCore = s.actCore := by
  cases hub <;> rfl

/-- A core and the hub keep their counters under an update of a control thread. -/
theorem State.ctr_setCt (s : State) (hub : Bool) (c n : Nat) (x : Ct) : (s.setCt c x).ctr hub c n = s.ctr hub c n := by
  cases hub
  · simp [State.ctr]
  · rfl

@[simp] theorem State.ctr_ctAcquire (s : State) (hub : Bool) (c n : Nat) : (s.ctAcquire c).ctr hub c n = s.ctr hub c n :=
  State.ctr_setCt ..

@[simp] theorem State.actCore_ctAcquire (s : State) (c : Nat) : (s.ctAcquire c).actCore = s.actCore := rfl

@[simp] theorem State.ctr_ctDone (s : State) (hub : Bool) (c n r : Nat) (v : Word) :
    (s.ctDone c r v).ctr hub c n = s.ctr hub c n := by
  cases hub
  · simp [State.ctr, State.ctDone]
  · rfl

/-- R161: the counter and the operand that a CTBAR instruction names. -/
theorem ctbarArgs_named {hub : Bool} {n : Nat} (small : if hub then n < 256 else n < 64) (y : BitVec 32) :
    ctbarArgs (n + if hub then 256 else 0) y.toNat = some (hub, n, y) := by
  have hy := y.isLt
  have space : bit (n + if hub then 256 else 0) 8 = hub := by
    cases hub <;> simp only [bit, if_true, if_false, Bool.false_eq_true] at small ⊢ <;> simp <;> omega
  have number : fld (n + if hub then 256 else 0) 0 8 = n := by
    cases hub <;> simp only [fld, if_true, if_false, Bool.false_eq_true] at small ⊢ <;> omega
  unfold ctbarArgs
  dsimp only
  rw [space, number, BitVec.ofNat_toNat, BitVec.setWidth_eq]
  refine if_neg ?_
  cases hub <;> simp at small ⊢ <;> omega

/-- What is known of a counter whose three copies agree. -/
structure State.Agrees (s : State) (hub : Bool) (c n : Nat) (v : BitVec 32) : Prop where
  good : (s.ctr hub c n).failed = false
  c0 : (s.ctr hub c n).c0 = v
  c1 : (s.ctr hub c n).c1 = v
  c2 : (s.ctr hub c n).c2 = v

theorem State.Agrees.read {s : State} {hub : Bool} {c n : Nat} {v : BitVec 32} (h : s.Agrees hub c n v) :
    s.readCtr hub c n = (s, some v) := State.readCtr_agreed h.good h.c0 h.c1 h.c2

/-- R161: a CTBAR instruction on a counter that can be read. -/
theorem State.ctbar_agrees {s : State} {o : XH} {hub : Bool} {n : Nat} {y v : BitVec 32}
    (args : ctbarArgs (s.rs1 o) (s.rs2 o) = some (hub, n, y)) (agrees : s.Agrees hub s.actCore n v) (i : Instr)
    (f : State → Bool → Nat → BitVec 32 → BitVec 32 → XRes) : s.ctbar i o f = f s hub n v y := by
  unfold State.ctbar
  rw [args]
  dsimp only
  rw [agrees.read]

/-- A change of a counter by a thread with nothing to release. -/
theorem State.ctbarChange_still {s : State} (still : ∀ e ∈ (s.ct s.actCore).dcache, e.2.st ≠ .dirty) (hub : Bool) (n : Nat)
    (x new : BitVec 32) : s.ctbarChange hub n x new = .done (s.writeCtr hub s.actCore n new) (x.setWidth 64) := by
  unfold State.ctbarChange
  rw [State.ctRelease_still still]

@[simp] theorem State.actCore_writeCtr (s : State) (hub : Bool) (c n : Nat) (v : BitVec 32) :
    (s.writeCtr hub c n v).actCore = s.actCore := State.actCore_setCtr ..

/-- R392: SEMWAIT on a counter that suffices, with nobody waiting before it. -/
theorem State.semGrant_alone {s : State} {hub : Bool} {c n : Nat} {v : BitVec 32} (agrees : s.Agrees hub c n v) {w : CtrWait}
    (alone : (s.ctr hub c n).sems = [w]) (enough : w.amount ≤ v.toNat) :
    s.semGrant hub c n = some ((s.setCtr hub c n { s.ctr hub c n with sems := [] }).writeCtr hub c n
      (v - BitVec.ofNat 32 w.amount), w, v) := by
  unfold State.semGrant
  rw [agrees.read]
  dsimp only
  rw [alone]
  exact if_pos enough

/-- Copies that agree still do where a waiter has joined the counter's queue. -/
theorem State.Agrees.queued {s : State} {hub : Bool} {c n : Nat} {v : BitVec 32} (h : s.Agrees hub c n v) (l : List CtrWait) :
    (s.setCtr hub c n { s.ctr hub c n with sems := l }).Agrees hub c n v := by
  constructor <;> rw [State.ctr_setCtr]
  · exact h.good
  · exact h.c0
  · exact h.c1
  · exact h.c2

/-- R161, R392: SEMWAIT of a thread alone at a counter that suffices. -/
theorem execCtbarSemwait_granted {o : XH} {s : State} {hub : Bool} {n : Nat} {y v : BitVec 32}
    (args : ctbarArgs (s.rs1 o) (s.rs2 o) = some (hub, n, y)) (agrees : s.Agrees hub s.actCore n v)
    (enough : y.toNat ≤ v.toNat) (alone : (s.ctr hub s.actCore n).sems = []) : ∃ t : State,
      exec (.ctbarSemwait o) s = .next ((t.ctAcquire s.actCore).ctDone s.actCore o.d.toNat (v.setWidth 64)) ∧
      t.ctr hub s.actCore n =
        { s.ctr hub s.actCore n with c0 := v - y, c1 := v - y, c2 := v - y, failed := false, sems := [] } ∧
      t.mem = s.mem := by
  let w : CtrWait := ⟨s.actCore, none, y.toNat, o.d.toNat⟩
  let s1 := s.setCtr hub s.actCore n { s.ctr hub s.actCore n with sems := [w] }
  have queue : (s1.ctr hub s.actCore n).sems = [w] := by rw [State.ctr_setCtr]
  have grant := State.semGrant_alone (agrees.queued [w]) queue enough
  have joins : (if ctWaits s.actCore (s.ctr hub s.actCore n).sems then s else s.setCtr hub s.actCore n
      { s.ctr hub s.actCore n with sems := (s.ctr hub s.actCore n).sems ++ [w] }) = s1 := by
    rw [alone]; rfl
  refine ⟨(s1.setCtr hub s.actCore n { s1.ctr hub s.actCore n with sems := [] }).writeCtr hub s.actCore n
    (v - BitVec.ofNat 32 y.toNat), ?_, ?_, ?_⟩
  · show execCtbarSemwait o s = _
    unfold execCtbarSemwait
    rw [State.ctbar_agrees args agrees]
    dsimp only
    rw [joins, queue]
    dsimp only
    rw [if_pos ⟨rfl, rfl⟩, grant]
    dsimp only
    rw [XRes.end_done, State.actCore_ctAcquire, State.actCore_writeCtr, State.actCore_setCtr, State.actCore_setCtr]
  · rw [State.writeCtr, State.ctr_setCtr, State.ctr_setCtr, State.ctr_setCtr, BitVec.ofNat_toNat, BitVec.setWidth_eq]
  · simp [s1]

theorem controlThreadCounters : Claims.ControlThreadCounters := by
  intro o s hub n y v c x hx small hy good h0 h1 h2 still
  have args : ctbarArgs (s.rs1 o) (s.rs2 o) = some (hub, n, y) := by rw [hx, hy]; exact ctbarArgs_named small y
  have agrees : s.Agrees hub s.actCore n v := ⟨good, h0, h1, h2⟩
  have change (new : BitVec 32) (d : BitVec 5) :
      (s.ctbarChange hub n v new).end d = .next ((s.writeCtr hub c n new).ctDone c d.toNat (v.setWidth 64)) := by
    rw [State.ctbarChange_still still, XRes.end_done, State.actCore_writeCtr]
  refine ⟨?_, ?_, ?_, fun met => ?_, fun enough alone => ?_⟩
  · exact (congrArg (XRes.end · o.d) (State.ctbar_agrees args agrees ..)).trans (change ..)
  · exact (congrArg (XRes.end · o.d) (State.ctbar_agrees args agrees ..)).trans (change ..)
  · show execCtbarSet o s = _
    unfold execCtbarSet
    rw [args]
    dsimp only
    rw [agrees.read]
    exact change ..
  · exact (congrArg (XRes.end · o.d) ((State.ctbar_agrees args agrees ..).trans (if_pos met))).trans (XRes.end_done ..)
  · obtain ⟨t, run, counter, mem⟩ := execCtbarSemwait_granted args agrees enough alone
    refine ⟨_, run, ?_, ?_, ?_, ?_, fun hd => State.xreg_ctDone (by simpa [← BitVec.toNat_inj] using hd) _, mem⟩
    all_goals rw [State.ctr_ctDone, State.ctr_ctAcquire, counter]

/-- Settles O38: the claims on event records and on counters. -/
theorem eventAndCounterInstructions : Obligations.EventAndCounterInstructions :=
  ⟨eventInstructions, controlThreadCounters⟩

end Sys2Proof.Machine
end

section
/-! # Fences and system instructions of the control thread (O41)

A thread with no Dirty word releases at once; a CSR instruction is illegal, reads, or writes, by `csrAllowed` and its operand. -/

namespace Sys2Proof.Machine

/-! ### Fences (R125) -/

theorem execCtFence_still {s : State} (f : CtF) (still : ∀ e ∈ (s.ct s.actCore).dcache, e.2.st ≠ .dirty)
    (unposted : (s.ct s.actCore).posted = false) :
    exec (.ctFence f) s = .next ((s.ctAcquire s.actCore).ctDone s.actCore 0 0) := by
  show execCtFence f s = _
  unfold execCtFence
  dsimp only
  rw [State.ctRelease_still still]
  dsimp only
  rw [State.hostSettled_of_not_posted s _ (.ct s.actCore) _ fun _ => unposted]

theorem execCtFenceI_still {s : State} (still : ∀ e ∈ (s.ct s.actCore).dcache, e.2.st ≠ .dirty) :
    exec .ctFenceI s = .next ((s.setCt s.actCore { s.ct s.actCore with icache := [] }).ctDone s.actCore 0 0) := by
  show execCtFenceI s = _
  unfold execCtFenceI
  dsimp only
  rw [State.ctRelease_still still]

/-! ### ECALL and MRET (R123, R401) -/

theorem State.mach_iff (s : State) (c : Nat) : s.mach c = true ↔ (s.ct c).mode = .machine := by
  simp [State.mach]

theorem execCtEcall_traps (s : State) :
    exec .ctEcall s = .next (s.ctTrap s.actCore (if (s.ct s.actCore).mode = .machine then 11 else 8) 0 (s.ct s.actCore).pc) := by
  show execCtEcall s = _
  unfold execCtEcall
  simp only [State.mach_iff]

/-- R401: MRET in M mode; nothing but the control thread and its count of instructions changes. -/
theorem execCtMret_returns {s : State} (mode : (s.ct s.actCore).mode = .machine) : ∃ u, exec .ctMret s = .next u ∧
    u.ct s.actCore = { s.ct s.actCore with
      mode := (s.ct s.actCore).mpp, mie := (s.ct s.actCore).mpie, mpie := true, mpp := .user, pc := (s.ct s.actCore).mepc
      mprv := (s.ct s.actCore).mprv && (s.ct s.actCore).mpp == .machine } ∧
    (∀ b, u.hart s.actCore b = s.hart s.actCore b) ∧ u.mem = s.mem := by
  refine ⟨_, congrArg Host.Outcome.next (if_pos ((s.mach_iff _).2 mode)), ?_, fun b => ?_, rfl⟩
  · rw [State.ct, State.core_setCore]
    exact State.ct_setCt ..
  · exact (State.hart_setCore _ _ (by rfl) ..).trans (State.hart_setCt ..)

theorem execCtMret_illegal {s : State} (mode : (s.ct s.actCore).mode = .user) :
    exec .ctMret s = .next (s.ctTrap s.actCore 2 (Instr.ctMret).word (s.ct s.actCore).pc) :=
  congrArg Host.Outcome.next (if_neg (by rw [State.mach_iff, mode]; decide))

/-! ### CSR instructions (R123, R127) -/

/-- The operand of a CSR instruction. -/
def State.csrArg (s : State) (c : Nat) (o : CtC) : Nat :=
  if 4 ≤ o.f3.toNat then o.a.toNat else ((s.ct c).xreg o.a.toNat).toNat

/-- What a CSR instruction writes over `old`. -/
def csrNew (kind arg old : Nat) : Nat :=
  if kind = 1 then arg else if kind = 2 then old % 2 ^ 64 ||| arg else old % 2 ^ 64 &&& ((2 ^ 64 - 1) ^^^ arg)

/-- A CSR instruction writes its register. -/
def csrWrites (o : CtC) : Bool := o.f3.toNat % 4 == 1 || o.a != 0

theorem csrWrites_iff (o : CtC) : csrWrites o = true ↔ o.f3.toNat % 4 = 1 ∨ o.a ≠ 0 := by simp [csrWrites]

theorem csrAllowed_iff (n : Nat) (machine writes : Bool) :
    csrAllowed n machine writes = true ↔ (machine = true ∨ fld n 8 2 = 0) ∧ ¬(writes = true ∧ fld n 10 2 = 3) := by
  cases writes <;> simp [csrAllowed]

/-- R123, R127: a CSR instruction that its mode allows, by whether it writes. -/
theorem State.csrAccess_allowed {s : State} {c old : Nat} {o : CtC} (found : s.csr c o.csr.toNat = some old)
    (allowed : csrAllowed o.csr.toNat (s.mach c) (csrWrites o) = true) :
    s.csrAccess c o = if csrWrites o then
      ((s.setCsr c o.csr.toNat (csrNew (o.f3.toNat % 4) (s.csrArg c o) old)).ctDone c o.d.toNat (BitVec.ofNat 64 old)).recount
        c o.csr.toNat (csrNew (o.f3.toNat % 4) (s.csrArg c o) old)
      else s.ctDone c o.d.toNat (BitVec.ofNat 64 old) := by
  have new : (match o.f3.toNat % 4 with
      | 1 => s.csrArg c o
      | 2 => old % 2 ^ 64 ||| s.csrArg c o
      | _ => old % 2 ^ 64 &&& (s.csrArg c o ^^^ (2 ^ 64 - 1))) = csrNew (o.f3.toNat % 4) (s.csrArg c o) old := by
    unfold csrNew
    split
    case h_1 h => rw [if_pos h]
    case h_2 h => rw [if_neg (by omega), if_pos h]
    case h_3 h1 h2 => rw [if_neg h1, if_neg h2, Nat.xor_comm]
  rw [← new]
  unfold State.csrAccess
  dsimp only
  rw [found]
  exact if_neg (by rw [Bool.not_eq_true', Bool.not_eq_false]; exact allowed)

/-- A CSR that is not there, or that the mode does not allow, is an illegal instruction. -/
theorem State.csrAccess_illegal {s : State} {c : Nat} {o : CtC}
    (refused : s.csr c o.csr.toNat = none ∨ csrAllowed o.csr.toNat (s.mach c) (csrWrites o) = false) :
    s.csrAccess c o = s.ctTrap c 2 (Instr.ctCsrAccess o).word (s.ct c).pc := by
  unfold State.csrAccess
  dsimp only
  cases found : s.csr c o.csr.toNat with
  | none => rfl
  | some old =>
    have refused := refused.resolve_left (by rw [found]; simp)
    exact if_pos (by rw [Bool.not_eq_true']; exact refused)

/-- A write of minstret stands in place of the instruction's own count. -/
theorem State.recount_minstret (s : State) (c r v : Nat) (x : Word) :
    let u := ((s.setCsr c 0xb02 v).ctDone c r x).recount c 0xb02 v
    (u.core c).instret = v ∧ (r ≠ 0 → (u.ct c).xreg r = x) ∧ (u.ct c).pc = (s.ct c).pc + BitVec.ofNat 64 s.actLen := by
  have set_ : s.setCsr c 0xb02 v = s.setCore c { s.core c with instret := v } := rfl
  have ct : (s.setCore c { s.core c with instret := v }).ct c = s.ct c := by rw [State.ct, State.core_setCore]; rfl
  rw [set_]
  simp only [State.recount, if_true, State.core_setCore, State.ct]
  change _ ∧ (r ≠ 0 → ((State.ctDone _ c r x).ct c).xreg r = x) ∧ ((State.ctDone _ c r x).ct c).pc = _
  refine ⟨trivial, fun hr => State.xreg_ctDone hr x, ?_⟩
  obtain ⟨-, -, -, pc, -⟩ := controlThreadGoesOn (s.setCore c { s.core c with instret := v }) c r x
  exact pc.trans (by rw [ct]; rfl)

/-- Settles O41: an instruction at a time. -/
theorem controlThreadSystem : Obligations.ControlThreadSystem := by
  unfold Obligations.ControlThreadSystem
  intro f o s c t n arg writes allowed new
  have allow : csrAllowed n (s.mach c) (csrWrites o) = true ↔ allowed := by
    rw [csrAllowed_iff, State.mach_iff, csrWrites_iff]
  refine ⟨fun still => ⟨execCtFence_still f still, execCtFenceI_still still⟩, rfl, execCtEcall_traps s, rfl,
    execCtMret_returns, execCtMret_illegal, fun old found ok kind => ?_, fun refused => ?_⟩
  · have run := (State.csrAccess_allowed found (allow.2 ok))
    refine ⟨fun still => ?_, fun acts other => ?_, fun acts same => ?_⟩
    · rw [if_neg (by rw [csrWrites_iff]; exact still)] at run
      exact congrArg Host.Outcome.next run
    · rw [if_pos ((csrWrites_iff o).2 acts)] at run
      exact congrArg Host.Outcome.next (run.trans (if_neg other))
    · rw [if_pos ((csrWrites_iff o).2 acts)] at run
      obtain ⟨count, regs, pc⟩ := s.recount_minstret c o.d.toNat (new old) (BitVec.ofNat 64 old)
      rw [← same] at count regs pc
      exact ⟨_, congrArg Host.Outcome.next run, count, fun hd => regs (by simpa [← BitVec.toNat_inj] using hd), pc⟩
  · refine congrArg Host.Outcome.next (State.csrAccess_illegal (refused.imp_right fun no => ?_))
    rw [← Bool.not_eq_true, allow]
    exact no

end Sys2Proof.Machine
end

section
/-! # The start of a gang's block (O54)

A gang's start aligns its participants with its first word, and what stands behind a participant's present word then takes its place
(R463). Nothing in the statement keeps a member from holding an operation there that has ended: it retires at that point, and may
write a scalar register. -/

namespace Sys2Proof.Machine

/-- An operation behind a hart's present word that has ended, and writes `g1` as it retires (R196, R463). -/
def Young.endedWithGd : Young := { op := some { word := 0, fin := { gd := some (1, 5) } } }

/-- A gang of one member, behind whose present word such an operation stands, with a block of one word in its queue. -/
def State.memberWithYoung : State :=
  (({} : State).setHart 0 0 { st := .member, young := [Young.endedWithGd] }).setGang 0 0
    { members := 1, queue := [⟨[0x400000], 0, 0⟩] }

/-- Refutes O54: the start of the block writes `g1` of a participant behind whose present word an operation has ended. -/
theorem not_blockEvents : ¬ Obligations.BlockEvents := by
  intro h
  obtain ⟨start, -⟩ := h State.memberWithYoung 0 0 ⟨[0x400000], 0, 0⟩ [] default
  obtain ⟨t, run, -, harts, -⟩ := start (by decide +kernel) rfl (by decide +kernel)
  obtain rfl : State.memberWithYoung.blockStart 0 0 = t := Host.Outcome.next.inj run
  obtain ⟨-, -, regs⟩ := harts 0 (by decide +kernel)
  exact absurd regs (by decide +kernel)

end Sys2Proof.Machine
end

section
/-! # Accesses of ordinary lines

What a read, a store or an atomic operation of any agent on an ordinary line (`Plain`) leaves: every core but for the words of
its control threads' data caches and their reservations, and everything that the conditions of the next access read. -/

namespace Sys2Proof.Machine

/-- What an access of an ordinary line leaves as it was. Control threads can lose words of their caches and reservations (R381). -/
structure AccessKeeps (s t : State) : Prop where
  core : ∀ d, ∃ keep resv saved, t.core d = { s.core d with
    ct := { s.ct d with dcache := (s.ct d).dcache.filter keep, resv := resv }, saved := saved }
  fen : ∃ ended waited, t.fen = { s.fen with stepEnded := ended, waited := waited }
  flash : t.flash = s.flash
  power : t.power = s.power
  invals : t.invals = s.invals
  turn : t.actCore = s.actCore ∧ t.actLen = s.actLen
  now : t.now = s.now
  stepwise : t.stepwise = s.stepwise
  side : ∀ l, (s.sideOf l).cond = none → (s.sideOf l).state = 0 → (t.sideOf l).cond = none ∧ (t.sideOf l).state = 0

section
variable {s t u : State} {pa : Nat}

theorem ct_filter_all (k : Core) : k = { k with
    ct := { k.ct with dcache := k.ct.dcache.filter fun _ => true, resv := k.ct.resv }, saved := k.saved } := by
  rw [List.filter_true]

theorem AccessKeeps.of (hc : t.cores = s.cores) (hf : ∃ ended waited, t.fen = { s.fen with stepEnded := ended, waited := waited })
    (hl : t.flash = s.flash := by rfl) (hp : t.power = s.power := by rfl) (hi : t.invals = s.invals := by rfl)
    (ha : t.actCore = s.actCore ∧ t.actLen = s.actLen := by exact ⟨rfl, rfl⟩) (hn : t.now = s.now := by rfl)
    (hw : t.stepwise = s.stepwise := by rfl) (hs : t.side = s.side := by rfl) : AccessKeeps s t where
  core d := ⟨fun _ => true, (s.ct d).resv, (s.core d).saved, by
    rw [show t.core d = s.core d by rw [State.core, State.core, hc]]; exact ct_filter_all (s.core d)⟩
  fen := hf
  flash := hl
  power := hp
  invals := hi
  turn := ha
  now := hn
  stepwise := hw
  side l good home := by simpa [State.sideOf, hs] using And.intro good home

theorem AccessKeeps.refl (s : State) : AccessKeeps s s := .of rfl ⟨_, _, rfl⟩

theorem AccessKeeps.trans (h : AccessKeeps s t) (k : AccessKeeps t u) : AccessKeeps s u where
  core d := by
    obtain ⟨p, _, _, here⟩ := h.core d
    obtain ⟨q, resv, saved, there⟩ := k.core d
    refine ⟨fun e => q e && p e, resv, saved, ?_⟩
    rw [there]
    simp only [State.ct, here, List.filter_filter]
  fen := by
    obtain ⟨_, _, here⟩ := h.fen
    obtain ⟨ended, waited, there⟩ := k.fen
    exact ⟨ended, waited, by rw [there, here]⟩
  flash := k.flash.trans h.flash
  power := k.power.trans h.power
  invals := k.invals.trans h.invals
  turn := ⟨k.turn.1.trans h.turn.1, k.turn.2.trans h.turn.2⟩
  now := k.now.trans h.now
  stepwise := k.stepwise.trans h.stepwise
  side l good home := k.side l (h.side l good home).1 (h.side l good home).2

/-! ### What it means for harts, banks and control threads -/

theorem AccessKeeps.harts (h : AccessKeeps s t) (d e : Nat) : t.hart d e = s.hart d e := by
  obtain ⟨_, _, _, core⟩ := h.core d
  rw [State.hart, core]; rfl

theorem AccessKeeps.banks (h : AccessKeeps s t) (d e : Nat) : t.bank d e = s.bank d e := by
  obtain ⟨_, _, _, core⟩ := h.core d
  rw [State.bank, core]; rfl

/-- The control thread of a core with the words of its data cache that an access has left it. -/
theorem AccessKeeps.ct (h : AccessKeeps s t) (d : Nat) : ∃ keep resv,
    t.ct d = { s.ct d with dcache := (s.ct d).dcache.filter keep, resv := resv } := by
  obtain ⟨keep, resv, _, core⟩ := h.core d
  exact ⟨keep, resv, by rw [State.ct, core]⟩

theorem AccessKeeps.steps (h : AccessKeeps s t) : t.fen.steps = s.fen.steps := by
  obtain ⟨_, _, fen⟩ := h.fen
  rw [fen]

theorem AccessKeeps.busDown (h : AccessKeeps s t) (n : Nat) : t.busDown n = s.busDown n := by
  simp only [State.busDown, h.flash, h.steps]

theorem AccessKeeps.busHeld (h : AccessKeeps s t) (w : Waiter) : t.busHeld w = s.busHeld w := by
  simp only [State.busHeld, h.busDown]

/-- A line that was ordinary is so afterwards. -/
theorem AccessKeeps.plain (h : AccessKeeps s t) (p : Plain s pa) : Plain t pa where
  awake := by
    have awake := p.awake
    simp only [State.asleep, State.unserved, State.layer, State.clusterOff, State.clusterAt, h.busDown, State.server,
      State.removed, State.relays, State.sliceHeld, h.flash, h.power, h.steps] at awake ⊢
    exact awake
  served := by simpa only [State.unserved, State.layer, h.flash] using p.served
  still := by simpa only [State.sensing, State.reg, h.banks] using p.still
  untested := by simpa only [State.rowTested, h.banks] using p.untested
  good := (h.side _ p.good p.home).1
  home := (h.side _ p.good p.home).2
  acked := by simpa only [State.unacked, h.invals] using p.acked

/-! ### The parts of an access -/

theorem accessKeeps_hadFirst (s : State) (w : Waiter) (line : Nat) : AccessKeeps s (s.hadFirst w line) := by
  unfold State.hadFirst
  split <;> exact .of rfl ⟨_, _, rfl⟩

theorem accessKeeps_unitUsed (s : State) (utype n : Nat) : AccessKeeps s (s.unitUsed utype n) := by
  unfold State.unitUsed
  dsimp only
  split <;> exact .of rfl ⟨_, _, rfl⟩

theorem accessKeeps_accessUnits (s : State) (pa : Nat) : AccessKeeps s (s.accessUnits pa) :=
  (accessKeeps_unitUsed s _ _).trans (accessKeeps_unitUsed _ _ _)

theorem accessKeeps_touchPage (s : State) (pa : Nat) : AccessKeeps s (s.touchPage pa) := by
  unfold State.touchPage
  split <;> exact .of rfl ⟨_, _, rfl⟩

theorem accessKeeps_send (s : State) (m : Out) : AccessKeeps s (s.send m) := by
  unfold State.send
  split <;> exact .of rfl ⟨_, _, rfl⟩

/-- Words leave the caches of control threads, and nothing else of the cores changes. -/
theorem AccessKeeps.of_mapVals {f : Nat → Core → Core} (hc : t.cores = s.cores.mapVals f) (hf : t.fen = s.fen)
    (hk : ∀ d k, ∃ keep resv saved, f d k =
      { k with ct := { k.ct with dcache := k.ct.dcache.filter keep, resv := resv }, saved := saved })
    (hl : t.flash = s.flash := by rfl) (hp : t.power = s.power := by rfl) (hi : t.invals = s.invals := by rfl)
    (ha : t.actCore = s.actCore ∧ t.actLen = s.actLen := by exact ⟨rfl, rfl⟩) (hn : t.now = s.now := by rfl)
    (hw : t.stepwise = s.stepwise := by rfl) (hs : t.side = s.side := by rfl) : AccessKeeps s t where
  core d := by
    simp only [State.ct, State.core, hc, Tab.get, Tab.find_mapVals]
    cases s.cores.find d with
    | none => exact ⟨fun _ => true, _, _, ct_filter_all {}⟩
    | some k => exact hk d k
  fen := ⟨_, _, hf⟩
  flash := hl
  power := hp
  invals := hi
  turn := ha
  now := hn
  stepwise := hw
  side l good home := by simpa [State.sideOf, hs] using And.intro good home

theorem accessKeeps_disownLine (s : State) (a : Nat) : AccessKeeps s (s.disownLine a) :=
  .of_mapVals (f := fun _ k => { k with ct := k.ct.disown a, saved := k.saved.mapVals fun _ v => { v with ct := v.ct.disown a } })
    rfl rfl fun _ _ => ⟨_, _, _, rfl⟩

theorem accessKeeps_revokeWords (s : State) (self : Option Nat) (a n : Nat) : AccessKeeps s (s.revokeWords self a n) := by
  refine .of_mapVals (f := fun d k => k.revoke (decide (self = some d)) a n) rfl rfl fun d k => ?_
  unfold Core.revoke
  by_cases own : self = some d
  · exact ⟨fun _ => true, k.ct.resv, _, by simp only [own, decide_true, if_true, List.filter_true]; rfl⟩
  · exact ⟨_, _, _, by simp only [own, decide_false, Bool.false_eq_true, if_false]; rfl⟩

theorem accessKeeps_mscEvict (s : State) (key : Nat) : AccessKeeps s (s.mscEvict key) := by
  have gone (l : Tab RLine) (a : Nat) : AccessKeeps s { s.disownLine a with rlines := l } :=
    (accessKeeps_disownLine s a).trans (.of rfl ⟨_, _, rfl⟩)
  unfold State.mscEvict
  dsimp only
  split
  · exact .refl s
  split
  · exact (accessKeeps_disownLine s _).trans (.of rfl ⟨_, _, rfl⟩)
  split
  · exact .refl s
  split
  · exact (gone _ _).trans (accessKeeps_send _ _)
  · exact gone _ _

theorem accessKeeps_mscFill (s : State) (line : Nat) : AccessKeeps s (s.mscFill line) := by
  have room (key : Nat) : AccessKeeps s (s.mscRoom key) := by
    unfold State.mscRoom
    dsimp only
    split
    · exact .refl s
    split
    · exact accessKeeps_mscEvict s _
    · exact .refl s
  unfold State.mscFill
  dsimp only
  split
  · exact .refl s
  · exact (room _).trans (.of rfl ⟨_, _, rfl⟩)

theorem accessKeeps_markDirty (s : State) (line : Nat) : AccessKeeps s (s.markDirty line) := by
  unfold State.markDirty
  split
  · exact .refl s
  split
  · exact .refl s
  · exact (accessKeeps_mscFill s line).trans (.of rfl ⟨_, _, rfl⟩)

/-- A write leaves a good line of the home's own good, and its own. -/
theorem Side.afterWrite_good {x : Side} (whole : Bool) (good : x.cond = none) (home : x.state = 0) :
    (x.afterWrite whole).cond = none ∧ (x.afterWrite whole).state = 0 := by
  have poison : (!whole && x.cond.isSome) = false := by simp [good]
  unfold Side.afterWrite
  rw [poison]
  simp [Side.cond, home]

theorem State.sideOf_setSide (s : State) (line : Nat) (x : Side) : (s.setSide line x).sideOf line = x := by
  unfold State.setSide State.sideOf
  split
  · simp only [Tab.get, Tab.find_drop_self, Option.getD_none, *]
  · exact Tab.get_put_self ..

theorem State.sideOf_setSide_of_ne (s : State) {line l : Nat} (x : Side) (h : l ≠ line) :
    (s.setSide line x).sideOf l = s.sideOf l := by
  unfold State.setSide State.sideOf
  split
  · simp only [Tab.get, Tab.find_drop_of_ne _ h]
  · exact Tab.get_put_of_ne _ _ _ h

theorem accessKeeps_setSide (s : State) (line : Nat) (whole : Bool) (m : Mem) :
    AccessKeeps s { s.setSide line ((s.sideOf line).afterWrite whole) with mem := m } where
  core d := ⟨fun _ => true, (s.ct d).resv, (s.core d).saved, ct_filter_all (s.core d)⟩
  fen := ⟨_, _, rfl⟩
  flash := rfl
  power := rfl
  invals := rfl
  turn := ⟨rfl, rfl⟩
  now := rfl
  stepwise := rfl
  side l good home := by
    by_cases here : l = line
    · subst here
      have kept := Side.afterWrite_good whole good home
      rwa [← s.sideOf_setSide l ((s.sideOf l).afterWrite whole)] at kept
    · have other := s.sideOf_setSide_of_ne ((s.sideOf line).afterWrite whole) here
      rw [← other] at good home
      exact ⟨good, home⟩

theorem accessKeeps_mergeData (s : State) (pa n v : Nat) : AccessKeeps s (s.mergeData pa n v) :=
  (((accessKeeps_accessUnits s pa).trans (accessKeeps_markDirty _ _)).trans (accessKeeps_touchPage _ pa)).trans
    (accessKeeps_setSide _ _ _ _)

/-! ### Reads, stores and atomic operations -/

theorem accessKeeps_readLine (s : State) (w : Waiter) (pa : Nat) : AccessKeeps s (s.readLine w pa) :=
  ((accessKeeps_hadFirst s w _).trans (accessKeeps_accessUnits _ pa)).trans (accessKeeps_mscFill _ _)

theorem State.readLine_mem (s : State) (w : Waiter) (pa : Nat) : (s.readLine w pa).mem = s.mem := by
  simp [State.readLine]

/-- A read of an ordinary line by an agent whose bus is free. -/
theorem Plain.readBy (h : Plain s pa) {w : Waiter} (bus : s.busHeld w = false) (va n : Nat) :
    s.readHere w va pa n = .done (s.readLine w pa) (s.mem.read pa n) none := by
  have found : (s.hadFirst w (lineOf pa)).foundHere w pa n (s.sideOf (lineOf pa)) =
      .done (s.readLine w pa) (s.mem.read pa n) none := by
    simp [State.foundHere, h.good, State.readLine]
  have owner : ¬(2 ≤ (s.sideOf (lineOf pa)).state.toNat ∧ (s.sideOf (lineOf pa)).state.toNat ≤ 4) := by
    simp [h.home]
  unfold State.readHere
  simp only [h.awake, bus, h.untested, h.served, Bool.or_false, Bool.false_eq_true, if_false, if_neg owner, found]
  split <;> rfl

theorem Plain.loadBy (h : Plain s pa) {w : Waiter} (bus : s.busHeld w = false) (va n : Nat) :
    s.load w va (.here pa) n = .done (s.readLine w pa) (s.mem.read pa n) none := by
  simp only [State.load, bus, Bool.false_eq_true, if_false, h.readBy bus]

/-- Bytes of an ordinary line merged at the MSC. -/
theorem Plain.writeHere (h : Plain s pa) (self : Option Nat) (n v : Nat) :
    s.writeHere self pa n v = (s.revokeWords self (dkey s.flash.modId.toNat pa) n).mergeData pa n v := by
  have served : (s.revokeWords self (dkey s.flash.modId.toNat pa) n).unserved pa = false := h.served
  have merges : (s.revokeWords self (dkey s.flash.modId.toNat pa) n).mergesBad pa n = false := by
    have fails := Side.fails_of_good h.good
    simp only [State.mergesBad, Bool.and_eq_false_iff]
    exact .inr fails
  simp [State.writeHere, State.mergeHere, served, merges]

theorem State.mem_mergeData (s : State) (pa n v : Nat) : (s.mergeData pa n v).mem = s.mem.write pa n v := by
  simp [State.mergeData]

theorem Plain.writeHere_mem (h : Plain s pa) (self : Option Nat) (n v : Nat) :
    (s.writeHere self pa n v).mem = s.mem.write pa n v := by
  rw [h.writeHere, State.mem_mergeData]; rfl

theorem Plain.writeHere_keeps (h : Plain s pa) (self : Option Nat) (n v : Nat) :
    AccessKeeps s (s.writeHere self pa n v) := by
  rw [h.writeHere]
  exact (accessKeeps_revokeWords s self _ n).trans (accessKeeps_mergeData _ pa n v)

/-- A store to an ordinary line by an agent whose bus is free. -/
theorem Plain.storeBy (h : Plain s pa) {w : Waiter} (bus : s.busHeld w = false) (self : Option Nat) (va n v : Nat) :
    ∃ t, s.store w self va (.here pa) n v = .done t 0 none ∧ t.mem = s.mem.write pa n v ∧ AccessKeeps s t := by
  refine ⟨(s.writeHere self pa n v).hadFirst w (lineOf pa), ?_, ?_,
    (h.writeHere_keeps self n v).trans (accessKeeps_hadFirst _ w _)⟩
  · simp [State.store, bus, h.untested, h.still, h.awake, h.ownHere, h.dropShared]
  · simp [h.writeHere_mem]

/-- An atomic operation on an ordinary line by an agent whose bus is free. -/
theorem Plain.atomicBy (h : Plain s pa) {w : Waiter} (bus : s.busHeld w = false) (self : Option Nat) (va n op b x : Nat)
    (sys : Bool) {v : Nat} (new : amoNew op (8 * n) (s.mem.read pa n) b x = some v) :
    ∃ t, s.atomic w self va (.here pa) n op b x sys = .done t (s.mem.read pa n) none ∧ t.mem = s.mem.write pa n v ∧
      AccessKeeps s t := by
  have read := accessKeeps_readLine s w pa
  have plain := read.plain h
  refine ⟨(s.readLine w pa).writeHere self pa n v, ?_, ?_, read.trans (plain.writeHere_keeps self n v)⟩
  · simp [State.atomic, bus, h.untested, h.still, h.awake, h.ownHere, h.readBy bus, new, plain.dropShared]
  · rw [plain.writeHere_mem, State.readLine_mem]

end

end Sys2Proof.Machine
end

section
/-! # Loads, stores and evictions of the control thread (O39)

A load or store takes the word from the data cache or fills its line first; an eviction stores the bytes of a Dirty word one by one,
and every store leaves the line ordinary for the next (`AccessKeeps.plain`). -/

namespace Sys2Proof.Machine

/-! ### Bytes of words and lines (R5) -/

theorem Mem.read_lt (m : Mem) (a n : Nat) : m.read a n < 2 ^ (8 * n) := by
  induction n generalizing a with
  | zero => simp [Mem.read]
  | succ n ih =>
    have byte := (m.get a).isLt
    have rest := ih (a + 1)
    rw [Mem.read, Nat.mul_add_one, Nat.add_comm (8 * n), Nat.pow_add]
    omega

theorem Mem.read_add (m : Mem) (a i k : Nat) : m.read a (i + k) = m.read a i + 2 ^ (8 * i) * m.read (a + i) k := by
  induction i generalizing a with
  | zero => simp [Mem.read]
  | succ i ih =>
    rw [Nat.add_right_comm, Mem.read, Mem.read, ih, Nat.mul_add_one, Nat.add_comm (8 * i), Nat.pow_add, Nat.add_right_comm a 1,
      Nat.add_assoc a]
    ring

/-- The bytes of a part are the field of the whole. -/
theorem Mem.fld_read (m : Mem) (a : Nat) {i k n : Nat} (h : i + k ≤ n) :
    fld (m.read a n) (8 * i) (8 * k) = m.read (a + i) k := by
  obtain ⟨d, rfl⟩ := Nat.exists_eq_add_of_le h
  have part := fld_below (lo := m.read (a + i) k) (n := 8 * k) (m := m.read (a + i + k) d) (a := 0) (len := 8 * k) (by omega)
  rw [Nat.add_assoc, Mem.read_add, fld_above (m.read_lt a i) le_rfl, Mem.read_add, Nat.sub_self, part, fld, pow_zero,
    Nat.div_one, Nat.mod_eq_of_lt (m.read_lt _ k)]

theorem fld_mod {v n a len : Nat} (h : a + len ≤ n) : fld (v % 2 ^ n) a len = fld v a len := by
  have cut := fld_below (lo := v % 2 ^ n) (m := v / 2 ^ n) h
  rw [Nat.mod_add_div] at cut
  exact cut.symm

/-- The bytes that `patch` puts are read back. -/
theorem fld_patch (d v : Nat) (o n : Nat) : fld (patch d o n v) (8 * o) (8 * n) = v % 2 ^ (8 * n) := by
  have cut : d = d % 2 ^ (8 * o) + 2 ^ (8 * o) * (fld d (8 * o) (8 * n) + 2 ^ (8 * n) * (d / 2 ^ (8 * o) / 2 ^ (8 * n))) := by
    rw [fld, Nat.mod_add_div, Nat.mod_add_div]
  have low : d % 2 ^ (8 * o) < 2 ^ (8 * o) := Nat.mod_lt _ (Nat.two_pow_pos _)
  have after : patch d o n v = d % 2 ^ (8 * o) + 2 ^ (8 * o) * (v % 2 ^ (8 * n) + 2 ^ (8 * n) * (d / 2 ^ (8 * o) / 2 ^ (8 * n))) := by
    unfold patch
    generalize d % 2 ^ (8 * o) = lo at cut
    generalize d / 2 ^ (8 * o) / 2 ^ (8 * n) = hi at cut
    have split := Nat.mul_add (2 ^ (8 * o))
    rw [split] at cut ⊢
    rw [Nat.mul_comm (fld d _ _), Nat.mul_comm (v % _)]
    omega
  have part := fld_below (lo := v % 2 ^ (8 * n)) (n := 8 * n) (m := d / 2 ^ (8 * o) / 2 ^ (8 * n)) (a := 0) (len := 8 * n)
    (by omega)
  rw [after, fld_above low le_rfl, Nat.sub_self, part, fld, pow_zero, Nat.div_one, Nat.mod_mod]

theorem byteMask_bit {o n j : Nat} (h : o + n ≤ 8) (hj : j < n) : (byteMask o n).getLsbD (o + j) = true := by
  have inside : o + j < 8 := by omega
  simp [byteMask, BitVec.getLsbD_ofNat, Nat.testBit_mul_two_pow, inside, hj]

theorem ofInt_sval (n v : Nat) : extendTo64 n false v = BitVec.ofInt 64 (sval (8 * n) v) := by
  simp only [extendTo64, uval, Bool.false_eq_true, if_false]
  apply BitVec.eq_of_toNat_eq
  simp [BitVec.toNat_ofInt]
  omega

/-! ### The line of an address -/

theorem fld_of_line {pa pb lo : Nat} (line : lineOf pb = lineOf pa) (h : 6 ≤ lo) (len : Nat) : fld pb lo len = fld pa lo len := by
  obtain ⟨d, rfl⟩ := Nat.exists_eq_add_of_le h
  unfold lineOf at line
  rw [fld, fld, Nat.pow_add, ← Nat.div_div_eq_div_mul, ← Nat.div_div_eq_div_mul]
  simp only [show 2 ^ 6 = 64 from rfl, line]

/-- Every address of an ordinary line is so. -/
theorem Plain.ofLine {s : State} {pa pb : Nat} (h : Plain s pa) (line : lineOf pb = lineOf pa) : Plain s pb := by
  have core : paCore pb = paCore pa := fld_of_line line (by omega) _
  have bank : paBank pb = paBank pa := fld_of_line line (by omega) _
  have sag : paSag pb = paSag pa := fld_of_line line (by omega) _
  have row : paRow pb = paRow pa := fld_of_line line (by omega) _
  have slice : fld pb 6 4 = fld pa 6 4 := fld_of_line line (by omega) _
  have start : pb / 8192 = pa / 8192 := by unfold lineOf at line; omega
  have unserved : s.unserved pb = s.unserved pa := by simp only [State.unserved, core]
  constructor
  · have awake := h.awake
    simp only [State.asleep, State.clusterOff, State.server, State.sliceHeld, unserved, core, bank, slice] at awake ⊢
    exact awake
  · rw [unserved]; exact h.served
  · simpa only [State.sensing, core, bank, sag, start] using h.still
  · simpa only [State.rowTested, core, bank, sag, row] using h.untested
  · rw [line]; exact h.good
  · rw [line]; exact h.home
  · rw [line]; exact h.acked

theorem lineOf_linePa (line : Nat) : lineOf (linePa line) = line := by unfold lineOf linePa; omega

theorem Plain.start {s : State} {pa : Nat} (h : Plain s pa) : Plain s (linePa (lineOf pa)) := h.ofLine (lineOf_linePa _)

/-! ### Lines in the data cache (R381) -/

theorem find_fillWord_of_ne (t : Tab DWord) {k j : Nat} (v : Word) (h : j ≠ k) : (fillWord t k v).find j = t.find j := by
  unfold fillWord
  split
  · split
    · exact Tab.find_put_of_ne _ _ h
    · split
      · rfl
      · exact Tab.find_put_of_ne _ _ h
  · exact Tab.find_put_of_ne _ _ h

theorem fillWord_missing {t : Tab DWord} {k : Nat} (h : t.find k = none) (v : Word) :
    fillWord t k v = t.put k ⟨.clean, v, 0, 0xff⟩ := by
  unfold fillWord
  rw [h]

/-- A word that the cache has not is Clean after its line's fill. -/
theorem find_fillLine {t : Tab DWord} {line data j : Nat} (hj : j < 8) (h : t.find (line + 8 * j) = none) :
    (fillLine t line data).find (line + 8 * j) = some ⟨.clean, BitVec.ofNat 64 (fld data (64 * j) 64), 0, 0xff⟩ := by
  have others (l : List Nat) (hl : j ∉ l) (u : Tab DWord) :
      (l.foldl (fun u k => fillWord u (line + 8 * k) (BitVec.ofNat 64 (fld data (64 * k) 64))) u).find (line + 8 * j) =
        u.find (line + 8 * j) := by
    induction l generalizing u with
    | nil => rfl
    | cons k l ih =>
      obtain ⟨here, rest⟩ := not_or.1 (List.mem_cons.not.1 hl)
      rw [List.foldl_cons, ih rest, find_fillWord_of_ne _ _ (by omega)]
  obtain ⟨l, r, cut⟩ := List.append_of_mem (List.mem_range.2 hj)
  have nodup := List.nodup_range (n := 8)
  rw [cut] at nodup
  obtain ⟨-, tail, apart⟩ := List.nodup_append.1 nodup
  have before : j ∉ l := fun m => apart j m j List.mem_cons_self rfl
  have after : j ∉ r := (List.nodup_cons.1 tail).1
  unfold fillLine
  rw [cut, List.foldl_append, List.foldl_cons, others r after, fillWord_missing ((others l before t).trans h)]
  exact Tab.find_put_self ..

theorem Tab.find_filter_none {α : Type} {t : Tab α} {k : Nat} (keep : Nat × α → Bool) (h : t.find k = none) :
    Tab.find (t.filter keep) k = none := by
  induction t with
  | nil => rfl
  | cons e t ih =>
    obtain ⟨j, x⟩ := e
    have here : j ≠ k := fun e => by simp [Tab.find, e] at h
    have rest : Tab.find t k = none := by simpa [Tab.find, here] using h
    by_cases p : keep (j, x) = true
    · rw [List.filter_cons_of_pos p, Tab.find, if_neg here, ih rest]
    · rw [List.filter_cons_of_neg p, ih rest]

section
variable {s t : State} {c pa : Nat}

/-- The key of a word is in its line at the word's place. -/
theorem dkey_line (m pa : Nat) : dkey m (pa / 8 * 8) = dkey m (pa / 8 * 8) / 64 * 64 + 8 * (pa % 64 / 8) := by
  unfold dkey
  omega

/-- An access takes no new word into a cache. -/
theorem AccessKeeps.find_none (h : AccessKeeps s t) {key : Nat} (absent : (s.ct c).dcache.find key = none) :
    (t.ct c).dcache.find key = none := by
  obtain ⟨keep, _, ct⟩ := h.ct c
  rw [ct]
  exact Tab.find_filter_none keep absent

theorem State.ct_setDcache (s : State) (c : Nat) (t : Tab DWord) : (s.setDcache c t).ct c = { s.ct c with dcache := t } := by
  simp [State.setDcache]

theorem State.ct_ctDone (s : State) (c r : Nat) (v : Word) : (s.ctDone c r v).ct c =
    { (s.ct c).setX r v with pc := (s.ct c).pc + BitVec.ofNat 64 s.actLen, rreq := none, hostGot := [] } := by
  simp [State.ctDone, State.ct]

theorem State.dcacheRoom_of_room {key : Nat} (h : (s.ct c).dcache.find key ≠ none ∨
    (Tab.lines (s.ct c).dcache).length < Config.dcacheLines) (absent : (s.ct c).dcache.find key = none) :
    s.dcacheRoom c key = .done s 0 none := by
  have room : (Tab.lines (s.ct c).dcache).length < Config.dcacheLines := h.resolve_left (not_not.2 absent)
  unfold State.dcacheRoom
  dsimp only
  rw [decide_eq_true room, Bool.or_true, if_pos rfl]

/-! ### Loads (R26, R124) -/

theorem State.ctRead_hit {va n : Nat} {x : DWord} (at_ : s.colAt c (s.dataMach c) va n true false = .ok (.here pa))
    (hit : (s.ct c).dcache.find (dkey s.flash.modId.toNat (pa / 8 * 8)) = some x) (all : x.has = 0xff) :
    s.ctRead c va n = .done s (fld x.data.toNat (8 * (va % 8)) (8 * n)) := by
  have has : x.has &&& byteMask (va % 8) n = byteMask (va % 8) n := by
    rw [all]
    exact BitVec.allOnes_and
  simp only [State.ctRead, at_, Place.word, hit, if_pos has]

/-- A load of a line that the cache does not hold fills it first. -/
theorem State.ctRead_fills {va n key data : Nat} {u : State} {z : DWord}
    (at_ : s.colAt c (s.dataMach c) va n true false = .ok (.here pa)) (hk : dkey s.flash.modId.toNat (pa / 8 * 8) = key)
    (absent : (s.ct c).dcache.find key = none) (room : s.dcacheRoom c key = .done s 0 none) (free : s.ctFree c = true)
    (load : s.load (.ct c) va (.here (linePa (lineOf pa))) 64 = .done u data none)
    (filled : (fillLine (u.ct c).dcache (key / 64 * 64) data).find key = some z) :
    s.ctRead c va n = .done (u.setDcache c (fillLine (u.ct c).dcache (key / 64 * 64) data))
      (fld z.data.toNat (8 * (va % 8)) (8 * n)) := by
  unfold State.ctRead
  simp only [at_, Place.word, hk, absent, room, free, load, filled, Bool.not_true, Bool.false_eq_true, if_false]

/-- The bytes of a word inside the line that a fill reads. -/
theorem State.fill_bytes (s : State) {pa o n : Nat} (place : pa % 8 = o) (inside : o + n ≤ 8) :
    fld (BitVec.ofNat 64 (fld (s.mem.read (linePa (lineOf pa)) 64) (64 * (pa % 64 / 8)) 64)).toNat (8 * o) (8 * n) =
      s.mem.read pa n := by
  have start : linePa (lineOf pa) + 8 * (pa % 64 / 8) + o = pa := by unfold linePa lineOf; omega
  have word := Mem.fld_read s.mem (linePa (lineOf pa)) (i := 8 * (pa % 64 / 8)) (k := 8) (n := 64) (by omega)
  rw [show 64 * (pa % 64 / 8) = 8 * (8 * (pa % 64 / 8)) by omega, word, BitVec.toNat_ofNat, fld_mod (by omega),
    Mem.fld_read _ _ inside, start]

theorem State.ctRead_fill {va n key : Nat} (at_ : s.colAt c (s.dataMach c) va n true false = .ok (.here pa))
    (hk : dkey s.flash.modId.toNat (pa / 8 * 8) = key) (place : pa % 8 = va % 8) (inside : va % 8 + n ≤ 8)
    (absent : (s.ct c).dcache.find key = none) (room : s.dcacheRoom c key = .done s 0 none) (free : s.ctFree c = true)
    (bus : s.busHeld (.ct c) = false) (h : Plain s pa) :
    ∃ u cache, s.ctRead c va n = .done (u.setDcache c cache) (s.mem.read pa n) ∧ u.mem = s.mem ∧ AccessKeeps s u := by
  have keeps := accessKeeps_readLine s (.ct c) (linePa (lineOf pa))
  have load := h.start.loadBy bus va 64
  have mem := s.readLine_mem (.ct c) (linePa (lineOf pa))
  generalize s.readLine (.ct c) (linePa (lineOf pa)) = u at keeps load mem
  have key_line := dkey_line s.flash.modId.toNat pa
  rw [hk] at key_line
  have missing := keeps.find_none absent
  rw [key_line] at missing
  have filled := find_fillLine (data := s.mem.read (linePa (lineOf pa)) 64) (by omega : pa % 64 / 8 < 8) missing
  rw [← key_line] at filled
  refine ⟨u, fillLine (u.ct c).dcache (key / 64 * 64) (s.mem.read (linePa (lineOf pa)) 64), ?_, mem, keeps⟩
  rw [State.ctRead_fills at_ hk absent room free load filled, s.fill_bytes place inside]

/-! ### Stores (R124) -/

/-- A word of the data cache that has just been written. -/
theorem State.ctPut_word (s : State) (c key : Nat) {o n : Nat} (v : Nat) (inside : o + n ≤ 8) :
    ∃ z, ((s.ctPut c key o n v).ct c).dcache.find key = some z ∧ z.st = .dirty ∧
      fld z.data.toNat (8 * o) (8 * n) = v % 2 ^ (8 * n) ∧ ∀ j, j < n → z.mask.getLsbD (o + j) = true := by
  unfold State.ctPut
  rw [State.ct_setDcache]
  refine ⟨_, Tab.find_put_self .., rfl, ?_, fun j hj => ?_⟩
  · rw [BitVec.toNat_ofNat, fld_mod (by omega), fld_patch]
  · rw [BitVec.getLsbD_or, byteMask_bit inside hj, Bool.or_true]

/-- What a store to the data cache leaves of its thread. -/
theorem State.ctPut_rest (s : State) (c key o n v : Nat) : (s.ctPut c key o n v).mem = s.mem ∧
    ((s.ctPut c key o n v).ct c).x = (s.ct c).x ∧ ((s.ctPut c key o n v).ct c).pc = (s.ct c).pc ∧
      (s.ctPut c key o n v).actLen = s.actLen := by
  have ct : (s.ctPut c key o n v).ct c = { s.ct c with dcache := ((s.ctPut c key o n v).ct c).dcache } := by
    simp only [State.ctPut, State.ct_setDcache]
  rw [ct]
  exact ⟨rfl, rfl, rfl, rfl⟩

/-- A store of a word that the cache has not fills its line first. -/
theorem State.ctWrite_fills {va n v key data : Nat} {u : State}
    (at_ : s.colAt c (s.dataMach c) va n false true = .ok (.here pa)) (hk : dkey s.flash.modId.toNat (pa / 8 * 8) = key)
    (absent : (s.ct c).dcache.find key = none) (room : s.dcacheRoom c key = .done s 0 none) (free : s.ctFree c = true)
    (load : s.load (.ct c) va (.here (linePa (lineOf pa))) 64 = .done u data none) :
    s.ctWrite c va n v =
      .done ((u.setDcache c (fillLine (u.ct c).dcache (key / 64 * 64) data)).ctPut c key (va % 8) n v) 0 := by
  unfold State.ctWrite
  simp only [at_, Place.word, hk, absent, room, free, load, Option.isSome_none, Bool.not_true, Bool.false_eq_true, if_false]

/-- A store puts its bytes into a state that differs from the one before it in the caches and in what an access leaves. -/
theorem State.ctWrite_puts {va n key : Nat} (v : Nat) (at_ : s.colAt c (s.dataMach c) va n false true = .ok (.here pa))
    (hk : dkey s.flash.modId.toNat (pa / 8 * 8) = key)
    (room : (s.ct c).dcache.find key ≠ none ∨ (Tab.lines (s.ct c).dcache).length < Config.dcacheLines)
    (free : (s.ct c).dcache.find key = none → s.ctFree c = true) (bus : s.busHeld (.ct c) = false) (h : Plain s pa) :
    ∃ u : State, s.ctWrite c va n v = .done (u.ctPut c key (va % 8) n v) 0 ∧ u.mem = s.mem ∧
      (u.ct c).x = (s.ct c).x ∧ (u.ct c).pc = (s.ct c).pc ∧ u.actLen = s.actLen := by
  cases hit : (s.ct c).dcache.find key with
  | some x =>
    refine ⟨s, ?_, rfl, rfl, rfl, rfl⟩
    unfold State.ctWrite
    simp only [at_, Place.word, hk, hit, Option.isSome_some, if_true]
  | none =>
    have keeps := accessKeeps_readLine s (.ct c) (linePa (lineOf pa))
    have load := h.start.loadBy bus va 64
    have mem := s.readLine_mem (.ct c) (linePa (lineOf pa))
    generalize s.readLine (.ct c) (linePa (lineOf pa)) = u at keeps load mem
    obtain ⟨keep, resv, ct⟩ := keeps.ct c
    refine ⟨_, State.ctWrite_fills at_ hk hit (State.dcacheRoom_of_room room hit) (free hit) load, mem, ?_, ?_, keeps.turn.2⟩
    · rw [State.ct_setDcache, ct]
    · rw [State.ct_setDcache, ct]

/-! ### Evictions (R381) -/

/-- The byte that stands at `a` once those bytes of word `x`, kept for `pa`, that a list names and its mask marks have been stored. -/
def DWord.stored (x : DWord) (pa : Nat) (l : List Nat) (a : Nat) (old : Byte) : Byte :=
  if pa ≤ a ∧ a - pa ∈ l ∧ x.mask.getLsbD (a - pa) = true then BitVec.ofNat 8 (x.data.toNat / 256 ^ (a - pa)) else old

theorem State.keyPlace_dkey (s : State) {a : Nat} (h : a < 2 ^ 40) : s.keyPlace (dkey s.flash.modId.toNat a) = .here a := by
  unfold State.keyPlace dkey
  rw [show (s.flash.modId.toNat * 2 ^ 40 + a) / 2 ^ 40 = s.flash.modId.toNat by omega, if_pos rfl]
  congr 1
  omega

/-- The marked bytes of a word, stored one by one. -/
theorem State.mergeBytes_plain (s : State) (c : Nat) {pa : Nat} (x : DWord) (aligned : pa % 8 = 0) (small : pa < 2 ^ 40)
    (l : List Nat) (inside : ∀ o ∈ l, o < 8) : ∀ t : State, t.mem.wf = true → t.busHeld (.ct c) = false → Plain t pa →
    ∃ u, s.mergeBytes c (dkey t.flash.modId.toNat pa) x l t = .done u 0 none ∧ AccessKeeps t u ∧
      ∀ a, u.mem.get a = x.stored pa l a (t.mem.get a) := by
  induction l with
  | nil => exact fun t _ _ _ => ⟨t, rfl, .refl t, fun a => by simp [DWord.stored]⟩
  | cons o l ih =>
    intro t wf bus h
    have rest (o' : Nat) (m : o' ∈ l) : o' < 8 := inside o' (List.mem_cons_of_mem o m)
    by_cases marked : x.mask.getLsbD o = true
    · have near : o < 8 := inside o List.mem_cons_self
      obtain ⟨u, stored, mem, keeps⟩ := (h.ofLine (pb := pa + o) (by unfold lineOf; omega)).storeBy bus (some c) 0 1
        (fld x.data.toNat (8 * o) 8)
      have next : dkey t.flash.modId.toNat pa + o = dkey t.flash.modId.toNat (pa + o) := Nat.add_assoc ..
      obtain ⟨v, merged, kept, bytes⟩ := ih rest u (by rw [mem]; exact Mem.wf_write wf _ _ _) (by rw [keeps.busHeld, bus])
        (keeps.plain h)
      rw [keeps.flash] at merged
      refine ⟨v, ?_, keeps.trans kept, fun a => ?_⟩
      · have place : t.keyPlace (dkey t.flash.modId.toNat pa + o) = .here (pa + o) := by
          rw [next, t.keyPlace_dkey (by omega)]
        simp only [State.mergeBytes, marked, Bool.not_true, Bool.false_eq_true, if_false, place, stored, merged]
      · rw [bytes, mem]
        unfold DWord.stored
        by_cases hit : a = pa + o
        · subst hit
          have byte := Mem.get_write_inside wf (pa + o) 1 (fld x.data.toNat (8 * o) 8) 0 (by omega)
          have field : BitVec.ofNat 8 (fld x.data.toNat (8 * o) 8) = BitVec.ofNat 8 (x.data.toNat / 256 ^ o) := by
            apply BitVec.eq_of_toNat_eq
            simp [fld, Nat.pow_mul]
          simp only [Nat.add_zero, pow_zero, Nat.div_one, field] at byte
          simp [byte, marked]
        · rw [Mem.get_write_outside _ _ _ _ _ (by omega)]
          have same : pa ≤ a ∧ a - pa ∈ o :: l ↔ pa ≤ a ∧ a - pa ∈ l := by
            rw [List.mem_cons]
            exact ⟨fun ⟨le, m⟩ => ⟨le, m.resolve_left (by omega)⟩, fun ⟨le, m⟩ => ⟨le, .inr m⟩⟩
          simp only [← and_assoc, same]
    · obtain ⟨u, merged, kept, bytes⟩ := ih rest t wf bus h
      refine ⟨u, ?_, kept, fun a => ?_⟩
      · simp only [State.mergeBytes, marked, Bool.not_false, if_true, merged]
      · rw [bytes]
        unfold DWord.stored
        by_cases hit : a - pa = o
        · simp [hit, marked]
        · simp [hit]

end

theorem wordInside {v n f : Nat} (aligned : v % n = 0) (size : n = 2 ^ f) (width : f < 4) : v % 8 + n ≤ 8 := by
  subst size
  rcases (by omega : f = 0 ∨ f = 1 ∨ f = 2 ∨ f = 3) with rfl | rfl | rfl | rfl <;> omega

section
variable {o : CtM} {s u : State} {v : Nat}

theorem execCtLoad_done (aligned : s.ctAddr s.actCore o % 2 ^ (o.f3.toNat % 4) = 0)
    (read : s.ctRead s.actCore (s.ctAddr s.actCore o) (2 ^ (o.f3.toNat % 4)) = .done u v) :
    exec (.ctLoad o) s = .next (u.ctDone s.actCore o.r.toNat (extendTo64 (2 ^ (o.f3.toNat % 4)) (decide (4 ≤ o.f3.toNat)) v)) := by
  show execCtLoad o s = _
  unfold execCtLoad
  simp only [aligned, read, ne_eq, not_true_eq_false, if_false]
  rfl

theorem execCtStore_done (aligned : s.ctAddr s.actCore o % 2 ^ o.f3.toNat = 0)
    (write : s.ctWrite s.actCore (s.ctAddr s.actCore o) (2 ^ o.f3.toNat) ((s.ct s.actCore).xreg o.r.toNat).toNat = .done u 0) :
    exec (.ctStore o) s = .next (u.ctDone s.actCore 0 0) := by
  show execCtStore o s = _
  unfold execCtStore
  simp only [aligned, write, ne_eq, not_true_eq_false, if_false]
  rfl

theorem extendTo64_eq (n f v : Nat) : extendTo64 n (decide (4 ≤ f)) v =
    if 4 ≤ f then BitVec.ofNat 64 v else BitVec.ofInt 64 (sval (8 * n) v) := by
  by_cases unsigned : 4 ≤ f
  · rw [decide_eq_true unsigned, if_pos unsigned]; rfl
  · rw [decide_eq_false unsigned, if_neg unsigned, ofInt_sval]

/-- A Dirty word whose bytes have been stored leaves the cache (R381). -/
theorem execDcacheEviction_dirty {c key : Nat} {x : DWord} (hit : (s.ct c).dcache.find key = some x) (dirty : x.st = .dirty)
    (merged : s.mergeBytes c key x (List.range 8) s = .done u 0 none) :
    ∃ t, exec (.dcacheEviction c key) s = .next t ∧ (t.ct c).dcache.find key = none ∧ t.mem = u.mem := by
  have out : s.writeOut c key = .done (u.setDcache c ((u.ct c).dcache.put key (x.owned (u.wordNow key)))) 0 none := by
    unfold State.writeOut
    simp only [hit, dirty, merged, ne_eq, not_true_eq_false, if_false]
  refine ⟨(u.setDcache c ((u.ct c).dcache.put key (x.owned (u.wordNow key)))).ctForget c key,
    congrArg Host.Outcome.next (by rw [out]), ?_, rfl⟩
  unfold State.ctForget
  rw [State.ct_setDcache]
  exact Tab.find_drop_self ..

end

/-- Settles O39: a load hits or fills its line, a store puts its bytes into the cache, an eviction stores the marked bytes. -/
theorem controlThreadMemory : Obligations.ControlThreadMemory := by
  intro o q s pa x
  dsimp only
  refine ⟨fun aligned _ at_ hit all => ?_, fun aligned _ at_ place absent room ⟨bus, h⟩ free => ?_,
    fun aligned width at_ room ⟨bus, h⟩ free => ?_, fun aligned small wf hit dirty ⟨bus, h⟩ => ?_⟩
  · rw [execCtLoad_done aligned (State.ctRead_hit at_ hit all), extendTo64_eq]
  · have inside := wordInside aligned rfl (Nat.mod_lt _ (by decide))
    obtain ⟨u, cache, read, mem, keeps⟩ := State.ctRead_fill at_ rfl place inside absent
      (State.dcacheRoom_of_room room absent) free bus h
    obtain ⟨keep, resv, ct⟩ := keeps.ct s.actCore
    refine ⟨_, execCtLoad_done aligned read, fun d => ?_, mem, ?_⟩
    · rw [State.xreg_ctDone (by simpa [← BitVec.toNat_inj] using d), extendTo64_eq]
    · rw [State.ct_ctDone, State.ct_setDcache, ct]
      exact congrArg (fun n => (s.ct s.actCore).pc + BitVec.ofNat 64 n) keeps.turn.2
  · have inside := wordInside aligned rfl width
    obtain ⟨u, write, mem, xs, pc, len⟩ := State.ctWrite_puts ((s.ct s.actCore).xreg q.r.toNat).toNat at_ rfl room free bus h
    obtain ⟨z, found, dirty, bytes, mask⟩ := u.ctPut_word s.actCore (dkey s.flash.modId.toNat (pa / 8 * 8))
      ((s.ct s.actCore).xreg q.r.toNat).toNat inside
    obtain ⟨mem', xs', pc', len'⟩ := u.ctPut_rest s.actCore (dkey s.flash.modId.toNat (pa / 8 * 8))
      (s.ctAddr s.actCore q % 8) (2 ^ q.f3.toNat) ((s.ct s.actCore).xreg q.r.toNat).toNat
    refine ⟨_, z, execCtStore_done aligned write, ?_, dirty, bytes, mask, mem'.trans mem, ?_, ?_⟩
    · rw [State.ct_ctDone]; exact found
    · rw [State.ct_ctDone]; exact xs'.trans xs
    · rw [State.ct_ctDone]
      show _ + _ = _
      rw [len', len, ← pc, ← pc']
  · have word : dkey s.flash.modId.toNat (pa / 8 * 8) = dkey s.flash.modId.toNat pa := by
      rw [Nat.div_mul_cancel (Nat.dvd_of_mod_eq_zero aligned)]
    rw [word] at hit ⊢
    obtain ⟨u, merged, -, bytes⟩ := s.mergeBytes_plain s.actCore x aligned small (List.range 8)
      (fun o m => List.mem_range.1 m) s wf bus h
    obtain ⟨t, run, gone, mem⟩ := execDcacheEviction_dirty hit dirty merged
    refine ⟨t, run, gone, fun j inside => ?_, fun a outside => ?_⟩
    · rw [mem, bytes]
      simp [DWord.stored, inside]
    · rw [mem, bytes]
      exact if_neg fun ⟨le, m, _⟩ => by
        have := List.mem_range.1 m
        omega

end Sys2Proof.Machine
end

section
/-! # AMO, LR and SC of the control thread (O40)

The three share `ctAtomic`: where the thread has no Dirty word nothing is written out first, the operation is done on an ordinary
line, and the thread then drops its copy, acquires where the instruction says so, and goes on. -/

namespace Sys2Proof.Machine

section
variable {o : CtA} {s u : State} {pa v : Nat}

/-- The width of an atomic instruction, and its address. -/
def atomicWidth (o : CtA) : Nat := if o.d64 then 8 else 4
def State.atomicAddr (s : State) (o : CtA) : Nat := ((s.ct s.actCore).xreg o.a.toNat).toNat

/-- The key of an ordinary word of this module in data caches. -/
def State.wordKey (s : State) (pa : Nat) : Nat := dkey s.flash.modId.toNat (pa / 8 * 8)

/-- What O40 asks of the state before an atomic instruction that reads or writes an ordinary word. -/
structure CtAtomicReady (o : CtA) (s : State) (pa : Nat) (reads writes : Bool) : Prop where
  aligned : s.atomicAddr o % atomicWidth o = 0
  at_ : s.colAt s.actCore (s.dataMach s.actCore) (s.atomicAddr o) (atomicWidth o) reads writes = .ok (.here pa)
  plain : Plain s pa
  bus : s.busHeld (.ct s.actCore) = false
  free : s.ctFree s.actCore = true
  still : ∀ e ∈ (s.ct s.actCore).dcache, e.2.st ≠ .dirty
  settled : o.rl = true → (s.ct s.actCore).posted = false

/-- How an atomic instruction ends in state `t`, its operation done and the thread's copy of the word gone. -/
def atomicEnd (o : CtA) (c : Nat) (t : State) (w : Word) : State :=
  (if o.aq then t.ctAcquire c else t).ctDone c o.d.toNat w

/-- Nothing is written out first where the thread has no Dirty word and its posted writes are done. -/
theorem ctAtomic_done {reads writes hostOk : Bool} {f : State → Nat → Place → Nat → Nat → Acc} {g : Nat → Word}
    {fin : State → Nat → State} (h : CtAtomicReady o s pa reads writes)
    (run : f s s.actCore (.here pa) (atomicWidth o) (s.atomicAddr o) = .done u v none) :
    ctAtomic o s reads writes hostOk f g fin = .next
      (atomicEnd o s.actCore (fin (u.ctForget s.actCore (s.wordKey pa)) (s.wordKey pa / 64)) (g v)) := by
  have aligned := h.aligned
  have at_ := h.at_
  have settled (need : Bool) (rl : need = true → o.rl = true) (va : Nat) :
      s.hostSettled need (.ct s.actCore) va = .done s 0 none :=
    State.hostSettled_of_not_posted s need _ va fun n => h.settled (rl n)
  have first := settled (o.rl && s.sharedPage s.actCore (s.dataMach s.actCore) (s.atomicAddr o))
    (fun n => (Bool.and_eq_true_iff.1 n).1) (s.atomicAddr o)
  have ordered (key : Nat) : s.ctOrdered s.actCore key o.rl = .done s 0 none := by
    unfold State.ctOrdered
    split
    · exact State.ctRelease_still h.still
    · exact State.writeOut_still h.still key
  unfold atomicWidth State.atomicAddr at *
  unfold ctAtomic
  simp only [aligned, at_, Place.word, h.free, ordered, first, run, ne_eq, not_true_eq_false, Bool.not_true, Bool.false_eq_true,
    if_false]
  rfl

/-- The state after an access of the control thread of core `c` whose cache has no word of key `key` any more. -/
structure Forgot (s t : State) (c key : Nat) : Prop where
  ct : ∃ cache resv, t.ct c = { s.ct c with dcache := cache, resv := resv } ∧ cache.find key = none
  rest : ∀ d e, t.hart d e = s.hart d e ∧ t.bank d e = s.bank d e
  len : t.actLen = s.actLen

theorem AccessKeeps.forgot (h : AccessKeeps s u) (c key : Nat) : Forgot s (u.ctForget c key) c key where
  ct := by
    obtain ⟨keep, resv, ct⟩ := h.ct c
    refine ⟨(u.ct c).dcache.drop key, resv, ?_, Tab.find_drop_self ..⟩
    rw [State.ctForget, State.ct_setDcache, ct]
  rest d e := ⟨(State.hart_setCt ..).trans (h.harts d e), (State.bank_setCt ..).trans (h.banks d e)⟩
  len := h.turn.2

theorem Forgot.setResv {c key : Nat} (h : Forgot s u c key) (resv : Option Nat) :
    Forgot s (u.setCt c { u.ct c with resv := resv }) c key where
  ct := by
    obtain ⟨cache, _, ct, gone⟩ := h.ct
    exact ⟨cache, resv, by rw [State.ct_setCt, ct], gone⟩
  rest d e := ⟨(State.hart_setCt ..).trans (h.rest d e).1, (State.bank_setCt ..).trans (h.rest d e).2⟩
  len := h.len

theorem Forgot.acquire {c key : Nat} (h : Forgot s u c key) : Forgot s (u.ctAcquire c) c key where
  ct := by
    obtain ⟨cache, resv, ct, gone⟩ := h.ct
    refine ⟨cache.filter fun e => e.2.st != .clean, resv, ?_, Tab.find_filter_none _ gone⟩
    rw [State.ctAcquire, State.ct_setDcache, ct]
  rest d e := ⟨(State.hart_setCt ..).trans (h.rest d e).1, (State.bank_setCt ..).trans (h.rest d e).2⟩
  len := h.len

/-- What an atomic instruction leaves, in the words of O40. -/
theorem Forgot.ends {c key : Nat} (h : Forgot s u c key) (o : CtA) (w : Word) :
    ((o.d ≠ 0 → ((atomicEnd o c u w).ct c).xreg o.d.toNat = w) ∧ ((atomicEnd o c u w).ct c).dcache.find key = none ∧
      ((atomicEnd o c u w).ct c).pc = (s.ct c).pc + BitVec.ofNat 64 s.actLen ∧
      ∀ d e, (atomicEnd o c u w).hart d e = s.hart d e ∧ (atomicEnd o c u w).bank d e = s.bank d e) ∧
      ((atomicEnd o c u w).ct c).resv = (u.ct c).resv ∧ (atomicEnd o c u w).mem = u.mem := by
  have acquired : Forgot s (if o.aq then u.ctAcquire c else u) c key := by split; exacts [h.acquire, h]
  have same : ((if o.aq then u.ctAcquire c else u).ct c).resv = (u.ct c).resv ∧ (if o.aq then u.ctAcquire c else u).mem = u.mem := by
    split
    · exact ⟨by rw [State.ctAcquire, State.ct_setDcache], rfl⟩
    · exact ⟨rfl, rfl⟩
  unfold atomicEnd
  generalize (if o.aq then u.ctAcquire c else u) = t at acquired same
  obtain ⟨cache, resv, ct, gone⟩ := acquired.ct
  refine ⟨⟨fun d => State.xreg_ctDone (by simpa [← BitVec.toNat_inj] using d) w, ?_, ?_, fun d e => ?_⟩, ?_, same.2⟩
  · rw [State.ct_ctDone, ct, ← gone]
    unfold Ct.setX
    split <;> rfl
  · rw [State.ct_ctDone, ct, acquired.len]
  · rw [State.hart_ctDone, State.bank_ctDone]
    exact acquired.rest d e
  · rw [State.ct_ctDone, ← same.1]
    unfold Ct.setX
    split <;> rfl

end

/-- What an AMO of the control thread writes (R123). -/
theorem amoNew_ctAmoFn {f5 : BitVec 5} {bits old x v : Nat} (h : (f5, v) ∈ ([(0, (old + x) % 2 ^ bits), (1, x), (4, old ^^^ x),
      (8, old ||| x), (12, old &&& x), (16, if sval bits old ≤ sval bits x then old else x),
      (20, if sval bits old ≤ sval bits x then x else old), (24, min old x), (28, max old x)] : List (BitVec 5 × Nat))) :
    amoNew (ctAmoFn f5.toNat) bits old x 0 = some v := by
  simp only [List.mem_cons, Prod.mk.injEq, List.not_mem_nil, or_false] at h
  rcases h with ⟨rfl, rfl⟩ | ⟨rfl, rfl⟩ | ⟨rfl, rfl⟩ | ⟨rfl, rfl⟩ | ⟨rfl, rfl⟩ | ⟨rfl, rfl⟩ | ⟨rfl, rfl⟩ | ⟨rfl, rfl⟩ | ⟨rfl, rfl⟩ <;>
    rfl

/-! ### The four instructions -/

section
variable {o : CtA} {s : State} {pa : Nat}

theorem execCtAmo_done {v : Nat} (h : CtAtomicReady o s pa true true)
    (new : amoNew (ctAmoFn o.f5.toNat) (8 * atomicWidth o) (s.mem.read pa (atomicWidth o))
      (((s.ct s.actCore).xreg o.b.toNat).toNat % 2 ^ (8 * atomicWidth o)) 0 = some v) :
    ∃ u, exec (.ctAmo o) s = .next (atomicEnd o s.actCore (u.ctForget s.actCore (s.wordKey pa))
        (extendTo64 (atomicWidth o) false (s.mem.read pa (atomicWidth o)))) ∧
      u.mem = s.mem.write pa (atomicWidth o) v ∧ AccessKeeps s u := by
  obtain ⟨u, run, mem, keeps⟩ := h.plain.atomicBy h.bus (some s.actCore) (s.atomicAddr o) (atomicWidth o) (ctAmoFn o.f5.toNat)
    (((s.ct s.actCore).xreg o.b.toNat).toNat % 2 ^ (8 * atomicWidth o)) 0 true new
  refine ⟨u, ?_, mem, keeps⟩
  show execCtAmo o s = _
  unfold execCtAmo
  exact ctAtomic_done h run

theorem execCtLr_done (h : CtAtomicReady o s pa true false) :
    ∃ u, exec (.ctLr o) s = .next (atomicEnd o s.actCore ((u.ctForget s.actCore (s.wordKey pa)).setCt s.actCore
        { (u.ctForget s.actCore (s.wordKey pa)).ct s.actCore with resv := some (s.wordKey pa / 64) })
        (extendTo64 (atomicWidth o) false (s.mem.read pa (atomicWidth o)))) ∧ u.mem = s.mem ∧ AccessKeeps s u := by
  have keeps := accessKeeps_readLine s (.ct s.actCore) pa
  have load := h.plain.loadBy h.bus (s.atomicAddr o) (atomicWidth o)
  refine ⟨s.readLine (.ct s.actCore) pa, ?_, s.readLine_mem _ _, keeps⟩
  generalize s.readLine (.ct s.actCore) pa = u at keeps load
  have core : (u.ctForget s.actCore (s.wordKey pa)).actCore = s.actCore := keeps.turn.1
  show execCtLr o s = _
  unfold execCtLr
  refine (ctAtomic_done h load).trans ?_
  rw [core]
  rfl

/-- SC whose operation has left state `u` and answers `v`. -/
theorem execCtSc_done {u : State} {v : Nat} (h : CtAtomicReady o s pa false true) (keeps : AccessKeeps s u)
    (run : (if (s.ct s.actCore).resv ≠ some (s.wordKey pa / 64) then Acc.done s 1 none
      else match s.store (.ct s.actCore) (some s.actCore) (s.atomicAddr o) (.here pa) (atomicWidth o)
          ((s.ct s.actCore).xreg o.b.toNat).toNat with
        | .wait t => .wait t
        | .done t _ _ => .done t 0 none) = .done u v none) :
    exec (.ctSc o) s = .next (atomicEnd o s.actCore ((u.ctForget s.actCore (s.wordKey pa)).setCt s.actCore
      { (u.ctForget s.actCore (s.wordKey pa)).ct s.actCore with resv := none }) (BitVec.ofNat 64 v)) := by
  have core : (u.ctForget s.actCore (s.wordKey pa)).actCore = s.actCore := keeps.turn.1
  show execCtSc o s = _
  unfold execCtSc
  refine (ctAtomic_done (u := u) (v := v) h ?_).trans ?_
  · rw [← run]
    simp only [Place.word, Bool.not_false, and_true]
    rfl
  · rw [core]

end

/-- Settles O40: each instruction is `ctAtomic` with its operation on an ordinary line. -/
theorem controlThreadAtomics : Obligations.ControlThreadAtomics := by
  intro o s pa
  dsimp only
  refine ⟨fun v ⟨aligned, at_, plain, bus, free, still, settled⟩ new => ?_,
    fun ⟨aligned, at_, plain, bus, free, still, settled⟩ => ?_,
    fun ⟨aligned, at_, plain, bus, free, still, settled⟩ held => ?_,
    fun ⟨aligned, at_, plain, bus, free, still, settled⟩ lost => ?_⟩
  · have h : CtAtomicReady o s pa true true := ⟨aligned, at_, plain, bus, free, still, settled⟩
    obtain ⟨u, run, mem, keeps⟩ := execCtAmo_done h (amoNew_ctAmoFn new)
    obtain ⟨rd, -, same⟩ := (keeps.forgot s.actCore (s.wordKey pa)).ends o
      (extendTo64 (atomicWidth o) false (s.mem.read pa (atomicWidth o)))
    rw [ofInt_sval] at *
    exact ⟨_, run, rd, same.trans mem⟩
  · have h : CtAtomicReady o s pa true false := ⟨aligned, at_, plain, bus, free, still, settled⟩
    obtain ⟨u, run, mem, keeps⟩ := execCtLr_done h
    obtain ⟨rd, resv, same⟩ := ((keeps.forgot s.actCore (s.wordKey pa)).setResv (some (s.wordKey pa / 64))).ends o
      (extendTo64 (atomicWidth o) false (s.mem.read pa (atomicWidth o)))
    rw [ofInt_sval] at *
    exact ⟨_, run, rd, resv.trans (by rw [State.ct_setCt]; rfl), same.trans mem⟩
  · have h : CtAtomicReady o s pa false true := ⟨aligned, at_, plain, bus, free, still, settled⟩
    obtain ⟨u, stored, mem, keeps⟩ := plain.storeBy bus (some s.actCore) (s.atomicAddr o) (atomicWidth o)
      ((s.ct s.actCore).xreg o.b.toNat).toNat
    have run := execCtSc_done h keeps (v := 0) ((if_neg (not_not.2 held)).trans (by rw [stored]))
    obtain ⟨rd, resv, same⟩ := ((keeps.forgot s.actCore (s.wordKey pa)).setResv none).ends o 0
    exact ⟨_, run, rd, resv.trans (by rw [State.ct_setCt]), same.trans mem⟩
  · have h : CtAtomicReady o s pa false true := ⟨aligned, at_, plain, bus, free, still, settled⟩
    have run := execCtSc_done h (.refl s) (v := 1) (if_pos lost)
    obtain ⟨rd, resv, same⟩ := (((AccessKeeps.refl s).forgot s.actCore (s.wordKey pa)).setResv none).ends o 1
    exact ⟨_, run, rd, resv.trans (by rw [State.ct_setCt]), same⟩

end Sys2Proof.Machine
end

section
/-! # The events that end a step of a word in progress (O53)

Each event finds its work as the hart's present word and leaves, but for the word's own register, the registers and memory. The rules
on what an event does to one hart come first; the moves between harts and the copy have their own parts. -/

namespace Sys2Proof.Machine

section
variable {s t : State} {c b : Nat}

/-! ### The block of a split hart (R129, R133) -/

/-- The hart once it has taken a block. -/
def Hart.withBlock (h : Hart) (words : List Nat) (cache : List (Nat × List Nat)) : Hart :=
  { h with blk := words, hpc := if h.wordIdx = 0 then h.hpc + 4 else h.hpc, req := none, cache := cache }

theorem State.takeBlock_good {words : List Nat} (good : headerGood (words.headD 0) = true) (cache : List (Nat × List Nat)) :
    s.takeBlock c b words cache = (s.setHart c b ((s.hart c b).withBlock words cache), true) := by
  unfold State.takeBlock
  simp only [good, Bool.not_true, Bool.false_eq_true, if_false]
  rfl

/-- Two states whose hart `b` of core `c` stands at the same place with the same blocks. -/
def SameFetch (c b : Nat) (s t : State) : Prop :=
  (t.hart c b).hpc = (s.hart c b).hpc ∧ (t.hart c b).cache = (s.hart c b).cache

theorem sameFetch_of_keeps (h : AccessKeeps s t) : SameFetch c b s t := by
  unfold SameFetch
  rw [h.harts]
  exact ⟨rfl, rfl⟩

theorem sameFetch_setHostData (got : Tab Nat) : SameFetch c b s (s.setHostData (.hart c b) got) := by
  unfold SameFetch State.setHostData
  rw [State.hart_setHart]
  exact ⟨rfl, rfl⟩

theorem SameFetch.trans {u : State} (h : SameFetch c b s t) (k : SameFetch c b t u) : SameFetch c b s u :=
  ⟨k.1.trans h.1, k.2.trans h.2⟩

/-- A read that meets no condition leaves the hart's place and blocks. -/
theorem sameFetch_readHere {va pa n v : Nat} (h : s.readHere (.hart c b) va pa n = .done t v none) : SameFetch c b s t := by
  have found (u : State) (x : Side) (same : SameFetch c b s u) (h : u.foundHere (.hart c b) pa n x = .done t v none) :
      SameFetch c b s t := by
    unfold State.foundHere at h
    injection h with state _ cond
    rw [cond, if_neg (by simp)] at state
    rw [← state]
    exact same.trans (sameFetch_of_keeps ((accessKeeps_accessUnits u pa).trans (accessKeeps_mscFill _ _)))
  have had := sameFetch_of_keeps (c := c) (b := b) (accessKeeps_hadFirst s (.hart c b) (lineOf pa))
  unfold State.readHere at h
  split at h
  · cases h
  split at h
  · cases h
  dsimp only at h
  split at h
  · split at h
    · split at h
      · injection h with state _ _
        rw [← state]
        exact (sameFetch_setHostData _).trans (sameFetch_of_keeps (accessKeeps_hadFirst _ _ _))
      · cases h
    · exact found _ _ had h
  · exact found _ _ had h

/-- What O53 says of SPLIT_BLOCK_FETCH. -/
theorem splitBlockFetch_takes {l : Loc} {words : List Nat} (split : (s.hart c b).st = .split) (idle : (s.hart c b).pend = none)
    (empty : (s.hart c b).blk = []) (good : headerGood (words.headD 0) = true)
    (at_ : s.translateOn c false (s.hart c b).blockVa .fetch false false = .ok l) :
    (Tab.find (s.hart c b).cache (s.hart c b).blockVa = some words → exec (.splitBlockFetch c b) s =
      .next (s.setHart c b ((s.hart c b).withBlock words (s.hart c b).cache))) ∧
    ∀ u v, Tab.find (s.hart c b).cache (s.hart c b).blockVa = none →
      s.readHere (.hart c b) (s.hart c b).blockVa (linePa (lineOf l.pa)) 64 = .done u v none → words = blockWords v →
      exec (.splitBlockFetch c b) s = .next (u.setHart c b ((u.hart c b).withBlock words
        ((if (u.hart c b).cache.length < Config.blockCacheSize then (u.hart c b).cache else (u.hart c b).cache.drop 1) ++
          [((s.hart c b).blockVa, words)]))) := by
  have run : exec (.splitBlockFetch c b) s = .next (s.splitFetch c b).1 := by
    show execSplitBlockFetch c b s = _
    unfold execSplitBlockFetch
    rw [if_pos ⟨split, by rw [idle]; rfl⟩]
  refine ⟨fun hit => ?_, fun u v miss read block => ?_⟩
  · rw [run]
    unfold State.splitFetch
    simp only [empty, at_, hit, State.takeBlock_good good, ne_eq, not_true_eq_false, if_false]
  · subst block
    rw [run]
    unfold State.splitFetch
    simp only [empty, at_, miss, read, State.takeBlock_good good, ne_eq, not_true_eq_false, if_false]

/-! ### Lane cycles (R197 to R200) -/

/-- What O53 says of an event: the work in progress it leaves, every register, and memory as it was. -/
def Steps (s : State) (c b : Nat) (i : Instr) (p : Pend) (f : Nat → VReg) : Prop :=
  ∃ t, exec i s = .next t ∧ (t.hart c b).pend = some p ∧ (∀ r, t.reg c b r = f r) ∧ t.mem = s.mem

theorem steps_setPend {i : Instr} {u : State} {p : Pend} (run : exec i s = .next (u.setPend c b (some p))) (mem : u.mem = s.mem) :
    Steps s c b i p fun r => u.reg c b r :=
  ⟨_, run, by rw [State.pend_setPend], fun r => by rw [State.reg_setPend], mem⟩

theorem Steps.congr {i : Instr} {p : Pend} {f f' : Nat → VReg} (h : Steps s c b i p f) (e : ∀ r, f r = f' r) :
    Steps s c b i p f' := by
  rwa [show f' = f from (funext e).symm]

theorem State.setLane_going {op : LaneOp} (h : op.buf ≠ []) : s.setLane c b op = s.setPend c b (some (.lane op)) :=
  if_neg fun e => h e.2.1

theorem State.reg_endWrite (s : State) (c b d r : Nat) : (s.endWrite c b d).reg c b r =
    if r = d then { s.reg c b r with arrival := 0xffffffff } else s.reg c b r := by
  unfold State.endWrite
  by_cases h : r = d
  · subst h; rw [State.reg_setReg, if_pos rfl]
  · rw [State.reg_setReg_of_ne _ _ _ _ h, if_neg h]

theorem State.reg_endDests (s : State) (c b : Nat) (op : LaneOp) (r : Nat) : (s.endDests c b op).reg c b r =
    if r ∈ op.dests then { s.reg c b r with arrival := 0xffffffff } else s.reg c b r := by
  unfold State.endDests
  generalize op.dests = l
  induction l generalizing s with
  | nil => rfl
  | cons d l ih =>
    rw [List.foldl_cons, ih, State.reg_endWrite]
    by_cases h : r = d
    · subst h; simp
    · simp [h]

theorem laneGroupCycle_runs {op : LaneOp} (at_ : (s.hart c b).pend = some (.lane op)) (alone : (s.hart c b).young = []) (agree : Bool) :
    exec (.laneGroupCycle c b agree) s = .next (s.laneCycle c b op agree) := by
  show execLaneGroupCycle c b agree s = _
  unfold execLaneGroupCycle
  rw [if_neg (not_not.2 alone), at_]

/-- What O53 says of LANE_GROUP_CYCLE. -/
theorem laneGroupCycle_steps {op : LaneOp} {g : Grp} {rest : List Grp} (at_ : (s.hart c b).pend = some (.lane op))
    (alone : (s.hart c b).young = []) :
    (∀ agree, op.again = false → op.todo = g :: rest → op.buf.length < 16 →
      Steps s c b (.laneGroupCycle c b agree) (.lane { op with todo := rest, buf := op.buf ++ [g] }) fun r => s.reg c b r) ∧
    (op.todo = [] → op.buf = g :: rest → rest ≠ [] → Steps s c b (.laneGroupCycle c b true)
      (.lane { op with buf := rest, again := false }) fun r => (s.commitGrp c b op g).reg c b r) ∧
    (op.again = false → op.todo = [] → op.buf = g :: rest →
      Steps s c b (.laneGroupCycle c b false) (.lane { op with again := true }) fun r => s.reg c b r) ∧
    (op.again = true → op.buf = g :: rest → Steps s c b (.laneGroupCycle c b false)
      (.trapped 0x43 (g.g * 2 ^ 32 + op.word) g.g) fun r =>
        if r ∈ op.dests then { s.reg c b r with arrival := 0xffffffff } else s.reg c b r) := by
  have run (agree : Bool) {u : State} (h : s.laneCycle c b op agree = u) := h ▸ laneGroupCycle_runs at_ alone agree
  refine ⟨fun agree first todo room => ?_, fun todo buf more => ?_, fun first todo buf => ?_, fun again buf => ?_⟩
  · refine steps_setPend (u := s) (run agree ?_) rfl
    rw [← State.setLane_going (by simp)]
    unfold State.laneCycle
    simp only [first, todo, Bool.false_eq_true, if_false]
    exact if_pos room
  · refine steps_setPend (run true ?_) (State.commitGrp_mem ..)
    rw [← State.setLane_going more]
    unfold State.laneCycle
    simp only [todo, buf, if_true, ite_self]
  · refine steps_setPend (u := s.addScore 1 c 64) (run false ?_) rfl
    rw [← State.setLane_going (op := { op with again := true }) (by simp [buf])]
    unfold State.laneCycle
    simp only [first, todo, buf, Bool.false_eq_true, if_false]
  · refine (steps_setPend (u := (s.endDests c b op).addScore 1 c 64) (run false ?_) (State.endDests_mem ..)).congr
      (s.reg_endDests c b op)
    unfold State.laneCycle
    simp only [again, buf, Bool.false_eq_true, if_false, if_true]
    rfl

end

section
variable {s t : State} {c b : Nat}

/-! ### Row operations (R228, R230) -/

/-- The step of the present word's own work is taken first. -/
theorem State.workStep_present {p : Pend} {f : Pend → Option (State → State)} {g : State → State}
    (at_ : (s.hart c b).pend = some p) (h : f p = some g) : s.workStep c b f = g s := by
  unfold State.workStep
  rw [at_]
  simp only [Option.bind_some, h]

theorem State.reg_advanceHandle_none (s : State) (c b r : Nat) : (s.advanceHandle c b none).reg c b r = s.reg c b r :=
  State.reg_setHart ..

/-- What O53 says of ACT_SENSE_COMPLETE. -/
theorem actSenseComplete_steps {k pa : Nat} (at_ : (s.hart c b).pend = some (.sense k pa none)) :
    Steps s c b (.actSenseComplete c b) .done fun r => if r = k then s.sensed c b k pa else s.reg c b r := by
  have run : exec (.actSenseComplete c b) s = .next (((s.senseRow c b k pa).advanceHandle c b none).setPend c b (some .done)) :=
    congrArg Host.Outcome.next (State.workStep_present (g := fun t => t.senseDone c b k pa none) at_ rfl)
  refine (steps_setPend run (by simp)).congr fun r => ?_
  rw [State.reg_advanceHandle_none, (sameWork_senseRow s).reg]
  by_cases h : r = k
  · subst h; rw [State.reg_setReg, if_pos rfl]
  · rw [State.reg_setReg_of_ne _ _ _ _ h, if_neg h]

/-- What O53 says of WB_CAPTURE_COMPLETE. -/
theorem wbCaptureComplete_steps {k pa : Nat} {close : Bool} (at_ : (s.hart c b).pend = some (.capture k pa close none)) :
    Steps s c b (.wbCaptureComplete c b) (.rowWrite k pa ((s.reg c b k).content k) (s.reg c b k).conds none)
      fun r => if r = k then (s.reg c b k).written pa close else s.reg c b r := by
  have run : exec (.wbCaptureComplete c b) s = .next ((s.setReg c b k ((s.reg c b k).written pa close)).setPend c b
      (some (.rowWrite k pa ((s.reg c b k).content k) (s.reg c b k).conds none))) :=
    congrArg Host.Outcome.next (State.workStep_present (g := fun t => t.captureDone c b k pa close none) at_ rfl)
  refine (steps_setPend run rfl).congr fun r => ?_
  by_cases h : r = k
  · subst h; rw [State.reg_setReg, if_pos rfl]
  · rw [State.reg_setReg_of_ne _ _ _ _ h, if_neg h]

/-- What O53 says of ROW_WRITE_COMPLETE. -/
theorem rowWriteComplete_steps {k pa bits : Nat} {conds : Tab LineCond}
    (at_ : (s.hart c b).pend = some (.rowWrite k pa bits conds none)) :
    ∃ t, exec (.rowWriteComplete c b) s = .next t ∧ (t.hart c b).pend = some .done ∧ t.mem = s.mem.place pa 13 bits ∧
      ∀ d e, t.bank d e = s.bank d e := by
  have run : exec (.rowWriteComplete c b) s =
      .next (((s.writeRow pa bits conds).advanceHandle c b none).setPend c b (some .done)) :=
    congrArg Host.Outcome.next (State.workStep_present (g := fun t => t.rowWriteDone c b pa bits conds none) at_ rfl)
  refine ⟨_, run, State.pend_setPend .., ?_, fun d e => ?_⟩
  · rw [State.setPend_mem, State.advanceHandle_mem, State.writeRow_mem]
  · rw [State.bank_setPend, State.advanceHandle, State.bank_setHart]
    exact bank_of_sameWork (fun c b => sameWork_writeRow s c b pa bits conds) d e

/-! ### Groups of a gather, and loads (R259, R395) -/

theorem State.workOn_work {p : Pend} {ok : Pend → Bool} {f : State → Nat → Nat → Pend → HRes}
    (at_ : (s.hart c b).pend = some p) (yes : ok p = true) (work : f s c b p = .work t) : s.workOn c b ok f = t := by
  unfold State.workOn
  simp only [at_, yes, work, HRes.walks, Bool.not_true, Bool.false_eq_true, if_false]

/-- The group asked for commits, where more of the gather is left. -/
theorem GForm.gatherPoll_group (f : GForm) {left : List Nat} {op : LaneOp} {g : Grp} {n : Nat}
    (found : op.todo.find? (fun x => x.g == n) = some g) (more : left ≠ [] ∨ (op.todo.filter fun x => x.g != n) ≠ []) :
    f.gatherPoll (some n) true s c b (.gather left op) = .work ((s.commitGrp c b op g).setPend c b
      (some (.gather left { op with todo := op.todo.filter fun x => x.g != n }))) := by
  have number : g.g = n := by simpa using List.find?_some found
  have going : ¬(left = [] ∧ (op.todo.filter fun x => x.g != n) = []) := fun ⟨l, r⟩ => more.elim (· l) (· r)
  have step : s.gatherStep c b left op g.g = (s.commitGrp c b op g).setPend c b
      (some (.gather left { op with todo := op.todo.filter fun x => x.g != n })) := by
    unfold State.gatherStep
    rw [number, found]
    exact if_neg going
  unfold GForm.gatherPoll
  simp only [Option.bind_some, found, step]

/-- What O53 says of GATHER_DATA_ARRIVAL. -/
theorem gatherDataArrival_steps {i : Instr} {f : GForm} {left : List Nat} {op : LaneOp} {g : Grp} {n : Nat}
    (at_ : (s.hart c b).pend = some (.gather left op)) (word : decodeHart (s.wordAt c b) = .ok i)
    (form : gatherForm i = some f) (found : op.todo.find? (fun x => x.g == n) = some g)
    (more : left ≠ [] ∨ (op.todo.filter fun x => x.g != n) ≠ []) :
    Steps s c b (.gatherDataArrival c ⟨b, n⟩) (.gather left { op with todo := op.todo.filter fun x => x.g != n })
      fun r => (s.commitGrp c b op g).reg c b r := by
  refine steps_setPend ?_ (State.commitGrp_mem ..)
  show execGatherDataArrival c ⟨b, n⟩ s = _
  unfold execGatherDataArrival
  simp only [word, form]
  exact congrArg Host.Outcome.next (State.workOn_work at_ rfl (f.gatherPoll_group found more))

/-- What O53 says of COLUMN_ACCESS_COMPLETE for a load. -/
theorem columnAccessComplete_ld {o : LDo} {pa : Nat} (at_ : (s.hart c b).pend = some (.column (.ld o)))
    (place : s.colAt c false (loadVa o.a o.o s c b) (2 ^ o.w.toNat) true false = .ok (.here pa))
    (bus : s.busHeld (.hart c b) = false) (h : Plain s pa) :
    ∃ t, exec (.columnAccessComplete c b) s = .next t ∧ (t.hart c b).pend = some .done ∧ t.mem = s.mem ∧
      (o.d ≠ 0 → (t.hart c b).greg o.d.toNat = extendTo64 (2 ^ o.w.toNat) o.u (s.mem.read pa (2 ^ o.w.toNat))) := by
  have load := h.loadBy bus (loadVa o.a o.o s c b) (2 ^ o.w.toNat)
  have mem := s.readLine_mem (.hart c b) pa
  generalize s.readLine (.hart c b) pa = u at load mem
  have poll : columnPoll s c b (.column (.ld o)) = .work ((u.setHart c b ((u.hart c b).setG o.d.toNat
      (extendTo64 (2 ^ o.w.toNat) o.u (s.mem.read pa (2 ^ o.w.toNat))))).setPend c b (some .done)) := by
    show ldPoll o true s c b (.column (.ld o)) = _
    unfold ldPoll
    simp only [place, load, answerAcc]
  refine ⟨_, congrArg Host.Outcome.next (State.workOn_work at_ rfl poll), State.pend_setPend .., mem, fun d => ?_⟩
  have reg : o.d.toNat ≠ 0 := by simpa [← BitVec.toNat_inj] using d
  simp [State.setPend, Hart.greg, Hart.setG, reg]

/-! ### Serge (R254) -/

theorem State.bank_dropStage (s : State) (c b r d e : Nat) : (s.dropStage c b r).bank d e = s.bank d e := by
  unfold State.dropStage
  split
  · split
    · exact State.bank_setCore _ _ (by rfl) d e
    · rfl
  · rfl

theorem State.putRegister_bits (s : State) (c b r v : Nat) : ((s.putRegister c b r v).reg c b r).bits = v := by
  unfold State.putRegister
  rw [State.reg, State.bank_dropStage]
  exact congrArg VReg.bits (State.reg_setReg ..)

theorem State.hart_putRegister (s : State) (c b r v d e : Nat) : (s.putRegister c b r v).hart d e = s.hart d e := by
  unfold State.putRegister
  rw [State.hart_dropStage, State.hart_setReg]

theorem State.putRegister_reg_of_ne (s : State) {c b r d e q : Nat} (v : Nat) (h : ¬(d = c ∧ e = b ∧ q = r)) :
    (s.putRegister c b r v).reg d e q = s.reg d e q := by
  unfold State.putRegister
  rw [State.reg, State.bank_dropStage]
  by_cases bank : d = c ∧ e = b
  · obtain ⟨rfl, rfl⟩ := bank
    exact State.reg_setReg_of_ne _ _ _ _ fun n => h ⟨rfl, rfl, n⟩
  · rw [State.setReg, State.bank_setBank_of_ne _ _ bank]
    rfl

/-- What O53 says of SERGE_TRANSFER_COMPLETE. -/
theorem sergeTransferComplete_moves {r x y z q : Nat} (send : (s.hart c b).pend = some (.send r x y z))
    (recv : (s.hart x y).pend = some (.recv q c b z)) (apart : x ≠ c ∨ y ≠ b) (good : (s.reg c b r).conds = []) :
    ∃ t, exec (.sergeTransferComplete c ⟨b, []⟩) s = .next t ∧ (t.hart c b).pend = some .done ∧
      (t.hart x y).pend = some .done ∧ (t.reg x y q).bits = (s.reg c b r).content r ∧ t.mem = s.mem := by
  have sending : s.sending c b = some ⟨r, x, y, z, false⟩ := by simp only [State.sending, send]
  have receiving : s.receiving x y = some ⟨q, c, b, z, false⟩ := by simp only [State.receiving, recv]
  have clean : s.sends c b r some ++ ([] : List Nat).map (fun n => (⟨n, b, n, .e2eBad⟩ : Carried)) = [] := by
    simp [State.sends, good]
  have moved : s.sergeTry [] c b = some (((s.setPend c b (some .done)).putRegister x y q ((s.reg c b r).content r)).setPend x y
      (some .done)) := by
    unfold State.sergeTry State.sergeMove
    simp only [sending, receiving, clean, and_self, if_true, ne_eq, not_true_eq_false, if_false, Bool.false_eq_true]
  have other : ¬(c = x ∧ b = y) := fun ⟨e, f⟩ => apart.elim (· e.symm) (· f.symm)
  refine ⟨_, congrArg Host.Outcome.next (by rw [moved]; rfl), ?_, State.pend_setPend .., ?_, ?_⟩
  · rw [State.setPend, State.hart_setHart_of_ne _ _ other, State.hart_putRegister, State.pend_setPend]
  · rw [State.reg_setPend, State.putRegister_bits]
  · simp

end

/-! ### Twill (R251, R252) -/

/-- In an ascending list an entry's place is the number of entries below it. -/
theorem rank_of_getElem {l : List Nat} (up : l.Pairwise (· < ·)) : ∀ {k y : Nat}, l[k]? = some y →
    (l.filter fun x => decide (x < y)).length = k := by
  induction l with
  | nil => intro k y h; cases h
  | cons x l ih =>
    obtain ⟨first, rest⟩ := List.pairwise_cons.1 up
    intro k y h
    cases k with
    | zero =>
      have here : x = y := by simpa using h
      subst here
      rw [List.filter_cons_of_neg (by simp), List.filter_eq_nil_iff.2 fun z m => by simpa using (first z m).le]
      rfl
    | succ k =>
      have there : l[k]? = some y := by simpa using h
      rw [List.filter_cons_of_pos (by simpa using first y (List.mem_of_getElem? there)), List.length_cons, ih rest there]

theorem Gang.banks_up (x : Gang) : x.banks.Pairwise (· < ·) := List.pairwise_lt_range.filter _

section
variable {s t u : State} {c g d a : Nat} {amt : Int}

/-- The row that member of rank `r` receives in a rotation (R251). -/
def State.rotated (s : State) (c g a : Nat) (amt : Int) (r : Nat) : Nat :=
  (s.gangRows c (s.gang c g).banks a).getD (((r : Int) - amt) % ((s.gang c g).banks.length : Int)).toNat 0

/-- Two states that agree in the gangs of a core, in memory, and in every register but `d`: what stays while a rotation into `d`
gives the members their rows. -/
structure RotateKeeps (c d : Nat) (s u : State) : Prop where
  gangs : (u.core c).gangs = (s.core c).gangs
  regs : ∀ y r, r ≠ d → u.reg c y r = s.reg c y r
  mem : u.mem = s.mem

theorem RotateKeeps.members (h : RotateKeeps c d s u) (y : Nat) : u.members c y true = s.members c y true := by
  unfold State.members State.gang Core.gangOf Core.gang
  rw [h.gangs]

theorem RotateKeeps.rank (h : RotateKeeps c d s u) (y : Nat) : u.rank c y true = s.rank c y true := by
  unfold State.rank State.gang Core.gangOf Core.gang
  rw [h.gangs]

/-- One member's end of a rotation. -/
theorem State.twillDone_rotates (h : RotateKeeps c d s u) (apart : d ≠ a) {y k : Nat} (mine : (s.core c).gangOf y = some g)
    (at_ : (s.gang c g).banks[k]? = some y) (good : ∀ z ∈ (s.gang c g).banks, (s.reg c z a).conds = []) :
    u.twillDone [] c y 0 d a amt = (u.putRegister c y d (s.rotated c g a amt k)).setPend c y (some .done) := by
  have members : u.members c y true = (s.gang c g).banks := by rw [h.members]; simp [State.members, mine]
  have rank : (u.rank c y true).1 = k := by
    rw [h.rank]
    simp only [State.rank, mine]
    exact rank_of_getElem (s.gang c g).banks_up at_
  have rows : u.gangRows c (s.gang c g).banks a = s.gangRows c (s.gang c g).banks a := by
    unfold State.gangRows
    simp only [h.regs _ a apart.symm]
  have row : twillRow 0 amt k (s.gangRows c (s.gang c g).banks a) = some (s.rotated c g a amt k) := by
    simp [twillRow, twillSource, State.rotated, State.gangRows]
  have clean : u.twillBad c y 0 a amt = [] := by
    unfold State.twillBad
    simp only [members, rank]
    refine List.flatMap_eq_nil_iff.2 fun r _ => ?_
    have member : (s.gang c g).banks.getD r y ∈ (s.gang c g).banks := by
      rw [List.getD_eq_getElem?_getD]
      cases found : (s.gang c g).banks[r]? with
      | none => exact List.mem_of_getElem? at_
      | some z => exact List.mem_of_getElem? found
    rw [State.sends, h.regs _ a apart.symm, good _ member]
    rfl
  unfold State.twillDone
  simp only [members, rank, rows, row, clean, List.map_nil, List.append_nil]

theorem State.core_dropStage_gangs (s : State) (c b r : Nat) : ((s.dropStage c b r).core c).gangs = (s.core c).gangs := by
  unfold State.dropStage
  split
  · split
    · rw [State.core_setCore]
    · rfl
  · rfl

theorem rotateKeeps_put (y v : Nat) : RotateKeeps c d u ((u.putRegister c y d v).setPend c y (some .done)) where
  gangs := by
    rw [State.setPend, State.core_setHart, Core.setHart_gangs, State.putRegister, State.core_dropStage_gangs, State.setReg,
      State.core_setBank, Core.setBank_gangs]
  regs z r n := by
    rw [State.reg_setPend]
    exact u.putRegister_reg_of_ne v fun e => n e.2.2
  mem := by simp

theorem RotateKeeps.trans (h : RotateKeeps c d s t) (k : RotateKeeps c d t u) : RotateKeeps c d s u :=
  ⟨k.gangs.trans h.gangs, fun y r n => (k.regs y r n).trans (h.regs y r n), k.mem.trans h.mem⟩

/-- One member's part of TWILL_TRANSFER_COMPLETE. -/
def State.twillTurn (c : Nat) (t : State) (b : Nat) : State :=
  t.workOn c b (fun p => match p with | .twill _ _ _ _ => true | _ => false) (twillPollWith [] true)

/-- What the members of a list have once they have received their rows, and what the others keep. -/
theorem twillTurns (apart : d ≠ a) (good : ∀ z ∈ (s.gang c g).banks, (s.reg c z a).conds = [])
    (mine : ∀ z ∈ (s.gang c g).banks, (s.core c).gangOf z = some g) (l : List Nat) (nodup : l.Nodup)
    (inside : ∀ y ∈ l, y ∈ (s.gang c g).banks) : ∀ u : State, RotateKeeps c d s u →
    (∀ y ∈ l, (u.hart c y).pend = some (.twill 0 d a amt)) →
    RotateKeeps c d s (l.foldl (State.twillTurn c) u) ∧
      (∀ k y : Nat, (s.gang c g).banks[k]? = some y → y ∈ l →
        ((l.foldl (State.twillTurn c) u).hart c y).pend = some .done ∧
          ((l.foldl (State.twillTurn c) u).reg c y d).bits = s.rotated c g a amt k) ∧
      ∀ y, y ∉ l → (l.foldl (State.twillTurn c) u).hart c y = u.hart c y ∧ (l.foldl (State.twillTurn c) u).reg c y d = u.reg c y d := by
  induction l with
  | nil => exact fun u h _ => ⟨h, fun _ _ _ m => absurd m List.not_mem_nil, fun _ _ => ⟨rfl, rfl⟩⟩
  | cons y l ih =>
    intro u h work
    obtain ⟨fresh, rest⟩ := List.nodup_cons.1 nodup
    have member := inside y List.mem_cons_self
    obtain ⟨k, at_⟩ := List.mem_iff_getElem?.1 member
    have turn : State.twillTurn c u y = (u.putRegister c y d (s.rotated c g a amt k)).setPend c y (some .done) :=
      State.workOn_work (work y List.mem_cons_self) rfl
        (congrArg HRes.work (State.twillDone_rotates h apart (mine y member) at_ good))
    have others {z : Nat} (n : z ≠ y) : (State.twillTurn c u y).hart c z = u.hart c z ∧
        (State.twillTurn c u y).reg c z d = u.reg c z d := by
      rw [turn, State.reg_setPend, State.setPend, State.hart_setHart_of_ne _ _ (fun e => n e.2), State.hart_putRegister]
      exact ⟨rfl, u.putRegister_reg_of_ne _ fun e => n e.2.1⟩
    have kept : RotateKeeps c d s (State.twillTurn c u y) := turn ▸ h.trans (rotateKeeps_put y _)
    obtain ⟨keeps, done, left⟩ := ih rest (fun z m => inside z (List.mem_cons_of_mem y m)) (State.twillTurn c u y) kept
      fun z m => by rw [(others fun e => fresh (e ▸ m)).1]; exact work z (List.mem_cons_of_mem y m)
    refine ⟨keeps, fun j z there m => ?_, fun z n => ?_⟩
    · by_cases here : z = y
      · subst here
        have place : j = k := by
          rw [← rank_of_getElem (s.gang c g).banks_up there, rank_of_getElem (s.gang c g).banks_up at_]
        subst place
        rw [List.foldl_cons, (left z fresh).1, (left z fresh).2, turn, State.pend_setPend, State.reg_setPend,
          State.putRegister_bits]
        exact ⟨rfl, rfl⟩
      · exact done j z there ((List.mem_cons.1 m).resolve_left here)
    · obtain ⟨apart, out⟩ := not_or.1 (List.mem_cons.not.1 n)
      rw [List.foldl_cons, (left z out).1, (left z out).2]
      exact others apart

/-- What O53 says of TWILL_TRANSFER_COMPLETE. -/
theorem twillTransferComplete_rotates (apart : d ≠ a) (all : ∀ y ∈ (s.gang c g).banks, (s.core c).gangOf y = some g ∧
      (s.hart c y).pend = some (.twill 0 d a amt) ∧ (s.reg c y a).conds = []) :
    ∃ t, exec (.twillTransferComplete c ⟨g, []⟩) s = .next t ∧ t.mem = s.mem ∧ ∀ k y : Nat, (s.gang c g).banks[k]? = some y →
      (t.hart c y).pend = some .done ∧ (t.reg c y d).bits =
        (s.reg c ((s.gang c g).banks.getD (((k : Int) - amt) % ((s.gang c g).banks.length : Int)).toNat 0) a).content a := by
  obtain ⟨keeps, done, -⟩ := twillTurns (amt := amt) apart (fun y m => (all y m).2.2) (fun y m => (all y m).1) (s.gang c g).banks
    ((s.gang c g).banks_up.imp Nat.ne_of_lt) (fun _ m => m) s ⟨rfl, fun _ _ _ => rfl, rfl⟩ fun y m => (all y m).2.1
  refine ⟨(s.gang c g).banks.foldl (State.twillTurn c) s, rfl, keeps.mem, fun k y at_ => ?_⟩
  obtain ⟨pend, bits⟩ := done k y at_ (List.mem_of_getElem? at_)
  refine ⟨pend, bits.trans ?_⟩
  have some_ : 0 < (s.gang c g).banks.length := List.length_pos_of_mem (List.mem_of_getElem? at_)
  have inside : (((k : Int) - amt) % ((s.gang c g).banks.length : Int)).toNat < (s.gang c g).banks.length := by
    have := Int.emod_nonneg ((k : Int) - amt) (by omega : ((s.gang c g).banks.length : Int) ≠ 0)
    have := Int.emod_lt_of_pos ((k : Int) - amt) (by omega : (0 : Int) < ((s.gang c g).banks.length : Int))
    omega
  unfold State.rotated State.gangRows
  simp [List.getD_eq_getElem?_getD, List.getElem?_eq_getElem inside]

end

/-! ### Copies (R262 to R264) -/

section
variable {s t u : State} {pa : Nat}

/-- What stays while a copy reads and writes lines: ordinary lines, free buses, every hart, and budget of FABRIC. -/
structure CopyKeeps (s t : State) : Prop where
  plain : ∀ pa, Plain s pa → Plain t pa
  bus : ∀ w, t.busHeld w = s.busHeld w
  harts : ∀ d e, t.hart d e = s.hart d e
  pays : (∀ x, s.affords x .fabric 1 = true) → ∀ x, t.affords x .fabric 1 = true

theorem CopyKeeps.trans (h : CopyKeeps s t) (k : CopyKeeps t u) : CopyKeeps s u :=
  ⟨fun pa p => k.plain pa (h.plain pa p), fun w => (k.bus w).trans (h.bus w), fun d e => (k.harts d e).trans (h.harts d e),
    fun p => k.pays (h.pays p)⟩

theorem AccessKeeps.copy (h : AccessKeeps s t) : CopyKeeps s t where
  plain _ p := h.plain p
  bus := h.busHeld
  harts := h.harts
  pays p x := by
    obtain ⟨_, _, fen⟩ := h.fen
    have before := p x
    simp only [State.affords, State.spentBy, State.cost, State.heldTo, State.periodPos, State.allowance, State.units,
      State.periodClk, State.clockOf, State.stackClock, fen, h.power, h.now] at before ⊢
    exact before

theorem eight_same (l : List Nat) {i : Nat} (v : Nat) (h : i < 8) : (eight l i v).getD i 0 = v := by
  simp [eight, h]

/-- A charge of FABRIC leaves budget for the next of the same clk: it has been charged already (R103). -/
theorem State.affords_charge (pays : ∀ x, s.affords x .fabric 1 = true) (c x : Nat) :
    (s.charge c .fabric 1).affords x .fabric 1 = true := by
  have before (x : Nat) : s.spentBy x .fabric + s.cost x .fabric 1 ≤ s.allowance x .fabric := by
    simpa [State.affords] using pays x
  have allowed : (s.charge c .fabric 1).allowance x .fabric = s.allowance x .fabric := rfl
  have at_ : (s.charge c .fabric 1).periodPos x = s.periodPos x := rfl
  suffices h : (s.charge c .fabric 1).spentBy x .fabric + (s.charge c .fabric 1).cost x .fabric 1 ≤ s.allowance x .fabric by
    simpa [State.affords, allowed] using h
  by_cases here : x = c
  · subst here
    have spent : (s.charge x .fabric 1).spentBy x .fabric = s.spentBy x .fabric + s.cost x .fabric 1 := by
      simp only [State.charge, State.spentBy, reduceCtorEq, if_false, Tab.get_put_self]
      exact eight_same _ _ (by decide)
    have held : (s.charge x .fabric 1).heldTo x .fabric = max (s.heldTo x .fabric) (s.periodPos x + 1) := by
      simp only [State.charge, State.heldTo, reduceCtorEq, if_false, Tab.get_put_self]
      exact eight_same _ _ (by decide)
    have free : (s.charge x .fabric 1).cost x .fabric 1 = 0 := by
      rw [State.cost, held, at_]
      omega
    rw [spent, free]
    exact before x
  · have spent : (s.charge c .fabric 1).spentBy x .fabric = s.spentBy x .fabric := by
      simp only [State.charge, State.spentBy, reduceCtorEq, if_false, Tab.get_put_of_ne _ _ _ here]
    have held : (s.charge c .fabric 1).heldTo x .fabric = s.heldTo x .fabric := by
      simp only [State.charge, State.heldTo, reduceCtorEq, if_false, Tab.get_put_of_ne _ _ _ here]
    rw [spent, State.cost, held, at_]
    exact before x

theorem copyKeeps_chargeAt (s : State) (pa : Nat) : CopyKeeps s (s.chargeAt pa .fabric 1) := by
  unfold State.chargeAt
  split
  · exact (AccessKeeps.refl s).copy
  · exact ⟨fun _ h => ⟨h.awake, h.served, h.still, h.untested, h.good, h.home, h.acked⟩, fun _ => rfl, fun _ _ => rfl,
      fun p => s.affords_charge p _⟩

theorem State.mem_chargeAt (s : State) (pa : Nat) : (s.chargeAt pa .fabric 1).mem = s.mem := by
  unfold State.chargeAt State.charge
  split <;> rfl

theorem State.fabricFor_pays (pays : ∀ x, s.affords x .fabric 1 = true) (pa : Nat) :
    s.fabricFor pa = some (s.chargeAt pa .fabric 1) := by
  unfold State.fabricFor State.affordsAt
  rw [pays, Bool.or_true, if_pos rfl]

theorem Mem.ofNat_read (m : Mem) (a : Nat) {n j : Nat} (h : j < n) : BitVec.ofNat 8 (m.read a n / 256 ^ j) = m.get (a + j) := by
  have byte := m.fld_read a (i := j) (k := 1) (n := n) (by omega)
  have one : m.read (a + j) 1 = (m.get (a + j)).toNat := by simp [Mem.read]
  apply BitVec.eq_of_toNat_eq
  rw [BitVec.toNat_ofNat, ← one, ← byte, fld, Nat.pow_mul]

section
variable {c b n p q i : Nat} {m : Mem}

/-- A copy of the row at `p` to `q` whose first `i` lines are done; `m` is memory as it began. -/
structure Copying (m : Mem) (c b n p q i : Nat) (s : State) : Prop where
  busy : (s.slot c b n).busy = true
  src : (s.slot c b n).src = [(65, p)]
  dst : (s.slot c b n).dst = [(65, q)]
  pos : (s.slot c b n).pos = i
  got : (s.slot c b n).got = []
  posted : (s.slot c b n).posted = false
  bus : s.busHeld (.copy c b n) = false
  pays : ∀ x, s.affords x .fabric 1 = true
  wf : s.mem.wf = true
  plain : ∀ k, k < 8192 → Plain s (p + k) ∧ Plain s (q + k)
  mem : ∀ a, s.mem.get a = if q ≤ a ∧ a < q + 64 * i then m.get (p + (a - q)) else m.get a

theorem Copying.read (h : Copying m c b n p q i s) {off : Nat} (inside : off < 8192) :
    ∃ u, s.xferRead c b n (65, p + off) = .got u (s.mem.read (p + off) 64) none false ∧ CopyKeeps s u ∧ u.mem = s.mem := by
  have charged := copyKeeps_chargeAt s (p + off)
  have plain := charged.plain _ (h.plain off inside).1
  have bus : (s.chargeAt (p + off) .fabric 1).busHeld (.copy c b n) = false := (charged.bus _).trans h.bus
  have read := plain.readBy bus 0 64
  have got : (s.hostData (.copy c b n)).find failKey = none := by
    show Tab.find (s.slot c b n).got failKey = none
    rw [h.got]
    rfl
  refine ⟨(s.chargeAt (p + off) .fabric 1).readLine (.copy c b n) (p + off), ?_,
    charged.trans (accessKeeps_readLine _ _ _).copy, by rw [State.readLine_mem, State.mem_chargeAt]⟩
  unfold State.xferRead
  simp only [got, State.fabricFor_pays h.pays, if_true, Option.elim, read, State.mem_chargeAt]
  rfl

theorem State.xferWrite_plain {bits : Nat} (plain : Plain s pa) (bus : s.busHeld (.copy c b n) = false)
    (pays : ∀ x, s.affords x .fabric 1 = true) :
    ∃ u, s.xferWrite c b n (65, pa) bits false = (u, true) ∧ CopyKeeps s u ∧ u.mem = s.mem.write pa 64 bits := by
  have charged := copyKeeps_chargeAt s pa
  have there := charged.plain _ plain
  refine ⟨(s.chargeAt pa .fabric 1).writeHere none pa 64 bits, ?_, charged.trans (there.writeHere_keeps none 64 bits).copy,
    by rw [there.writeHere_mem, State.mem_chargeAt]⟩
  unfold State.xferWrite State.putLine
  simp only [bus, plain.awake, plain.still, plain.untested, plain.ownHere, State.fabricFor_pays pays, there.dropShared,
    Bool.or_self, Bool.false_eq_true, if_false, if_true]

theorem CopyKeeps.slot (h : CopyKeeps s u) : u.slot c b n = s.slot c b n := by rw [State.slot, h.harts, State.slot]

theorem State.slot_setSlot (s : State) (c b n : Nat) (x : XSlot) : (s.setSlot c b n x).slot c b n = x := by
  simp [State.slot, State.setSlot, Hart.slot]

theorem State.mem_setSlot (s : State) (c b n : Nat) (x : XSlot) : (s.setSlot c b n x).mem = s.mem := rfl

theorem State.plain_setSlot (x : XSlot) (h : Plain s pa) : Plain (s.setSlot c b n x) pa where
  awake := h.awake
  served := h.served
  still := by simpa only [State.sensing, State.reg, State.setSlot, State.bank_setHart] using h.still
  untested := by simpa only [State.rowTested, State.setSlot, State.bank_setHart] using h.untested
  good := h.good
  home := h.home
  acked := h.acked

/-- The bytes of the copy once its line `i` is written too. -/
theorem Copying.get_next (h : Copying m c b n p q i s) (more : i < 128) (apart : p + 8192 ≤ q ∨ q + 8192 ≤ p) (a : Nat) :
    (s.mem.write (q + 64 * i) 64 (s.mem.read (p + 64 * i) 64)).get a =
      if q ≤ a ∧ a < q + 64 * (i + 1) then m.get (p + (a - q)) else m.get a := by
  by_cases new : q + 64 * i ≤ a ∧ a < q + 64 * i + 64
  · obtain ⟨j, rfl⟩ := Nat.exists_eq_add_of_le new.1
    have place : p + (q + 64 * i + j - q) = p + 64 * i + j := by omega
    rw [Mem.get_write_inside h.wf _ _ _ _ (by omega), Mem.ofNat_read _ _ (by omega), h.mem, if_neg (by omega),
      if_pos (by omega), place]
  · have same : (q ≤ a ∧ a < q + 64 * (i + 1)) ↔ (q ≤ a ∧ a < q + 64 * i) := by omega
    rw [Mem.get_write_outside _ _ _ _ _ (by omega), h.mem]
    simp only [same]

/-- One line of the copy. -/
theorem Copying.line (h : Copying m c b n p q i s) (more : i < 128) (apart : p + 8192 ≤ q ∨ q + 8192 ≤ p) :
    ∃ t, s.xferLine c b n = (t, true) ∧ Copying m c b n p q (i + 1) t := by
  have off : (s.slot c b n).pos % 128 * 64 = 64 * i := by rw [h.pos]; omega
  have unit : (s.slot c b n).pos / 128 = 0 := by rw [h.pos]; omega
  obtain ⟨u, read, kept, same⟩ := h.read (off := 64 * i) (by omega)
  obtain ⟨v, write, kept', mem⟩ := State.xferWrite_plain (bits := s.mem.read (p + 64 * i) 64)
    (kept.plain _ (h.plain (64 * i) (by omega)).2) ((kept.bus _).trans h.bus) (kept.pays h.pays)
  have keeps := kept.trans kept'
  have slot : v.slot c b n = s.slot c b n := keeps.slot
  refine ⟨v.setSlot c b n { s.slot c b n with pos := (s.slot c b n).pos + 1, asked := none }, ?_, ?_⟩
  · unfold State.xferLine
    simp only [off, unit, h.src, h.dst, List.getElem?_cons_zero, read, write, slot, XSlot.note,
      show decide ((65 : Nat) = 64) = false from rfl, Bool.false_and, Bool.false_eq_true, if_false]
  · have now := v.slot_setSlot c b n { s.slot c b n with pos := (s.slot c b n).pos + 1, asked := none }
    constructor
    · rw [now]; exact h.busy
    · rw [now]; exact h.src
    · rw [now]; exact h.dst
    · rw [now]; exact congrArg (· + 1) h.pos
    · rw [now]; exact h.got
    · rw [now]; exact h.posted
    · exact (keeps.bus _).trans h.bus
    · exact keeps.pays h.pays
    · rw [State.mem_setSlot, mem, same]
      exact Mem.wf_write h.wf _ _ _
    · exact fun k inside => ⟨State.plain_setSlot _ (keeps.plain _ (h.plain k inside).1),
        State.plain_setSlot _ (keeps.plain _ (h.plain k inside).2)⟩
    · intro a
      rw [State.mem_setSlot, mem, same]
      exact h.get_next more apart a

/-- A copy whose last line is done ends. -/
theorem Copying.ends (h : Copying m c b n p q 128 s) : ∃ t, s.xferLine c b n = (t, false) ∧ (t.slot c b n).busy = false ∧
    t.mem = s.mem := by
  have unit : (s.slot c b n).pos / 128 = 1 := by rw [h.pos]
  have settled : s.hostSettled true (.copy c b n) 0 = .done s 0 none :=
    State.hostSettled_of_not_posted s true _ 0 fun _ => h.posted
  refine ⟨s.setSlot c b n { s.slot c b n with
    busy := false, src := [], dst := [], pos := 0, posted := false, asked := none, got := [] }, ?_, ?_, rfl⟩
  · unfold State.xferLine
    simp only [unit, h.src, h.dst]
    unfold State.xferEnd
    simp only [h.got, settled]
    rfl
  · rw [State.slot_setSlot]

/-- The lines that are left, and the end. -/
theorem Copying.runs (apart : p + 8192 ≤ q ∨ q + 8192 ≤ p) (left : Nat) : ∀ (s : State) (i : Nat), i + left = 128 →
    Copying m c b n p q i s → ((State.xferRun (left + 1) c b n s).slot c b n).busy = false ∧
      ∀ a, (State.xferRun (left + 1) c b n s).mem.get a =
        if q ≤ a ∧ a < q + 8192 then m.get (p + (a - q)) else m.get a := by
  induction left with
  | zero =>
    intro s i all h
    obtain rfl : i = 128 := by omega
    obtain ⟨t, run, idle, mem⟩ := h.ends
    have done : State.xferRun 1 c b n s = t := by rw [State.xferRun, run]
    rw [done]
    exact ⟨idle, fun a => by rw [mem]; exact h.mem a⟩
  | succ left ih =>
    intro s i all h
    obtain ⟨t, run, next⟩ := h.line (by omega) apart
    have on : State.xferRun (left + 1 + 1) c b n s = State.xferRun (left + 1) c b n t := by rw [State.xferRun, run]
    rw [on]
    exact ih t (i + 1) (by omega) next

/-- What O53 says of XFER_COMPLETE. -/
theorem xferComplete_copies (apart : p + 8192 ≤ q ∨ q + 8192 ≤ p) (h : Copying s.mem c b n p q 0 s) :
    ∃ t, exec (.xferComplete c b n) s = .next t ∧ ((t.hart c b).slot n).busy = false ∧
      (∀ k, k < 8192 → t.mem.get (q + k) = s.mem.get (p + k)) ∧ ∀ a, a < q ∨ q + 8192 ≤ a → t.mem.get a = s.mem.get a := by
  obtain ⟨idle, bytes⟩ := Copying.runs apart 128 s 0 rfl h
  have run : exec (.xferComplete c b n) s = .next (State.xferRun 129 c b n s) := by
    refine congrArg Host.Outcome.next ?_
    unfold State.xferGo
    simp only [h.busy, h.src, if_true]
    rfl
  refine ⟨_, run, idle, fun k inside => ?_, fun a outside => ?_⟩
  · rw [bytes, if_pos (by omega), Nat.add_sub_cancel_left]
  · rw [bytes, if_neg (by omega)]

end

end

/-- Settles O53: each event finds the hart's work and ends its step; a rotation goes through its members one by one, and a copy
through its lines. -/
theorem wordStepEvents : Obligations.WordStepEvents := by
  intro s c b
  dsimp only
  refine ⟨fun l words split idle empty good at_ => ?_, fun op g rest at_ alone => laneGroupCycle_steps at_ alone,
    fun k pa at_ => actSenseComplete_steps at_, fun k pa at_ => wbCaptureComplete_steps at_, fun k pa at_ => wbCaptureComplete_steps at_,
    fun k pa bits conds at_ => rowWriteComplete_steps at_, fun i f left op g n at_ word form found more =>
      gatherDataArrival_steps at_ word form found more, fun o pa at_ place bus h => ?_,
    fun r x y z q send recv apart good => sergeTransferComplete_moves send recv apart good,
    fun g d a amt apart all => twillTransferComplete_rotates apart all,
    fun n p q busy src dst pos got posted apart _ _ wf bus pays plain =>
      xferComplete_copies apart ⟨busy, src, dst, pos, got, posted, bus, pays, wf, plain, fun a => by rw [if_neg (by omega)]⟩⟩
  · obtain ⟨hit, miss⟩ := splitBlockFetch_takes split idle empty good at_
    refine ⟨hit, fun u v absent read block => (miss u v absent read block).trans ?_⟩
    obtain ⟨place, cache⟩ := sameFetch_readHere read
    unfold Hart.withBlock Hart.wordIdx
    rw [place, cache]
    rfl
  · obtain ⟨t, run, pend, mem, reg⟩ := columnAccessComplete_ld at_ place bus h
    refine ⟨t, run, pend, mem, fun d => (reg d).trans ?_⟩
    cases o.u
    · rw [ofInt_sval]; rfl
    · rfl

end Sys2Proof.Machine
end

section
/-! # An ACT in lockstep on a table of harts out of order (O23)

A row operation holds one of the 64 entries of its core's range-interlock table (R371), and the entries taken are counted over the
table of harts. Nothing in the claim on row words asks that table to be in ascending order, as it is in every state that the model
reaches. Out of order, an update of a hart can put its new entry in front of another hart's and leave the old one behind it: what the
hart holds then counts twice. The counterexample rests on that alone. -/

namespace Sys2Proof.Machine

/-- A member whose g4 names row 3 of SAG 3 of bank 0, with copies in progress in its first `n` slots. -/
def Hart.copying (n : Nat) : Hart :=
  { st := .member, g := [(4, BitVec.ofNat 64 (rowPa 0 0 3 3))], slots := (List.range n).map fun i => (i, { busy := true }) }

/-- The block of a gang of the first two banks, at its first word. -/
def Running.ofTwo : Running := { words := [0x400000, 0], va := 0x40, seq := 0, pos := 0, parts := [0, 1] }

/-- A gang of the first two banks of core 0, whose compute-page TLB maps the first 1 GiB to itself. The hart of bank 1 is listed
before that of bank 0, which has 16 copies in progress. -/
def State.hartsOutOfOrder : State :=
  { actGang := some 0
    cores := [(0, { gangs := [(0, { members := 3, run := some Running.ofTwo })]
                    harts := [(1, Hart.copying 0), (0, Hart.copying 16)]
                    rowTlb := [(tlbKey 0 (rowPa 0 0 3 3), 0x17f + 2 * 2 ^ 64)] })] }

/-- An ACT of g4's row into latch 3, with G = 1. -/
def gangAct : RW := { k := 3, a := 4, g := true, p := false }

/-- The participants that have retired the word of gang 0 of core 0. -/
def retiredBy : Res → Option (List Nat)
  | .next t => (t.running 0 0).map (·.done)
  | _ => none

theorem hartsOutOfOrder_lockstep : Lockstep State.hartsOutOfOrder 0 0 Running.ofTwo := by
  constructor <;> decide +kernel

/-- Bank 0's issue leaves its 16 copies counted twice, so that bank 1 finds the table full and waits. -/
theorem hartsOutOfOrder_waits : retiredBy (exec (.act gangAct) State.hartsOutOfOrder) = some [0] := by
  decide +kernel

/-- What the word asks of each participant, before any has issued it. -/
theorem hartsOutOfOrder_clear : ∀ b ∈ Running.ofTwo.parts, State.hartsOutOfOrder.actReady 0 b 3 = true ∧
    State.hartsOutOfOrder.held 0 b (.here (rowPa 0 b 3 3)) 8192 false = false ∧ rowPa 0 b 3 3 ∉ State.hartsOutOfOrder.rown ∧
    let va := ((State.hartsOutOfOrder.hart 0 b).greg 4).toNat
    State.hartsOutOfOrder.rowAt 0 b 3 (va - va / 2 ^ 13 % 32 * 2 ^ 13 + b * 2 ^ 13) false =
      .ok (2 ^ 30, rowPa 0 b 3 3) := by
  decide +kernel

theorem not_lockstepRowWord : ¬ Claims.LockstepRowWord := by
  intro opens
  obtain ⟨t, run, -, goesOn, -⟩ := opens gangAct State.hartsOutOfOrder 0 0 Running.ofTwo (fun b => rowPa 0 b 3 3)
    hartsOutOfOrder_lockstep rfl (by decide +kernel) fun b part => by
      obtain ⟨ready, unheld, unowned, row⟩ := hartsOutOfOrder_clear b part
      exact ⟨nofun, ready, unheld, unowned, _, row⟩
  have waits := hartsOutOfOrder_waits
  rw [run, retiredBy, goesOn] at waits
  cases waits

/-- Refutes O23 by its claim on row words: an ACT of a gang of two, with its harts listed out of order, waits on its second
participant. -/
theorem not_lockstepAndGangAbsent : ¬ Obligations.LockstepAndGangAbsent := fun ⟨_, _, rows, _⟩ => not_lockstepRowWord rows

end Sys2Proof.Machine
end
